-- ==== Sys2Proof/Word.lean ====
section
/-!
DEFINITION. The word types of the node and the one shape of its sparse storage: a list of (key, value) pairs in
canonical form (keys strictly rising, no value equal to what an unlisted key reads as).
-/
namespace Sys2Proof

/-- One byte (R7). -/
abbrev Byte := BitVec 8

/-- A run of bytes, offset 0 first (R7). -/
abbrev Bytes := List Byte

/-- A binary32 or int32 lane, an operand word, an accumulator. -/
abbrev W32 := BitVec 32

/-- Sparse storage by key. -/
abbrev Cells (α : Type) := List (Nat × α)

end Sys2Proof
end

