-- ==== Sys2Proof/Syntax.lean ====
section
/-!
DEFINITION. The commands: one constructor of `Instr` for each row of the operation table. A lane command carries the two
operands of its action record (R36); a spanning one also the number of steps its record covers. What the outside world
decides (a reading, a message, a time, the data of a DMA) is an operand too.
-/
namespace Sys2Proof

/-- A MAC array: logical cluster and array (R34). -/
structure MacUnit where
  cl : Fin 32
  ar : Fin 4
  deriving DecidableEq, Repr

/-- A stack channel (R34). -/
structure Chan where
  stack : Fin 6
  ch    : Fin 16
  deriving DecidableEq, Repr

/-- The two operands of an action record in one of its steps (R36). -/
structure OpAB where
  a : W32
  b : W32
  deriving DecidableEq, Repr

/-- The fields of a VOP record other than FN (R84). -/
structure Vop where
  cl   : Fin 32
  dst  : Fin 64
  src1 : Fin 64
  src2 : Fin 64
  src3 : Fin 64
  imm  : W32
  deriving DecidableEq, Repr

/-- What the stack's SEC-DED finds in the granules an SRD or a MAINT step reads (R112, R113): bit i for granule i. -/
structure Ecc where
  corrected     : BitVec 4
  uncorrectable : BitVec 4
  deriving DecidableEq, Repr

/-- What a MAINT step meets: whether its canary block's result differs (R49), and what the reads of its work find (R112). -/
structure MaintFind where
  mismatch : Bool
  ecc      : Ecc
  deriving DecidableEq, Repr

/-- Which laser fails (R259): a lane's own, or the laser of the engine that the lane belongs to. -/
structure LaserLoss where
  lane   : Fin 32
  engine : Bool
  deriving DecidableEq, Repr

/-- One sample of the sensors (R488). Temperatures in units of 0.1 °C, flow in mL/min, voltages in mV, draw in units of
0.1 W. -/
structure Telemetry where
  vin       : Nat := 0
  iin       : Nat := 0
  pin1ms    : Nat := 0
  pin100ms  : Nat := 0
  inlet     : Int := 0
  outlet    : Int := 0
  flow      : Nat := 0
  /-- Hottest junction of quadrant 0 to 3, then of stack 0 to 5, then of the rest of the node die. -/
  tj        : List Int := []
  boardMax  : Int := 0
  opticsMax : Int := 0
  vrMax     : Int := 0
  vcore     : Nat := 0
  railV     : List Nat := []
  railI     : List Nat := []
  deriving DecidableEq, Repr

/-- The timing of one step (R464): its duration and, per lane, the time to its completion, in ps. -/
structure StepTime where
  ps     : Nat
  active : List (Nat × Nat)
  deriving DecidableEq, Repr

/-- What the strokes of the frame that ends have done for a query (R22, R23, R130 to R143). Which strokes work for which record, and at which
places of the node store, the plate's author decides; what they compute from there on, the rules do. A query at its home is named by ring and
record number, at a holder by its home and REQUEST_ID. -/
inductive Stroke where
  /-- The home's walk block and its RR_DIMS dequantized re-rank values, as node store granules (R122, R130). -/
  | walk (ring : Fin 64) (index : Nat) (block values : BitVec 19)
  /-- The holder lays down the plan block of a query's share, which TPLAN is to work on (R131, R134). -/
  | block (home : Fin 512) (req : BitVec 64) (block : BitVec 19)
  /-- Stage-1 selection ran in a step of the frame (R137, R139). -/
  | pool (home : Fin 512) (req : BitVec 64) (step : BitVec 32)
  /-- Stage 2 at the holder (R140). -/
  | score (home : Fin 512) (req : BitVec 64)
  /-- The home merges the holders' lists (R140). -/
  | merge (ring : Fin 64) (index : Nat)
  /-- The flash window of a share begins at this boundary (R141). -/
  | window (home : Fin 512) (req : BitVec 64)
  /-- Stage 3 at the holder (R143). -/
  | exact (home : Fin 512) (req : BitVec 64)
  /-- The home's final selection (R143). -/
  | final (ring : Fin 64) (index : Nat)
  deriving DecidableEq, Repr

/-- The W sketch values and RR_DIMS re-rank values of one upsert admitted at the boundary, as step 2 of R122 gives them in the frame of
its admission: projected, dequantized and biased. The layout of the projection tiles and the bias is not given (log entry 85). `room`: the
frame's fabric slots have room toward every node the record must reach (R175, check 5), which the plate's author settles. Ring 64 stands
for the records that a node drives again as home (R403, R518), `index` then for their order. -/
structure Encoding where
  ring    : Fin 65
  index   : Nat
  values  : List W32
  room    : Bool
  deriving DecidableEq, Repr

/-- One position of a look-up: its bag, its place in INDEX, the row, and its binary16 weight, 0 but under WSUM (R203, R219). -/
structure TPos where
  bag    : Nat
  pos    : Nat
  row    : Nat
  weight : Nat
  deriving DecidableEq, Repr

/-- What a home sends one owner of a look-up (R206): the home, the look-up, and the owner's positions. -/
structure LookPart where
  home    : Nat
  admitAt : Nat
  place   : Nat
  req     : Nat
  table   : Nat
  epoch   : Nat
  pool    : Nat
  out16   : Bool
  train   : Bool
  positions : List TPos
  deriving DecidableEq, Repr

/-- The pooled row of one bag at one owner, with the count of its valid positions. -/
structure BagPart where
  bag   : Nat
  count : Nat
  row   : List W32
  deriving DecidableEq, Repr

/-- What an owner returns for a look-up's part (R206, R210, R217): a partial row for each bag it touched, the rows left out as late, and 0, S_BUSY,
S_POISONED, or S_MOVED with the new owner. -/
structure Partial where
  owner    : Nat
  req      : Nat
  admitAt  : Nat
  bags     : List BagPart
  late     : Nat
  status   : Nat
  newOwner : Nat
  deriving DecidableEq, Repr

/-- What a home sends one owner of a gradient record (R220, R221): for each bag the owner touched its number, total valid count and gradient. -/
structure GradPart where
  home    : Nat
  admitAt : Nat
  place   : Nat
  req     : Nat
  lookup  : Nat
  table   : Nat
  epoch   : Nat
  bags    : List BagPart
  deriving DecidableEq, Repr

/-- What an owner reports of a gradient's part (R217, R224, R225): it had applied it before; or 0, or S_MOVED with the new owner. -/
structure GradDone where
  owner    : Nat
  req      : Nat
  admitAt  : Nat
  again    : Bool
  status   : Nat
  newOwner : Nat
  deriving DecidableEq, Repr

/-- Training state of a look-up at one of its owners (R219, R225): the positions it pooled, and the gradient records it has applied. -/
structure OwnTrain where
  home    : Nat
  req     : Nat
  table   : Nat
  admitAt : Nat
  pool    : Nat
  positions : List TPos
  applied : List Nat := []
  deriving DecidableEq, Repr

/-- What the messages of other nodes bring to this node as holder, home, owner or partner: parts of their queries (R130, R140, R143), look-ups
and gradients (R206, R220 to R225), and updates (R179 to R183). The layout of these messages is not given (log entry 85). -/
inductive Remote where
  /-- The home's share of a query for a holder: admission frame, query slot, QSN, the record, the re-rank values of R122 and the subtrees
  (R130). -/
  | share (home : Fin 512) (admitAt : BitVec 64) (place : BitVec 16) (qsn : BitVec 48) (bytes : Bytes) (values : List W32)
      (subtrees : List (BitVec 64))
  /-- A holder's stage-2 list, as (ID, score), with PLANNED, WIDENED_LEAVES, UNFINISHED and PASSED of its share, whether a scan ended
  with UE, and whether its planning was abandoned (R140, R147). -/
  | list (node : Fin 512) (req : BitVec 64) (entries : List (BitVec 64 × W32)) (planned widened unfinished passed : Nat) (ue abandoned : Bool)
  /-- The candidates that a holder is to re-rank, with their stage-2 ranks (R141). -/
  | ask (home : Fin 512) (req : BitVec 64) (wants : List (BitVec 64 × BitVec 16))
  /-- A holder's stage-3 scores: ID, score, late (R143). -/
  | exact (node : Fin 512) (req : BitVec 64) (entries : List (BitVec 64 × W32 × Bool))
  /-- An upsert for a subtree this node holds (R180). -/
  | upsert (sn : BitVec 48) (vid : BitVec 64) (ix : BitVec 16) (attr : W32) (subtree : BitVec 64) (sketch code vector : Bytes)
  /-- An erasure for a leaf this node holds (R185). -/
  | erase (sn : BitVec 48) (vid : BitVec 64) (ix : BitVec 16) (leaf : BitVec 24)
  /-- An undo (R182, R253). -/
  | undo (sn : BitVec 48) (vid : BitVec 64) (ix : BitVec 16)
  /-- A busy mark or its clearing (R181). -/
  | busy (ix : BitVec 16) (subtree : BitVec 64) (on : Bool)
  /-- A holder's report of the leaf it chose, or of TAIL_FULL (R180, R182). -/
  | placed (sn : BitVec 48) (vid : BitVec 64) (leaf : BitVec 24) (node : Fin 512) (fallback full : Bool)
  /-- The partner's copy of a directory change (R183). -/
  | directory (sn : BitVec 48) (ix : BitVec 16) (vid : BitVec 64) (leaf : BitVec 24) (node : Fin 512) (valid : Bool)
  /-- A widened summary of a replicated level: granule offset of the branch node, child slot, ATTR_OR and ATTR_AND (R179). -/
  | widen (ix : BitVec 16) (offset : BitVec 36) (slot : Fin 64) (or' and' : W32)
  /-- The partner's copy of an admitted update record (R402). -/
  | copy (sn : BitVec 48) (bytes : Bytes)
  /-- An owner's training state: the partner's copy of it (R404), or what a transit brings the new owner (R217). -/
  | training (t : OwnTrain)
  /-- A look-up's part for an owner, and the owner's answer (R206). -/
  | part (p : LookPart)
  | partial_ (p : Partial)
  /-- A gradient's part for an owner, the owner's report, and a part that is missing from its fabric slot (R220, R224). -/
  | grad (p : GradPart)
  | gradDone (p : GradDone)
  | gradLost (home : Fin 512) (admitAt : BitVec 64) (table : BitVec 16)
  /-- A row with its state, written by the owner's optimiser step, for the partner's copy (R224). -/
  | row (table shard : BitVec 16) (place : BitVec 24) (bytes : Bytes)
  /-- A transit's load counters for the new owner (R213, R217): LOOKUP_ROWS, UPDATE_ROWS and their LAST values. -/
  | load (table shard : BitVec 16) (counts : List W32)
  /-- The partner starts a merge of one of its leaves: its start, floor and cut (R188). -/
  | merge (ix : BitVec 16) (leaf : BitVec 24) (start : BitVec 64) (floor cut : BitVec 48)
  /-- The partner has finished the image of a merge of this node's or its own leaf (R189). -/
  | merged (ix : BitVec 16) (node : Fin 512) (leaf : BitVec 24)
  /-- A transit's shard map change, submitted to the beat root by the old owner (R289). -/
  | mapChange (node : Fin 512) (table shard : BitVec 16) (owner : Fin 512)
  /-- The composition map in force, for the partner that is being readmitted, as a package of R350 (R295). -/
  | mapInForce (package : Bytes)
  /-- A transit's new shard map entry, for the boundary at which epoch `epoch` applies (R217, R289). -/
  | shardOwner (table shard : BitVec 16) (owner : Fin 512) (epoch : W32)
  /-- A node begins or ends a transit of a table (R212). -/
  | transitRuns (node : Fin 512) (table : BitVec 16) (on : Bool)
  /-- A transit ends before its map change: a receiver frees its copy (R218). -/
  | transitCancel (table shard : BitVec 16)
  /-- A node asks its partner for a tile that it rebuilds, and the partner's answer where it has none to give (R254). -/
  | wantTile (object index : W32)
  | noTile (object index : W32)
  /-- Inside a conjunction (R279), from the member at a position. MULTIPLY: a record to run for the primary, and its result. -/
  | memberRun (ring : Fin 64) (index : Nat) (slice : Fin 16) (admitAt : BitVec 64) (place : BitVec 16) (qsn : BitVec 48) (bytes : Bytes)
  | memberRan (ring : Fin 64) (index : Nat) (admitAt : BitVec 64) (status : BitVec 16) (bytes : Bytes)
  /-- DEEPEN: a member's stage-2 list of a share. WIDEN: its distances and dot products by tag, and its stage-3 dot products. -/
  | memberList (position : Fin 8) (home : Fin 512) (req : BitVec 64) (entries : List (BitVec 64 × W32)) (planned widened unfinished passed : Nat)
      (ue abandoned : Bool)
  | memberPool (position : Fin 8) (home : Fin 512) (req : BitVec 64) (entries : List (BitVec 64 × W32 × W32))
  | memberExact (position : Fin 8) (home : Fin 512) (req : BitVec 64) (entries : List (BitVec 64 × W32 × Bool))
  deriving DecidableEq, Repr

/-- What the outside and the plate supply at a frame boundary. -/
structure BoundaryIn where
  tele        : Telemetry
  /-- VCORE has been outside the regulation band for 10 µs (R484). -/
  bandLeft    : Bool
  /-- Time the node waited for the beat, and the frame's duration, in ps (R461). -/
  waitPs      : Nat
  framePs     : Nat
  strokes     : List Stroke
  encoded     : List Encoding
  remote      : List Remote
  /-- Tier addresses of the learned scales that strokes of the frame have updated (R80). -/
  scales      : List (BitVec 64)
  /-- Cluster store words that the copy of a cluster map change could not read within 10 µs (R53). -/
  unread      : List (BitVec 64)
  /-- Floor above and ceiling below the set point (R377). -/
  flatFloor   : Bool
  flatCeiling : Bool
  deriving DecidableEq, Repr

/-- The BEAT payload (R276). -/
structure BeatMsg where
  frame     : BitVec 64
  published : BitVec 48
  apply     : Bool
  epoch     : W32
  view      : W32
  root      : Fin 512
  missing   : List Nat
  deriving DecidableEq, Repr

/-- The ARM payload (R275). -/
structure ArmMsg where
  frame    : BitVec 64
  ready    : BitVec 48
  complete : Bool
  epoch    : W32
  present  : List Nat
  deriving DecidableEq, Repr

/-- One flit of a DATA message, with the destination and length its send list entry names (R266, R268). -/
structure DataMsg where
  src    : Fin 512
  slot   : BitVec 16
  seq    : BitVec 16
  dest   : BitVec 19
  length : BitVec 16
  data   : Bytes
  deriving DecidableEq, Repr

/-- What a BULK message carries (R216, R254, R361, R429). -/
inductive BulkBody where
  /-- A tile with its header: a bridge transfer, a rebuild, or a partner load. -/
  | tile (object : W32) (index : W32) (bytes : Bytes)
  /-- A row of a shard in transit, at its place. -/
  | shardRow (table shard : BitVec 16) (place : BitVec 24) (bytes : Bytes)
  /-- The acknowledgement of a bridge tile, with the status at the destination. -/
  | ack (object : W32) (index : W32) (status : BitVec 16)
  deriving DecidableEq, Repr

/-- A BULK message (R273, R277): from which domain and node, to which. `first` is set on BULK1, its way to the intermediate
node. -/
structure BulkMsg where
  srcDomain : BitVec 16
  src    : Fin 512
  domain : BitVec 16
  dst    : Fin 512
  first  : Bool
  body   : BulkBody
  deriving DecidableEq, Repr

/-- What a TRAIN flit carries (R260). `hears`: the sender's peer's Tx lane heard on each of the sender's Rx lanes. -/
structure TrainMsg where
  domain : BitVec 16
  node   : Fin 512
  port   : Fin 8
  lane   : Fin 4
  role   : Fin 4
  slotId : BitVec 6
  conjId : BitVec 3
  serial : BitVec 64
  hears  : List Nat
  deriving DecidableEq, Repr

/-- The head of an orrery message (R411) and its sender. -/
structure OrMsg where
  sender  : Fin 512
  subject : Fin 512
  view    : W32
  frame   : BitVec 64
  code    : BitVec 16
  value   : BitVec 8
  deriving DecidableEq, Repr

/-- The body of JOIN and FORM (R411), with what the candidate says of itself (R428, R429, R433). -/
structure JoinBody where
  digest    : BitVec 256
  epoch     : W32
  partner   : Option (Fin 512)
  escalated : Bool
  kept      : Bool
  deriving DecidableEq, Repr

/-- What a NAND read brings (R142): 2048 bytes of the slot, whether the controller corrected them, could not, and whether
the stripe parity rebuilt them. -/
structure NandRead where
  data          : Bytes
  corrected     : Bool
  uncorrectable : Bool
  rebuilt       : Bool
  deriving DecidableEq, Repr

/-- The host memory a command's DMA reads, and the byte offset at which an access fails (R331). -/
structure Dma where
  data   : Bytes
  failAt : Option Nat
  deriving DecidableEq, Repr

/-- One line result of the flash line test (R503). -/
inductive LineResult where
  | shortGnd
  | shortVio
  | bridge (other : Fin 24)
  | opened
  | loaded
  deriving DecidableEq, Repr

/-- What training finds at a populated package position (R505). -/
inductive Package where
  | qualified
  | missing
  deriving DecidableEq, Repr

/-- What flash training finds on one channel (R503 to R506): 24 lines, 4 positions, the DQ training. -/
structure FlashTrain where
  lines    : List LineResult
  packs    : List Package
  dq3600   : Bool
  dq2400   : Bool
  capacity : Nat
  deriving DecidableEq, Repr

/-- What the boot chain meets (R441 to R447): 44 V became valid or a reset ended, the power-up reading of the PUF region,
and the straps. -/
structure BootIn where
  powerUp : Bool
  sram    : Nat
  conjId  : BitVec 3
  slotId  : BitVec 6
  deriving DecidableEq, Repr

/-- A unit that a test finds failing (R345). -/
structure TestFail where
  unit : BitVec 16
  arg0 : BitVec 64
  deriving DecidableEq, Repr

/-- A location of a port's BAR0 or BAR2 (R307). -/
structure BarAddr where
  port   : Fin 2
  bar2   : Bool
  offset : BitVec 28
  deriving DecidableEq, Repr

/-- A PCIe configuration request (R305): what it writes of the three enables the node acts on. -/
structure CfgWrite where
  memEnable : Option Bool
  busMaster : Option Bool
  msixEnable : Option Bool
  deriving DecidableEq, Repr

/-- The causes that reset a port's domain (R305). -/
inductive PortReset where
  | perst
  | hotReset
  | linkDown
  | flr
  deriving DecidableEq, Repr

/-- The commands, in the order of the operation table. -/
inductive Instr where
  -- steps, frames and beats
  | stepAdvance (t : StepTime)
  | frameBegin (x : BoundaryIn)
  | trainingStateExpire
  | armForwardTimeout
  | beatIssue
  | beatDeadlineExpire
  | beatLost
  | beat (p : BeatMsg)
  | arm (src : Fin 512) (p : ArmMsg)
  -- the fabric
  | linkFlitReceive (link : Fin 32) (flit : Bytes) (fecOk : Bool)
  | replayTimeout (link : Fin 32)
  | data (p : DataMsg)
  | delivered (src : Fin 512) (slot : BitVec 16) (dest : BitVec 19)
  | confirm (home : Fin 512) (sn : BitVec 48) (vid : BitVec 64)
  | bulk (p : BulkMsg)
  | train (rx : Fin 32) (latencyNs : Nat) (p : TrainMsg)
  | lightDetected (lane : Fin 32)
  | pairSwapToggle (lane : Fin 32)
  | laneTrainingTimeout (lane : Fin 32)
  | fabricTrainingComplete
  | laserFail (lost : LaserLoss)
  | fabricLatency (hops : Nat) (ns : Nat)
  | conjJoin (position : Fin 8) (serial : BitVec 64) (digest : BitVec 256)
  | accept (size : Fin 9) (arrangement : Fin 3) (node : Fin 512) (epoch : W32)
  | conjFormTimeout
  | conjMemberLost (position : Fin 8)
  -- the orrery
  | report (m : OrMsg)
  | score (m : OrMsg)
  | propose (m : OrMsg) (view : Bytes)
  | ack (m : OrMsg)
  | takeover (m : OrMsg) (view : Bytes)
  | notice (m : OrMsg)
  | join (m : OrMsg) (b : JoinBody)
  | depart (m : OrMsg)
  | refuse (m : OrMsg)
  | loaded (m : OrMsg)
  | form (m : OrMsg) (b : JoinBody)
  | viewForm
  | deputyTakeover
  | scoreRecovery (node : Fin 512)
  | holdClear
  | admissionTestEnd (mismatches mapped : Nat)
  | probationRetest
  | formerTimeout
  | formationWindowEnd
  | partnerLoadDone
  -- stacks and common lane actions
  | nbuTaskEnd (c : Chan) (pos : Fin 24)
  | standaloneRefresh (stack : Fin 6) (temp : Int)
  | idle (lane : BitVec 16)
  | maintStep (lane : BitVec 16) (found : MaintFind)
  | refresh (c : Chan) (hot : Bool) (temp : Int)
  -- MAC arrays and the vector unit
  | mload (u : MacUnit) (o : OpAB)
  | mmac (u : MacUnit) (o : OpAB)
  | mdrain (u : MacUnit) (o : OpAB)
  | vload (cl : Fin 32) (o : OpAB)
  | vstore (cl : Fin 32) (o : OpAB)
  | mov (v : Vop)
  | add (v : Vop)
  | sub (v : Vop)
  | mul (v : Vop)
  | fma (v : Vop)
  | div (v : Vop)
  | sqrt (v : Vop)
  | min (v : Vop)
  | max (v : Vop)
  | abs (v : Vop)
  | neg (v : Vop)
  | cmplt (v : Vop)
  | sel (v : Vop)
  | rcp (v : Vop)
  | rsqrt (v : Vop)
  | exp (v : Vop)
  | log (v : Vop)
  | sigmoid (v : Vop)
  | tanh (v : Vop)
  | gelu (v : Vop)
  | silu (v : Vop)
  | cvti (v : Vop)
  | roundi (v : Vop)
  | sumreduce (v : Vop)
  | maxreduce (v : Vop)
  | addi (v : Vop)
  | muli (v : Vop)
  | setx (v : Vop)
  | deq (v : Vop)
  | quant (v : Vop)
  | lsqgrad (v : Vop)
  -- stack channels
  | srd (c : Chan) (o : OpAB) (ecc : Ecc)
  | swr (c : Chan) (o : OpAB)
  | nseg (c : Chan) (o : OpAB) (steps : Nat) (ue : List (BitVec 27)) (corrected : Nat)
  -- tree walkers
  | twalk (quad : Fin 4) (o : OpAB) (steps : Nat)
  | tplan (quad : Fin 4) (o : OpAB) (steps : Nat)
  | tplanWiden (quad : Fin 4) (o : OpAB) (steps : Nat)
  | tsketch (quad : Fin 4) (o : OpAB) (steps : Nat)
  -- select units
  | sopen (cl : Fin 32) (o : OpAB)
  | sfeed (cl : Fin 32) (o : OpAB)
  | schain (cl : Fin 32) (o : OpAB)
  | ssumin (cl : Fin 32) (o : OpAB)
  | semit (cl : Fin 32) (o : OpAB) (steps : Nat)
  | ssave (cl : Fin 32) (o : OpAB) (steps : Nat)
  | srestore (cl : Fin 32) (o : OpAB) (steps : Nat)
  -- movers, the edge controller, flash lanes, fabric port lanes, stream engines
  | mcopy (cl : Fin 32) (o : OpAB)
  | mxbuf (cl : Fin 32) (o : OpAB)
  | mclose (cl : Fin 32) (o : OpAB) (steps : Nat)
  | mcheck (cl : Fin 32) (o : OpAB) (steps : Nat)
  | brd (o : OpAB)
  | bwr (o : OpAB)
  | bgather (o : OpAB) (steps : Nat)
  | fissue (fc : Fin 24)
  | fprog (fc : Fin 24)
  | ferase (fc : Fin 24)
  | fsend (port : Fin 8) (o : OpAB)
  | sadmit (port : Fin 2) (o : OpAB) (steps : Nat)
  -- flash events
  | flashReadDone (fc : Fin 24) (r : NandRead)
  | flashProgramDone (fc : Fin 24)
  | flashEraseDone (fc : Fin 24)
  | stripeAgeFlush (slice : Fin 16)
  | flashLineFault (fc : Fin 24) (line : Fin 24)
  | nandSenseLost (group : Fin 6)
  | nandSenseRestored (group : Fin 6)
  | flashTrainingDone (results : List FlashTrain)
  -- background work
  | mergeSwitch (index : BitVec 16) (leaf : BitVec 24) (node : Fin 512)
  | mergeAreaRelease (index : BitVec 16) (leaf : BitVec 24)
  | oldVersionRelease (kind : Bool) (id : BitVec 16)
  | loadWindowEnd
  | transitCopyDone
  | rebuildDone (object : W32) (tile : W32) (unread : Bool)
  | poisonSlackExpire
  | bankPairCopyDone (stack : Fin 6) (die : Fin 12)
  -- set-up and composition
  | setupMarkComplete
  | sliceQuiet
  | composeAbandon
  | custodyOrphan
  | reshardMovesDone
  | drainComplete
  | ringCloseDone (ring : Fin 64)
  | resultsWritten (ring : Fin 64)
  -- hangs, resets, dumps
  | hangAck (unit peer : BitVec 16)
  | hangOwn (unit : BitVec 16)
  | hangWait (unit peer : BitVec 16)
  | watchdog
  | dumpComplete (us : W32) (unread : List Nat)
  | autoNodeReset
  | domainResetDone (dom : Fin 17)
  | burinRestart
  | quarantineLift (unit : BitVec 16)
  | faultMapWrite
  | envelopeGraceExpire
  | envelopeHoldStart
  | tjLimit (tj : Int)
  | tjHighClear
  | thermtrip
  -- power
  | inputContact
  | inputValid
  | railSequenceStep (sense : BitVec 6)
  | boot (x : BootIn)
  | bootComplete (stacksOk boardOk : Bool)
  | selftestDone (fails : List TestFail)
  | inputUv
  | inputOv
  | inputReturn
  | breaker
  | reverse
  | railFault (rail : Fin 9)
  | controlOff
  | controlOn
  | controlRetry
  -- the sideband
  | seenFlagClear (mask : W32)
  | dumpClear (value : W32)
  | dumpWindowSet (value : W32)
  | dumpDataRead
  | entdaa (target : Bool) (address : BitVec 7)
  | setdasa (target : Bool) (address : BitVec 7)
  -- PCIe ports and mailboxes
  | portReset (port : Fin 2) (cause : PortReset)
  | portResetRelease (port : Fin 2)
  | refclkLost (port : Fin 2)
  | commandSealWrite (port : Fin 2) (m : Fin 64) (bytes : Bytes)
  | registerWrite (at_ : BarAddr) (bytes : Bytes)
  | nodeInfo (m : Fin 64)
  | nodeStatus (m : Fin 64) (t : Telemetry)
  | attest (m : Fin 64) (d : Dma)
  | counterRead (m : Fin 64) (d : Dma)
  | logRead (m : Fin 64) (d : Dma)
  | resetDomain (m : Fin 64)
  | selftest (m : Fin 64)
  | start (m : Fin 64)
  | serve (m : Fin 64)
  | drain (m : Fin 64)
  | maint (m : Fin 64)
  | resume (m : Fin 64)
  | stop (m : Fin 64)
  | proofWrite (m : Fin 64) (readBack : Bool)
  | fwUpdate (m : Fin 64) (d : Dma)
  | fwActivate (m : Fin 64)
  | clusterMap (m : Fin 64)
  | bpmap (m : Fin 64)
  | compose (m : Fin 64) (d : Dma)
  | phaseLoad (m : Fin 64) (d : Dma)
  | phase (m : Fin 64) (d : Dma)
  | quotaSet (m : Fin 64)
  | oppointSet (m : Fin 64)
  | policySet (m : Fin 64)
  | objAlloc (m : Fin 64)
  | objFree (m : Fin 64)
  | objWrite (m : Fin 64) (d : Dma)
  | objRead (m : Fin 64) (d : Dma)
  | descLoad (m : Fin 64)
  | ringSetup (m : Fin 64)
  | ringClose (m : Fin 64)
  | versionSwitch (m : Fin 64)
  | transit (m : Fin 64)
  | bridgeXfer (m : Fin 64)
  | conjPromote (m : Fin 64)
  | inputLoss
  | powerDownComplete
  | configurationRequest (port : Fin 2) (w : CfgWrite)
  | portLinkTrained (port : Fin 2) (lanes : Fin 17) (rate : Fin 7)
  | bridgeTileTimeout
  deriving DecidableEq, Repr

end Sys2Proof
end

