-- ==== Sys2Proof/Config.lean ====
section
/-!
DEFINITION. The values the manual leaves open: constants without a body, so that no statement can rest on a particular
value. Each has a row in notes/assumptions.
-/
namespace Sys2Proof

/-- A fresh free value for each draw; the draw's number is `State.drawn`. What uses it reduces it to the width or the
range the manual gives. -/
opaque Config.free : Nat → Nat

/-- Which of the values within the stated error bound a function of R85 returns: the fixed algorithm of R85 is not
given. First argument: the FN code; second: the operand. Its user limits it to the stated bound. -/
opaque Config.ulpPick : Nat → Nat → Nat

/-- The target format of QUANT and LSQGRAD (R77, R81): the opcode names none. Arguments: the plate's DIGEST, the LANE_ID, the
step. Its user reduces it to one of the targets of R77. -/
opaque Config.quantTarget : Nat → Nat → Nat → Nat

/-- Falcon-1024 verification: public key, digest, signature (R438, R447, R456). The manual names the scheme and does
not give it. -/
opaque Config.falconVerify : Bytes → Nat → Bytes → Bool

/-- Falcon-1024 signature of a digest under the identity key grown from a seed (R446, R448). -/
opaque Config.falconSign : Nat → Nat → Bytes

/-- The Falcon-1024 public key grown from a seed (R446), 1793 bytes when used. -/
opaque Config.falconPublic : Nat → Bytes

/-- The fuzzy extractor fixed at manufacture (R445): power-up SRAM reading and helper data give a seed. -/
opaque Config.fuzzyExtract : Nat → Bytes → Nat

/-- Where the node puts an object's extent when several places are allowed (R241): the allocator is not given. -/
opaque Config.place : Nat → Nat

/-- Which eighth of the node store is the plate region (R38); its user reduces it to 0 to 7. -/
opaque Config.plateRegion : Nat

/-- ARG1 of FLASH_BRIDGE for the two lines of a bridge (R515): the places of the two codes are not given (log entry 77). -/
opaque Config.bridgeArg : Nat → Nat → BitVec 32

/-- What an on-die SRAM byte holds that nothing has written since its domain's last reset (R382): first argument the reset's
number, second the address. -/
opaque Config.sram : Nat → Nat → Nat

/-- The root key digest held in the Burin ROM (R438). -/
opaque Config.rootDigest : Nat

end Sys2Proof
end

