-- ==== Sys2Proof/Machine/Cells.lean ====
section
/-!
DEFINITION. Reading and writing sparse storage (`Cells`). Every register file, table and memory of the node is held in
this one form; what an unlisted key reads as is the argument `d`.
-/
namespace Sys2Proof

/-- The value at key `k`; `d` where none is listed. -/
def cget {α : Type} (d : α) : Cells α → Nat → α
  | [], _ => d
  | (k', v) :: r, k => if k < k' then d else if k = k' then v else cget d r k

/-- Write `v` at key `k`, keeping the keys rising and listing nothing that equals `d`. -/
def cset {α : Type} [DecidableEq α] (d : α) : Cells α → Nat → α → Cells α
  | [], k, v => if v = d then [] else [(k, v)]
  | (k', v') :: r, k, v =>
    if k < k' then (if v = d then (k', v') :: r else (k, v) :: (k', v') :: r)
    else if k = k' then (if v = d then r else (k, v) :: r)
    else (k', v') :: cset d r k v

/-- `n` values from key `k` upward. -/
def cgetN {α : Type} (d : α) (m : Cells α) (k : Nat) : Nat → List α
  | 0 => []
  | n + 1 => cget d m k :: cgetN d m (k + 1) n

/-- Write the values `vs` from key `k` upward. -/
def csetN {α : Type} [DecidableEq α] (d : α) (m : Cells α) (k : Nat) : List α → Cells α
  | [] => m
  | v :: vs => csetN d (cset d m k v) (k + 1) vs

/-- Change the value at key `k` by `f`. -/
def cmod {α : Type} [DecidableEq α] (d : α) (m : Cells α) (k : Nat) (f : α → α) : Cells α :=
  cset d m k (f (cget d m k))

/-- Forget every key that `p` names. -/
def cdrop {α : Type} (p : Nat → Bool) (m : Cells α) : Cells α :=
  m.filter fun kv => !p kv.1

/-- Canonical form: keys strictly above `lo`, rising, and no listed value equal to `d`. -/
def cwfFrom {α : Type} [DecidableEq α] (d : α) : Option Nat → Cells α → Bool
  | _, [] => true
  | lo, (k, v) :: r => (match lo with | none => true | some l => decide (l < k)) && decide (v ≠ d) && cwfFrom d (some k) r

/-- Canonical form of a whole sparse storage. -/
def cwf {α : Type} [DecidableEq α] (d : α) (m : Cells α) : Bool := cwfFrom d none m

end Sys2Proof
end

