-- ==== Sys2Proof/Machine/Bits.lean ====
section
/-!
DEFINITION. Little-endian fields of byte structures (R6, R7), the checks of a structure's layout (R8, R9, R516), the
CRC-32C of R231 and the SHAKE256 digest the manual names.
-/
namespace Sys2Proof

/-- The number a run of bytes spells, lowest byte first (R6). -/
def leNat : Bytes → Nat
  | [] => 0
  | b :: r => b.toNat + 256 * leNat r

/-- The `n` bytes of `x`, lowest first (R6). -/
def leBytes : Nat → Nat → Bytes
  | 0, _ => []
  | n + 1, x => BitVec.ofNat 8 x :: leBytes n (x / 256)

/-- `n` bytes from offset `off`; bytes beyond the end read as 0. -/
def slice (bs : Bytes) (off n : Nat) : Bytes :=
  let got := (bs.drop off).take n
  got ++ List.replicate (n - got.length) 0

/-- Field [lo + len − 1 : lo] of the structure's word at byte offset `off` (R7). -/
def fld (bs : Bytes) (off lo len : Nat) : Nat :=
  (leNat (slice bs off ((lo + len + 7) / 8)) >>> lo) % 2 ^ len

/-- Bit `b` of a number. -/
def bit (x b : Nat) : Bool := (x >>> b) % 2 == 1

/-- A Bool as a bit. -/
def b2n (b : Bool) : Nat := if b then 1 else 0

/-- Bits [lo + len − 1 : lo] of a number. -/
def bits (x lo len : Nat) : Nat := (x >>> lo) % 2 ^ len

/-- Two's complement reading of an `n`-bit code. -/
def sint (n x : Nat) : Int := if x < 2 ^ (n - 1) then (x : Int) else (x : Int) - 2 ^ n

/-- The `n`-bit two's complement code of an integer. -/
def codeOf (n : Nat) (i : Int) : Nat := (i % (2 ^ n : Int)).toNat

/-- Round a number up to a multiple of `k`. -/
def roundUp (k x : Nat) : Nat := (x + k - 1) / k * k

/-- Quotient rounded up. -/
def ceilDiv (x k : Nat) : Nat := (x + k - 1) / k

/-- Addition that stops at `2^w − 1`. -/
def satAdd (w a b : Nat) : Nat := min (2 ^ w - 1) (a + b)

/-- A structure put together from (offset, width in bytes, value) parts, `n` bytes in all, the rest 0. -/
def layoutBytes (n : Nat) (parts : List (Nat × Nat × Nat)) : Bytes :=
  leBytes n (parts.foldl (fun acc p => acc + (p.2.2 % 2 ^ (8 * p.2.1)) * 2 ^ (8 * p.1)) 0)

/-- A number put together from (low bit, width, value) parts. -/
def packBits (parts : List (Nat × Nat × Nat)) : Nat :=
  parts.foldl (fun acc p => acc + (p.2.2 % 2 ^ p.2.1) * 2 ^ p.1) 0

/-- Replace the bytes from offset `off`. -/
def patch (bs : Bytes) (off : Nat) (new : Bytes) : Bytes :=
  bs.take off ++ (List.replicate (off - bs.length) 0) ++ new ++ bs.drop (off + new.length)

/-- One checked field of a structure: where it lies, and which values are valid. A Reserved field is valid only at 0. -/
structure Fld where
  off : Nat
  lo  : Nat
  len : Nat
  rsv : Bool
  ok  : Nat → Bool

/-- A field whose values `ok` allows. -/
def okFld (off lo len : Nat) (ok : Nat → Bool) : Fld := ⟨off, lo, len, false, ok⟩

/-- A Reserved field (R9). -/
def rsvFld (off lo len : Nat) : Fld := ⟨off, lo, len, true, fun v => v == 0⟩

/-- Reserved bytes `a` to `b`, both included (R9). -/
def rsvBytes (a b : Nat) : List Fld := (List.range (b + 1 - a)).map fun i => rsvFld (a + i) 0 8

/-- Which byte of a field's word holds the lowest bit set in `v` (`n` bytes are looked at). -/
def lowByteSet : Nat → Nat → Nat
  | 0, _ => 0
  | n + 1, v => if v % 256 ≠ 0 then 0 else 1 + lowByteSet n (v / 256)

/-- The offending byte of one field (R516): for a Reserved field the lowest byte with a non-zero Reserved bit, for an
invalid field the field's lowest byte. -/
def fldBad (bs : Bytes) (f : Fld) : Option Nat :=
  let v := fld bs f.off f.lo f.len
  if f.ok v then none
  else if f.rsv then some (f.off + lowByteSet 8 (v * 2 ^ f.lo))
  else some (f.off + f.lo / 8)

/-- The lower of two optional offsets. -/
def minOpt : Option Nat → Option Nat → Option Nat
  | none, b => b
  | some a, none => some a
  | some a, some b => some (min a b)

/-- The lowest offending byte of a structure (R516); none where every field is valid. -/
def lowestBad (fs : List Fld) (bs : Bytes) : Option Nat :=
  fs.foldl (fun acc f => minOpt acc (fldBad bs f)) none

/-- One bit of the reflected CRC-32C register. -/
def crcBit (c : Nat) : Nat := if c % 2 = 1 then (c / 2) ^^^ 0x82F63B78 else c / 2

/-- One byte of the CRC-32C register. -/
def crcByte (c : Nat) (b : Byte) : Nat :=
  crcBit (crcBit (crcBit (crcBit (crcBit (crcBit (crcBit (crcBit (c ^^^ b.toNat))))))))

/-- CRC-32C with initial value 0xFFFF_FFFF and final inversion (R231). -/
def crc32c (bs : Bytes) : Nat := (bs.foldl crcByte 0xFFFFFFFF) ^^^ 0xFFFFFFFF

/-- Rotate a 64-bit lane left. -/
def rotl64 (x n : Nat) : Nat := ((x <<< n) ||| (x >>> (64 - n))) % 2 ^ 64

/-- The round constants of Keccak-f[1600]. -/
def keccakRC : List Nat :=
  [0x0000000000000001, 0x0000000000008082, 0x800000000000808A, 0x8000000080008000, 0x000000000000808B, 0x0000000080000001,
   0x8000000080008081, 0x8000000000008009, 0x000000000000008A, 0x0000000000000088, 0x0000000080008009, 0x000000008000000A] ++
  [0x000000008000808B, 0x800000000000008B, 0x8000000000008089, 0x8000000000008003, 0x8000000000008002, 0x8000000000000080,
   0x000000000000800A, 0x800000008000000A, 0x8000000080008081, 0x8000000000008080, 0x0000000080000001, 0x8000000080008008]

/-- The rotation of lane x + 5y. -/
def keccakRot : List Nat :=
  [0, 1, 62, 28, 27, 36, 44, 6, 55, 20, 3, 10, 43, 25, 39, 41, 45, 15, 21, 8, 18, 2, 61, 56, 14]

/-- One round on the 25 lanes (lane x + 5y). -/
def keccakRound (a : List Nat) (rc : Nat) : List Nat :=
  let at' := fun (l : List Nat) (x y : Nat) => l.getD (x % 5 + 5 * (y % 5)) 0
  let c := (List.range 5).map fun x => at' a x 0 ^^^ at' a x 1 ^^^ at' a x 2 ^^^ at' a x 3 ^^^ at' a x 4
  let d := (List.range 5).map fun x => c.getD ((x + 4) % 5) 0 ^^^ rotl64 (c.getD ((x + 1) % 5) 0) 1
  let th := (List.range 25).map fun i => a.getD i 0 ^^^ d.getD (i % 5) 0
  let rot := (List.range 25).map fun i => rotl64 (th.getD i 0) (keccakRot.getD i 0)
  let b := (List.range 25).map fun i =>
    let y := i % 5
    let v := i / 5
    let x := (List.range 5).foldl (fun acc x => if (2 * x + 3 * y) % 5 = v then x else acc) 0
    rot.getD (x + 5 * y) 0
  let chi := (List.range 25).map fun i =>
    at' b (i % 5) (i / 5) ^^^ ((2 ^ 64 - 1 - at' b (i % 5 + 1) (i / 5)) &&& at' b (i % 5 + 2) (i / 5))
  chi.set 0 (chi.getD 0 0 ^^^ rc)

/-- Keccak-f[1600]. -/
def keccakF (a : List Nat) : List Nat := keccakRC.foldl keccakRound a

/-- Absorb `n` blocks of 136 bytes. -/
def keccakAbsorb : Nat → Bytes → List Nat → List Nat
  | 0, _, a => a
  | n + 1, bs, a =>
    keccakAbsorb n (bs.drop 136)
      (keccakF ((List.range 25).map fun i => a.getD i 0 ^^^ (if i < 17 then leNat (slice bs (8 * i) 8) else 0)))

/-- SHAKE256 with a 256-bit result, as a number with byte 0 lowest (R32, R436). -/
def shake256 (bs : Bytes) : Nat :=
  let padLen := 136 - bs.length % 136
  let pad : Bytes := if padLen = 1 then [0x9F] else 0x1F :: (List.replicate (padLen - 2) 0 ++ [0x80])
  let a := keccakAbsorb (bs.length / 136 + 1) (bs ++ pad) (List.replicate 25 0)
  a.getD 0 0 + a.getD 1 0 * 2 ^ 64 + a.getD 2 0 * 2 ^ 128 + a.getD 3 0 * 2 ^ 192

end Sys2Proof
end

