-- ==== Sys2Proof/Machine/Float.lean ====
section
/-!
DEFINITION. Exact arithmetic on floating-point values and their rounding (R60, R68 to R75): a value is a sign, a
magnitude and a power of two; every operation is exact and is rounded once, to nearest with ties to even (R72).
-/
namespace Sys2Proof

/-- A floating-point format: exponent bits, mantissa bits, and whether it has infinities (R68). -/
structure FFmt where
  eb  : Nat
  mb  : Nat
  inf : Bool
  deriving DecidableEq, Repr

/-- E4M3 (R68). -/
def fE4M3 : FFmt := ⟨4, 3, false⟩
/-- E5M2 (R68). -/
def fE5M2 : FFmt := ⟨5, 2, true⟩
/-- binary16 (R68). -/
def f16 : FFmt := ⟨5, 10, true⟩
/-- binary32 (R68). -/
def f32 : FFmt := ⟨8, 23, true⟩

/-- The exponent bias. -/
def FFmt.bias (f : FFmt) : Int := 2 ^ (f.eb - 1) - 1
/-- The exponent of the last place of the smallest values. -/
def FFmt.emin (f : FFmt) : Int := 1 - f.bias - f.mb
/-- The code of positive infinity; in E4M3 there is none and the code is not produced. -/
def FFmt.infCode (f : FFmt) : Nat := (2 ^ f.eb - 1) * 2 ^ f.mb
/-- The code of the largest finite value (R68). -/
def FFmt.maxCode (f : FFmt) : Nat := if f.inf then f.infCode - 1 else 2 ^ (f.eb + f.mb) - 2
/-- The canonical NaN the node produces (R69). -/
def FFmt.nanCode (f : FFmt) : Nat :=
  if f.mb ≤ 3 then 2 ^ (f.eb + f.mb) - 1 else f.infCode + 2 ^ (f.mb - 1)

/-- A decoded value: NaN, an infinity, or (−1)^neg × m × 2^e. -/
inductive FVal where
  | nan
  | inf (neg : Bool)
  | fin (neg : Bool) (m : Nat) (e : Int)
  deriving DecidableEq, Repr

/-- The value a code stands for (R68). -/
def decodeF (f : FFmt) (c : Nat) : FVal :=
  let neg := bit c (f.eb + f.mb)
  let ex := bits c f.mb f.eb
  let m := c % 2 ^ f.mb
  if ex = 2 ^ f.eb - 1 ∧ f.inf = true then (if m = 0 then .inf neg else .nan)
  else if ex = 2 ^ f.eb - 1 ∧ m = 2 ^ f.mb - 1 then .nan
  else if ex = 0 then .fin neg m f.emin
  else .fin neg (2 ^ f.mb + m) (f.emin + (ex : Int) - 1)

/-- `m / 2^k` rounded to nearest, ties to even (R72). -/
def rne (m k : Nat) : Nat :=
  if k = 0 then m
  else
    let q := m >>> k
    let r := m % 2 ^ k
    if r > 2 ^ (k - 1) ∨ (r = 2 ^ (k - 1) ∧ q % 2 = 1) then q + 1 else q

/-- `m / 2^k` rounded up to the next integer. -/
def rup (m k : Nat) : Nat := (m >>> k) + (if m % 2 ^ k = 0 then 0 else 1)

/-- How a rounding goes: to nearest even (R72), or away from zero or toward zero for the two directed roundings of R76. -/
inductive RMode where
  | near
  | away
  | toZero
  deriving DecidableEq, Repr

/-- A magnitude rounded to the precision of a format, with unbounded exponent range upward (R73). -/
def roundMag (f : FFmt) (md : RMode) (m : Nat) (e : Int) : Nat × Int :=
  if m = 0 then (0, f.emin)
  else
    let sh : Int := max ((m.log2 : Int) - f.mb) (f.emin - e)
    if sh ≤ 0 then (m, e)
    else
      let k := sh.toNat
      ((match md with | .near => rne m k | .away => rup m k | .toZero => m >>> k), e + sh)

/-- The code of a representable magnitude, exponent unbounded upward: at or above `infCode` means out of range. -/
def packMag (f : FFmt) (m : Nat) (e : Int) : Nat :=
  if m = 0 then 0
  else
    let up := min ((f.mb : Int) - m.log2) (e - f.emin)
    let m' := if up ≥ 0 then m <<< up.toNat else m >>> (-up).toNat
    let e' := e - up
    if m' < 2 ^ f.mb then m' else (e' - f.emin + 1).toNat * 2 ^ f.mb + (m' - 2 ^ f.mb)

/-- A code with its sign bit. -/
def withSign (f : FFmt) (neg : Bool) (c : Nat) : Nat := c + (if neg then 2 ^ (f.eb + f.mb) else 0)

/-- The result of a conversion: its code, and whether it counts as a saturation or as a NaN (R75). -/
structure Conv where
  code : Nat
  sat  : Bool
  nan  : Bool
  deriving DecidableEq, Repr

/-- What an out-of-range magnitude becomes in a float format (R73). -/
def overflowF (f : FFmt) (ovf : Bool) (neg : Bool) : Nat :=
  if f.mb ≥ 10 then withSign f neg f.infCode
  else if ovf then (if f.inf then withSign f neg f.infCode else f.nanCode)
  else withSign f neg f.maxCode

/-- Conversion of an exact value to a float format (R72 to R75). -/
def toFloat (f : FFmt) (ovf : Bool) : FVal → Conv
  | .nan => ⟨f.nanCode, false, true⟩
  | .inf neg => if f.inf then ⟨withSign f neg f.infCode, false, false⟩ else ⟨overflowF f ovf neg, true, false⟩
  | .fin neg m e =>
    let r := roundMag f .near m e
    let c := packMag f r.1 r.2
    if c > f.maxCode then ⟨overflowF f ovf neg, true, false⟩ else ⟨withSign f neg c, false, false⟩

/-- The binary32 code of an exact value, as IEEE 754 (R86); the canonical NaN of R69. -/
def enc32 (v : FVal) : W32 := BitVec.ofNat 32 (toFloat f32 false v).code

/-- The value of a binary32 code. -/
def dec32 (x : W32) : FVal := decodeF f32 x.toNat

/-- The canonical binary32 NaN (R69). -/
def nan32 : W32 := 0x7FC00000#32

/-- Is the code a binary32 NaN. -/
def isNaN32 (x : W32) : Bool := dec32 x == .nan

/-- An integer times 2^e as a value; exact zero is +0 unless `nz`. -/
def ofInt (nz : Bool) (i : Int) (e : Int) : FVal := .fin (if i = 0 then nz else decide (i < 0)) i.natAbs e

/-- The exact integer multiple of 2^lo that a finite value is (`lo` at or below its exponent). -/
def scaled (lo : Int) (neg : Bool) (m : Nat) (e : Int) : Int :=
  let a : Int := (m <<< (e - lo).toNat : Nat)
  if neg then -a else a

/-- Exact negation. -/
def fneg : FVal → FVal
  | .nan => .nan
  | .inf n => .inf !n
  | .fin n m e => .fin (!n) m e

/-- Exact sum; −0 only from two negative zeros (R60, IEEE 754). -/
def fadd : FVal → FVal → FVal
  | .nan, _ => .nan
  | _, .nan => .nan
  | .inf a, .inf b => if a = b then .inf a else .nan
  | .inf a, _ => .inf a
  | _, .inf b => .inf b
  | .fin na ma ea, .fin nb mb eb =>
    let lo := min ea eb
    ofInt (na && nb && (ma == 0) && (mb == 0)) (scaled lo na ma ea + scaled lo nb mb eb) lo

/-- Exact product. -/
def fmul : FVal → FVal → FVal
  | .nan, _ => .nan
  | _, .nan => .nan
  | .inf a, .inf b => .inf (a != b)
  | .inf a, .fin n m _ => if m = 0 then .nan else .inf (a != n)
  | .fin n m _, .inf b => if m = 0 then .nan else .inf (n != b)
  | .fin na ma ea, .fin nb mb eb => .fin (na != nb) (ma * mb) (ea + eb)

/-- Quotient, kept to 64 bits beyond the wider operand with a sticky last bit, so that one rounding is exact. -/
def fdiv : FVal → FVal → FVal
  | .nan, _ => .nan
  | _, .nan => .nan
  | .inf _, .inf _ => .nan
  | .inf a, .fin n _ _ => .inf (a != n)
  | .fin n _ _, .inf b => .fin (n != b) 0 0
  | .fin na ma ea, .fin nb mb eb =>
    if mb = 0 then (if ma = 0 then .nan else .inf (na != nb))
    else
      let k := mb.log2 + 64
      let q := (ma <<< k) / mb
      let r := (ma <<< k) % mb
      .fin (na != nb) (2 * q + (if r = 0 then 0 else 1)) (ea - eb - k - 1)

/-- The integer square root, one bit a round from bit `k` downward. -/
def isqrtAux (n : Nat) : Nat → Nat → Nat
  | 0, r => r
  | k + 1, r =>
    let t := r + 2 ^ k
    isqrtAux n k (if t * t ≤ n then t else r)

/-- ⌊√n⌋. -/
def isqrt (n : Nat) : Nat := isqrtAux n (n.log2 / 2 + 1) 0

/-- Square root, kept with a sticky last bit. -/
def fsqrt : FVal → FVal
  | .nan => .nan
  | .inf n => if n then .nan else .inf false
  | .fin n m e =>
    if m = 0 then .fin n 0 e
    else if n then .nan
    else
      let m' := if e % 2 = 0 then m else 2 * m
      let e' := if e % 2 = 0 then e else e - 1
      let a := m' <<< 128
      let q := isqrt a
      .fin false (2 * q + (if q * q = a then 0 else 1)) (e' / 2 - 64 - 1)

/-- Compare as real numbers, −0 equal to +0 (R150); false where either is NaN. -/
def flt : FVal → FVal → Bool
  | .nan, _ => false
  | _, .nan => false
  | .inf a, .inf b => a && !b
  | .inf a, _ => a
  | _, .inf b => !b
  | .fin na ma ea, .fin nb mb eb =>
    let lo := min ea eb
    decide (scaled lo na ma ea < scaled lo nb mb eb)

/-- Equal as real numbers. -/
def feq (a b : FVal) : Bool := a != .nan && b != .nan && !flt a b && !flt b a

/-- Is the value a zero of either sign. -/
def isZeroV : FVal → Bool
  | .fin _ m _ => m == 0
  | _ => false

/-- binary32 addition, correctly rounded (R85). -/
def add32 (a b : W32) : W32 := enc32 (fadd (dec32 a) (dec32 b))
/-- binary32 subtraction (R85). -/
def sub32 (a b : W32) : W32 := enc32 (fadd (dec32 a) (fneg (dec32 b)))
/-- binary32 multiplication (R85). -/
def mul32 (a b : W32) : W32 := enc32 (fmul (dec32 a) (dec32 b))
/-- binary32 fused multiply-add, one rounding (R85). -/
def fma32 (a b c : W32) : W32 := enc32 (fadd (fmul (dec32 a) (dec32 b)) (dec32 c))
/-- binary32 division (R85). -/
def div32 (a b : W32) : W32 := enc32 (fdiv (dec32 a) (dec32 b))
/-- binary32 square root (R85). -/
def sqrt32 (a : W32) : W32 := enc32 (fsqrt (dec32 a))

/-- The binary32 code of an integer, correctly rounded (R85, CVTI; R79). -/
def ofInt32 (i : Int) : W32 := enc32 (ofInt false i 0)

/-- The integer nearest a finite value, ties to even (R72). -/
def nearestInt (neg : Bool) (m : Nat) (e : Int) : Int :=
  let a : Int := (if e ≥ 0 then m <<< e.toNat else rne m (-e).toNat : Nat)
  if neg then -a else a

/-- Conversion to an integer in [lo, hi] under R72 to R75; NaN becomes `nanV`, and an out-of-range value `satV`'s side. -/
def toIntRange (lo hi nanV : Int) (ovfV : Option Int) : FVal → Int × Bool × Bool
  | .nan => (nanV, false, true)
  | .inf neg => (ovfV.getD (if neg then lo else hi), true, false)
  | .fin neg m e =>
    let i := nearestInt neg m e
    if i < lo then (ovfV.getD lo, true, false) else if hi < i then (ovfV.getD hi, true, false) else (i, false, false)

end Sys2Proof
end

