-- ==== Sys2Proof/Machine/Quant.lean ====
section
/-!
DEFINITION. Element formats (R66 to R71), conversions to and from binary32 lanes (R72 to R75, R84, R87), row
quantization (R76 to R78), dequantization (R79), learned scales (R80, R81) and the gradient scale (R82).
-/
namespace Sys2Proof

/-- Bits per element of a TYPE (R66); 0 where the TYPE is invalid. -/
def typeBits (t : Nat) : Nat := [8, 8, 4, 4, 8, 8, 16, 32, 8, 4, 32, 32].getD t 0

/-- Is OVF = 1 allowed for a TYPE (R66). -/
def ovfAllowed (t : Nat) : Bool := t == 0 || t == 2 || t == 4 || t == 5

/-- TYPE of a format byte (R66). -/
def fmtType (b : Nat) : Nat := b % 16

/-- OVF of a format byte (R66). -/
def fmtOvf (b : Nat) : Bool := bit b 4

/-- Is a format byte valid, judged whole (R66). -/
def fmtOk (b : Nat) : Bool :=
  decide (fmtType b ≤ 11) && decide (b / 32 % 8 = 0) && (!fmtOvf b || ovfAllowed (fmtType b))

/-- Bits per element of a format byte. -/
def fmtBits (b : Nat) : Nat := typeBits (fmtType b)

/-- Is a TYPE of the integer class of R57 (int8, int4, RQ8, RQ4). -/
def isIntClass (t : Nat) : Bool := t ≤ 3 || t == 8 || t == 9

/-- Is a TYPE a float (R68). -/
def isFloatType (t : Nat) : Bool := 4 ≤ t && t ≤ 7

/-- The float format of a float TYPE. -/
def floatFmt (t : Nat) : FFmt := if t = 4 then fE4M3 else if t = 5 then fE5M2 else if t = 6 then f16 else f32

/-- One decoded element: an integer, the integer NaN code (R67), or a float. -/
inductive Elem where
  | int (i : Int)
  | intNaN
  | flt (v : FVal)
  deriving DecidableEq, Repr

/-- The element a code of a TYPE stands for (R67, R68, R70). int32 and PAIR16 read as integers. -/
def decodeElem (t code : Nat) : Elem :=
  if t = 0 then (if code = 0x80 then .intNaN else .int (sint 8 code))
  else if t = 1 then .int (sint 8 code)
  else if t = 2 then (if code = 8 then .intNaN else .int (sint 4 code))
  else if t = 3 then .int (sint 4 code)
  else if isFloatType t then .flt (decodeF (floatFmt t) code)
  else if t = 10 ∨ t = 11 then .int (sint 32 code)
  else .int code

/-- The signed code of an integer-class element as the sums ASUM and WSUM take it (R59); an integer NaN code counts as −128 or −8 (log entry 82). -/
def codeValue (t code : Nat) : Int :=
  if t ≤ 1 then sint 8 code else if t ≤ 3 then sint 4 code else code

/-- Element `i` of packed payload bytes; 4-bit elements low nibble first (R67, R70). -/
def elemCode (bitsPer : Nat) (payload : Bytes) (i : Nat) : Nat := fld payload (i * bitsPer / 8) (i * bitsPer % 8) bitsPer

/-- The codes of `n` elements. -/
def unpackElems (bitsPer n : Nat) (payload : Bytes) : List Nat := (List.range n).map (elemCode bitsPer payload)

/-- Two nibbles to a byte, low first. -/
def packNibbles : List Nat → Bytes
  | [] => []
  | [a] => [BitVec.ofNat 8 (a % 16)]
  | a :: b :: r => BitVec.ofNat 8 (a % 16 + 16 * (b % 16)) :: packNibbles r

/-- Packed payload bytes of element codes. -/
def packElems (bitsPer : Nat) (cs : List Nat) : Bytes :=
  if bitsPer = 4 then packNibbles cs else cs.flatMap (leBytes (bitsPer / 8))

/-- A lane of VLOAD: the value, and whether it counts as a NaN input (R84, R87). -/
def loadLane (t code : Nat) : W32 × Bool :=
  if t = 10 ∨ t = 11 then (BitVec.ofNat 32 code, false)
  else match decodeElem t code with
    | .int i => (ofInt32 i, false)
    | .intNaN => (nan32, true)
    | .flt v => (enc32 v, v == .nan)

/-- The integer range of an integer-class TYPE (R67, R73). -/
def intRange (t : Nat) : Int × Int :=
  if t = 0 then (-127, 127) else if t = 1 then (-128, 127) else if t = 2 then (-7, 7) else if t = 3 then (-8, 7)
  else if t = 8 then (0, 255) else (0, 15)

/-- What a NaN becomes in an integer-class TYPE (R74). -/
def intNaNValue (t : Nat) : Int := if t = 0 then -128 else if t = 2 then -8 else 0

/-- Conversion of an exact value to an integer-class format byte: code value, saturation, NaN (R72 to R75). -/
def toIntFmt (fmt : Nat) (v : FVal) : Int × Bool × Bool :=
  let t := fmtType fmt
  toIntRange (intRange t).1 (intRange t).2 (intNaNValue t) (if fmtOvf fmt then some (intNaNValue t) else none) v

/-- A lane of VSTORE: the code of a binary32 lane in a format byte, with its counts (R72 to R75, R84). -/
def storeLane (fmt : Nat) (x : W32) : Conv :=
  let t := fmtType fmt
  if t = 10 ∨ t = 11 then ⟨x.toNat, false, false⟩
  else if isIntClass t then
    let r := toIntFmt fmt (dec32 x)
    ⟨codeOf (typeBits t) r.1, r.2.1, r.2.2⟩
  else toFloat (floatFmt t) (fmtOvf fmt) (dec32 x)

/-- Directed rounding to binary16 (R76): toward −∞, or toward +∞ where `up`. -/
def round16 (up : Bool) : FVal → Nat
  | .nan => f16.nanCode
  | .inf neg => withSign f16 neg f16.infCode
  | .fin neg m e =>
    let away := neg != up
    let r := roundMag f16 (if away then .away else .toZero) m e
    let c := packMag f16 r.1 r.2
    withSign f16 neg (if c > f16.maxCode then (if away then f16.infCode else f16.maxCode) else c)

/-- The smaller and the larger of the values that are not NaN (R76). -/
def rowExtreme (larger : Bool) (vs : List FVal) : Option FVal :=
  vs.foldl (fun acc v =>
    if v == .nan then acc
    else match acc with
      | none => some v
      | some a => some (if larger then (if flt a v then v else a) else (if flt v a then v else a))) none

/-- SCALE and OFFSET the node chooses for a row of `b`-bit codes (R76), as binary16 codes. -/
def chooseParams (b : Nat) (vs : List W32) : Nat × Nat :=
  match rowExtreme false (vs.map dec32), rowExtreme true (vs.map dec32) with
  | some lo, some hi =>
    let off := round16 false lo
    let o := decodeF f16 off
    if feq hi o then (0, off)
    else
      let t := enc32 (fdiv (fadd hi (fneg o)) (ofInt false (2 ^ b - 1) 0))
      (round16 true (dec32 t), off)
  | _, _ => (0, 0)

/-- A binary16 code as a binary32 lane (exact). -/
def widen16 (c : Nat) : W32 := enc32 (decodeF f16 c)

/-- What encoding one value under given parameters gives (R77): the code value, the unrounded `u`, saturation, NaN. -/
structure Encoded where
  code : Int
  u    : W32
  sat  : Bool
  nan  : Bool
  deriving DecidableEq, Repr

/-- Encode a binary32 value under binary16 SCALE and OFFSET to an integer-class format byte (R77). -/
def encodeValue (fmt scale offset : Nat) (v : W32) : Encoded :=
  if isNaN32 v then ⟨intNaNValue (fmtType fmt), nan32, false, true⟩
  else if isZeroV (decodeF f16 scale) then ⟨0, 0#32, false, false⟩
  else
    let r := div32 (ofInt32 1) (widen16 scale)
    let u := mul32 (sub32 v (widen16 offset)) r
    let c := toIntFmt fmt (dec32 u)
    ⟨c.1, u, c.2.1, c.2.2⟩

/-- The value of a code under its parameters (R70), rounded to binary32. -/
def dequantValue (scale offset : Nat) (code : Int) : W32 :=
  enc32 (fadd (decodeF f16 offset) (fmul (decodeF f16 scale) (ofInt false code 0)))

/-- The targets R77 allows, as format bytes. -/
def quantTargets : List Nat := [0x08, 0x09, 0x00, 0x10, 0x01, 0x02, 0x12, 0x03]

/-- The target format byte of the QUANT or LSQGRAD of a plate's lane in one of its steps; the manual leaves it open (log entry 12). -/
def quantFmt (digest lane step : Nat) : Nat := quantTargets.getD (Config.quantTarget digest lane step % 8) 0x08

/-- DEQ (R79), every operation rounded to binary32, in the fixed order. `inv` is the column's INVALID. -/
def dequant (p b : W32) (sw ow sx ox : W32) (a k : W32) : W32 :=
  let i32 := fun (x : W32) => ofInt32 x.toInt
  let y := mul32 (mul32 sx sw) (i32 p)
  let y := if isZeroV (dec32 ow) then y else add32 y (mul32 (mul32 sx ow) (i32 a))
  let y := if isZeroV (dec32 ox) then y else add32 y (mul32 (mul32 ox sw) (i32 b))
  if isZeroV (dec32 ox) || isZeroV (dec32 ow) then y else add32 y (mul32 (mul32 ox ow) (i32 k))

/-- The three gradients of R81 for one lane: with respect to the value, the scale and the offset. -/
def lsqGrad (fmt scale offset : Nat) (g v : W32) : W32 × W32 × W32 :=
  let e := encodeValue fmt scale offset v
  let q := ofInt32 e.code
  if e.sat then (0#32, mul32 g q, 0#32) else (g, mul32 g (sub32 q e.u), g)

/-- A learned scale as the node stores it (R80), and whether it was replaced. -/
def learnedScale (c : Nat) : Nat × Bool :=
  match decodeF f16 c with
  | .nan => (1, true)
  | .inf neg => if neg then (1, true) else (c, false)
  | .fin neg m _ => if neg || m == 0 then (1, true) else (c, false)

/-- ABS and NEG of a lane; a NaN gives the canonical NaN (R69, R86). -/
def abs32 (a : W32) : W32 := if isNaN32 a then nan32 else a &&& 0x7FFFFFFF#32
def neg32 (a : W32) : W32 := if isNaN32 a then nan32 else a ^^^ 0x80000000#32

/-- The exponent of the next gradient scale s_g = 2^k of R82, from the previous step's amax, whether the tile saturated,
and the previous exponent. -/
def gradScaleExp (amax : W32) (saturated : Bool) (prev : Int) : Int :=
  match dec32 amax with
  | .fin _ m e =>
    if m = 0 then prev
    else
      let up : Int := (m.log2 : Int) + e + (if 2 ^ m.log2 = m then 0 else 1)
      let k := max (-14) (min 15 (up - 14))
      if saturated then min 15 (k + 1) else k
  | _ => prev

end Sys2Proof
end

