-- ==== Sys2Proof/Machine/Types.lean ====
section
/-!
DEFINITION. The types of the data-path part of the state: the plate, delayed writes, selections, NBU tasks, objects, walker
plans, fabric slots. Machine/State.lean puts them together.
-/
namespace Sys2Proof.Machine

/-- One action record (R36). Strides are signed. -/
structure Rec where
  op   : Nat
  fill : Bool
  hot  : Bool
  rep  : Nat
  a    : Nat
  b    : Nat
  sa   : Int
  sb   : Int
  deriving DecidableEq, Repr

/-- One lane of a plate (R34) with its records. -/
structure Lane where
  id    : Nat
  slice : Nat
  recs  : List Rec
  deriving DecidableEq, Repr

/-- One entry of the fabric slot table (R267). -/
structure FSlot where
  lastSend   : Nat
  linkFlits  : Nat
  hops       : Nat
  arrivalMax : Nat
  routeNs    : Nat
  arrival    : Nat
  deriving DecidableEq, Repr

/-- A plate as the node runs it (R32, R33): the manifest, the fabric slots and the lanes. -/
structure Plate where
  plateId     : Nat := 0
  digest      : Nat := 0
  steps       : Nat := 4096
  lead        : Nat := 256
  treeNs      : Nat := 0
  deadlineNs  : Nat := 0
  oppoint     : Nat := 0
  ink         : Nat := 0
  counting    : Bool := false
  flashWindow : Nat := 1
  depth       : Nat := 1
  queriesPF   : Nat := 0
  updatesPF   : Nat := 0
  flashPF     : Nat := 0
  domainNodes : Nat := 1
  maintSteps  : Nat := 0
  fillSteps   : Nat := 0
  refreshGap  : Nat := 0
  slots       : List FSlot := []
  lanes       : List Lane := []
  deriving DecidableEq, Repr

/-- A write that becomes visible at absolute step `due` (R26, R93, R235, R236, R104). -/
inductive Landing where
  /-- Bytes from tier address `addr` upward, with one poison mark for each granule. -/
  | mem (addr : Nat) (data : Bytes) (marks : List Bool)
  /-- The 64 lanes of vector register `reg` of cluster `cl`. -/
  | vreg (cl reg : Nat) (vals : List W32)
  /-- The same for MDRAIN, with INVALID of each lane's column (R64, R79). -/
  | drain (cl reg : Nat) (vals : List W32) (inv : List Bool)
  /-- A task record at the task port of the NBU with a key, written by a lane in a step, and the capacity C of the erasure map it
  names (R96, R133). -/
  | task (nbu lane step : Nat) (bytes : Bytes) (cap : Nat)
  deriving DecidableEq, Repr

/-- A delayed write. -/
structure Delayed where
  due  : Nat
  what : Landing
  deriving DecidableEq, Repr

/-- One entry of a select unit (R149). VALID is 1 for every entry held. -/
structure SelEntry where
  id     : Nat
  score  : W32
  late   : Bool
  stage2 : Bool
  deriving DecidableEq, Repr

/-- A recorded child summary (R163): BOUNDARY, TIE_EXCESS, SHORT. -/
structure SelChild where
  boundary : W32
  ties     : Nat
  short    : Bool
  deriving DecidableEq, Repr

/-- The state of one select unit (R155 to R164). `left` counts, by score, the valid entries fed and no longer held. -/
structure Sel where
  isOpen    : Bool := false
  kmax      : Nat := 1
  k         : Nat := 1
  maxOrder  : Bool := false
  dedup     : Bool := false
  badK      : Bool := false
  held      : List SelEntry := []
  left      : List (W32 × Nat) := []
  fed       : Nat := 0
  all       : Int := 0
  posInf    : Nat := 0
  negInf    : Nat := 0
  nanCount  : Nat := 0
  dupCount  : Nat := 0
  misCount  : Nat := 0
  misSeen   : Bool := false
  tieInexact : Bool := false
  children  : List SelChild := []
  deriving DecidableEq, Repr

/-- A queued NBU task (R96, R97): its record, the frame from whose boundary it is eligible, and the capacity C of the
erasure map it names (R184; log entry 14). -/
structure NTask where
  bytes    : Bytes
  eligible : Nat
  cap      : Nat
  deriving DecidableEq, Repr

/-- One held entry of a HAM task (R101). -/
structure HamEntry where
  dist : Nat
  idx  : Nat
  attr : Nat
  deriving DecidableEq, Repr

/-- A finished task whose words wait to enter the chain (R104): the absolute step at which it ended and its words. -/
structure NDone where
  ended  : Nat
  result : Nat
  words  : List Bytes
  deriving DecidableEq, Repr

/-- The state of one NBU (R96 to R104, R114). `paces`, `units` and `part` are the progress of the task at the head of the queue:
paces it has cost, elements or granules done, and paces spent on the next one. -/
structure Nbu where
  queue   : List NTask := []
  /-- Tasks that found the queue full, with the step of the write. -/
  full    : List (Nat × Bytes) := []
  paces   : Nat := 0
  units   : Nat := 0
  part    : Nat := 0
  best    : List HamEntry := []
  passed  : Nat := 0
  ue      : Nat := 0
  sat     : Nat := 0
  done    : List NDone := []
  deriving DecidableEq, Repr

/-- One object (R239): its 64-byte descriptor as allocated, and its extents as (tier address, tiles). -/
structure Obj where
  id      : Nat
  desc    : Bytes
  extents : List (Nat × Nat)
  /-- A rebuild of one of its tiles has failed (R254), and the loss has been reported. -/
  lost    : Bool := false
  told    : Bool := false
  deriving DecidableEq, Repr

/-- One leaf of a planned share (R131, R136, R138): plan number, result granule, whether its tail has elements and a scan task
of its own, and the leaf directory entry and tail header the walker read (R190). -/
structure PlanLeaf where
  num      : Nat
  result   : Nat
  tail     : Bool := false
  tailTask : Bool := false
  entry    : Bytes := []
  header   : Bytes := []
  deriving DecidableEq, Repr

/-- One share of a plan: the planned leaves written, the reserve leaves (leaf directory numbers; whether the partner's), in rank
order, the number of planned leaves of this holder, and the reserve leaves for which tasks were written. -/
structure PlanShare where
  planned  : List PlanLeaf
  reserve  : List (Nat × Bool)
  leaves   : Nat
  widened  : List PlanLeaf := []
  deriving DecidableEq, Repr

/-- What the tree walker keeps of a TPLAN for its widening (R131, R138) and for the stages that follow (R190). -/
structure Plan where
  block     : Nat
  nextNum   : Nat
  shares    : List PlanShare
  /-- The walker ran out of steps (R133). -/
  abandoned : Bool := false
  /-- The frame of the TPLAN (R190). -/
  at_       : Nat := 0
  deriving DecidableEq, Repr

/-- The end of a scan as the base die reports it (R105, R137): result granule, step from which the END word is visible,
PASSED and STATUS. -/
structure ScanEnd where
  result  : Nat
  visible : Nat
  passed  : Nat
  status  : Nat
  deriving DecidableEq, Repr

end Sys2Proof.Machine
end

