-- ==== Sys2Proof/Machine/State.lean ====
section
/-!
DEFINITION. The state of the node: plain data, one substructure for each part of the manual. A field's default is its value
in `State.reset`; INVENTORY.md gives the rule that names it and where the value comes from.
-/
namespace Sys2Proof.Machine

/-- Frame and step (R25, R40, R41). -/
structure Run where
  /-- The plate in use (R19) and its image. -/
  plate   : Option Plate := none
  image   : Bytes := []
  /-- The lanes run; a stopped node runs none (R385, R369). -/
  running : Bool := false
  /-- The node stops at the end of its current frame and enters this node state (R369, R388, R44). -/
  stopAt  : Option Nat := none
  step    : Nat := 0
  /-- Step N − 1 has completed and the node waits for the beat (R41). -/
  waiting : Bool := false
  frame   : Nat := 0
  /-- Steps run so far, against which the fixed latencies of R26 count. -/
  now     : Nat := 0
  /-- Per lane, the absolute step before which its unit has not raised completion for good (R25, R27). -/
  busy    : Cells Nat := []
  stepPs  : Nat := 0
  /-- MAC lane steps of the frame with neither IDLE nor MAINT, and the LOAD of the frame before (R398). -/
  macBusy : Nat := 0
  load    : Nat := 0
  /-- The halves of the stroke stores (R38): records by 2 × cluster + half; and the half in use there and in the plate region of the node store. -/
  strokes : Cells Bytes := []
  half    : Bool := false
  /-- A cluster map changed while the plate ran: the frame is exempt from its deadline (R53). -/
  exempt  : Bool := false
  /-- MAINT steps of a lane since the plate was applied (R49). -/
  maint   : Cells Nat := []
  delayed : List Delayed := []
  deriving DecidableEq, Repr

/-- The registers of the clusters (R57, R84, R156), the tree walkers and the NBUs. Keys are built in Machine/Ops.lean. -/
structure Units where
  weight  : Cells Nat := []
  wfmt    : Cells Nat := []
  /-- Bit 0: the register was loaded with a format mismatch (R65). Bit 1: from a poisoned tile (R252). -/
  wbad    : Cells Nat := []
  acc     : Cells W32 := []
  wsum    : Cells W32 := []
  asum    : Cells W32 := []
  /-- Bits 0 to 2 as MDRAIN gives them (R64); bit 3: the column's WSUM has saturated (R61). -/
  mflag   : Cells Nat := []
  /-- The bank's ASUM has saturated (R61). -/
  aflag   : Cells Bool := []
  vreg    : Cells W32 := []
  /-- A lane holds what MDRAIN copied from an INVALID column (R79). -/
  vinv    : Cells Bool := []
  xs      : Cells W32 := []
  xo      : Cells W32 := []
  xa      : Cells W32 := []
  xk      : Cells W32 := []
  select  : Cells Sel := []
  /-- State images SSAVE has written: address, bytes, and the state each stands for (R161). -/
  images  : List (Nat × Bytes × Sel) := []
  nbu     : Cells Nbu := []
  /-- Refresh commands issued on a channel, in the cycle of 8192 (R108). -/
  refresh : Cells Nat := []
  /-- Each stack is hot (R109), and for each channel, 16 × stack + channel, what its slot in progress took at its start. -/
  hot     : Cells Bool := []
  slotHot : Cells Bool := []
  plans   : List Plan := []
  /-- Results of tasks that had not finished at their pool's stage-1 selection: their words are discarded (R137). -/
  dropped : List Nat := []
  scans   : List ScanEnd := []
  deriving DecidableEq, Repr

/-- A gradient scale s_g (R82), of a gradient tile or of a group of 64 elements of a table's bag gradients at this home (R220): exponent, and amax and
saturation of the step of `frame`. -/
structure GradScale where
  exp   : Int := 0
  amax  : W32 := 0#32
  sat   : Bool := false
  frame : Nat := 0
  deriving DecidableEq, Repr

/-- The memories (R227, R228): bytes by tier address, poison marks by granule (R113), objects (R239), host memory as the
node writes it by DMA, and the express buffers (R250). -/
structure Memory where
  /-- T1 and T2 by tier address. -/
  bytes   : Cells Byte := []
  /-- On-die SRAM, T0 by tier address and the express buffers: bytes written since the domain's last reset. -/
  sram    : Cells (Option Byte) := []
  /-- The number of the last reset of a domain's SRAM (R382), by domain. -/
  sramGen : Cells Nat := []
  poison  : Cells Bool := []
  /-- CONSTANT flags in the statistics of the objects, by the address of the row or channel (R78, R80). -/
  constant : Cells Bool := []
  /-- Gradient scales of tiles, by 2^32 × object + tile (R82). -/
  grads   : Cells GradScale := []
  objs    : List Obj := []
  /-- Space freed at take that returns to its quota at a frame (R355): tier, slice, bytes, frame. -/
  freeing : List (Nat × Nat × Nat × Nat) := []
  host    : Cells Byte := []
  deriving DecidableEq, Repr

/-- Counters (R457): increments held by the sentinels, by domain and counter, and the counter bank. -/
structure Counters where
  inc          : Cells Nat := []
  bank         : Cells Nat := []
  sampledSteps : Nat := 0
  /-- Continuous counting is in force (R465). -/
  continuous   : Bool := false
  /-- DROP_NEG, DROP_RANGE, DROP_SENTINEL by table and slice (R205, R341). -/
  drops        : Cells Nat := []
  /-- Shard load counters (R213): LOOKUP_ROWS, UPDATE_ROWS and the LAST fields by table and shard. -/
  shardLoad    : Cells Nat := []
  /-- What a sentinel counts and no group of R461 shows, by 65536 × kind + lane: 0 feeds to a closed select unit (R161), 1 gathers that ended
  at the dump region or the end of board DRAM (R236). -/
  seen         : Cells Nat := []
  /-- The frame at which the last load window ended (R213). -/
  windowEnd    : Nat := 0
  deriving DecidableEq, Repr

/-- The crash dump region (R389, R394, R432) and the node target's window on it (R509). -/
structure DumpState where
  log         : List Bytes := []
  notLogged   : Nat := 0
  nextInc     : Nat := 1
  /-- The incident in progress (R381) and the domains declared in it. -/
  incident    : Option Nat := none
  declared    : List Nat := []
  /-- CODE and domain of the incident's root record (R394), and whether that declaration lost the frame: then the incident lasts
  until the automatic node reset (R381, R385). -/
  root        : Option (Nat × Nat) := none
  lostFrame   : Bool := false
  valid       : Bool := false
  part        : Bool := false
  /-- A dump is being written: is it full, and of which domain. -/
  writing     : Option (Bool × Nat) := none
  skipped     : Nat := 0
  us          : Nat := 0
  frame       : Nat := 0
  inc         : Nat := 0
  code        : Nat := 0
  dom         : Nat := 0
  /-- The domain whose declaration the dump was taken for; a partial dump holds that domain (R395). -/
  ofDom       : Nat := 0
  unread      : List Nat := []
  /-- The node store as a full dump holds it, and where the free contents of the other regions are drawn (R394). -/
  store       : Cells (Option Byte) := []
  seed        : Nat := 0
  /-- The escalation history (R389), in ms; none where no such reset is recorded. -/
  dr1         : Option Nat := none
  dr2         : Option Nat := none
  nr1         : Option Nat := none
  escalated   : Bool := false
  /-- Last view number, frame number and published SN (R432). -/
  lastView    : Nat := 0
  lastFrame   : Nat := 0
  lastSn      : Nat := 0
  window      : Nat := 0
  /-- The 4 bytes the last read of DATA returned (R509). -/
  data        : Nat := 0
  deriving DecidableEq, Repr

/-- The power controller and its target (R469 to R493). -/
structure Power where
  /-- VMGT is up: the power controller runs. -/
  vmgt        : Bool := false
  /-- POWER_STATE (R489). -/
  state       : Nat := 0
  latch       : Nat := 0
  failedRail  : Nat := 15
  point       : Nat := 1
  /-- FLAT and SET_POINT as last reported. -/
  flat        : Bool := false
  setPoint    : Nat := 0
  /-- The SEEN flags of offset 0x04 and the live flags of offset 0x08. -/
  seen        : Nat := 0
  live        : Nat := 0
  tele        : Telemetry := ⟨0, 0, 0, 0, 0, 0, 0, [], 0, 0, 0, 0, [], []⟩
  vcoreSet    : Nat := 0
  retries     : Nat := 0
  inputEvents : Nat := 0
  /-- The millisecond counter (R389). -/
  ms          : Nat := 0
  /-- The last 16 events (R491): code, ARG0, MS; and how many of them no boot has written into the fault log yet. -/
  log         : List (Nat × Nat × Nat) := []
  unlogged    : Nat := 0
  /-- Rail steps of R477 that are up, 0 to 6 (6: the FVCC_SENSE test counts as a step). -/
  railStep    : Nat := 0
  /-- FVCC_SENSE groups that are valid (R478). -/
  sense       : Nat := 0
  /-- What FALLING ends in (R474). -/
  fallTo      : Nat := 0
  mainPath    : Bool := false
  /-- Times (ms), plus 1, since which a cause of R368 or R484 has been back within its limit, by cause. -/
  regain      : Cells Nat := []
  /-- The inlet limits of SPRINT and of the 75 % ink budget have been left (R368). -/
  sprintLeft  : Bool := false
  inkLeft     : Bool := false
  /-- The dynamic I3C addresses (R508): power target, node target. -/
  addrPower   : Option Nat := none
  addrNode    : Option Nat := none
  ibi         : List Nat := []
  deriving DecidableEq, Repr

/-- A boot directory copy (R436). -/
structure BootDir where
  active : Nat
  valid0 : Bool
  valid1 : Bool
  seq    : Nat
  deriving DecidableEq, Repr

/-- One TLV entry of a proof record (R450). -/
structure Tlv where
  type  : Nat
  index : Nat
  value : Bytes
  deriving DecidableEq, Repr

/-- The module NOR (R435 to R450). -/
structure Nor where
  dir0    : Option BootDir := none
  dir1    : Option BootDir := none
  slot0   : Bytes := []
  slot1   : Bytes := []
  helper0 : Bytes := []
  helper1 : Bytes := []
  cert    : Bytes := []
  bankA   : Bytes := []
  bankB   : Bytes := []
  deriving DecidableEq, Repr

/-- What boot leaves: firmware, identity, settings (R441 to R456). -/
structure Boot where
  fwVersion  : Nat := 0
  fwDigest   : Nat := 0
  activeSlot : Nat := 0
  flags      : Nat := 0
  romRecovery : Bool := false
  firmware   : Bool := false
  /-- The seed of the key store (R446). -/
  seed       : Option Nat := none
  serial     : Nat := 0
  grade      : Nat := 0
  conjId     : Nat := 0
  slotId     : Nat := 0
  /-- The settings in force, and the entries of the record last restored or written (R452). -/
  settings   : List Tlv := []
  record     : List Tlv := []
  proofSeq   : Nat := 0
  proofInB   : Bool := false
  proofCheck : Nat := 0
  /-- Since when a fault map change waits to be written, and whether it is one of COUNT alone (R453). -/
  mapDirty   : Option (Nat × Bool) := none
  /-- The dump log and the boot chain of this boot have run (R441). -/
  chained    : Bool := false
  deriving DecidableEq, Repr

/-- One entry of the fault map (R399). -/
structure FaultEntry where
  unit  : Nat
  tjBin : Nat
  point : Nat
  load  : Nat
  perm  : Bool
  count : Nat
  first : Nat
  /-- The bank pair a CANARY record named, 32 × die + pair; not part of the retained entry. -/
  arg   : Nat := 0
  deriving DecidableEq, Repr

/-- A quarantine in force (R400): the unit, the original cluster map of its quadrant, and when the condition failed to match. -/
structure Quarantine where
  unit  : Nat
  quad  : Nat
  clmap : Nat
  freed : Option Nat
  deriving DecidableEq, Repr

/-- Health and canaries of the node's own units (R397 to R401). -/
structure FaultState where
  map         : List FaultEntry := []
  quarantined : List Quarantine := []
  /-- Times of the entry into the grace of R369 and of the envelope's return (R487). -/
  graceFrom   : Option Nat := none
  heldFrom    : Option Nat := none
  /-- The node waits in RESTORED under R487 and then performs START. -/
  holdStart   : Bool := false
  /-- The START of R387 follows the next self-test; to SERVING or READY. -/
  autoStart   : Bool := false
  toServing   : Bool := false
  /-- Domains held in reset, and declared domains whose reset waits for a dump (R384, R385, R395). -/
  inReset     : List Nat := []
  toReset     : List Nat := []
  /-- FVCC_SENSE groups whose loss holds DOM_FLASH in reset (R478). -/
  senseHeld   : List Nat := []
  /-- A self-test in progress: full, the state to return to, the mailbox that asked. -/
  test        : Option (Bool × Nat × Option Nat) := none
  failedPairs : List Nat := []
  deriving DecidableEq, Repr

/-- A set-up object or a setting waiting for a boundary (R19, R354). -/
inductive NextObj where
  | plate (image : Bytes)
  | clmap (quad value : Nat)
  | bpmap (stack die value : Nat)
  | sliceMap (bytes : Bytes)
  | quota (slice : Nat) (bytes : Bytes)
  /-- KIND 1 index, 2 table, 3 window; the update block of an index. -/
  | desc (kind : Nat) (bytes block : Bytes)
  | remove (kind id : Nat)
  | version (kind : Nat) (bytes block : Bytes)
  | ring (bytes : Bytes) (slice : Nat)
  | shard (entry : Bytes)
  | transitOwner (table shard owner : Nat)
  deriving DecidableEq, Repr

/-- A next copy with the mailbox that issued it, where one did, and whether it belongs to a composition change. -/
structure Next where
  obj     : NextObj
  mailbox : Option Nat
  change  : Bool
  deriving DecidableEq, Repr

/-- A descriptor in use (R119, R197, R244): KIND, ID, bytes, update block. -/
structure Desc where
  kind  : Nat
  id    : Nat
  bytes : Bytes
  block : Bytes
  /-- Frame at which its version took effect. -/
  since : Nat
  deriving DecidableEq, Repr

/-- A composition change in progress (R288 to R294). -/
structure Change where
  epoch   : Nat
  frame   : Nat
  mailbox : Option Nat
  /-- Slices changed, as a mask (R291). -/
  changed : Nat
  quiesced : Bool
  /-- The change has not applied in time: it is discarded at the next boundary (R294). -/
  abandoned : Bool := false
  deriving DecidableEq, Repr

/-- A re-shard in progress (R303). -/
structure Reshard where
  target  : Nat
  mailbox : Nat
  /-- The map of E + 1 has applied and the moves run. -/
  moving  : Bool
  changed : Nat
  deriving DecidableEq, Repr

/-- Set-up objects in use and next copies, composition and phases. -/
structure Setup where
  next      : List Next := []
  complete  : Bool := false
  /-- Objects written after the set was marked complete: they make the next set. -/
  later     : List Next := []
  clmap     : Cells Nat := []
  bpmap     : Cells Nat := []
  sliceMap  : Bytes := []
  oldMap    : Bytes := []
  quota     : Cells Bytes := []
  staged    : List (Nat × Bytes) := []
  descs     : List Desc := []
  /-- Old versions and removed descriptors held until a frame (R192, R211, R357). -/
  oldDescs  : List (Desc × Nat) := []
  epoch     : Nat := 1
  /-- Boundary at which the epoch in force applied (R296). -/
  epochAt   : Nat := 0
  phase     : Nat := 1
  job       : Nat := 0
  /-- Phase maps loaded (R302): phase and package. -/
  phaseMaps : List (Nat × Bytes) := []
  change    : Option Change := none
  /-- Shard map changes submitted to this node as beat root that wait for the epoch: the old owner, table, shard, new owner (R289, R290). -/
  submits   : List (Nat × Nat × Nat × Nat) := []
  reshard   : Option Reshard := none
  /-- A COMPOSE taken in RESTORED (R351). -/
  composed  : Option Bytes := none
  preferred : Nat := 1
  running   : Nat := 1
  flat      : Bool := false
  setPoint  : Nat := 640
  /-- OPPOINT_SET and POLICY_SET taken and not applied: the setting and the mailbox. -/
  newPoint  : List (Nat × Nat) := []
  newPolicy : List (Bool × Nat × Nat) := []
  /-- Addresses of shard tables (false) and shard maps (true) put in force by COMPOSE (R350): kind, ID, address. -/
  shardMaps : List (Bool × Nat × Nat) := []
  /-- The same under the epoch before (R296). -/
  oldShardMaps : List (Bool × Nat × Nat) := []
  deriving DecidableEq, Repr

/-- The last response of a mailbox (R316). -/
structure LastResp where
  mailbox : Nat
  code    : Nat
  reqId   : Nat
  status  : Nat
  /-- The status block, and the response bytes from 0x100. -/
  block   : Bytes
  resp    : Bytes
  deriving DecidableEq, Repr

/-- A command in progress: taken and not answered (R313, R317). -/
structure InProg where
  mailbox : Nat
  code    : Nat
  reqId   : Nat
  seq     : Nat
  /-- Command arguments kept (ring, object, slot, …) and bytes moved. -/
  arg     : Nat
  moved   : Nat
  deriving DecidableEq, Repr

/-- An event queue (R318): 255 entries by slot. -/
structure EvQueue where
  producer : Nat := 0
  consumer : Nat := 0
  lost     : Nat := 0
  entries  : Cells Bytes := []
  deriving DecidableEq, Repr

/-- A stream ring (R321, R322). -/
structure Ring where
  num         : Nat
  desc        : Bytes
  slice       : Nat
  backing     : Nat
  isOpen      : Bool
  paused      : Bool
  badProducer : Bool
  closing     : Bool
  consumer    : Nat
  lost        : Nat
  /-- PRODUCER as last sampled, and (LENGTH, KIND) of the records sampled from CONSUMER on (R323). -/
  sampled     : Nat
  records     : List (Nat × Nat)
  /-- Results written so far (R325). -/
  done        : Nat
  deriving DecidableEq, Repr

/-- An upsert as its home has encoded it (R122, R179). -/
structure UpsertCode where
  sketch  : Bytes
  code    : Bytes
  subtree : Nat
  path    : List (Nat × Nat)
  deriving DecidableEq, Repr

/-- A candidate of a holder after stage 2 (R140): its ID, score, AUX, and the T3 address of its full vector. -/
structure Cand where
  vid   : Nat
  score : W32
  aux   : W32
  vec   : Nat
  deriving DecidableEq, Repr

/-- What a holder has reported of its share of a query (R140, R147). -/
structure HolderList where
  node      : Nat
  entries   : List SelEntry
  planned   : Nat
  widened   : Nat
  unfinished : Nat
  passed    : Nat
  ue        : Bool
  abandoned : Bool
  deriving DecidableEq, Repr

/-- A share of a query at one of its holders (R131, R139 to R143): what the home sent, the descriptor in use at the admission, the plan
block, the pool that stage-1 selection kept, the candidates of stage 2, those to be re-ranked with their ranks, and the IDs whose
read was late. -/
structure Share where
  home     : Nat
  req      : Nat
  admitAt  : Nat
  place    : Nat
  qsn      : Nat
  bytes    : Bytes
  values   : List W32
  subtrees : List Nat
  desc     : Desc
  block    : Option Nat := none
  pool     : List SelEntry := []
  /-- The frame of its TPLAN (R190). -/
  planAt   : Nat := 0
  report   : Option HolderList := none
  cands    : List Cand := []
  asked    : List (Nat × Nat) := []
  lates    : List Nat := []
  /-- The slots that the window's reads have brought (R141). -/
  data     : List (Nat × Bytes) := []
  /-- In a conjunction (R279): this position's list is made; the other members' lists under DEEPEN; under WIDEN their distances and dot products of
  stage 1 and 2, by tag, and their dot products of stage 3, by ID. -/
  scored   : Bool := false
  lists    : List (Nat × HolderList) := []
  pools    : List (Nat × List (Nat × W32 × W32)) := []
  exacts   : List (Nat × List (Nat × W32 × Bool)) := []
  deriving DecidableEq, Repr

/-- What the home keeps of a query (R130, R140, R143): whether it was walked, and the walk abandoned; the holders its shares went to; the
lists they sent; the merged list with the node of each entry; the stage-3 scores; the final selection with its TIE_EXCESS. -/
structure QueryWork where
  walked    : Bool := false
  abandoned : Bool := false
  holders   : List Nat := []
  lists     : List HolderList := []
  best      : List (SelEntry × Nat) := []
  scores    : List SelEntry := []
  final     : Option (List SelEntry × Nat) := none
  deriving DecidableEq, Repr

/-- A record that has been admitted or is held to be (R146, R175, R204, R220). `ring` 64 stands for a record driven again as home
(R403, R518), which is owed no completion here. -/
structure InRec where
  ring    : Nat
  index   : Nat
  slice   : Nat
  bytes   : Bytes
  admitAt   : Nat
  /-- QSN of a query, SN of an update. -/
  sn      : Nat
  epoch   : Nat
  /-- Status decided so far; 0 while it runs. -/
  status  : Nat := 0
  /-- REPLACED, NOT_FOUND, DEFERRED, FALLBACK (R177). -/
  flags   : Nat := 0
  /-- Where the upsert went, once known: leaf and node (R180); whether its tail was full (R182). -/
  placed  : Option (Nat × Nat) := none
  tailFull : Bool := false
  /-- Leaf and node of the copy the directory named at admission, and the directory entry used or reserved (R178). -/
  old     : Option (Nat × Nat) := none
  entry   : Option Nat := none
  /-- Boundary at which its result falls due; 0: with the publication of its SN (R172). -/
  due     : Nat := 0
  answered : Bool := false
  confirmed : Bool := false
  malformed : Bool := false
  /-- DROP_NEG, DROP_RANGE, DROP_SENTINEL of a look-up (R205). -/
  drops   : Nat × Nat × Nat := (0, 0, 0)
  /-- What an upsert is encoded as (R122, R179): sketch, code row with trailer, and the subtree its walk chose with the branch nodes
  and slots of the walk. -/
  encoding : Option UpsertCode := none
  /-- The place among the records of its class admitted at the same boundary. -/
  place   : Nat := 0
  /-- The descriptor in use at the admission (R120, R209). -/
  desc    : Option Desc := none
  query   : QueryWork := {}
  /-- The nodes whose answer a look-up or gradient awaits, and those answers (R206, R224). -/
  owners  : List Nat := []
  partials : List Partial := []
  reports : List GradDone := []
  /-- The directory change has been written (R176, R183). -/
  dirDone : Bool := false
  /-- Under MULTIPLY (R279): the position it runs on instead of this one; this position runs it for the primary; what that position answered. -/
  runsAt  : Option Nat := none
  lent    : Bool := false
  result  : Option (Nat × Bytes) := none
  deriving DecidableEq, Repr

/-- A custody record (R298). -/
structure Custody where
  reqId    : Nat
  epoch    : Nat
  giver    : Nat
  taker    : Nat
  state    : Nat
  kind     : Nat
  handover : Nat
  object   : Nat
  deriving DecidableEq, Repr

/-- Training state at its home (R219, R225): `owners` and `counts` hold each bag's owner set and total valid count. -/
structure TrainState where
  reqId   : Nat
  table   : Nat
  version : Nat
  bags    : Nat
  admitAt   : Nat
  slice   : Nat
  used    : Option Nat
  owners  : List (List Nat) := []
  counts  : List Nat := []
  deriving DecidableEq, Repr

/-- β₁ᵗ and β₂ᵗ of a table, as repeated multiplication has formed them (R83, R223), for the version that took effect at `since`. -/
structure Betas where
  since : Nat := 0
  t     : Nat := 0
  b1    : W32 := 0x3F800000#32
  b2    : W32 := 0x3F800000#32
  deriving DecidableEq, Repr

/-- A write that a holder has made for an update record that is not published yet (R182, R253): its SN, ID, index, and the leaf. -/
structure Wrote where
  sn   : Nat
  vid  : Nat
  ix   : Nat
  node : Nat
  leaf : Nat
  deriving DecidableEq, Repr

/-- A shard that a transit has moved (R217): its table and number, the old and the new owner, the boundary and the map epoch of the change. -/
structure Moved where
  table : Nat
  shard : Nat
  giver : Nat
  owner : Nat
  at_   : Nat
  epoch : Nat
  deriving DecidableEq, Repr

/-- A part of a look-up at its owner that is not gathered yet (R206): the boundary at which it is gathered, the frame in which it reached this node
(R217), whether its flash reads are out (R210), and whether a poisoned row of it has been reported. -/
structure WaitPart where
  at_     : Nat
  got     : Nat
  reading : Bool := false
  told    : Bool := false
  part    : LookPart
  deriving DecidableEq, Repr

/-- Embedding tables at an owner and at a home (R206, R219 to R225). -/
structure Tables where
  parts   : List WaitPart := []
  /-- Parts of gradients waiting for their step. -/
  grads   : List GradPart := []
  own     : List OwnTrain := []
  copies  : List OwnTrain := []
  moved   : List Moved := []
  /-- Transits that run in the domain: the node, the table (R212). -/
  transits : List (Nat × Nat) := []
  /-- Flash reads of look-up parts that have ended: REQUEST_ID, row, and slot and data, none where it was late. -/
  reads   : List (Nat × Nat × Option (Nat × Bytes)) := []
  scales  : Cells GradScale := []
  betas   : Cells Betas := []
  /-- Shards that a transit is bringing here (R216): table, shard, the node they come from. -/
  arriving : List (Nat × Nat × Nat) := []
  /-- Blocks of shards that have left this node and are still held (R217): table, shard, the boundary of the change. -/
  leaving : List (Nat × Nat × Nat) := []
  deriving DecidableEq, Repr

/-- Host ports and mailboxes (R305 to R325). -/
structure HostIf where
  /-- Frame bytes by 4096 × mailbox + offset. -/
  frames    : Cells Byte := []
  /-- 0 IDLE, 1 BUSY, 2 DONE. -/
  mstate    : Cells Nat := []
  order     : List Nat := []
  last      : List LastResp := []
  inProg    : List InProg := []
  queues    : Cells EvQueue := []
  foreign   : Cells Nat := []
  busyW     : Cells Nat := []
  badSeals  : Cells Nat := []
  /-- MSI-X table bytes and pending bits by port. -/
  msix      : Cells Byte := []
  pending   : Cells Bool := []
  bar2      : Cells Byte := []
  memEn     : Cells Bool := []
  busMaster : Cells Bool := []
  msixEn    : Cells Bool := []
  linkUp    : Cells Bool := []
  rings     : List Ring := []
  /-- Rings with results written at the last boundary, vectors still to be raised (R325). -/
  written   : List Nat := []
  /-- Event queues (16 × port + slice) written since the last boundary (R320). -/
  evDue     : List Nat := []
  deriving DecidableEq, Repr

/-- Records in flight and visibility (R168 to R183, R219, R253, R298). -/
structure Records where
  inflight  : List InRec := []
  deferred  : List InRec := []
  /-- Shares of queries this node holds leaves for (R131). -/
  shares    : List Share := []
  withdrawn : List InRec := []
  /-- Owners (kind, id) whose admission is paused (R253), and those whose object is lost (R256). -/
  paused    : List (Nat × Nat) := []
  lost      : List (Nat × Nat) := []
  /-- Records of the present frame in admission order (SADMIT). -/
  admitted  : List InRec := []
  published : Nat := 0
  /-- Published SN of the boundaries behind, newest first (R171). -/
  pubs      : List Nat := []
  /-- Subtrees marked busy: index, pointer (R181). -/
  busy      : List (Nat × Nat) := []
  /-- Marks with the boundary at which they apply; the marks this node has set as a holder. -/
  marks     : List ((Nat × Nat) × Bool × Nat) := []
  mine      : List (Nat × Nat) := []
  /-- Messages to put out at a boundary: the frame, the destination. -/
  reports   : List (Nat × Nat × Remote) := []
  /-- Writes made as a holder for records not yet published, and records whose undo is awaited, SN and ID (R182). -/
  wrote     : List Wrote := []
  held      : List (Nat × Nat) := []
  /-- Journal of an unpaired home (R518): survives resets. -/
  journal   : List InRec := []
  redrive   : Bool := false
  /-- Copies of the partner's update records without CONFIRM (R402, R403): SN and record. -/
  copies    : List (Nat × Bytes) := []
  /-- The largest SN of an update record that has been applied to an index, by index (R193). -/
  updSn     : Cells Nat := []
  /-- SNs with writes not in place on this node (R169): SN and vector ID. -/
  notInPlace : List (Nat × Nat) := []
  training  : List TrainState := []
  tables    : Tables := {}
  custody   : List Custody := []
  /-- Late-read log and redirect logs with their not-logged counts (R144, R297). -/
  lateLog   : List Bytes := []
  lateMore  : Nat := 0
  redirects : List (Nat × Bytes) := []
  redirMore : Cells Nat := []
  /-- Poison findings of the frame: object, tile (R252). -/
  findings  : List (Nat × Nat) := []
  /-- Directory writes in copies to the partner. -/
  outbox    : List Bytes := []
  deriving DecidableEq, Repr

/-- What a work item does (R194). -/
inductive Work where
  | rebuild (object tile : Nat)
  | parity (channel : Nat)
  | merge (index leaf pair : Nat)
  | spareCopy (stack die : Nat)
  | transitCopy (table shard : Nat)
  | reshardMove (object tile : Nat)
  | reclaim (stripe : Nat)
  | resketch (index leaf : Nat)
  | scrub (pair : Nat)
  | load (object tile : Nat)
  deriving DecidableEq, Repr

/-- A queued work item (R194 to R196). `left` counts the MAINT steps it still needs. -/
structure Item where
  num    : Nat
  cls    : Nat
  enq    : Nat
  work   : Work
  lane   : Nat
  urgent : Bool
  overrun : Bool
  left   : Nat
  deriving DecidableEq, Repr

/-- A merge in progress (R188, R189). -/
structure Merge where
  index  : Nat
  /-- The primary holder of the leaf: this node or its partner. -/
  node   : Nat
  leaf   : Nat
  start  : Nat
  floor  : Nat
  cut    : Nat
  span   : Nat
  /-- The switch has happened at this frame; the area is in use until QUERY_DEPTH frames later. -/
  switched : Option Nat
  /-- Once switched: the leaf directory entry of the old storage. -/
  entry  : Bytes
  /-- The bank pair, 384 × stack + 24 × channel + position. -/
  pair   : Nat
  /-- The boundary at which the merge's paces suffice for its image; this node has reported it, the other holder has (R189). -/
  ready  : Nat := 0
  told   : Bool := false
  theirs : Bool := false
  /-- Slot map entries of the full vectors as they stood at the switch, by slot (R190). -/
  vecs   : List (Nat × Nat) := []
  deriving DecidableEq, Repr

/-- A transit from this node (R215 to R218). -/
structure Transit where
  table   : Nat
  shard   : Nat
  owner   : Nat
  mailbox : Nat
  cursor  : Nat
  /-- The map change has been submitted. -/
  submitted : Bool
  deriving DecidableEq, Repr

/-- Background work (R194 to R196, R188, R215, R303). -/
structure Background where
  items    : List Item := []
  nextItem : Nat := 1
  /-- Items from this number on were queued after the last boundary (R48). -/
  cut      : Nat := 1
  gate     : Bool := false
  merges   : List Merge := []
  /-- Full leaves (R191): index, holder, leaf. -/
  full     : List (Nat × Nat × Nat) := []
  transit  : Option Transit := none
  /-- Bank-pair copies running (R117): stack, die, target pair, granules passed. -/
  copies   : List (Nat × Nat × Nat × Nat) := []
  /-- Tiles asked of the partner for a rebuild, and what it has answered (R254): object, tile, bytes. -/
  asked    : List (Nat × Nat) := []
  answers  : List (Nat × Nat × Option Bytes) := []
  /-- The scrub pass that is queued next (R194): bank pairs 0 to 2303, then the 24 flash channels. -/
  scrub    : Nat := 0
  deriving DecidableEq, Repr

/-- A flash read of a window (R141, R142): the admission frame, query slot and stage-2 rank that order it, the query's
REQUEST_ID and the candidate it belongs to, its slot. -/
structure FRead where
  admitAt   : Nat
  query   : Nat
  rank    : Nat
  req     : Nat
  vid     : Nat
  slot    : Nat
  channel : Nat
  /-- Frame whose end boundary ends the window. -/
  until_  : Nat
  /-- It counts this often against FLASH_READS_PER_FRAME: 0 served from staging, 23 rebuilt from a lost channel (R141, R251). -/
  cost    : Nat
  /-- 0 waiting for its frame's limit, 4 in the channel's read queue, 1 in the command queue, 2 back in time, 3 back uncorrectable
  and not rebuilt. -/
  stage   : Nat
  /-- What the read brought, once it is back. -/
  data    : Bytes := []
  /-- The place of the slot's data as the window began. -/
  place   : Nat := 0
  deriving DecidableEq, Repr

/-- An open stripe of a slice's staging area (R247). -/
structure OpenStripe where
  slice  : Nat
  stripe : Nat
  used   : Nat
  born   : Nat
  deriving DecidableEq, Repr

/-- Flash (R245 to R251, R478, R502 to R506). -/
structure Flash where
  /-- Slot map entries (R245) by slot. -/
  slotMap  : Cells Nat := []
  /-- Slot contents in NAND and in staging, by place: 184 × stripe + slot in the stripe. -/
  nand     : Cells Bytes := []
  staged   : Cells Bytes := []
  /-- Parity of a stripe by 8 × stripe + slot of the unit (R246). -/
  parity   : Cells Bytes := []
  /-- The stripe table (R246): physical page of each programmed unit plus 1, by 24 × stripe + channel. -/
  pages    : Cells Nat := []
  /-- The slice of a stripe, plus 1. -/
  stripeOf : Cells Nat := []
  openS    : List OpenStripe := []
  nextStripe : Nat := 0
  /-- Stripes whose programs are not all done: stripe and units left. -/
  programs : List (Nat × Nat) := []
  /-- STAGED to clear at the next boundary: stripes. -/
  clearing : List Nat := []
  reads    : List FRead := []
  /-- T2 addresses in the receive area at which the data of reads on standard channels lie, by slot (R247, R249). -/
  received : Cells Nat := []
  /-- Stripes without a valid slot, with the frame from which their blocks may be erased (R248). -/
  erasing  : List (Nat × Nat) := []
  /-- Program and erase queues and the command queue by channel; a command is (kind 0 read, 1 program, 2 erase; argument). -/
  progQ    : Cells (List Nat) := []
  eraseQ   : Cells (List Nat) := []
  cmdQ     : Cells (List (Nat × Nat)) := []
  /-- Credits in use on FC0 to FC3, and where each credit's data lies: channel, credit. -/
  credits  : Cells Nat := []
  /-- Channels lost; high impedance; trained. -/
  lost     : Cells Bool := []
  reach    : Cells Bool := []
  trained  : Bool := false
  capacity : Nat := 0
  sinceSense : Cells Nat := []
  deriving DecidableEq, Repr

/-- One fabric lane (R257 to R262) and its link (R263 to R265). -/
structure Link where
  /-- 0 off, 1 training, 2 light, 3 formed, 4 DARK, 5 ONE_WAY, 6 MISWIRED, 7 LASER_FAIL, 8 removed. -/
  state   : Nat := 0
  swapped : Bool := false
  peer    : Option TrainMsg := none
  /-- The Tx lane with which the link is formed (R262). -/
  tx      : Option Nat := none
  latency : Nat := 0
  txSeq   : Nat := 0
  rxSeq   : Nat := 0
  acked   : Nat := 65535
  /-- Flits sent and not acknowledged, oldest first; flits waiting to be sent. -/
  replay  : List Bytes := []
  queue   : List Bytes := []
  replays : Nat := 0
  /-- Credits in use of each VC. -/
  used    : Cells Nat := []
  /-- Credits to return in the next trailer. -/
  returns : Cells Nat := []
  retry   : Bool := false
  deriving DecidableEq, Repr

/-- A DATA message sent in the frame (R266, R268). -/
structure SentMsg where
  slot  : Nat
  dst   : Nat
  dest  : Nat
  acked : Bool
  deriving DecidableEq, Repr

/-- A DATA message arriving in the frame. -/
structure RecvMsg where
  slot   : Nat
  src    : Nat
  dest   : Nat
  length : Nat
  got    : List Nat
  deriving DecidableEq, Repr

/-- A message the node hands to its links (R263): to which node, and what. -/
inductive OutMsg where
  | beat (dst : Nat) (m : BeatMsg)
  | arm (dst : Nat) (m : ArmMsg)
  | data (dst slot seq dest length : Nat) (bytes : Bytes)
  | delivered (dst slot dest : Nat)
  | confirm (dst sn vid : Nat)
  | bulk (via dst : Nat) (m : BulkMsg)
  | bulkAck (domain dst object index status : Nat)
  /-- An update's placement work for a holder, home or partner (R179 to R185); the layouts are not given. -/
  | remote (dst : Nat) (m : Remote)
  /-- A record copied to the partner (R402), and a training state (R404). -/
  | record (dst : Nat) (bytes : Bytes) (sn : Nat)
  | shardMap (dst table shard owner epoch : Nat)
  /-- The formation of a conjunction (R278): JOIN of a secondary, ACCEPT of the primary, by position. -/
  | conjJoin (position serial digest : Nat)
  | conjAccept (position size arrangement node epoch : Nat)
  /-- Inside a conjunction (R279): a message to a member, by position, an arm to the primary, and a beat to a member. -/
  | member (position : Nat) (m : Remote)
  | conjArm (m : ArmMsg)
  | conjBeat (position : Nat) (m : BeatMsg)
  /-- TRAIN flits of a lane (R260); their payload's layout is not given. -/
  | train (lane : Nat) (m : TrainMsg)
  deriving DecidableEq, Repr

/-- What the node reports of its fabric, where the spec names no channel for the report (R261, R262, R270, R272). -/
inductive FabricNote where
  | swapped (lane : Nat)
  | dark (lane : Nat)
  | oneWay (lane : Nat)
  | noLink (node : Nat)
  | excess (slot : Nat)
  deriving DecidableEq, Repr

/-- The fabric (R257 to R281). -/
structure Fabric where
  links    : Cells Link := []
  trained  : Bool := false
  sent     : List SentMsg := []
  /-- Messages of earlier frames that are not acknowledged: the frame, the message (R402). -/
  unacked  : List (Nat × SentMsg) := []
  recv     : List RecvMsg := []
  /-- Flits of each slot per outgoing link in the frame (R270). -/
  slotFlits : Cells Nat := []
  /-- Slots whose flits on one link have exceeded LINK_FLITS (R270). -/
  excess   : List Nat := []
  rotate   : Nat := 0
  /-- The arm of the frame: sent or not, own, and the combined one (R275). -/
  armed    : Bool := false
  armSent  : Bool := false
  combined : Option ArmMsg := none
  children : List Nat := []
  /-- The beat that has arrived and waits for step N − 1 (R41). -/
  beat     : Option BeatMsg := none
  /-- The root has issued the beat of the frame. -/
  issued   : Bool := false
  treeNs   : Nat := 0
  routeNs  : Cells Nat := []
  out      : List OutMsg := []
  notes    : List FabricNote := []
  /-- ORRERY flits that wait for the links: the destination and the flits of one message (R411). -/
  orrery   : List (Nat × List Bytes) := []
  /-- Flits that this node passes on (R263, R264): outgoing link, incoming link, header and payload. -/
  transit  : List (Nat × Nat × Bytes) := []
  /-- The rotation of intermediate nodes of BULK messages (R273). -/
  bulkVia  : Nat := 0
  /-- Arms of the other members of the conjunction that the primary holds in the frame (R279). -/
  memberArms : Nat := 0
  /-- BULK bodies sent, awaiting an acknowledgement (R361): object, tile, source mailbox. -/
  bridge   : List (Nat × Nat × Nat) := []
  deriving DecidableEq, Repr

/-- The conjunction (R278 to R281). -/
structure Conj where
  formed  : Bool := false
  failed  : Bool := false
  size    : Nat := 1
  arrangement : Nat := 0
  epoch   : Nat := 0
  joined  : List (Nat × Nat × Nat) := []
  members : List Nat := []
  /-- Position that has the primary role. -/
  primary : Nat := 0
  /-- CONJ_PROMOTE taken and not applied: the mailboxes. -/
  promote : List Nat := []
  /-- Milliseconds for which position 1 has had no working CONJ link to position 0, up to 10 (R280). -/
  unlinked : Nat := 0
  deriving DecidableEq, Repr

/-- A view (R407). -/
structure View where
  num       : Nat := 0
  coord     : Nat := 0
  deputy    : Nat := 0
  hold      : Bool := false
  degraded  : Bool := false
  effective : Nat := 0
  lastEclipse : Nat := 0
  drops     : List Nat := [0, 0, 0, 0]
  /-- STATUS of node n: 0 ABSENT, 1 LIVE, 2 LOADING, 3 ECLIPSED. -/
  status    : Cells Nat := []
  deriving DecidableEq, Repr

/-- A health table entry (R410). -/
structure Health where
  score : Nat := 255
  exit1 : Nat := 0
  exit2 : Nat := 0
  exit3 : Nat := 0
  /-- Frame of the last penalty or recovery (R413). -/
  since : Nat := 0
  deriving DecidableEq, Repr

/-- A former heard during formation (R432). -/
structure Former where
  node  : Nat
  score : Nat
  view  : Nat
  frame : Nat
  epoch : Nat
  digest : Nat
  partner : Option Nat
  escalated : Bool
  deriving DecidableEq, Repr

/-- The orrery (R407 to R434). -/
structure Orrery where
  view      : Option View := none
  pending   : Option View := none
  acks      : List Nat := []
  proposed  : Bool := false
  health    : Cells Health := []
  /-- Items for the next view (R421): losses, nodes that become LIVE, nodes that become LOADING, departures. -/
  losses    : List Nat := []
  lives     : List Nat := []
  loads     : List Nat := []
  departs   : List Nat := []
  /-- The node's own score mirror (R410) and its last test score (R426). -/
  score     : Nat := 255
  testScore : Nat := 0
  failedTests : Nat := 0
  probation : Bool := false
  noRetest  : Bool := false
  /-- The admission test runs since this frame. -/
  soak      : Option Nat := none
  /-- JOIN was sent and neither PROPOSE nor REFUSE has come (R432). -/
  joining   : Bool := false
  formers   : List Former := []
  isFormer  : Bool := false
  seenForms : List Nat := []
  /-- Partner load (R429): the delta this node keeps for its partner, as tier addresses, and the cursor. -/
  delta     : List Nat := []
  cursor    : Option Nat := none
  /-- Answers awaited by the coordinator, oldest first: node, and 0 for a PROPOSE, 1 for a SCORE to the deputy, 2 for one to
  the subject (R410, R421). -/
  awaiting  : List (Nat × Nat) := []
  /-- Changes of SCORE the deputy has not acknowledged: node and new score (R410). -/
  unacked   : List (Nat × Nat) := []
  /-- DROP0 to DROP3 as the coordinator records them, and whether the next view enters HOLD (R414, R419). -/
  drops     : List Nat := [0, 0, 0, 0]
  holdDue   : Bool := false
  /-- Partners as JOIN and FORM name them: node, and partner plus 1. -/
  partners  : Cells Nat := []
  /-- The present absence began with a loss or an eclipse (R426). -/
  byExit    : Bool := false
  /-- Frame of the domain's first beat (R432). -/
  firstFrame : Option Nat := none
  /-- Messages sent, as (OP, destination, SUBJECT, CODE, VALUE). -/
  outbox    : List (Nat × Nat × Nat × Nat × Nat) := []
  deriving DecidableEq, Repr

/-- Node state (R326) and transitions (R346). -/
structure Node where
  state    : Nat := 0
  /-- Transition in progress: command code, mailbox. -/
  trans    : Option (Nat × Nat) := none
  /-- The departure has been accepted (R425). -/
  accepted : Bool := false
  wasServing : Bool := false
  /-- Faults that ask the node to enter FAULT at the next boundary. -/
  faultAt  : Bool := false
  deriving DecidableEq, Repr

/-- Why a command stops the model. -/
inductive Fault where
  /-- A lane command addresses a place no tier has (R228), or an address that no granule of the unit has. Safe: the model
  stops where the manual gives no such place. -/
  | noSuchAddress
  deriving DecidableEq, Repr

/-- Why a command has no meaning. -/
inductive Refusal where
  /-- The command's meaning is not written. Raised by `exec`'s arms only. Safe. -/
  | notModelled (mnemonic : String)
  deriving DecidableEq, Repr

/-- The state of the node. `drawn` counts the free values drawn; `pending` is the queue of waiting commands. -/
structure State where
  run     : Run := {}
  units   : Units := {}
  mem     : Memory := {}
  cnt     : Counters := {}
  dump    : DumpState := {}
  power   : Power := {}
  nor     : Nor := {}
  boot    : Boot := {}
  faults  : FaultState := {}
  setup   : Setup := {}
  host    : HostIf := {}
  recs    : Records := {}
  bg      : Background := {}
  flash   : Flash := {}
  fab     : Fabric := {}
  conj    : Conj := {}
  orr     : Orrery := {}
  node    : Node := {}
  drawn   : Nat := 0
  pending : List Instr := []
  deriving DecidableEq, Repr

/-- The module before any input: no power, no commands waiting (R489, R326; log entries 1 to 3). -/
def State.reset : State := {}

end Sys2Proof.Machine
end

