-- ==== Sys2Proof/Machine/Ops.lean ====
section
/-!
DEFINITION. The named operations on the state that the meanings share: memory and its delayed writes, lanes, counters,
settings and the slice map, events and interrupts, fault records, objects and poison findings, node state changes.
-/
namespace Sys2Proof.Machine

/-! ### Addresses (R228) -/

/-- Byte `off` of the cluster store of logical cluster `cl`. -/
def clAddr (cl off : Nat) : Nat := cl * 2 ^ 56 + off
/-- Byte `off` of the node store. -/
def nsAddr (off : Nat) : Nat := 2 ^ 61 + off
/-- Byte `off` of a stack channel. -/
def t1Addr (stack ch off : Nat) : Nat := 2 ^ 62 + stack * 2 ^ 59 + ch * 2 ^ 55 + off
/-- Byte `off` of board DRAM. -/
def t2Addr (off : Nat) : Nat := 2 * 2 ^ 62 + off

/-- Bytes of a cluster store, the node store, a stack channel, board DRAM (R227, R228). -/
def clSize : Nat := 4194304
def nsSize : Nat := 16777216
def chSize : Nat := 2415919104
def boardSize : Nat := 412316860416
/-- Offset of the dump region in board DRAM (R229). -/
def dumpBase : Nat := 412249751552

/-- The tier of an address. -/
def tierOf (a : Nat) : Nat := a / 2 ^ 62

/-- Do `n` bytes from address `a` exist in tiers T0 to T2, outside the dump region (R228, R229). -/
def addrOk (a n : Nat) : Bool :=
  let r := a % 2 ^ 62
  match tierOf a with
  | 0 =>
    if bit r 61 then decide (r % 2 ^ 61 + n ≤ nsSize)
    else decide (r % 2 ^ 56 + n ≤ clSize) && decide (r / 2 ^ 56 < 32)
  | 1 => decide (r / 2 ^ 59 < 6) && decide (r % 2 ^ 55 + n ≤ chSize)
  | 2 => decide (r + n ≤ dumpBase)
  | _ => false

/-! ### Memory -/

/-- The reset domain whose SRAM holds a T0 or express buffer address. -/
def sramDomain (a : Nat) : Nat :=
  if tierOf a = 3 then 16 else if bit a 61 then 0 else 5 + a / 2 ^ 56 / 8

/-- Byte `a` of an express buffer as an address of the SRAM (R250). -/
def xAddr (off : Nat) : Nat := 3 * 2 ^ 62 + off

/-- One byte of T0 or an express buffer: undefined until written after a reset (R382, log entry 6). -/
def readSram (s : State) (a : Nat) : Byte :=
  match cget none s.mem.sram a with
  | some b => b
  | none => BitVec.ofNat 8 (Config.sram (cget 0 s.mem.sramGen (sramDomain a)) a)

/-- Is an address one of the SRAM. -/
def isSram (a : Nat) : Bool := tierOf a == 0 || tierOf a == 3

/-- `n` bytes from a tier address as they stand. An unlisted byte of T1 and T2 reads as 0 (log entry 6). -/
def readMem (s : State) (a n : Nat) : Bytes :=
  if isSram a then (List.range n).map fun i => readSram s (a + i) else cgetN 0#8 s.mem.bytes a n

/-- The little-endian number of `n` bytes. -/
def readNat (s : State) (a n : Nat) : Nat := leNat (readMem s a n)

/-- Write bytes from a tier address. -/
def writeMem (s : State) (a : Nat) (bs : Bytes) : State :=
  if isSram a then { s with mem := { s.mem with sram := csetN none s.mem.sram a (bs.map some) } }
  else { s with mem := { s.mem with bytes := csetN 0#8 s.mem.bytes a bs } }

/-- The SRAM of the domains that `p` names is undefined from now on (R382). -/
def loseSram (s : State) (p : Nat → Bool) : State :=
  { s with
    drawn := s.drawn + 1
    mem := { s.mem with
      sram := cdrop (fun a => p (sramDomain a)) s.mem.sram
      poison := cdrop (fun g => isSram (32 * g) && p (sramDomain (32 * g))) s.mem.poison
      sramGen := (List.range 17).foldl (fun m d => if p d then cset 0 m d (s.drawn + 1) else m) s.mem.sramGen } }

/-- Write an `n`-byte number. -/
def writeNat (s : State) (a n v : Nat) : State := writeMem s a (leBytes n v)

/-- The poison marks of the `n` granules from address `a`. -/
def marksOf (s : State) (a n : Nat) : List Bool := cgetN false s.mem.poison (a / 32) n

/-- Set the marks of the granules from address `a`. -/
def setMarks (s : State) (a : Nat) (ms : List Bool) : State :=
  { s with mem := { s.mem with poison := csetN false s.mem.poison (a / 32) ms } }

/-- A write that becomes visible `k` steps from now (R26). -/
def later (s : State) (k : Nat) (w : Landing) : State :=
  { s with run := { s.run with delayed := s.run.delayed ++ [⟨s.run.now + k, w⟩] } }

/-- The key of lane `i` of a vector register. -/
def vkey (cl reg i : Nat) : Nat := (cl * 64 + reg) * 64 + i

/-- Write a vector register. -/
def setVreg (s : State) (cl reg : Nat) (vals : List W32) : State :=
  { s with units := { s.units with
      vreg := csetN 0#32 s.units.vreg (vkey cl reg 0) (vals.take 64)
      vinv := csetN false s.units.vinv (vkey cl reg 0) (List.replicate 64 false) } }

/-- INVALID of the columns that a register's lanes were drained from (R79). -/
def getVinv (s : State) (cl reg : Nat) : List Bool := cgetN false s.units.vinv (vkey cl reg 0) 64

/-- The lanes of a vector register. -/
def getVreg (s : State) (cl reg : Nat) : List W32 := cgetN 0#32 s.units.vreg (vkey cl reg 0) 64

/-- The key of an NBU, and the NBU. -/
def nbuKey (c : Chan) (pos : Nat) : Nat := c.stack.val * 384 + c.ch.val * 24 + pos
def getNbu (s : State) (c : Chan) (pos : Nat) : Nbu := cget {} s.units.nbu (nbuKey c pos)
def setNbu (s : State) (c : Chan) (pos : Nat) (n : Nbu) : State :=
  { s with units := { s.units with nbu := cset {} s.units.nbu (nbuKey c pos) n } }

/-- A task record has been written to the task port of an NBU in a step (R96): it enters the queue, eligible from the boundary that
begins the next frame, or finds the queue full. What its granule has told of an earlier scan no longer counts. -/
def enqueueTask (s : State) (nbu step : Nat) (b : Bytes) (cap : Nat) : State :=
  let n := cget {} s.units.nbu nbu
  let n' := if n.queue.length < 16 then { n with queue := n.queue ++ [⟨b, s.run.frame + 1, cap⟩] } else { n with full := n.full ++ [(step, b)] }
  { s with units := { s.units with
      scans := s.units.scans.filter fun e => e.result != fld b 0x30 0 32
      dropped := s.units.dropped.filter fun r => r != fld b 0x30 0 32
      nbu := cset {} s.units.nbu nbu n' } }

/-- Let one delayed write land. -/
def landOne (s : State) (w : Landing) : State :=
  match w with
  | .mem a d ms => setMarks (writeMem s a d) a ms
  | .vreg cl reg vals => setVreg s cl reg vals
  | .drain cl reg vals inv =>
    let s := setVreg s cl reg vals
    { s with units := { s.units with vinv := csetN false s.units.vinv (vkey cl reg 0) (inv.take 64) } }
  | .task nbu _ step b cap => enqueueTask s nbu step b cap

/-- The LANE_ID that orders a write among those of its step: that of the writer of a task (R96); 0 for the others, which no order
concerns. -/
def Landing.lane : Landing → Nat
  | .task _ l _ _ _ => l
  | _ => 0

/-- Put a write behind those of its step whose lanes are not above its own. -/
def insertLanding (d : Delayed) : List Delayed → List Delayed
  | [] => [d]
  | x :: r => if d.what.lane < x.what.lane then d :: x :: r else x :: insertLanding d r

/-- The writes that are due, in the order in which they land: tasks by the lane IDs of their writers (R96). -/
def dueWrites (s : State) : List Delayed :=
  (s.run.delayed.filter fun d => d.due ≤ s.run.now).foldl (fun l d => insertLanding d l) []

/-- Let every write that is due land. -/
def landDue (s : State) : State :=
  let rest := s.run.delayed.filter fun d => !(d.due ≤ s.run.now)
  (dueWrites s).foldl (fun s d => landOne s d.what) { s with run := { s.run with delayed := rest } }

/-- A write that is visible `k` steps from now (R26); where no lane makes it, at once. -/
def writeIn (s : State) (k a : Nat) (bs : Bytes) : State :=
  if k = 0 then writeMem s a bs else later s k (.mem a bs [])

/-- Draw one free value (log entry 7): the value, and the state with the draw counted. -/
def draw (s : State) : Nat × State := (Config.free s.drawn, { s with drawn := s.drawn + 1 })

/-! ### Lanes (R25, R27, R34) -/

/-- LANE_ID of unit `u` of logical cluster `cl`. -/
def clLane (cl u : Nat) : Nat := cl * 8 + u
/-- LANE_ID of a stack channel. -/
def chLane (c : Chan) : Nat := 0x200 + 16 * c.stack + c.ch
def fcLane (fc : Nat) : Nat := 0x300 + fc

/-- Is a LANE_ID valid (R34). -/
def laneValid (id : Nat) : Bool :=
  (id < 0x100 && id % 8 != 7) || (0x100 ≤ id && id < 0x104) || (0x200 ≤ id && id < 0x260) || (0x300 ≤ id && id < 0x318) ||
  (0x400 ≤ id && id < 0x408) || id == 0x500 || id == 0x501 || id == 0x600

/-- The reset domain of a lane's unit, by the codes of R343 (R15). -/
def laneDomain (id : Nat) : Nat :=
  if id < 0x100 then 5 + id / 64
  else if id < 0x200 then 5 + id % 4
  else if id < 0x300 then 9 + (id - 0x200) / 16
  else if id < 0x400 then 16
  else if id < 0x500 then 4
  else if id < 0x600 then 2 + id % 2
  else 15

/-- The slice that owns a lane of the plate in use; 0 for a lane outside the plate. -/
def laneSlice (s : State) (id : Nat) : Nat :=
  match s.run.plate with
  | none => 0
  | some p => ((p.lanes.find? fun l => l.id == id).map Lane.slice).getD 0

/-- May the lane's unit begin an action in this step. -/
def laneFree (s : State) (id : Nat) : Bool :=
  s.run.running && !s.run.waiting && decide (cget 0 s.run.busy id ≤ s.run.now)

/-! ### Counters (R457, R461) -/

/-- Key of counter `c` of item `item` of group `g`. -/
def ckey (g item c : Nat) : Nat := (g * 65536 + item) * 16 + c

/-- Add to a counter in the sentinel of domain `dom`. -/
def count (s : State) (dom g item c n : Nat) : State :=
  { s with cnt := { s.cnt with inc := cmod 0 s.cnt.inc (dom * 2 ^ 40 + ckey g item c) (· + n) } }

/-- Add to a counter of the lane's unit and of its slice (groups 8 and 9). -/
def countLane (s : State) (id c n : Nat) : State :=
  count (count s (laneDomain id) 8 id c n) (laneDomain id) 9 (laneSlice s id) c n

/-- Add bytes to a tier counter, for the lane's slice and the node (groups 2 and 3). -/
def countTier (s : State) (id c n : Nat) : State :=
  count (count s (laneDomain id) 2 (laneSlice s id) c n) (laneDomain id) 3 0 c n

/-- Add to an arithmetic counter of the lane's slice (group 10): 0 SAT, 1 NAN, 2 ACC_SAT, 3 INVALID, 4 FORMAT_MISMATCH,
5 CONSTANT_ROWS, 6 SCALE_CLAMPS, 7 SEL_NAN, 8 SEL_DUP, 9 SEL_MISMATCH. -/
def countArith (s : State) (id c n : Nat) : State :=
  if n = 0 then s else count s (laneDomain id) 10 (laneSlice s id) c n

/-- Count an event that a sentinel keeps to itself (R161, R236). -/
def countSeen (s : State) (kind lane : Nat) : State := { s with cnt := { s.cnt with seen := cmod 0 s.cnt.seen (65536 * kind + lane) (· + 1) } }

/-- Add to a record counter of a slice (group 11). -/
def countRec (s : State) (slice c n : Nat) : State := if n = 0 then s else count s 0 11 slice c n

/-- The sentinels add their increments to the counter bank, which saturates (R457). -/
def flushCounters (s : State) : State :=
  { s with cnt := { s.cnt with
      inc := []
      bank := s.cnt.inc.foldl (fun b kv => cmod 0 b (kv.1 % 2 ^ 40) (satAdd 64 kv.2)) s.cnt.bank } }

/-- The unit of a lane works from this step for `n` steps; its action is not IDLE. -/
def ran (s : State) (id n : Nat) : State :=
  countLane { s with run := { s.run with busy := cset 0 s.run.busy id (s.run.now + n) } } id 0 n

/-! ### Settings (R450) and the slice map (R284) -/

/-- The value of a retained setting; none where it takes its factory setting. -/
def setting (s : State) (type index : Nat) : Option Bytes :=
  (s.boot.settings.find? fun t => t.type == type && t.index == index).map Tlv.value

/-- The domain setting as a number: domain, dimensions, coordinates. -/
def domainSetting (s : State) : Nat := leNat ((setting s 1 0).getD [])
def domainNumber (s : State) : Nat := bits (domainSetting s) 0 16
def dimA (s : State) : Nat := bits (domainSetting s) 16 3 + 1
def dimB (s : State) : Nat := bits (domainSetting s) 19 3 + 1
def dimC (s : State) : Nat := bits (domainSetting s) 22 3 + 1

/-- The node ID, x + 8y + 64z (R271). -/
def nodeId (s : State) : Nat :=
  bits (domainSetting s) 25 3 + 8 * bits (domainSetting s) 28 3 + 64 * bits (domainSetting s) 31 3

/-- Nodes the domain's dimensions allow (R271). -/
def inDomain (s : State) (n : Nat) : Bool := n % 8 < dimA s && n / 8 % 8 < dimB s && n / 64 < dimC s

/-- The node IDs of the domain. -/
def domainNodes (s : State) : List Nat := (List.range 512).filter (inDomain s)

/-- Does the node stand alone in its domain. -/
def alone (s : State) : Bool := dimA s * dimB s * dimC s == 1

/-- The partner (R409). -/
def partner (s : State) : Option Nat := (setting s 2 0).map fun b => leNat b % 512

/-- The role of a fabric port: 0 DOMAIN, 1 BRIDGE, 2 CONJ, 3 OFF (R258). -/
def portRole (s : State) (p : Nat) : Nat :=
  match setting s 3 0 with
  | some b => bits (leNat b) (2 * p) 2
  | none => if p = 7 then 3 else 0

/-- The factory slice map (R284): slice 0 holds every resource. -/
def factorySlice0 : Bytes :=
  leBytes 4 1 ++ leBytes 4 0xFFFFFFFF ++ leBytes 8 0xFFFFFFFFFFFFFFFF ++ leBytes 4 0xFFFFFFFF ++
  leBytes 4 0xFFFFFFFF ++ leBytes 8 0xFFFFFFFFFFFFFFFF ++ leBytes 8 0x100000001 ++ List.replicate 24 0

def factorySliceMap : Bytes :=
  leBytes 4 0x534C4D50 ++ leBytes 4 1 ++ leBytes 4 1 ++ List.replicate 52 0 ++ factorySlice0 ++ List.replicate 960 0

/-- The slice map in force. -/
def sliceMapOf (s : State) : Bytes := if s.setup.sliceMap.isEmpty then factorySliceMap else s.setup.sliceMap

/-- Field of slice `i`'s entry in a slice map. -/
def sfld (m : Bytes) (i off lo len : Nat) : Nat := fld m (64 + 64 * i + off) lo len
def sliceValid (m : Bytes) (i : Nat) : Bool := i < 16 && sfld m i 0 0 1 == 1
def sliceClusters (m : Bytes) (i : Nat) : Nat := sfld m i 4 0 32
def sliceStacks (m : Bytes) (i : Nat) : Nat := sfld m i 8 0 96
def sliceFlash (m : Bytes) (i : Nat) : Nat := sfld m i 0x14 0 24
def slicePorts (m : Bytes) (i : Nat) : Nat := sfld m i 0x14 24 8
def sliceBoxes (m : Bytes) (i : Nat) : Nat := sfld m i 0x18 0 64
def sliceAdmin (m : Bytes) (i : Nat) : Nat := sfld m i 0x20 0 64

/-- The slice a mailbox is bound to under the map in force (R287). -/
def boxSlice (s : State) (m : Nat) : Option Nat :=
  (List.range 16).find? fun i => sliceValid (sliceMapOf s) i && bit (sliceBoxes (sliceMapOf s) i) m

/-- Has the mailbox ADMIN privilege. -/
def boxAdmin (s : State) (m : Nat) : Bool :=
  match boxSlice s m with
  | none => false
  | some i => bit (sliceAdmin (sliceMapOf s) i) m

/-- The port a mailbox is native to (R309). -/
def boxPort (m : Nat) : Nat := m / 32

/-- The slices that exist. -/
def validSlices (s : State) : List Nat := (List.range 16).filter (sliceValid (sliceMapOf s))

/-! ### Host memory, interrupts and events (R318 to R320) -/

/-- Is a port's domain in reset. -/
def portDown (s : State) (p : Nat) : Bool := s.faults.inReset.contains (2 + p)

/-- May the node issue DMA and interrupts on the port. -/
def dmaOk (s : State) (p : Nat) : Bool := !portDown s p && cget false s.host.busMaster p

/-- A DMA write to host memory. -/
def hostWrite (s : State) (p a : Nat) (bs : Bytes) : State :=
  let s := { s with mem := { s.mem with host := csetN 0#8 s.mem.host (p * 2 ^ 64 + a) bs } }
  count s (2 + p) 6 p 1 bs.length

/-- A byte of a port's MSI-X table. The mask bit of each vector is kept inverted: it is set after a reset (log entry 42). -/
def msixByte (s : State) (p off : Nat) : Byte := cget 0#8 s.host.msix (p * 2048 + off) ^^^ (if off % 16 = 12 then 1#8 else 0#8)

/-- A field of the MSI-X table entry of a vector. -/
def msixField (s : State) (p v off n : Nat) : Nat := leNat ((List.range n).map fun i => msixByte s p (16 * v + off + i))

/-- A vector is masked. -/
def msixMasked (s : State) (p v : Nat) : Bool := bit (msixField s p v 12 1) 0

/-- Write the message of a vector to host memory. -/
def sendVector (s : State) (p v : Nat) : State :=
  { s with mem := { s.mem with host := csetN 0#8 s.mem.host (p * 2 ^ 64 + msixField s p v 0 8) (leBytes 4 (msixField s p v 8 4)) } }

/-- Vectors can go out on a port (R320). -/
def vectorsOn (s : State) (p : Nat) : Bool := dmaOk s p && cget false s.host.msixEn p

/-- Raise MSI-X vector `v` of port `p` (R320). -/
def raise (s : State) (p v : Nat) : State :=
  if !vectorsOn s p then s
  else if msixMasked s p v then { s with host := { s.host with pending := cset false s.host.pending (p * 64 + v) true } }
  else sendVector s p v

/-- Interrupts of the events written since the last boundary; a plate that halts has no boundary left to wait for (R320). -/
def raiseEvents (s : State) : State :=
  s.host.evDue.foldl (fun s k => raise s (k / 16) (32 + k % 16)) { s with host := { s.host with evDue := [] } }

/-- Has a slice a mailbox native to a port. -/
def sliceOnPort (s : State) (i p : Nat) : Bool :=
  sliceBoxes (sliceMapOf s) i / 2 ^ (32 * p) % 2 ^ 32 != 0

/-- The modulus of PRODUCER and CONSUMER (R318). -/
def evMod : Nat := 4278190080

/-- Write one event into the queue of a slice on a port, or count it as lost (R318). -/
def pushEvent (s : State) (p slice : Nat) (entry : Bytes) : State :=
  let k := 16 * p + slice
  let q := cget {} s.host.queues k
  let c := if q.consumer ≥ evMod then q.producer else q.consumer
  let used := (q.producer + evMod - c) % evMod
  let used := if used > 255 then 0 else used
  let q' := if used < 255 then
      { q with producer := (q.producer + 1) % evMod, entries := cset [] q.entries (q.producer % 255) entry }
    else { q with lost := satAdd 32 q.lost 1 }
  let s := { s with host := { s.host with queues := cset {} s.host.queues k q' } }
  if used < 255 then
    (if s.run.running then { s with host := { s.host with evDue := s.host.evDue.filter (· != k) ++ [k] } } else raise s p (32 + slice))
  else s

/-- The bytes of an event entry (R319). -/
def eventBytes (s : State) (code slice : Nat) (mailbox : Option Nat) (argLo arg : Nat) : Bytes :=
  layoutBytes 32 [(0, 2, code), (2, 2, packBits [(0, 4, slice), (4, 6, mailbox.getD 0), (10, 1, b2n mailbox.isSome)]),
    (4, 4, argLo), (8, 8, s.run.frame), (16, 16, arg)]

/-- Post an event to a slice, on each port that has a native mailbox of it (R319). -/
def postEvent (s : State) (slice code argLo arg : Nat) : State :=
  let e := eventBytes s code slice none argLo arg
  [0, 1].foldl (fun s p => if sliceOnPort s slice p then pushEvent s p slice e else s) s

/-- Post an event that reports on a command of a mailbox (R319). -/
def postTargeted (s : State) (m code argLo arg : Nat) : State :=
  let slice := (boxSlice s m).getD 0
  pushEvent s (boxPort m) slice (eventBytes s code slice (some m) argLo arg)

/-- Post an event to every valid slice. -/
def postAll (s : State) (code argLo arg : Nat) : State :=
  (validSlices s).foldl (fun s i => postEvent s i code argLo arg) s

/-- Change the node state (R326): the STATE event and vector 48. -/
def enterState (s : State) (st : Nat) : State :=
  if s.node.state = st then s
  else
    let old := s.node.state
    let s := { s with node := { s.node with state := st } }
    raise (raise (postAll s 1 0 (packBits [(0, 4, old), (4, 4, st)])) 0 48) 1 48

/-! ### Fault records (R390 to R392) -/

/-- Worst-case, shortest and nominal steps by point, in ps (R28, R237). -/
def worstPs (p : Nat) : Nat := [2300, 1120, 860].getD p 2300
def shortPs (p : Nat) : Nat := [1660, 840, 620].getD p 1660
def nominalPs (p : Nat) : Nat := [2000, 1000, 780].getD p 2000
/-- VCORE set points in mV (R363). -/
def setMv (p : Nat) : Nat := [550, 700, 800].getD p 550

/-- F(t) of R413 for t in ms; 0 without a plate. -/
def framesOf (s : State) (ms : Nat) : Nat :=
  match s.run.plate with
  | none => 0
  | some p => ceilDiv (ms * 1000000000) (p.steps * nominalPs p.oppoint)

/-- The hottest junction of a domain's quadrant or stack, otherwise of the node. -/
def tjOf (s : State) (dom : Nat) : Int :=
  let tj := s.power.tele.tj
  if 5 ≤ dom ∧ dom ≤ 8 then tj.getD (dom - 5) 0
  else if 9 ≤ dom ∧ dom ≤ 14 then tj.getD (dom - 5) 0
  else tj.foldl max 0

/-- The contents of a fault record before it is written. -/
structure FaultInfo where
  code  : Nat
  event : Bool
  dom   : Nat := 0
  unit  : Nat := 0xFFFF
  peer  : Nat := 0xFFFF
  arg0  : Nat := 0
  arg1  : Nat := 0
  root  : Bool := false
  dumped : Bool := false
  deriving DecidableEq, Repr

/-- The 64 bytes of a fault record (R390). -/
def faultBytes (s : State) (f : FaultInfo) : Bytes :=
  layoutBytes 64 [(0, 2, f.code), (2, 2, packBits [(0, 5, f.dom), (5, 1, b2n f.event), (6, 1, b2n f.root), (7, 1, b2n f.dumped)]),
    (4, 2, f.unit), (6, 2, f.peer), (8, 8, s.run.frame), (16, 4, if s.run.running then s.run.step else 0xFFFFFFFF),
    (20, 2, codeOf 16 (tjOf s f.dom)), (22, 2, s.power.tele.vcore), (24, 2, min 65535 s.run.stepPs),
    (26, 2, packBits [(0, 4, s.run.load), (4, 2, s.setup.running)]), (28, 4, s.dump.incident.getD 0),
    (32, 8, f.arg0), (40, 8, f.arg1)]

/-- The penalty of a fault code for its subject (R412); 0 for what is a loss instead. -/
def penalty (s : State) (f : FaultInfo) : Nat :=
  let c := f.code
  if c = 1 ∨ c = 2 ∨ c = 3 then (if f.dom ∈ [1, 2, 3, 16] ∨ !s.run.running then 24 else 0)
  else if c = 4 then 24
  else if c = 0x10 then 32
  else if c ∈ [0x21, 0x14, 0x23, 0x41, 0x38] then 16
  else if c ∈ [0x34, 0x35, 0x22, 0x36, 0x37] then 8
  else if c ∈ [0x33, 0x20] then 4
  else if c ∈ [5, 7, 0x12, 0x30, 0x31, 0x32, 0x42] then 0
  else if f.event then 8
  else 0

/-- Header and payload of a flit (R263). -/
def flitHead (ty vc : Nat) (last : Bool) (src dst slot seq len frame : Nat) (payload : Bytes) : Bytes :=
  layoutBytes 16 [(0, 4, packBits [(0, 8, ty), (8, 2, vc), (10, 1, b2n last), (16, 9, src)]), (4, 4, packBits [(0, 9, dst), (16, 16, slot)]),
    (8, 4, packBits [(0, 16, seq), (16, 8, len)]), (12, 4, frame)] ++ slice payload 0 224

/-- The head of an orrery message (R411). -/
def orrHead (op subject view frame code value : Nat) : Bytes :=
  layoutBytes 32 [(0, 4, packBits [(0, 8, op), (16, 9, subject)]), (4, 4, view), (8, 8, frame), (0x10, 4, packBits [(0, 16, code), (16, 8, value)])]

/-- The flits of an orrery message (R263, R411). -/
def orrFlits (s : State) (dst : Nat) (msg : Bytes) : List Bytes :=
  let n := (msg.length + 223) / 224
  (List.range n).map fun i => flitHead 5 0 (i + 1 == n) (nodeId s) dst 0 i (min 224 (msg.length - 224 * i)) s.run.frame (msg.drop (224 * i))

/-- Send an orrery message with a body: OP, destination, SUBJECT, CODE, VALUE, the view number and frame of its head (R411). One to this node itself does
not leave it. -/
def orrSendBody (s : State) (op dst subject code value view frame : Nat) (body : Bytes) : State :=
  { s with
    orr := { s.orr with outbox := s.orr.outbox ++ [(op, dst, subject, code, value)] }
    fab := { s.fab with orrery := if dst = nodeId s then s.fab.orrery
      else s.fab.orrery ++ [(dst, orrFlits s dst (orrHead op subject view frame code value ++ body))] } }

/-- Send an orrery message without a body: OP, destination, SUBJECT, CODE, VALUE (R411). -/
def orrSend (s : State) (op dst subject code value : Nat) : State :=
  orrSendBody s op dst subject code value ((s.orr.view.map View.num).getD s.dump.lastView) (max s.run.frame s.dump.lastFrame) []

/-- Two records of the same FRAME and STEP while a plate ran, the first of a higher unit code (R391). -/
def logsAfter (x r : Bytes) : Bool :=
  slice x 8 12 == slice r 8 12 && fld r 16 0 32 != 0xFFFFFFFF && decide (fld r 4 0 16 < fld x 4 0 16)

/-- The fault log with one record more: in the order of the events, and among records of the same FRAME and STEP in ascending unit code (R391). -/
def logWith (log : List Bytes) (r : Bytes) : List Bytes :=
  let k := log.length - (log.reverse.takeWhile (logsAfter · r)).length
  log.take k ++ r :: log.drop k

/-- Append a fault record (R391); a fault event also posts a FAULT event and a REPORT (R319, R412). -/
def logFaultFor (s : State) (subject : Nat) (f : FaultInfo) : State :=
  let s := if s.dump.log.length < 4096 then { s with dump := { s.dump with log := logWith s.dump.log (faultBytes s f) } }
    else { s with dump := { s.dump with notLogged := satAdd 32 s.dump.notLogged 1 } }
  let s := if f.event then postEvent s 0 0xB 0 f.code else s
  match s.orr.view with
  | none => s
  | some v => if f.event || penalty s f > 0 then orrSend s 1 v.coord subject f.code (penalty s f) else s

/-- Append a fault record about this node. -/
def logFault (s : State) (f : FaultInfo) : State := logFaultFor s (nodeId s) f

/-- The unit code of a lane's unit (R390): clusters by the physical cluster that runs them. -/
def laneUnit (s : State) (id : Nat) : Nat :=
  if id < 0x100 then
    let cl := id / 8
    let q := cl / 8
    let p := bits (cget 0x76543210 s.setup.clmap q) (4 * (cl % 8)) 4
    0x1000 + 8 * (9 * q + p) + id % 8
  else id

/-! ### Objects and tiles (R230 to R241) -/

def Obj.detached (o : Obj) : Bool := fld o.desc 4 0 1 == 1
def Obj.raw (o : Obj) : Bool := fld o.desc 4 1 1 == 1
def Obj.shared (o : Obj) : Bool := fld o.desc 4 5 1 == 1
def Obj.fmt (o : Obj) : Nat := fld o.desc 4 8 8
def Obj.slice (o : Obj) : Nat := fld o.desc 4 16 4
def Obj.owner (o : Obj) : Nat := fld o.desc 8 0 16
/-- OWNER_KIND as the KIND of a descriptor: 1 index, 2 table. -/
def Obj.ownerKind (o : Obj) : Nat := 1 + fld o.desc 8 16 1
def Obj.tiles (o : Obj) : Nat := fld o.desc 12 0 32

/-- Payload bytes of a tile by its FORMAT and RAW (R230). -/
def payloadBytes (fmt : Nat) (raw : Bool) : Nat := if raw then 2048 else 128 * fmtBits fmt
def Obj.payload (o : Obj) : Nat := payloadBytes o.fmt o.raw

/-- The object of an identifier. -/
def findObj (s : State) (id : Nat) : Option Obj := s.mem.objs.find? fun o => o.id == id

/-- (header address, payload address) of tile `t` within extents, counted from `base`. -/
def tileIn (det : Bool) (pl : Nat) : List (Nat × Nat) → Nat → Option (Nat × Nat)
  | [], _ => none
  | (a, n) :: r, t =>
    if t < n then
      (if det then some (a + n * pl + 32 * t, a + t * pl) else some (a + t * (pl + 32), a + t * (pl + 32) + 32))
    else tileIn det pl r (t - n)

/-- Where a tile of an object lies (R230, R241). -/
def tileAddr (o : Obj) (t : Nat) : Option (Nat × Nat) := tileIn o.detached o.payload o.extents t

/-- The tile of an extent that an address lies in. -/
def tileOfExtent (det : Bool) (pl : Nat) (a : Nat) : List (Nat × Nat) → Nat → Option Nat
  | [], _ => none
  | (b, n) :: r, t =>
    let len := n * (pl + 32)
    if b ≤ a ∧ a < b + len then
      some (t + (if det then (if a < b + n * pl then (a - b) / pl else (a - b - n * pl) / 32) else (a - b) / (pl + 32)))
    else tileOfExtent det pl a r (t + n)

/-- The object and tile that an address lies in. -/
def tileAt (s : State) (a : Nat) : Option (Obj × Nat) :=
  s.mem.objs.findSome? fun o => (tileOfExtent o.detached o.payload a o.extents 0).map fun t => (o, t)

/-- A tile header (R231) as written by a node writer: TAG over the payload, GENERATION one above, DEVICE_WRITTEN (R232). -/
def closeHeader (hdr payload : Bytes) : Bytes :=
  let gen := (fld hdr 0 16 16 + 1) % 65536
  patch (patch (patch hdr 2 (leBytes 2 gen)) 8 (leBytes 4 (crc32c payload))) 1
    (leBytes 1 (packBits [(0, 1, fld hdr 0 8 1), (1, 1, 1), (2, 6, fld hdr 0 10 6)]))

/-- Set or clear POISONED in a header. -/
def poisonHeader (on : Bool) (hdr : Bytes) : Bytes :=
  let b := fld hdr 0 8 8
  patch hdr 1 (leBytes 1 (b - 4 * (b / 4 % 2) + 4 * b2n on))

/-- Append a work item (R194). -/
def addItem (s : State) (cls : Nat) (w : Work) (lane : Nat) (urgent : Bool) (left : Nat) : State :=
  let s := count s 0 12 (cls - 1) 0 1
  let s := if urgent then count s 0 12 (cls - 1) 2 1 else s
  { s with bg := { s.bg with
      items := s.bg.items ++ [⟨s.bg.nextItem, cls, s.run.frame, w, lane, urgent, false, left⟩]
      nextItem := s.bg.nextItem + 1 } }

/-- What R252 does with a finding: POISONED in the header in the tile's tier, visible `k` steps later where a lane makes the finding (R26), the fault
event, the rebuild item. -/
def poisonTile (s : State) (obj tile lane k : Nat) : State :=
  let s := match findObj s obj with
    | none => s
    | some o =>
      match tileAddr o tile with
      | none => s
      | some (h, _) => if tierOf h < 3 then writeIn s k h (poisonHeader true (readMem s h 32)) else s
  let shared := ((findObj s obj).map Obj.shared).getD false
  addItem (logFault s { code := 0x20, event := true, dom := laneDomain lane, unit := laneUnit s lane, arg0 := obj, arg1 := tile })
    1 (.rebuild obj tile) lane shared 1

/-- A poison finding (R252); while a plate runs, what follows from it for records waits for the boundary (R253). -/
def poisonFinding (s : State) (obj tile lane k : Nat) : State :=
  let s := poisonTile s obj tile lane k
  { s with recs := { s.recs with findings := s.recs.findings ++ [(obj, tile)] } }

/-- Is a tile sound: TAG, POISONED, poison marks (R233). -/
def tileSound (s : State) (h p pl : Nat) : Bool :=
  let hdr := readMem s h 32
  fld hdr 0 10 1 == 0 && fld hdr 8 0 32 == crc32c (readMem s p pl) && (marksOf s h 1).all (!·) && (marksOf s p (pl / 32)).all (!·)

/-! ### Descriptors in use -/

/-- The descriptor in use of a KIND (1 index, 2 table, 3 window) and ID. -/
def findDesc (s : State) (kind id : Nat) : Option Desc := s.setup.descs.find? fun d => d.kind == kind && d.id == id

/-- The slice of an index or table: that of the object at the base its descriptor names (R282; log entry 40). -/
def descSlice (s : State) (d : Desc) : Option Nat :=
  let base := if d.kind = 1 then fld d.bytes 0x18 0 64 else if d.kind = 2 then fld d.bytes 0x10 0 64 else 0
  if d.kind = 3 then some (fld d.bytes 0 16 4)
  else (tileAt s base).map fun ot => ot.1.slice

/-! ### The view (R407, R408) -/

/-- STATUS of a node in the view in force; a node without a view is LIVE to itself alone. -/
def statusOf (s : State) (n : Nat) : Nat :=
  match s.orr.view with
  | none => if n = nodeId s then 1 else 0
  | some v => cget 0 v.status n

/-- The view marks a node eclipsed: LOADING or ECLIPSED (R408). -/
def eclipsed (s : State) (n : Nat) : Bool := statusOf s n == 2 || statusOf s n == 3
/-- A live node for the beat and messages: LIVE or LOADING (R408). -/
def liveNode (s : State) (n : Nat) : Bool := statusOf s n == 1 || statusOf s n == 2

/-- A node's partner as this node knows it. -/
def partnerOf (s : State) (n : Nat) : Option Nat :=
  if n = nodeId s then partner s
  else match cget 0 s.orr.partners n with
    | 0 => if partner s = some n then some (nodeId s) else none
    | k + 1 => some k

/-- Every other live node of the domain. -/
def otherNodes (s : State) : List Nat := (domainNodes s).filter fun n => n != nodeId s && liveNode s n

/-- The depth of the plate in use. -/
def depthNow (s : State) : Nat := match s.run.plate with | some p => p.depth | none => 1

end Sys2Proof.Machine
end

