-- ==== Sys2Proof/Machine/Mailbox.lean ====
section
/-!
DEFINITION. Mailboxes: frames, status codes (R335), responses (R311 to R313, R316), commands in progress (R317), the states
in which a command is legal (R327), and what a change of node state does to commands.
-/
namespace Sys2Proof.Machine

/-! ### Status codes (R335) -/

def sOk : Nat := 0x0000
def sShort : Nat := 0x0001
def sBadSeal : Nat := 0x0010
def sBadCommand : Nat := 0x0011
def sDenied : Nat := 0x0012
def sBadState : Nat := 0x0013
def sBadParam : Nat := 0x0014
def sBusy : Nat := 0x0020
def sNoSpace : Nat := 0x0021
def sTimeout : Nat := 0x0022
def sAborted : Nat := 0x0023
def sReset : Nat := 0x0024
def sStaleEpoch : Nat := 0x0030
def sMoved : Nat := 0x0031
def sOrphan : Nat := 0x0032
def sPoisoned : Nat := 0x0033
def sRefused : Nat := 0x0040
def sBadSignature : Nat := 0x0041
def sHostDma : Nat := 0x0042
def sBadData : Nat := 0x0043

/-! ### Node states (R326) and legal commands (R327) -/

def stOff : Nat := 0
def stBoot : Nat := 1
def stSelftest : Nat := 2
def stRestored : Nat := 3
def stReady : Nat := 4
def stServing : Nat := 5
def stDraining : Nat := 6
def stMaintenance : Nat := 7
def stFault : Nat := 8
def stEclipsed : Nat := 9

/-- The node states in which a command is legal; none for an undefined CODE (R327, R329). -/
def legalStates (code : Nat) : Option (List Nat) :=
  if code ∈ [1, 2, 3, 4, 5, 0x10] then some [2, 3, 4, 5, 6, 7, 8, 9]
  else if code ∈ [0x11, 0x20, 0x21, 0x22] then some [3, 7, 8]
  else if code ∈ [0x30, 0x31] then some [3, 4, 7]
  else if code = 0x18 then some [3]
  else if code ∈ [0x19, 0x1B, 0x1D] then some [4]
  else if code = 0x1A then some [5]
  else if code = 0x1C then some [7]
  else if code ∈ [0x40, 0x41] then some [3, 4, 5, 7]
  else if code = 0x42 then some [4, 5, 7]
  else if code ∈ [0x48, 0x49, 0x4A] then some [3, 4, 5, 6, 7]
  else if code ∈ [0x50, 0x51, 0x52, 0x53, 0x54, 0x58, 0x59] then some [3, 4, 5, 6, 7]
  else if code ∈ [0x60, 0x61] then some [4, 5, 6]
  else if code = 0x70 then some [4, 5, 6, 7]
  else if code = 0x78 then some [4, 5, 6, 7, 8]
  else none

/-- Does a command need ADMIN privilege (R327). -/
def needsAdmin (code : Nat) : Bool :=
  !(code ∈ [1, 2, 3, 4, 5, 0x50, 0x51, 0x52, 0x53, 0x54, 0x58, 0x59, 0x60, 0x61])

/-- ALLOWED of the status block (R311). -/
def allowedMask (code : Nat) : Nat := ((legalStates code).getD []).foldl (fun a n => a + 2 ^ n) 0

/-! ### Frames -/

/-- `n` bytes of a mailbox frame. -/
def frameBytes (s : State) (m off n : Nat) : Bytes := cgetN 0#8 s.host.frames (4096 * m + off) n

/-- Write bytes of a mailbox frame. -/
def setFrame (s : State) (m off : Nat) (bs : Bytes) : State :=
  { s with host := { s.host with frames := csetN 0#8 s.host.frames (4096 * m + off) bs } }

/-- CHECK of a seal: the low 16 bits of the CRC-32C (R312). -/
def sealCheck (bs : Bytes) : Nat := crc32c bs % 65536

/-- What a command answers with (R311). -/
structure Reply where
  status   : Nat
  detail   : Nat := 0
  resp     : Bytes := []
  allowed  : Nat := 0
  progress : Nat := 0
  bufOff   : Nat := 0
  deriving DecidableEq, Repr

/-- The status block (R311). -/
def statusBlock (s : State) (seq : Nat) (replayed : Bool) (r : Reply) : Bytes :=
  layoutBytes 64 [(0, 4, seq), (4, 4, packBits [(0, 16, r.status), (16, 4, s.node.state), (20, 1, b2n replayed)]),
    (8, 4, r.resp.length), (12, 4, r.detail), (16, 8, s.run.frame), (24, 4, s.setup.epoch), (28, 4, r.allowed % 1024),
    (32, 8, r.progress), (40, 8, r.bufOff)]

/-- Is the mailbox in a valid slice, and the vector of its response (R320). -/
def responseVector (s : State) (m : Nat) : Nat := (boxSlice s m).getD 49

/-- Write response data, status block and response seal in this order and raise the vector (R313, R320). -/
def respond (s : State) (m seq status : Nat) (block resp : Bytes) : State :=
  let s := setFrame s m 0x100 resp
  let s := setFrame s m 0x40 block
  let s := setFrame s m 0xFF0 (layoutBytes 8 [(0, 4, seq), (4, 2, status), (6, 2, sealCheck (block ++ resp))])
  let s := { s with host := { s.host with mstate := cset 0 s.host.mstate m 2 } }
  raise s (boxPort m) (responseVector s m)

/-- Answer a command that was taken: the response stands, and is kept for a replay unless the seal was bad (R316). -/
def answer (s : State) (m code reqId seq : Nat) (r : Reply) : State :=
  let block := statusBlock s seq false r
  let s := respond s m seq r.status block r.resp
  if r.status = sBadSeal then s
  else { s with host := { s.host with
    last := s.host.last.filter (fun l => l.mailbox != m) ++ [⟨m, code, reqId, r.status, block, r.resp⟩] } }

/-- Burin runs its firmware. -/
def burinUp (s : State) : Bool := s.boot.firmware && !s.faults.inReset.contains 1

/-- The command in progress on a mailbox. -/
def inProg (s : State) (m : Nat) : Option InProg := s.host.inProg.find? fun p => p.mailbox == m

/-- Complete the command in progress on a mailbox. While Burin is in reset a command stays in progress (R317). -/
def finish (s : State) (m : Nat) (r : Reply) : State :=
  match inProg s m with
  | none => s
  | some p =>
    if !burinUp s then s
    else
      let s := { s with host := { s.host with inProg := s.host.inProg.filter fun q => q.mailbox != m } }
      answer s m p.code p.reqId p.seq r

/-- The command of a transit is answered; the custody record of its state goes (R298, R360). -/
def endTransit (s : State) (t : Transit) (r : Reply) : State :=
  finish { s with recs := { s.recs with custody := s.recs.custody.filter fun c => c.kind != 3 } } t.mailbox r

/-- Discard what a mailbox issued and has not been applied: next copies, a point, a policy, a promotion (R317, R333). -/
def discardNext (s : State) (m : Nat) : State :=
  { s with
    setup := { s.setup with
      next := s.setup.next.filter (fun n => n.mailbox != some m), later := s.setup.later.filter (fun n => n.mailbox != some m)
      newPoint := s.setup.newPoint.filter (fun x => x.2 != m), newPolicy := s.setup.newPolicy.filter (fun x => x.2.2 != m) }
    conj := { s.conj with promote := s.conj.promote.filter (· != m) } }

/-- The slice of the descriptor that a next copy brings or removes. -/
def nextSlice (s : State) (n : Next) : Option Nat :=
  match n.obj with
  | .desc k b u | .version k b u => descSlice s ⟨k, 0, b, u, 0⟩
  | .remove k id => (findDesc s k id).bind (descSlice s)
  | _ => none

/-- A next copy waits for the APPLY of the composition change that is pending (R290): a version switch does, until the change is reported complete. -/
def joinsChange (s : State) (n : Next) : Bool :=
  s.setup.change.isSome && !s.fab.armed && (match n.obj with | .version _ _ _ => true | _ => false)

/-- Write a next copy: it joins the set that waits, or, once that is marked complete, the set after it (R19). A slice whose descriptor it changes
counts among the changed slices of a pending change (R291). -/
def addNext (s : State) (n : Next) : State :=
  if s.setup.complete && !joinsChange s n then { s with setup := { s.setup with later := s.setup.later ++ [n] } }
  else
    let mask := match nextSlice s n with | some i => 2 ^ i | none => 0
    { s with setup := { s.setup with
        next := s.setup.next ++ [n], complete := false, change := s.setup.change.map fun c => { c with changed := c.changed ||| mask } } }

/-- Interrupt a command in progress (R317). -/
def abort (s : State) (p : InProg) : State :=
  let s := discardNext s p.mailbox
  let s := match s.setup.change with
    | some c => if c.mailbox = some p.mailbox then
        { s with setup := { s.setup with change := none, next := s.setup.next.filter fun n => !n.change } } else s
    | none => s
  let s := match s.setup.reshard with
    | some r => if r.mailbox = p.mailbox ∧ !r.moving then { s with setup := { s.setup with reshard := none } } else s
    | none => s
  finish s p.mailbox { status := sAborted, progress := p.moved }

/-- Interrupt every command that is not legal in the node state (R317). -/
def abortIllegal (s : State) : State :=
  s.host.inProg.foldl (fun s p =>
    if ((legalStates p.code).getD []).contains s.node.state then s else abort s p) s

/-- Enter a node state (R326). -/
def moveTo (s : State) (st : Nat) : State := if s.node.state = st then s else abortIllegal (enterState s st)

/-- Complete the transition in progress (R346). -/
def finishTrans (s : State) (r : Reply) : State :=
  match s.node.trans with
  | none => s
  | some (_, m) => finish { s with node := { s.node with trans := none, accepted := false } } m r

end Sys2Proof.Machine
end

