-- ==== Sys2Proof/Machine/Resets.lean ====
section
/-!
DEFINITION. Stopping the plate, entering FAULT, dumps (R393 to R396), domain resets (R382, R383, R458), the DOM_NODE reset
(R387), escalation (R388) and the power-down (R474): the operations that the fault, reset and power events share.
-/
namespace Sys2Proof.Machine

/-! ### Stopping -/

/-- Release the aperture backing and the number of a ring (R358). -/
def freeRing (s : State) (num : Nat) : State :=
  { s with host := { s.host with
      rings := s.host.rings.filter fun r => r.num != num
      written := s.host.written.filter (· != num) } }

/-- Are records of a ring still to be answered. -/
def ringPending (s : State) (num : Nat) : Bool :=
  s.recs.inflight.any (fun r => r.ring == num) || s.recs.deferred.any (fun r => r.ring == num) ||
  s.recs.withdrawn.any (fun r => r.ring == num)

/-- Closing rings with nothing left to answer free their backing, and RING_CLOSE completes (R358). -/
def closeRings (s : State) : State :=
  s.host.rings.foldl (fun s r =>
    if r.closing && !ringPending s r.num then
      let s := freeRing s r.num
      match s.host.inProg.find? fun p => p.code == 0x59 && p.arg == r.num with
      | none => s
      | some p => finish s p.mailbox { status := sOk }
    else s) s

/-! ### Points and flags of a node that runs no plate (R366, R377, R489) -/

/-- The power target raises an in-band interrupt at a change of POWER_STATE or of the flags (R508). -/
def powerIbi (old new : State) : State :=
  if new.power.vmgt && (old.power.state != new.power.state || old.power.seen != new.power.seen || old.power.live != new.power.live) then
    { new with power := { new.power with ibi := new.power.ibi ++ [2] } }
  else new

/-- The conditions common to every point hold (R364, R484, R485). -/
def commonEnvelope (s : State) : Bool := [0, 1, 2, 4, 5].all fun b => !bit s.power.live b

/-- FLAT_FLOOR, FLAT_CEILING and FLAT_NO_PLATE (R377, R489): `f` as a number of 3 bits; a condition that arises is recorded. -/
def flatFlags (s : State) (f : Nat) : State :=
  let was := bits s.power.live 7 3
  let s := if f ≠ 0 ∧ f ≠ was then logFault s { code := 0x107, event := false, arg0 := f } else s
  { s with power := { s.power with live := s.power.live - 128 * was + 128 * f } }

/-- What Burin reports to the power controller. -/
def reportPower (s : State) : State :=
  { s with power := { s.power with point := s.setup.running, flat := s.setup.flat, setPoint := s.setup.setPoint } }

/-- The running point with no plate running: the preferred one, or BALANCED where that is SPRINT and its envelope does not hold (R366). -/
def idlePoint (s : State) : Nat :=
  if s.setup.preferred = 2 ∧ !(commonEnvelope s && !s.power.sprintLeft) then 1 else s.setup.preferred

/-- No plate runs: the running point of R366, and the flag of a set point that cannot be held (R377). -/
def idlePower (s : State) : State :=
  if !burinUp s then s
  else
    let s' := { s with setup := { s.setup with running := idlePoint s } }
    powerIbi s (reportPower (flatFlags s' (if s.setup.flat then 4 else 0)))

/-- A shard map change that has not applied is withdrawn: at the root where it waits for its epoch, at a node where it is a next copy (R218). -/
def dropSubmit (s : State) (node table : Nat) (mine : Nat → Bool) : State :=
  let pending := s.setup.next.any fun n => match n.obj with | .transitOwner t sh _ => t == table && mine sh | _ => false
  let s := { s with setup := { s.setup with submits := s.setup.submits.filter fun x => !(x.1 == node && x.2.1 == table) } }
  if pending then { s with setup := { s.setup with change := none, next := s.setup.next.filter (!·.change), complete := false } } else s

/-- A transit of this node ends before its map change (R218): its copy and a change that waits go, the receivers free their partial copies, and every node
knows that it runs no more (R212). -/
def dropTransit (s : State) : State :=
  match s.bg.transit with
  | none => s
  | some t =>
    let table := BitVec.ofNat 16 t.table
    let dests := (t.owner :: (match partnerOf s t.owner with | some p => [p] | none => [])).filter (· != nodeId s)
    let s := if t.submitted then dropSubmit s (nodeId s) t.table (· == t.shard) else s
    { s with
      bg := { s.bg with transit := none, items := s.bg.items.filter fun i => i.work != .transitCopy t.table t.shard }
      fab := { s.fab with out := s.fab.out ++ (dests.map fun n => .remote n (.transitCancel table (BitVec.ofNat 16 t.shard))) ++
        (otherNodes s).map fun n => .remote n (.transitRuns (Fin.ofNat 512 (nodeId s)) table false) } }

/-- A transit of this node is cancelled, and its mailbox learns it (R218). -/
def cancelTransit (s : State) : State :=
  match s.bg.transit with
  | none => s
  | some t =>
    let s := postTargeted (dropTransit s) t.mailbox 5 0 (packBits [(0, 16, t.table), (16, 16, t.shard)])
    endTransit s t { status := sAborted }

/-- Every lane halts: no record in flight is answered any more, no request of one is in custody, and a transit is cancelled (R385, R417, R148, R218). -/
def haltPlate (s : State) : State :=
  let s := raiseEvents (cancelTransit s)
  let s := { s with
    run := { s.run with running := false, waiting := false, stopAt := none, step := 0, busy := [], delayed := [] }
    recs := { s.recs with inflight := [], deferred := [], withdrawn := [], admitted := [], paused := [], findings := [], training := [], custody := [], marks := [],
                            shares := [], reports := [],
                            tables := { s.recs.tables with parts := [], grads := [], own := [], copies := [], reads := [] } }
    fab := { s.fab with sent := [], unacked := [], recv := [], armed := false, armSent := false, combined := none, children := [], beat := none, issued := false, memberArms := 0 }
    flash := { s.flash with reads := [] } }
  let s := { s with host := { s.host with rings := s.host.rings.map fun r => { r with records := [], sampled := r.consumer } } }
  idlePower (closeRings s)

/-- The nodes at the far end of the working DOMAIN links. -/
def neighbours (s : State) : List Nat :=
  (s.fab.links.filterMap fun kv =>
    match kv.2.peer with
    | some t => if kv.2.state = 3 ∧ portRole s (kv.1 / 4) = 0 then some t.node.val else none
    | none => none).eraseDups

/-- The exit of a node from LIVE (R410). -/
def noteExit (h : Health) (f : Nat) : Health := { h with exit1 := f, exit2 := h.exit1, exit3 := h.exit2 }

/-- The node itself leaves LIVE by loss or eclipse: it keeps the frame for its own test score (R410, R426). -/
def leaveLive (s : State) : State :=
  if s.orr.byExit || statusOf s (nodeId s) != 1 then s
  else { s with orr := { s.orr with byExit := true, health := cmod {} s.orr.health (nodeId s) fun h => noteExit h s.run.frame } }

/-- Enter FAULT: the notice to every neighbour, and what the automatic node reset needs later (R385, R387, R415). -/
def enterFault (s : State) : State :=
  if s.node.state = stFault then s
  else
    let s := { s with
      faults := { s.faults with autoStart := decide (4 ≤ s.node.state), toServing := s.node.state == stServing,
                                graceFrom := none }
      node := { s.node with trans := none, accepted := false, faultAt := false } }
    let s := (neighbours s).foldl (fun s n => orrSend s 6 n (nodeId s) 0 0) (leaveLive s)
    moveTo (haltPlate s) stFault

/-! ### Dumps -/

/-- The trigger of a dump (R394, R395): it bears the CODE and domain of its incident's root record, its own outside incidents.
Skipped while one is held or being written. -/
def takeDump (s : State) (full : Bool) (code dom : Nat) : State :=
  if s.dump.valid || s.dump.writing.isSome then { s with dump := { s.dump with skipped := satAdd 32 s.dump.skipped 1 } }
  else
    let root := s.dump.root.getD (code, dom)
    { s with
      drawn := s.drawn + 1
      dump := { s.dump with
        writing := some (full, dom), frame := s.run.frame, inc := s.dump.incident.getD 0, code := root.1, dom := root.2
        ofDom := dom
        seed := s.drawn
        store := if full then s.mem.sram.filter (fun kv => bit kv.1 61) else [] } }

/-! ### Domain resets -/

/-- A domain reset discards the increments its sentinels hold (R458). -/
def loseIncrements (s : State) (dom : Nat) : State :=
  { s with cnt := { s.cnt with
      inc := cdrop (fun k => k / 2 ^ 40 == dom) s.cnt.inc
      bank := cmod 0 s.cnt.bank (ckey 1 0 7) (satAdd 64 · 1) } }

/-- The registers of the clusters `a` to `b − 1` return to their reset values. -/
def clearClusters (s : State) (a b : Nat) : State :=
  let cl := fun (per k : Nat) => decide (a * per ≤ k) && decide (k < b * per)
  { s with units := { s.units with
      weight := cdrop (cl (4 * 2 * 1024)) s.units.weight, wfmt := cdrop (cl 8) s.units.wfmt, wbad := cdrop (cl 8) s.units.wbad
      acc := cdrop (cl (4 * 4 * 64)) s.units.acc, wsum := cdrop (cl (4 * 4 * 64)) s.units.wsum
      asum := cdrop (cl 16) s.units.asum, aflag := cdrop (cl 16) s.units.aflag
      mflag := cdrop (cl (4 * 4 * 64)) s.units.mflag
      vreg := cdrop (cl 4096) s.units.vreg, vinv := cdrop (cl 4096) s.units.vinv, xs := cdrop (cl 1) s.units.xs, xo := cdrop (cl 1) s.units.xo
      xa := cdrop (cl 1) s.units.xa, xk := cdrop (cl 1) s.units.xk, select := cdrop (cl 1) s.units.select } }

/-- What a reset does inside its own domain (R382, R383, R20, R306). -/
def resetEffects (s : State) (dom : Nat) : State :=
  let s := loseSram s (fun d => d == dom && dom != 0)
  if dom = 1 then
    let s := dropTransit s
    { s with
      boot := { s.boot with firmware := false }
      setup := { s.setup with next := [], complete := false, later := [], change := none, composed := none
                              reshard := s.setup.reshard.filter fun r => r.moving, newPoint := [], newPolicy := [] }
      recs := { s.recs with custody := s.recs.custody.filter fun c => c.kind != 3 }
      host := { s.host with last := [] }
      power := { s.power with addrNode := none }
      node := { s.node with trans := none, accepted := false }
      faults := { s.faults with test := none } }
  else if dom = 2 ∨ dom = 3 then
    let p := dom - 2
    { s with host := { s.host with
      memEn := cset false s.host.memEn p false, busMaster := cset false s.host.busMaster p false
      msixEn := cset false s.host.msixEn p false, linkUp := cset false s.host.linkUp p false
      msix := cdrop (fun k => k / 2048 == p) s.host.msix, pending := cdrop (fun k => k / 64 == p) s.host.pending } }
  else if dom = 4 then { s with fab := { s.fab with links := [], trained := false, transit := [], orrery := [] } }
  else if 5 ≤ dom ∧ dom ≤ 8 then
    let q := dom - 5
    { clearClusters s (8 * q) (8 * q + 8) with }
  else if 9 ≤ dom ∧ dom ≤ 14 then
    let st := dom - 9
    { s with units := { s.units with
      nbu := cdrop (fun k => k / 384 == st) s.units.nbu
      refresh := cdrop (fun k => k / 16 == st) s.units.refresh
      hot := cdrop (fun k => k == st) s.units.hot
      slotHot := cdrop (fun k => k / 16 == st) s.units.slotHot } }
  else if dom = 16 then
    -- programs and erases handed over and not done are queued again (R383)
    let again := fun (kind c : Nat) => ((cget [] s.flash.cmdQ c).filter fun q => q.1 == kind).map Prod.snd
    { s with flash := { s.flash with
      cmdQ := [], lost := [], trained := false, credits := []
      progQ := (List.range 24).foldl (fun m c => cset [] m c (again 1 c ++ cget [] m c)) s.flash.progQ
      eraseQ := (List.range 24).foldl (fun m c => cset [] m c (again 2 c ++ cget [] m c)) s.flash.eraseQ
      reads := s.flash.reads.map fun r => if r.stage = 1 then { r with stage := 4 } else r } }
  else s

/-- Put a domain other than DOM_NODE into reset. A domain already in reset stays so (R344). -/
def startReset (s : State) (dom : Nat) : State :=
  if s.faults.inReset.contains dom then s
  else
    let s := loseIncrements (resetEffects s dom) dom
    { s with faults := { s.faults with inReset := s.faults.inReset ++ [dom] } }

/-- DOM_NODE and the domains whose loss loses the frame (R383). -/
def frameDomain (dom : Nat) : Bool := !(dom == 1 || dom == 2 || dom == 3 || dom == 16)

/-- Lose the frame (R385): halt, FAULT, notice, full dump. -/
def loseFrame (s : State) (dom : Nat) : State :=
  let s := logFault s { code := 5, event := true, dom := dom, root := false, dumped := !s.dump.valid && s.dump.writing.isNone }
  let s := enterFault s
  takeDump s true 5 dom

/-! ### Escalation (R388) -/

/-- Take the node out of service. A plate still running stops at the end of its frame. -/
def escalate (s : State) : State :=
  let s := { s with dump := { s.dump with escalated := true } }
  let s := logFault s { code := 7, event := false }
  let s := takeDump (leaveLive s) true 7 0
  let s := match s.orr.view with
    | none => s
    | some v => orrSend s 1 v.coord (nodeId s) 7 0
  if s.run.running then { s with run := { s.run with stopAt := some stEclipsed } } else moveTo s stEclipsed

/-- Count one domain reset of an incident (R388, R389). -/
def countDomainReset (s : State) : State :=
  let now := s.power.ms
  let third := match s.dump.dr2 with | some t => decide (now - t ≤ 600000) | none => false
  let s := { s with dump := { s.dump with dr1 := some now, dr2 := s.dump.dr1 } }
  if third && !s.dump.escalated then escalate s else s

/-! ### The DOM_NODE reset (R343, R387) -/

/-- The DOM_NODE reset: what R18 and R387 to R389 keep stays, all else is as at the start, and the node is in BOOT (log entry
20). `auto`: the node acts as on START afterwards. -/
def nodeReset (s : State) (auto : Bool) : State :=
  let s := enterState s stBoot
  let lost := loseSram s (fun _ => true)
  { State.reset with
    run := { plate := s.run.plate, image := s.run.image, strokes := s.run.strokes, half := s.run.half }
    mem := { lost.mem with freeing := [], grads := [] }
    dump := { s.dump with writing := none, incident := none, declared := [], root := none, lostFrame := false }
    power := { s.power with addrNode := none }
    nor := s.nor
    boot := { seed := s.boot.seed }
    faults := { autoStart := auto && s.faults.autoStart, toServing := auto && s.faults.toServing, holdStart := auto && s.faults.holdStart }
    setup := { s.setup with next := [], complete := false, later := [], staged := [], composed := none, change := none, submits := [], reshard := none,
                            newPoint := [], newPolicy := [] }
    host := { rings := s.host.rings.map fun r => { r with records := [], sampled := r.consumer }
              bar2 := s.host.bar2 }
    recs := { journal := s.recs.journal, lost := s.recs.lost, redrive := !s.recs.journal.isEmpty }
    flash := { slotMap := s.flash.slotMap, nand := s.flash.nand, staged := s.flash.staged, openS := s.flash.openS,
               nextStripe := s.flash.nextStripe, parity := s.flash.parity, pages := s.flash.pages, stripeOf := s.flash.stripeOf, programs := s.flash.programs, progQ := s.flash.progQ, eraseQ := s.flash.eraseQ }
    orr := { health := s.orr.health, failedTests := if auto then s.orr.failedTests else 0,
             probation := auto && s.orr.probation, noRetest := auto && s.orr.noRetest, delta := s.orr.delta
             byExit := s.orr.byExit }
    node := { s.node with trans := none, accepted := false, faultAt := false }
    drawn := lost.drawn
    pending := s.pending }

/-! ### Power -/

/-- Every node state and memory is lost; the power controller, the NOR, the NAND dies and the hosts remain (R469, R474). -/
def losePower (s : State) (p : Power) : State :=
  { State.reset with
    power := p
    nor := s.nor
    mem := { host := s.mem.host, sramGen := (loseSram s (fun _ => true)).mem.sramGen }
    flash := { nand := s.flash.nand, parity := s.flash.parity }
    drawn := s.drawn + 1
    pending := s.pending }

/-- Append an event to the power controller's log of 16 (R491). -/
def powerLog (p : Power) (code arg0 : Nat) : Power :=
  let l := p.log ++ [(code, arg0, p.ms)]
  { p with log := l.drop (l.length - 16), unlogged := min 16 (p.unlogged + 1) }

/-- Sensor readings with the rails down (R488). -/
def coldTele (t : Telemetry) : Telemetry :=
  { t with tj := [], boardMax := 0, opticsMax := 0, vcore := 0, railV := t.railV.take 1, railI := t.railI.take 1 }

/-- The power-down of R474: POWER_STATE is FALLING until its end, then `to`. -/
def powerDown (s : State) (tgt : Nat) : State :=
  losePower s { s.power with state := 3, fallTo := tgt, mainPath := false, vcoreSet := 0, live := s.power.live / 1024 * 1024 % 65536,
                             tele := coldTele s.power.tele, regain := [], addrNode := none,
                             flat := false, setPoint := 0, point := 1 }

end Sys2Proof.Machine
end

