-- ==== Sys2Proof/Machine/Power.lean ====
section
/-!
DEFINITION. The power controller: the input and the rails (R469 to R479), the thermal trip (R486), CONTROL (R490), ALERT_N
(R492), and the telemetry block it presents (R489).
-/
namespace Sys2Proof.Machine

/-! ### POWER_STATE (R489) -/

def psHousekeeping : Nat := 0
def psRising : Nat := 1
def psOn : Nat := 2
def psFalling : Nat := 3
def psLatched : Nat := 4
def psHeld : Nat := 5
def psReverse : Nat := 6

/-- The rails are up or coming up. -/
def railed (s : State) : Bool := s.power.state == psRising || s.power.state == psOn

/-- A millisecond passes in the power controller (R389; log entry 4). -/
def millisecond (s : State) : State :=
  if s.power.vmgt then { s with power := { s.power with ms := s.power.ms + 1 } } else s

/-- The largest of some readings; 0 of none. -/
def hottest (l : List Int) : Int := l.foldl max 0

/-- Tj as the power controller sees it (R483). -/
def tjMax (s : State) : Int := hottest s.power.tele.tj

/-- ALERT_N is asserted (R492, R418, R419). -/
def alertN (s : State) : Bool :=
  s.power.vmgt && (s.power.state == psLatched || s.power.state == psReverse || s.power.seen != 0 ||
    bit s.power.live 6 || bit s.power.live 4 || (match s.orr.view with | some v => v.hold || v.degraded | none => false))

/-- The telemetry block as the power target presents it (R489). -/
def powerBlock (s : State) : Bytes :=
  let p := s.power
  let t := p.tele
  let i16 := fun (i : Int) => codeOf 16 i
  let nodeState := if burinUp s then s.node.state else 0
  layoutBytes 0x64 ([(0x00, 4, packBits [(0, 3, p.state), (3, 2, p.latch), (5, 4, p.failedRail), (9, 4, nodeState),
      (13, 2, p.point), (15, 1, b2n p.flat), (16, 16, p.setPoint)]),
    (0x04, 4, p.seen), (0x08, 4, p.live), (0x0C, 2, t.vin), (0x0E, 2, t.iin), (0x10, 2, t.pin1ms), (0x12, 2, t.pin100ms),
    (0x14, 2, i16 t.inlet), (0x16, 2, i16 t.outlet), (0x18, 2, t.flow), (0x1A, 2, i16 (tjMax s)),
    (0x1C, 2, i16 (hottest ((t.tj.drop 4).take 6))), (0x1E, 2, i16 t.boardMax), (0x20, 2, i16 t.opticsMax), (0x22, 2, i16 t.vrMax),
    (0x24, 2, t.vcore), (0x26, 2, p.vcoreSet), (0x28, 2, p.retries), (0x2A, 2, p.inputEvents), (0x30, 8, p.ms)] ++
    (List.range 9).flatMap fun r => [(0x40 + 4 * r, 2, t.railV.getD r 0), (0x42 + 4 * r, 2, t.railI.getD r 0)])

/-! ### Causes of a power-down -/

/-- Set a SEEN flag and write the event. -/
def seeEvent (s : State) (flag code arg0 : Nat) : State :=
  { s with power := { powerLog s.power code arg0 with seen := s.power.seen ||| 2 ^ flag } }

/-- A latching cause (R473, R479, R486): LATCH_CAUSE keeps the first cause, and FALLING ends in LATCHED. -/
def latchDown (s : State) (cause rail : Nat) : State :=
  let first := s.power.latch = 0
  let s := { s with power := { s.power with latch := if first then cause else s.power.latch,
                                            failedRail := if rail < 15 then rail else s.power.failedRail } }
  if s.power.state = psFalling then { s with power := { s.power with fallTo := psLatched } } else powerDown s psLatched

/-- A disconnect of R472: the flag, the count, the event; the main path opens and the rails come down. -/
def disconnect (s : State) (flag code : Nat) : State :=
  let s := seeEvent s flag code 0
  let s := { s with power := { s.power with inputEvents := satAdd 16 s.power.inputEvents 1 } }
  if railed s then powerDown s psHousekeeping
  else { s with power := { s.power with mainPath := false } }

/-- Can a disconnect or a trip happen: the main path is closed, or the power-down of another cause runs (R491). -/
def pathLive (s : State) : Bool := s.power.vmgt && (s.power.mainPath || s.power.state == psFalling)

/-! ### The commands -/

/-- R470: housekeeping starts, VMGT comes up, the soft start closes the main path. -/
def execInputContact (s : State) : Host.Outcome State Fault Refusal :=
  if s.power.vmgt then .next s
  else .next (powerIbi s { s with power := { vmgt := true, mainPath := true, tele := coldTele s.power.tele } })

/-- R470: 44 V is valid, and the rails begin to rise. -/
def execInputValid (s : State) : Host.Outcome State Fault Refusal :=
  if s.power.vmgt && s.power.state == psHousekeeping && s.power.mainPath then
    .next (powerIbi s { s with power := { s.power with state := psRising, railStep := 0 } })
  else .next s

/-- R477: the next group of rails is up; after step 5 POWER_STATE is ON and Burin leaves reset. -/
def execRailSequenceStep (sense : BitVec 6) (s : State) : Host.Outcome State Fault Refusal :=
  if s.power.vmgt && s.power.state == psRising then
    let k := s.power.railStep + 1
    let p := { s.power with railStep := k }
    let p := if k = 2 then { p with vcoreSet := 550 } else p
    let p := if k = 4 then { p with sense := sense.toNat, live := p.live % 1024 + 1024 * (63 - sense.toNat) } else p
    if k < 7 then .next (powerIbi s { s with power := p })
    else .next (powerIbi s (enterState { s with power := { p with railStep := 6, state := psOn } } stBoot))
  else .next s

/-- R472: under-voltage. -/
def execInputUv (s : State) : Host.Outcome State Fault Refusal :=
  if pathLive s then .next (powerIbi s (disconnect s 2 0x111)) else .next s

/-- R472: over-voltage. -/
def execInputOv (s : State) : Host.Outcome State Fault Refusal :=
  if pathLive s then .next (powerIbi s (disconnect s 1 0x110)) else .next s

/-- R472: the input has been back in range for 1 s; the power-up runs again. -/
def execInputReturn (s : State) : Host.Outcome State Fault Refusal :=
  if s.power.vmgt && s.power.state == psHousekeeping && !s.power.mainPath then
    .next { s with power := { s.power with mainPath := true } }
  else .next s

/-- R473: the breaker trips and latches. -/
def execBreaker (s : State) : Host.Outcome State Fault Refusal :=
  if pathLive s then .next (powerIbi s (latchDown (seeEvent s 3 0x113 0) 1 15)) else .next s

/-- R471: a reversed input powers the power controller alone. -/
def execReverse (s : State) : Host.Outcome State Fault Refusal :=
  if s.power.vmgt then .next s
  else .next (powerIbi s (seeEvent { s with power := { vmgt := true, state := psReverse, tele := coldTele s.power.tele } } 0 0x112 0))

/-- R479: a rail out of window. -/
def execRailFault (rail : Fin 9) (s : State) : Host.Outcome State Fault Refusal :=
  if s.power.vmgt && (railed s || s.power.state == psFalling) then
    .next (powerIbi s (latchDown (seeEvent s 4 0x114 rail.val) 2 rail.val))
  else .next s

/-- R486: the power controller powers down without Burin. -/
def execThermtrip (s : State) : Host.Outcome State Fault Refusal :=
  if s.power.vmgt && (railed s || s.power.state == psFalling) then .next (powerIbi s (latchDown (seeEvent s 5 0x115 0) 3 15))
  else .next s

/-- R474: the power-down has ended. -/
def execPowerDownComplete (s : State) : Host.Outcome State Fault Refusal :=
  if s.power.vmgt && s.power.state == psFalling then
    .next (powerIbi s { s with power := { s.power with state := s.power.fallTo, railStep := 0 } })
  else .next s

/-- R490: OFF is accepted in ON. -/
def execControlOff (s : State) : Host.Outcome State Fault Refusal :=
  if s.power.vmgt && s.power.state == psOn then
    .next (powerIbi s (powerDown { s with power := powerLog s.power 0x116 0 } psHeld))
  else .next s

/-- R490: ON is accepted in HELD and runs the power-up from step 1. -/
def execControlOn (s : State) : Host.Outcome State Fault Refusal :=
  if s.power.vmgt && s.power.state == psHeld then
    .next (powerIbi s { s with power := { s.power with state := psRising, railStep := 0, mainPath := true } })
  else .next s

/-- The inlet and the flow lie within R482 for the module's grade. -/
def coolantOk (s : State) : Bool :=
  let t := s.power.tele
  decide (200 ≤ t.inlet) && decide (t.inlet ≤ (if fld s.nor.cert 0x10 0 1 = 1 then 450 else 600)) && decide (1200 ≤ t.flow) &&
    decide (t.flow ≤ 2500)

/-- R490, R473, R486: RETRY in LATCHED runs a full power-up; after a thermal trip only within R482. Every RETRY counts. -/
def execControlRetry (s : State) : Host.Outcome State Fault Refusal :=
  if !s.power.vmgt then .next s
  else
    let p := { s.power with retries := satAdd 16 s.power.retries 1 }
    if p.state = psLatched ∧ (p.latch ≠ 3 ∨ coolantOk s) then
      .next (powerIbi s { s with power := { p with state := psRising, railStep := 0, mainPath := true, latch := 0, failedRail := 15 } })
    else .next { s with power := p }

/-- R491: the power controller stops; everything but the NOR is lost. -/
def execInputLoss (s : State) : Host.Outcome State Fault Refusal :=
  if s.power.vmgt then .next (losePower s {}) else .next s

/-- R489: write one to clear. -/
def execSeenFlagClear (mask : W32) (s : State) : Host.Outcome State Fault Refusal :=
  if s.power.vmgt then
    .next (powerIbi s { s with power := { s.power with seen := s.power.seen &&& (63 - mask.toNat % 64) } })
  else .next s

/-! ### The junction limit (R485) -/

/-- R485: above 105 °C the node stops at the end of its frame and enters FAULT; TJ_HIGH is set. -/
def execTjLimit (tj : Int) (s : State) : Host.Outcome State Fault Refusal :=
  if s.power.state = psOn ∧ tj > 1050 then
    let s0 := s
    let s := if bit s.power.live 4 then s else logFault s { code := 0x105, event := true }
    let s := { s with power := { s.power with live := s.power.live ||| 16 }
                      faults := { s.faults with holdStart := true, heldFrom := none } }
    .next (powerIbi s0 (if s.run.running then { s with run := { s.run with stopAt := some stFault } }
      else if s.node.state ≥ stRestored ∧ s.node.state ≠ stEclipsed then enterFault s else s))
  else .next s

/-- R485: Tj has stayed at or below 100 °C for 1 s. -/
def execTjHighClear (s : State) : Host.Outcome State Fault Refusal :=
  if s.power.vmgt && bit s.power.live 4 then
    .next (powerIbi s { s with power := { s.power with live := s.power.live - 16 }
                               faults := { s.faults with heldFrom := some s.power.ms } })
  else .next s

end Sys2Proof.Machine
end

