-- ==== Sys2Proof/Machine/Sideband.lean ====
section
/-!
DEFINITION. The crash dump region as the carrier reads it (R394, R509), and the events of the management sideband (R508).
-/
namespace Sys2Proof.Machine

/-! ### The dump region (R394) -/

/-- The units of the 17 domains by their unit codes (R15, R390). -/
def domainUnits (dom : Nat) : List Nat :=
  if dom = 0 then [0x800, 0x801]
  else if dom = 2 then [0x500, 0x502]
  else if dom = 3 then [0x501, 0x503]
  else if dom = 4 then (List.range 8).map (0x400 + ·) ++ [0x810, 0x811, 0x812]
  else if 5 ≤ dom ∧ dom ≤ 8 then
    [0x100 + (dom - 5)] ++ (List.range 9).flatMap fun p => (List.range 7).map fun u => 0x1000 + 8 * (9 * (dom - 5) + p) + u
  else if 9 ≤ dom ∧ dom ≤ 14 then
    (List.range 16).map (0x200 + 16 * (dom - 9) + ·) ++ (List.range 12).map (0x700 + 12 * (dom - 9) + ·) ++ [0x780 + (dom - 9)]
  else if dom = 15 then [0x600]
  else if dom = 16 then (List.range 24).map (0x300 + ·) ++ [0x820]
  else []

/-- One region of a dump: KIND, DOMAIN, UNIT, bytes. -/
structure Region where
  kind : Nat
  dom  : Nat
  unit : Nat
  len  : Nat
  deriving DecidableEq, Repr

/-- Warden, sentinel and unit state of some domains. -/
def stateRegions (doms : List Nat) : List Region :=
  doms.map (fun d => ⟨1, d, 0xFFFF, 4096⟩) ++
  doms.flatMap (fun d => (domainUnits d).map fun u => ⟨2, d, u, 256⟩) ++
  doms.flatMap (fun d => (domainUnits d).map fun u => ⟨3, d, u, 4096⟩)

/-- The regions of a dump in the order of the region table (R394, R395; the order is the model's, log entry 21). -/
def dumpRegions (part : Bool) (dom : Nat) : List Region :=
  if part then stateRegions [dom] ++ (if dom = 1 then [⟨6, 1, 0xFFFF, 8388608⟩] else [])
  else
    stateRegions (List.range 17) ++
    (List.range 36).map (fun c => ⟨4, 5 + c / 9, 0x1000 + 8 * c, 524288⟩) ++ [⟨5, 0, 0xFFFF, 16777216⟩, ⟨6, 1, 0xFFFF, 8388608⟩]

/-- The region and offset that a byte of the dump data lies in: number, region, offset of its data. -/
def regionAt : List Region → Nat → Nat → Nat → Option (Nat × Region × Nat)
  | [], _, _, _ => none
  | r :: rs, i, base, off =>
    let n := r.len + r.len / 32
    if off < base + n then some (i, r, base) else regionAt rs (i + 1) (base + n) off

/-- The offset of each region's data. -/
def regionBase : List Region → Nat → Nat → Nat
  | [], base, _ => base
  | r :: rs, base, i => match i with
    | 0 => base
    | i + 1 => regionBase rs (base + r.len + r.len / 32) i

/-- The control block (R394). -/
def controlBlock (s : State) : Bytes :=
  let d := s.dump
  layoutBytes 0x4C [(0, 4, 0x44554D50), (4, 4, d.log.length), (8, 4, d.notLogged), (12, 4, d.nextInc),
    (16, 4, b2n d.valid + 2 * b2n d.part), (20, 2, if d.valid then (dumpRegions d.part d.ofDom).length else 0), (24, 4, d.skipped),
    (28, 4, d.us), (32, 8, d.frame), (40, 4, d.inc), (44, 4, packBits [(0, 16, d.code), (16, 5, d.dom)]), (48, 8, d.dr1.getD 0),
    (56, 8, d.dr2.getD 0), (64, 8, d.nr1.getD 0), (72, 4, b2n d.escalated)]

/-- One entry of the region table (R394). -/
def regionEntry (s : State) (rs : List Region) (i : Nat) : Bytes :=
  match rs[i]? with
  | none => List.replicate 32 0
  | some r =>
    let base := regionBase rs 0x50000 i
    let un := s.dump.unread.contains i
    layoutBytes 32 [(0, 4, packBits [(0, 8, r.kind), (8, 5, r.dom), (16, 16, r.unit)]), (4, 4, r.len), (8, 4, base), (12, 4, base + r.len),
      (16, 4, if un then r.len / 4 else 0), (20, 4, b2n un)]

/-- One byte of dump data: the node store as it stood; what the manual does not describe is free (R394, log entry 7). -/
def dumpDataByte (s : State) (i : Nat) (r : Region) (off : Nat) : Byte :=
  let un := s.dump.unread.contains i
  if off < r.len then
    if un then (leBytes 4 0xBAD0BAD0).getD (off % 4) 0
    else if r.kind = 5 then
      match cget none s.dump.store (nsAddr off) with
      | some b => b
      | none => BitVec.ofNat 8 (Config.sram s.dump.seed (nsAddr off))
    else BitVec.ofNat 8 (Config.sram s.dump.seed (i * 2 ^ 32 + off))
  else if un then 0 else 0xFF

/-- One byte of the dump region. -/
def dumpByte (s : State) (off : Nat) : Byte :=
  if off < 0x1000 then (controlBlock s).getD off 0
  else if off < 0x41000 then (s.dump.log.getD ((off - 0x1000) / 64) []).getD (off % 64) 0
  else if !s.dump.valid then 0
  else
    let rs := dumpRegions s.dump.part s.dump.ofDom
    if off < 0x50000 then (regionEntry s rs ((off - 0x41000) / 32)).getD (off % 32) 0
    else match regionAt rs 0 0x50000 off with
      | none => 0
      | some (i, r, base) => dumpDataByte s i r (off - base)

/-! ### The node target (R509) and dynamic addresses (R508) -/

/-- The node target answers while firmware runs. -/
def nodeTargetUp (s : State) : Bool := s.power.state == psOn && burinUp s

/-- R509: the key clears DUMP_VALID and PARTIAL; a dump being written is not affected. -/
def execDumpClear (value : W32) (s : State) : Host.Outcome State Fault Refusal :=
  if nodeTargetUp s && value == 0x44554D50#32 then .next { s with dump := { s.dump with valid := false, part := false } } else .next s

/-- R509: WINDOW is a multiple of 4 up to 0x0400_0000; a larger value is ignored. -/
def execDumpWindowSet (value : W32) (s : State) : Host.Outcome State Fault Refusal :=
  let v := value.toNat % 2 ^ 27
  if nodeTargetUp s && decide (v ≤ 0x4000000) then .next { s with dump := { s.dump with window := v / 4 * 4 } } else .next s

/-- R509: DATA returns the 4 bytes at WINDOW and advances it; at the end it returns 0 and stays. -/
def execDumpDataRead (s : State) : Host.Outcome State Fault Refusal :=
  if !nodeTargetUp s then .next s
  else if s.dump.window ≥ 0x4000000 then .next { s with dump := { s.dump with data := 0 } }
  else .next { s with dump := { s.dump with data := leNat ((List.range 4).map fun i => dumpByte s (s.dump.window + i))
                                            window := s.dump.window + 4 } }

/-- A target takes a dynamic address, where it answers: the power target while VMGT is up, the node target while firmware
runs. -/
def setDynamic (s : State) (target : Bool) (address : Nat) : State :=
  if target then (if nodeTargetUp s then { s with power := { s.power with addrNode := some address } } else s)
  else if s.power.vmgt then { s with power := { s.power with addrPower := some address } }
  else s

/-- R508: ENTDAA; `target` is set for the node target. -/
def execEntdaa (target : Bool) (address : BitVec 7) (s : State) : Host.Outcome State Fault Refusal :=
  .next (setDynamic s target address.toNat)

/-- R508: SETDASA, addressed to 0x3A or 0x3B. -/
def execSetdasa (target : Bool) (address : BitVec 7) (s : State) : Host.Outcome State Fault Refusal :=
  .next (setDynamic s target address.toNat)

end Sys2Proof.Machine
end

