-- ==== Sys2Proof/Machine/Faults.lean ====
section
/-!
DEFINITION. Hangs (R379 to R385), the watchdog (R384), dumps that end (R395, R396), domain resets that end, the automatic
node reset (R387), and the return of Burin (R315, R317).
-/
namespace Sys2Proof.Machine

/-! ### Declarations (R380, R381) -/

/-- The reset domain of a unit by its unit code (R390, R15). -/
def unitDomain (u : Nat) : Nat :=
  if 0x100 ≤ u ∧ u < 0x104 then 5 + u % 4
  else if 0x200 ≤ u ∧ u < 0x260 then 9 + (u - 0x200) / 16
  else if 0x300 ≤ u ∧ u < 0x318 then 16
  else if 0x400 ≤ u ∧ u < 0x408 then 4
  else if u = 0x500 ∨ u = 0x502 then 2
  else if u = 0x501 ∨ u = 0x503 then 3
  else if u = 0x600 then 15
  else if 0x700 ≤ u ∧ u < 0x748 then 9 + (u - 0x700) / 12
  else if 0x780 ≤ u ∧ u < 0x786 then 9 + (u - 0x780)
  else if u = 0x810 ∨ u = 0x811 ∨ u = 0x812 then 4
  else if u = 0x820 then 16
  else if u = 0x900 then 1
  else if 0x1000 ≤ u ∧ u < 0x1120 then 5 + (u - 0x1000) / 72
  else 0

/-- The LANE_ID of a unit that has a lane. -/
def unitLane (s : State) (u : Nat) : Option Nat :=
  if 0x1000 ≤ u ∧ u < 0x1120 then
    let q := (u - 0x1000) / 72
    let p := (u - 0x1000) % 72 / 8
    ((List.range 8).find? fun l => bits (cget 0x76543210 s.setup.clmap q) (4 * l) 4 == p).map fun l => 64 * q + 8 * l + u % 8
  else if laneValid u then some u else none

/-- Begin an incident where none is running, with this declaration as its root (R381). -/
def openIncident (s : State) (code dom : Nat) : State × Bool :=
  match s.dump.incident with
  | some _ => (s, false)
  | none =>
    ({ s with dump := { s.dump with
        incident := some s.dump.nextInc, nextInc := s.dump.nextInc + 1, declared := [], root := some (code, dom)
        lostFrame := s.run.running && frameDomain dom } }, true)

/-- The incident ends with the last reset of its domains, where its root lost the frame not before the node leaves FAULT by the
automatic node reset (R381, R385). -/
def endIncident (s : State) : State :=
  if s.dump.declared.all (fun e => !s.faults.inReset.contains e && !s.faults.toReset.contains e)
      && !(s.dump.lostFrame && s.node.state == stFault) then
    { s with dump := { s.dump with incident := none, declared := [], root := none, lostFrame := false } }
  else s

/-- Reset a domain, the node reset where it is DOM_NODE (R381, R388: a DOM_NODE hang counts as a node reset). -/
def wardenReset (s : State) (dom : Nat) : State :=
  if dom = 0 then
    let now := s.power.ms
    if (match s.dump.nr1 with | some t => decide (now - t ≤ 3600000) | none => false) then
      (if s.dump.escalated then s else escalate s)
    else nodeReset { s with dump := { s.dump with nr1 := some now } } true
  else startReset s dom

/-- A declaration: the fault record with the root of its incident, the dump, and the reset by the domain's warden once
the dump is written (R381, R383, R385, R388, R395). DUMP stands in the record whose dump is taken: FRAME_LOST's on frame loss. -/
def declare (s : State) (code dom unit peer : Nat) : State :=
  let (s, root) := openIncident s code dom
  let loses := s.run.running && frameDomain dom
  let dumped := !loses && !s.dump.valid && s.dump.writing.isNone
  let s := logFault s { code := code, event := true, dom := dom, unit := unit, peer := peer, root := root, dumped := dumped }
  let s := match unitLane s unit with
    | some l => count s dom 8 l 6 1
    | none => s
  let s := { s with dump := { s.dump with declared := (s.dump.declared.filter (· != dom)) ++ [dom] } }
  let s := if loses then loseFrame s dom
    else if s.node.state = stFault ∧ s.dump.writing.isSome then s
    else takeDump s false code dom
  let s := if root && dom != 0 then countDomainReset s else s
  if s.dump.writing.isSome then { s with faults := { s.faults with toReset := s.faults.toReset.filter (· != dom) ++ [dom] } }
  else wardenReset s dom

/-- The sentinels' timers run: the node is powered, does not wait for a beat, and the unit's domain is not in reset (R380). -/
def timersRun (s : State) (dom : Nat) : Bool :=
  s.node.state != stOff && !s.run.waiting && !s.faults.inReset.contains dom

/-- R380, ACK: a request to the unit was not acknowledged within H. -/
def execHangAck (unit peer : BitVec 16) (s : State) : Host.Outcome State Fault Refusal :=
  let dom := unitDomain unit.toNat
  if timersRun s dom then .next (declare s 1 dom unit.toNat peer.toNat) else .next s

/-- R380, OWN: the unit has not completed its step within H. -/
def execHangOwn (unit : BitVec 16) (s : State) : Host.Outcome State Fault Refusal :=
  let dom := unitDomain unit.toNat
  if timersRun s dom then .next (declare s 2 dom unit.toNat 0xFFFF) else .next s

/-- R380, WAIT: a request of the unit was not acknowledged within 2H. -/
def execHangWait (unit peer : BitVec 16) (s : State) : Host.Outcome State Fault Refusal :=
  let dom := unitDomain unit.toNat
  if timersRun s dom then .next (declare s 3 dom unit.toNat peer.toNat) else .next s

/-- R384: the Burin watchdog has expired. -/
def execWatchdog (s : State) : Host.Outcome State Fault Refusal :=
  if s.node.state != stOff && burinUp s && !s.faults.toReset.contains 1 then .next (declare s 4 1 0x900 0xFFFF) else .next s

/-! ### Dumps (R395, R396, R508) -/

/-- R395, R396: the dump is written; the crash flag is raised and the waiting resets begin. -/
def execDumpComplete (us : W32) (unread : List Nat) (s : State) : Host.Outcome State Fault Refusal :=
  match s.dump.writing with
  | none => .next s
  | some (full, _) =>
    let s := { s with
      dump := { s.dump with writing := none, valid := true, part := !full, us := us.toNat, unread := unread }
      power := { s.power with ibi := s.power.ibi ++ [1] } }
    let ds := s.faults.toReset
    .next (ds.foldl wardenReset { s with faults := { s.faults with toReset := [] } })

/-- R387, R388: Burin's own DOM_NODE reset, unless it would be the second within 3600 s. A reset performed from ROM recovery is
not (R443), nor one of an escalated node. -/
def execAutoNodeReset (s : State) : Host.Outcome State Fault Refusal :=
  if s.node.state = stFault ∧ s.boot.romRecovery = false ∧ burinUp s ∧ s.dump.writing = none ∧ s.faults.toReset = [] then
    if s.dump.escalated then .next (endIncident (moveTo s stEclipsed))
    else
      let now := s.power.ms
      let second := match s.dump.nr1 with | some t => decide (now - t ≤ 3600000) | none => false
      if second then .next (endIncident (escalate s))
      else
        let s := logFault s { code := 6, event := false }
        .next (nodeReset { s with dump := { s.dump with nr1 := some now } } true)
  else .next s

/-! ### Domains that leave reset (R344, R502) -/

/-- Complete every RESET_DOMAIN that waits for a domain (R344). -/
def finishResets (s : State) (dom : Nat) : State :=
  (s.host.inProg.filter fun p => p.code == 0x10 && p.arg == dom).foldl (fun s p => finish s p.mailbox { status := sOk }) s

/-- A domain is out of reset: the incident ends with the last of its domains, and the RESET_DOMAIN commands that waited complete. -/
def leaveReset (s : State) (d : Nat) : State :=
  let s := { s with faults := { s.faults with inReset := s.faults.inReset.filter (· != d) } }
  let s := endIncident s
  if d = 16 then s else finishResets s d

/-- A domain other than DOM_NODE and DOM_BURIN leaves reset. DOM_FLASH stays in reset while a FVCC_SENSE group holds it, and a
RESET_DOMAIN of it waits for its training (R478, R344). -/
def execDomainResetDone (dom : Fin 17) (s : State) : Host.Outcome State Fault Refusal :=
  let d := dom.val
  if !s.faults.inReset.contains d || (d = 16 && !s.faults.senseHeld.isEmpty) then .next s
  else .next (leaveReset s d)

/-- R317, R315: Burin runs again: what was in progress completes with S_RESET; the seals kept stand in the order seen. -/
def execBurinRestart (s : State) : Host.Outcome State Fault Refusal :=
  if s.node.state ≥ stSelftest ∧ !s.boot.firmware ∧ !s.boot.romRecovery ∧ !s.faults.inReset.contains 1 then
    let s := { s with boot := { s.boot with firmware := true } }
    let ps := s.host.inProg
    .next (ps.foldl (fun s p => finish (discardNext s p.mailbox) p.mailbox { status := sReset, progress := p.moved }) s)
  else .next s

end Sys2Proof.Machine
end

