-- ==== Sys2Proof/Machine/Maps.lean ====
section
/-!
DEFINITION. The rules of slice maps (R285), cluster maps (R51, R52), bank-pair maps (R116, R118) and quotas (R240), and the
proof record (R450 to R455).
-/
namespace Sys2Proof.Machine

/-! ### Cluster maps and bank-pair maps -/

/-- CLMAP of a quadrant in force (R51); the factory setting is the identity. -/
def clmapOf (s : State) (q : Nat) : Nat := cget 0x76543210 s.setup.clmap q

/-- The physical clusters a CLMAP names. -/
def clmapNames (v : Nat) : List Nat := (List.range 8).map fun i => bits v (4 * i) 4

/-- A cluster map that R52 accepts. -/
def clmapOk (v : Nat) : Bool := (clmapNames v).all (· ≤ 8) && (clmapNames v).eraseDups.length == 8

/-- The spare physical cluster a CLMAP leaves. -/
def clmapSpare (v : Nat) : Nat := ((List.range 9).find? fun p => !(clmapNames v).contains p).getD 8

/-- BPMAP of a die in force (R116). -/
def bpmapOf (s : State) (stack die : Nat) : Nat := cget 0 s.setup.bpmap (12 * stack + die)

/-- R349: a spare once enabled keeps ENABLE and TARGET. -/
def bpmapOk (old new : Nat) : Bool := !bit old 5 || (bit new 5 && bits old 0 5 == bits new 0 5)

/-! ### Quotas (R240) -/

/-- MiB of one stack channel, KiB of the node store, MiB of board DRAM for objects. -/
def chMib : Nat := 2304
def nsKib : Nat := 16384
def boardMib : Nat := 393152

/-- Number of bits set among the low `n`. -/
def popCount (n v : Nat) : Nat := ((List.range n).filter (bit v)).length

/-- The usable T3 capacity in GB, parity excluded (R505, R246); 0 while untrained. -/
def t3Gb (s : State) : Nat := 23 * s.flash.capacity / 1000000000

/-- The factory quota record: each tier divided equally among the slices of the factory slice map, which are slice 0 alone (R240).
STAGE_MIB is the model's (log entry 23). -/
def factoryQuota (s : State) (slice : Nat) : Bytes :=
  if slice = 0 then
    layoutBytes 32 [(0, 4, nsKib), (4, 4, 96 * chMib), (8, 4, boardMib), (12, 4, t3Gb s), (16, 4, 64), (20, 2, 40)]
  else layoutBytes 32 [(20, 2, 40)]

/-- The quota record of a slice in force. -/
def quotaOf (s : State) (slice : Nat) : Bytes :=
  match cget [] s.setup.quota slice with
  | [] => factoryQuota s slice
  | q => q

def quotaSlack (q : Bytes) : Nat := fld q 0x14 0 16

/-- The fields of a quota record for a slice with `chans` stack channels (R240, R285). -/
def quotaFields (s : State) (chans : Nat) : List Fld :=
  [okFld 0 0 32 (fun v => decide (v ≤ nsKib)), okFld 4 0 32 (fun v => decide (v ≤ chans * chMib)), okFld 8 0 32 (fun v => decide (v ≤ boardMib)),
   okFld 12 0 32 (fun v => !s.flash.trained || decide (v ≤ t3Gb s)), okFld 0x14 0 16 (fun v => decide (4 ≤ v) && decide (v ≤ 4096)),
   rsvFld 0x14 16 16] ++ rsvBytes 0x18 0x1F

/-- The lowest offending byte of a quota record; STAGE_MIB lies within T2_MIB and is at least 64 with T3 quota. -/
def quotaBad (s : State) (map : Bytes) (slice : Nat) (q : Bytes) : Option Nat :=
  let stage := fld q 16 0 32
  let st := if stage > fld q 8 0 32 ∨ (fld q 12 0 32 > 0 ∧ stage < 64) then some 16 else none
  minOpt (lowestBad (quotaFields s (popCount 96 (sliceStacks map slice))) q) st

/-- Bytes of a tile with its header. -/
def Obj.tileBytes (o : Obj) : Nat := o.payload + 32

/-- Bytes a slice uses in a tier: its objects, in T0 those in the node store, space being freed, and the backing of its rings (R240, R321, R355). -/
def tierUse (s : State) (slice tier : Nat) : Nat :=
  let objs := (s.mem.objs.filter fun o => o.slice == slice).foldl
    (fun n o => o.extents.foldl (fun n e => if tierOf e.1 = tier ∧ (tier ≠ 0 ∨ bit e.1 61) then n + e.2 * o.tileBytes else n) n) 0
  let frees := s.mem.freeing.foldl (fun n f => if f.1 = tier ∧ f.2.1 = slice then n + f.2.2.1 else n) 0
  let rings := if tier = 2 then
      (s.host.rings.filter fun r => r.slice == slice).foldl (fun n r => n + 4096 + fld r.desc 4 0 32 * 2 ^ fld r.desc 8 0 5) 0
    else 0
  objs + frees + rings

/-- Bytes a slice's quota allows in a tier; T0 counts the node store alone. -/
def tierQuota (s : State) (slice tier : Nat) : Nat :=
  let q := quotaOf s slice
  if tier = 0 then fld q 0 0 32 * 1024
  else if tier = 1 then fld q 4 0 32 * 1048576
  else if tier = 2 then (fld q 8 0 32 - fld q 16 0 32) * 1048576
  else fld q 12 0 32 * 1000000000

/-! ### Slice maps (R284, R285) -/

/-- The fields of a slice map judged one by one. -/
def sliceMapFields : List Fld :=
  [okFld 0 0 32 (· == 0x534C4D50), okFld 8 0 2 (fun v => decide (v ≤ 2)), rsvFld 8 2 30] ++ rsvBytes 0x0C 0x0F ++ rsvBytes 0x18 0x3F ++
  (List.range 16).flatMap fun i => [rsvFld (64 + 64 * i) 1 31] ++ rsvBytes (64 + 64 * i + 0x28) (64 + 64 * i + 0x3F)

/-- The resources of a slice entry as one mask: clusters, channels, flash and ports, mailboxes. -/
def sliceMask (m : Bytes) (i : Nat) : Nat :=
  sliceClusters m i + 2 ^ 32 * sliceStacks m i + 2 ^ 128 * sfld m i 0x14 0 32 + 2 ^ 160 * sliceBoxes m i

/-- No resource is set twice. -/
def disjointMasks : List Nat → Nat → Bool
  | [], _ => true
  | m :: r, acc => m &&& acc == 0 && disjointMasks r (m ||| acc)

/-- The channel of a T1 address, and the cluster of a cluster store address. -/
def channelOf (a : Nat) : Option Nat :=
  if tierOf a = 1 then some (16 * (a % 2 ^ 62 / 2 ^ 59) + a % 2 ^ 59 / 2 ^ 55) else none
def clusterOf (a : Nat) : Option Nat := if tierOf a = 0 ∧ !bit a 61 then some (a / 2 ^ 56) else none

/-- Does an object of the slice keep an extent in a channel or cluster that the new map takes from it. -/
def extentMoves (s : State) (old new : Bytes) : Bool :=
  s.mem.objs.any fun o => o.extents.any fun e =>
    let i := o.slice
    (match channelOf e.1 with | some c => bit (sliceStacks old i) c && !bit (sliceStacks new i) c | none => false) ||
    (match clusterOf e.1 with | some c => bit (sliceClusters old i) c && !bit (sliceClusters new i) c | none => false)

/-- A slice map that R285 lets Burin mark complete, with the quota records that go with it. -/
def sliceMapOk (s : State) (m : Bytes) (quota : Nat → Bytes) : Bool :=
  let vs := (List.range 16).filter (sliceValid m)
  lowestBad sliceMapFields m == none &&
  disjointMasks (vs.map (sliceMask m)) 0 &&
  (vs.foldl (fun a i => a ||| sliceStacks m i) 0) == 2 ^ 96 - 1 &&
  sliceValid m 0 && bit (sliceBoxes m 0) 0 && bit (sliceBoxes m 0) 32 && bit (sliceAdmin m 0) 0 && bit (sliceAdmin m 0) 32 &&
  ((List.range 16).all fun i => sliceValid m i || sliceMask m i == 0) &&
  ((List.range 16).all fun i => sliceAdmin m i &&& sliceBoxes m i == sliceAdmin m i) &&
  !extentMoves s (sliceMapOf s) m &&
  vs.all fun i => quotaBad s m i (quota i) == none

/-! ### The proof record (R450 to R455) -/

/-- TLV entries in ascending TYPE, then INDEX (R450). -/
def parseTlvs : Nat → Bytes → Option (Nat × Nat) → Option (List Tlv)
  | 0, bs, _ => if bs.isEmpty then some [] else none
  | n + 1, bs, prev =>
    if bs.isEmpty then some []
    else
      let ty := fld bs 0 0 16
      let ix := fld bs 2 0 16
      let len := fld bs 4 0 32
      let tot := 8 + roundUp 8 len
      let later := match prev with | none => true | some p => decide (p.1 < ty ∨ (p.1 = ty ∧ p.2 < ix))
      if bs.length < tot ∨ !later ∨ (slice bs (8 + len) (tot - 8 - len)).any (· != 0) then none
      else (parseTlvs n (bs.drop tot) (some (ty, ix))).map fun r => ⟨ty, ix, slice bs 8 len⟩ :: r

/-- The bytes of TLV entries. -/
def tlvBytes (ts : List Tlv) : Bytes :=
  ts.flatMap fun t => leBytes 2 t.type ++ leBytes 2 t.index ++ leBytes 4 t.value.length ++ t.value ++
    List.replicate (roundUp 8 t.value.length - t.value.length) 0

/-- A valid record in a bank: SEQ, entries, CHECK (R454). -/
def parseRecord (b : Bytes) : Option (Nat × List Tlv × Nat) :=
  let len := fld b 0x10 0 32
  if fld b 0 0 32 = 0x50524F46 ∧ fld b 4 0 16 = 1 ∧ len ≤ 262080 ∧ len % 8 = 0 ∧ 64 + len ≤ b.length ∧
      fld b 0x20 0 256 = shake256 (slice b 0 32 ++ slice b 64 len) then
    (parseTlvs (len / 8) (slice b 64 len) none).map fun ts => (fld b 8 0 64, ts, fld b 0x20 0 256)
  else none

/-- A record's bytes (R450). -/
def recordBytes (seq : Nat) (ts : List Tlv) : Bytes :=
  let body := tlvBytes ts
  let head := layoutBytes 32 [(0, 4, 0x50524F46), (4, 2, 1), (8, 8, seq), (16, 4, body.length)]
  head ++ leBytes 32 (shake256 (head ++ body)) ++ body

/-- Put a setting into a list of entries in order; an empty value removes it. -/
def putTlv (ts : List Tlv) (t : Tlv) : List Tlv :=
  let rest := ts.filter fun u => !(u.type == t.type && u.index == t.index)
  if t.value.isEmpty then rest
  else
    let key := fun (u : Tlv) => u.type * 65536 + u.index
    rest.filter (fun u => key u < key t) ++ [t] ++ rest.filter (fun u => key t < key u)

/-- The fault map as a setting (R399). -/
def faultMapBytes (s : State) : Bytes :=
  s.faults.map.flatMap fun e =>
    layoutBytes 16 [(0, 4, packBits [(0, 16, e.unit), (16, 5, e.tjBin), (21, 2, e.point), (23, 4, e.load), (27, 1, b2n e.perm)]),
      (4, 2, e.count), (8, 8, e.first)]

/-- Write a record of some entries into the other bank, with the next SEQ (R452). -/
def writeBank (s : State) (entries : List Tlv) (pendingSettings : Bool) : State :=
  let seq := s.boot.proofSeq + 1
  let toB := decide (s.boot.proofSeq ≠ 0) && !s.boot.proofInB
  let bytes := recordBytes seq entries
  let fl := (s.boot.flags ||| (if toB then 8 else 4)) &&& (255 - 16)
  let fl := fl + (if toB then 16 else 0)
  let fl := if pendingSettings then fl ||| 64 else fl
  { s with
    nor := if toB then { s.nor with bankB := bytes } else { s.nor with bankA := bytes }
    boot := { s.boot with record := entries, proofSeq := seq, proofInB := toB, proofCheck := fld bytes 0x20 0 256, flags := fl, mapDirty := none } }

/-- Write a proof record from the record last restored or written, with changes (R452); the fault map goes along (R453). -/
def writeRecord (s : State) (entries : List Tlv) (pendingSettings : Bool) : State :=
  writeBank s (putTlv entries ⟨0x12, 0, faultMapBytes s⟩) pendingSettings

/-- A setting that is already in effect is retained (R452). -/
def retain (s : State) (ts : List Tlv) : State :=
  let s := writeRecord s (ts.foldl putTlv s.boot.record) false
  { s with boot := { s.boot with settings := ts.foldl putTlv s.boot.settings } }

/-- A small setting's value: enough bytes for its `n` bits, at most 8, and no bit above them (log entry 24). -/
def smallFits (n : Nat) (v : Bytes) (ok : Nat → Bool) : Bool :=
  decide ((n + 7) / 8 ≤ v.length) && decide (v.length ≤ 8) && decide (leNat v < 2 ^ n) && ok (leNat v)

/-- A fault map entry is well formed (R399). -/
def faultEntryOk (b : Bytes) : Bool :=
  decide (fld b 0 16 5 ≤ 21) && decide (fld b 0 21 2 ≤ 2) && fld b 0 28 4 == 0 && fld b 6 0 16 == 0

/-- Is a setting's value one its own chapter allows (R451, R454). -/
def settingOk (s : State) (t : Tlv) : Bool :=
  let v := t.value
  let n := leNat v
  let i0 := t.index == 0
  if t.type = 0x01 then
    i0 && smallFits 34 v fun n =>
      decide ((bits n 16 3 + 1) * (bits n 19 3 + 1) * (bits n 22 3 + 1) ≤ 512) && decide (bits n 25 3 ≤ bits n 16 3) &&
      decide (bits n 28 3 ≤ bits n 19 3) && decide (bits n 31 3 ≤ bits n 22 3)
  else if t.type = 0x02 then i0 && smallFits 9 v fun _ => true
  else if t.type = 0x03 then i0 && smallFits 16 v fun _ => true
  else if t.type = 0x04 then i0 && smallFits 20 v fun _ => true
  else if t.type = 0x05 then i0 && smallFits 6 v fun n => decide (1 ≤ n % 16) && decide (n % 16 ≤ 8) && decide (n / 16 ≤ 2)
  else if t.type = 0x06 then i0 && smallFits 2 v fun n => decide (n ≤ 2)
  else if t.type = 0x07 then
    i0 && smallFits 32 v fun n => bits n 1 15 == 0 && decide (300 ≤ bits n 16 16) && decide (bits n 16 16 ≤ 860)
  else if t.type = 0x08 then i0 && smallFits 1 v fun _ => true
  else if t.type = 0x10 then decide (t.index < 4) && v.length == 4 && clmapOk n
  else if t.type = 0x11 then decide (t.index < 72) && v.length == 4 && decide (n < 64)
  else if t.type = 0x12 then
    i0 && v.length % 16 == 0 && decide (v.length ≤ 2048) &&
      (List.range (v.length / 16)).all fun i => faultEntryOk (slice v (16 * i) 16)
  else if t.type = 0x20 then i0 && v.length == 1088 && sliceMapOk s v (fun i => (quotaOf s i))
  else if t.type = 0x21 then decide (t.index < 16) && v.length == 32 && (quotaBad s (sliceMapOf s) t.index v == none)
  else if t.type = 0x30 then i0 && smallFits 1 v fun _ => true
  else if t.type = 0x31 then decide (t.index < 4) && v.length == 1793
  else if t.type = 0x32 then i0 && v.length == 4
  else false

/-- A TYPE of the table of R450. -/
def knownType (t : Nat) : Bool := (1 ≤ t && t ≤ 8) || (0x10 ≤ t && t ≤ 0x12) || t == 0x20 || t == 0x21 || (0x30 ≤ t && t ≤ 0x32)

/-- Types PROOF_WRITE sets (R450, R451). -/
def proofWriteType (t : Nat) : Bool := knownType t

/-- The customer keys enrolled, in INDEX order (R456). -/
def customerKeys (s : State) : List Bytes := (List.range 4).filterMap fun i => setting s 0x31 i

/-- SIGNED_ONLY (R456). -/
def signedOnly (s : State) : Bool := match setting s 0x30 0 with | some b => leNat b % 2 == 1 | none => false

end Sys2Proof.Machine
end

