-- ==== Sys2Proof/Machine/Health.lean ====
section
/-!
DEFINITION. Canary mismatches and the condition-tagged fault map (R398, R399), quarantine (R400, R401), spare bank pairs
(R117, R118) and cluster map changes (R53).
-/
namespace Sys2Proof.Machine

/-! ### The fault map (R399) -/

/-- The TJ bin of a unit: whole 5 °C, 0 to 21. -/
def tjBin (s : State) (unit : Nat) : Nat := min 21 ((tjOf s (unitDomain unit)).toNat / 50)

/-- Does a unit's present condition match an entry. -/
def conditionMatches (s : State) (e : FaultEntry) : Bool :=
  let b := tjBin s e.unit
  e.point == s.setup.running && decide (b ≤ e.tjBin + 1) && decide (e.tjBin ≤ b + 1) && decide (s.run.load ≤ e.load + 1) &&
    decide (e.load ≤ s.run.load + 1)

/-- The entry a full map gives up: without PERMANENT, the lowest COUNT, then the oldest FIRST. -/
def victim (m : List FaultEntry) : Option FaultEntry :=
  (m.filter fun e => !e.perm).foldl (fun acc e => match acc with
    | none => some e
    | some a => if e.count < a.count ∨ (e.count = a.count ∧ e.first < a.first) then some e else some a) none

/-- Enter a mismatch into the map: raise COUNT of a matching entry of the unit, or make a new entry (R399, R453). -/
def mapMismatch (s : State) (unit arg : Nat) : State :=
  let now := s.power.ms
  let m := s.faults.map
  if (m.any fun e => e.unit == unit && conditionMatches s e) then
    { s with
      faults := { s.faults with map := m.map fun e =>
        if e.unit = unit ∧ conditionMatches s e then { e with count := satAdd 16 e.count 1 } else e }
      boot := { s.boot with mapDirty := match s.boot.mapDirty with | none => some (now, true) | some d => some d } }
  else
    let m := if m.length < 128 then m else match victim m with | none => m | some v => m.erase v
    let e : FaultEntry := ⟨unit, tjBin s unit, s.setup.running, s.run.load, false, 1, s.run.frame, arg⟩
    { s with
      faults := { s.faults with map := (m ++ [e]).take 128 }
      boot := { s.boot with mapDirty := match s.boot.mapDirty with | some (t, false) => some (t, false) | _ => some (now, false) } }

/-- R398: a canary mismatch. -/
def canaryMismatch (s : State) (unit arg : Nat) : State :=
  mapMismatch (logFault s { code := 0x10, event := true, dom := unitDomain unit, unit := unit, arg0 := arg }) unit arg

/-! ### Maps that change -/

/-- R53: put a cluster map in force; while a plate runs it is a fault event, and the frame is exempt from its deadline. -/
def applyClmap (s : State) (q v : Nat) : State :=
  let s := if clmapOf s q = v then s
    else logFault { s with run := { s.run with exempt := s.run.exempt || s.run.running } }
      { code := 0x42, event := s.run.running, dom := 5 + q, arg0 := v }
  { s with setup := { s.setup with clmap := cset 0x76543210 s.setup.clmap q v } }

/-- Granules of a bank pair. -/
def copyGranules : Nat := 3145728

/-- The lane of the channel that a bank pair of a die belongs to (R89). -/
def pairLane (stack target : Nat) : Nat := 0x200 + 16 * stack + target / 2 % 16

/-- Begin the copy of a bank pair into its die's spare (R117), in the MAINT steps of the pair's channel; R118 where the spare is in use. -/
def startSpareCopy (s : State) (stack die target : Nat) : State :=
  let s := { s with bg := { s.bg with
      copies := s.bg.copies.filter (fun c => !(c.1 == stack && c.2.1 == die)) ++ [(stack, die, target, 0)]
      items := s.bg.items.filter fun i => i.work != .spareCopy stack die } }
  addItem s 3 (.spareCopy stack die) (pairLane stack target) false 1

/-- R118: a failing bank pair that no spare replaces. -/
def bankPairFailed (s : State) (stack die pair : Nat) : State :=
  let s := { s with faults := { s.faults with failedPairs := s.faults.failedPairs ++ [(stack * 12 + die) * 32 + pair] } }
  logFault s { code := 0x14, event := true, dom := 9 + stack, unit := 0x700 + 12 * stack + die, arg0 := 32 * die + pair }

/-! ### Quarantine (R400, R401) -/

/-- A link with nothing known of it. -/
def noLink : Link := {}

/-- Is a unit quarantined. -/
def isQuarantined (s : State) (unit : Nat) : Bool := s.faults.quarantined.any fun q => q.unit == unit

/-- Quadrant and physical cluster of a cluster unit. -/
def quadOf (unit : Nat) : Nat := (unit - 0x1000) / 72
def physOf (unit : Nat) : Nat := (unit - 0x1000) % 72 / 8

/-- Fence a unit by its spare (R400), on a node that runs no plate; none where no quarantine is possible (R401). -/
def fence (s : State) (unit arg : Nat) : Option State :=
  let q : State → Nat → Nat → State := fun s quad cm =>
    { s with faults := { s.faults with quarantined := s.faults.quarantined ++ [⟨unit, quad, cm, none⟩] } }
  if 0x1000 ≤ unit ∧ unit < 0x1120 then
    let quad := quadOf unit
    let p := physOf unit
    let cm := clmapOf s quad
    let spare := clmapSpare cm
    if spare = p then some (q s quad cm)
    else if (s.faults.quarantined.any fun o => decide (0x1000 ≤ o.unit) && quadOf o.unit == quad && physOf o.unit == spare) then none
    else
      let i := ((List.range 8).find? fun i => bits cm (4 * i) 4 == p).getD 0
      some (applyClmap (q s quad cm) quad (cm - bits cm (4 * i) 4 * 16 ^ i + spare * 16 ^ i))
  else if 0x200 ≤ unit ∧ unit < 0x260 then
    let stack := (unit - 0x200) / 16
    let die := arg / 32 % 12
    if bit (bpmapOf s stack die) 5 ∨ (s.bg.copies.any fun c => c.1 == stack && c.2.1 == die) then none
    else
      let s := addNext s ⟨.bpmap stack die (arg % 32 + 32), none, false⟩
      let s : State := { s with faults := { s.faults with map := s.faults.map.map fun e => if e.unit = unit then { e with perm := true } else e } }
      some (startSpareCopy { s with boot := { s.boot with mapDirty := some (s.power.ms, false) } } stack die (arg % 32))
  else if 0x300 ≤ unit ∧ unit < 0x318 then
    some (addItem (q { s with flash := { s.flash with lost := cset false s.flash.lost (unit - 0x300) true } } 0 0) 1 (.parity (unit - 0x300)) unit false 1)
  else if 0x400 ≤ unit ∧ unit < 0x408 then
    some (q { s with fab := { s.fab with links := (List.range 4).foldl (fun l i =>
      let k := 4 * (unit - 0x400) + i
      if (cget noLink l k).state = 3 then cmod noLink l k fun x => { x with state := 8 } else l) s.fab.links } } 0 0)
  else none

/-- R453: the node writes the changes of the fault map itself. -/
def execFaultMapWrite (s : State) : Host.Outcome State Fault Refusal :=
  if burinUp s && s.boot.mapDirty.isSome then .next (writeRecord s s.boot.record false) else .next s

/-- R117: the copy has ended: nothing keeps Burin any longer from marking the bank-pair map complete. While a plate runs, the copy ends once its MAINT
steps have passed the whole pair. -/
def execBankPairCopyDone (stack : Fin 6) (die : Fin 12) (s : State) : Host.Outcome State Fault Refusal :=
  let here := fun (c : Nat × Nat × Nat × Nat) => c.1 == stack.val && c.2.1 == die.val
  if s.bg.copies.any fun c => here c && (!s.run.running || decide (copyGranules ≤ c.2.2.2)) then
    .next { s with bg := { s.bg with
      copies := s.bg.copies.filter (!here ·)
      items := s.bg.items.filter fun i => i.work != .spareCopy stack.val die.val } }
  else .next s

end Sys2Proof.Machine
end

