-- ==== Sys2Proof/Machine/Elem.lean ====
section
/-!
DEFINITION. The functions of R85 with a stated error bound: the exact value is enclosed to `fixP` binary places, and the
result is one of the binary32 values within the bound; which one is `Config.ulpPick` (log entry 11).
-/
namespace Sys2Proof

/-- Binary places of the fixed-point work. -/
def fixP : Nat := 512

/-- 1 in fixed point. -/
def fixOne : Int := 2 ^ fixP

/-- Fixed-point product, rounded down. -/
def fixMul (a b : Int) : Int := (a * b) / fixOne

/-- A finite value in fixed point. -/
def toFix (neg : Bool) (m : Nat) (e : Int) : Int :=
  let k := e + fixP
  let a : Int := (if k ≥ 0 then m <<< k.toNat else m >>> (-k).toNat : Nat)
  if neg then -a else a

/-- Σ zᵏ / (2k+1) from term `k`, `n` terms: `p` is z^(2k+1) so far and `z2` is z². -/
def atanhAux (z2 : Int) : Nat → Int → Int → Int
  | 0, _, _ => 0
  | n + 1, p, k => p / (2 * k + 1) + atanhAux z2 n (fixMul p z2) (k + 1)

/-- 2 artanh z for |z| ≤ 1/3. -/
def fix2Atanh (z : Int) : Int := 2 * atanhAux (fixMul z z) 180 z 0

/-- ln 2. -/
def fixLn2 : Int := fix2Atanh (fixOne / 3)

/-- Σ rᵏ / k!, `n` terms from the term `t` of number `k`. -/
def expAux (r : Int) : Nat → Int → Int → Int
  | 0, _, _ => 0
  | n + 1, t, k => t + expAux r n (fixMul t r / (k + 1)) (k + 1)

/-- eˣ for a fixed-point x with |x| below 200. -/
def fixExp (x : Int) : Int :=
  let k := x / fixLn2
  let y := expAux (x - k * fixLn2) 110 fixOne 0
  if k ≥ 0 then y * 2 ^ k.toNat else y / 2 ^ (-k).toNat

/-- ln x for x = m × 2^e, m not 0. -/
def fixLog (m : Nat) (e : Int) : Int :=
  let l := m.log2
  let f : Int := toFix false m (-(l : Int))
  fix2Atanh (((f - fixOne) * fixOne) / (f + fixOne)) + (e + l) * fixLn2

/-- Σ over n of x^(2n+1) / (2n+1)!!, `n` terms from term `t`. -/
def erfAux (x2 : Int) : Nat → Int → Int → Int
  | 0, _, _ => 0
  | n + 1, t, k => t + erfAux x2 n (fixMul t x2 / (2 * k + 3)) (k + 1)

/-- Σ (−1)ᵏ / ((2k+1) q^(2k+1)), for Machin's formula. -/
def arctanAux (q2 : Int) : Nat → Int → Int → Int
  | 0, _, _ => 0
  | n + 1, p, k => (if k % 2 = 0 then p else -p) / (2 * k + 1) + arctanAux q2 n (p / q2) (k + 1)

/-- π. -/
def fixPi : Int := 16 * arctanAux 25 230 (fixOne / 5) 0 - 4 * arctanAux 57121 70 (fixOne / 239) 0

/-- The normal distribution function Φ(x), |x| at most 16. -/
def fixPhi (x : Int) : Int :=
  let x2 := fixMul x x
  let s2pi : Int := isqrt ((2 * fixPi * fixOne).toNat)
  fixOne / 2 + fixMul (fixExp (-(x2 / 2)) * fixOne / s2pi) (erfAux x2 900 x 0)

/-- A fixed-point number as a value. -/
def ofFix (i : Int) : FVal := ofInt false i (-fixP)

/-- One of the binary32 values within `ulps` of a value: `pick` chooses. Exact zeros, infinities and NaN stand. -/
def withinUlps (ulps pick : Nat) : FVal → W32
  | .fin neg m e =>
    if m = 0 then enc32 (.fin neg 0 0)
    else
      let r := roundMag f32 .toZero m e
      let c := packMag f32 r.1 r.2
      let exact := r.2 ≤ e && decide (r.1 <<< (e - r.2).toNat = m) || r.2 > e && decide (r.1 <<< (r.2 - e).toNat = m)
      let span := if exact then 2 * ulps + 1 else 2 * ulps
      let c' := c + pick % span - (if exact then ulps else ulps - 1)
      BitVec.ofNat 32 (withSign f32 neg (min f32.infCode c'))
  | v => enc32 v

/-- 1 / √x (R85), IEEE 754 at the edges (R86). -/
def rsqrtV : FVal → FVal
  | .nan => .nan
  | .inf n => if n then .nan else .fin false 0 0
  | .fin n m e =>
    if m = 0 then .inf n
    else if n then .nan
    else
      let m' := if e % 2 = 0 then m else 2 * m
      let e' := if e % 2 = 0 then e else e - 1
      let a := 2 ^ 400 / m'
      let q := isqrt a
      .fin false (2 * q + (if q * q = a ∧ 2 ^ 400 % m' = 0 then 0 else 1)) (-(e' / 2) - 201)

/-- eˣ. -/
def expV : FVal → FVal
  | .nan => .nan
  | .inf n => if n then .fin false 0 0 else .inf false
  | .fin n m e =>
    let x := toFix n m e
    if x > 100 * fixOne then .inf false
    else if x < -(150 * fixOne) then .fin false 1 (-200)
    else if m = 0 then .fin false 1 0
    else ofFix (fixExp x)

/-- ln x. -/
def logV : FVal → FVal
  | .nan => .nan
  | .inf n => if n then .nan else .inf false
  | .fin n m e => if m = 0 then .inf true else if n then .nan else ofFix (fixLog m e)

/-- The sigmoid in fixed point. -/
def fixSigmoid (x : Int) : Int :=
  let s := fixExp (-(min (x.natAbs : Int) (190 * fixOne)))
  if x ≥ 0 then fixOne * fixOne / (fixOne + s) else s * fixOne / (fixOne + s)

/-- The sigmoid. -/
def sigmoidV : FVal → FVal
  | .nan => .nan
  | .inf n => if n then .fin false 0 0 else .fin false 1 0
  | .fin n m e => ofFix (fixSigmoid (toFix n m e))

/-- tanh. -/
def tanhV : FVal → FVal
  | .nan => .nan
  | .inf n => .fin n 1 0
  | .fin n m e =>
    if m = 0 then .fin n 0 0
    else
      let q := fixExp (-(min (2 * toFix false m e) (190 * fixOne)))
      match ofFix ((fixOne - q) * fixOne / (fixOne + q)) with
      | .fin _ m' e' => .fin n m' e'
      | v => v

/-- GELU in its erf form, x Φ(x); none at −∞, where no result is stated. -/
def geluV : FVal → Option FVal
  | .nan => some .nan
  | .inf n => if n then none else some (.inf false)
  | .fin n m e =>
    let x := toFix n m e
    if x > 15 * fixOne then some (fmul (.fin n m e) (ofFix (fixOne - 2 ^ 200)))
    else if x < -(15 * fixOne) then some (.fin true 1 (-200))
    else some (fmul (.fin n m e) (ofFix (fixPhi x)))

/-- SiLU, x × sigmoid x; none at −∞, where no result is stated. -/
def siluV : FVal → Option FVal
  | .nan => some .nan
  | .inf n => if n then none else some (.inf false)
  | .fin n m e => some (fmul (.fin n m e) (ofFix (fixSigmoid (toFix n m e))))

/-- A lane of a function with a stated bound: FN code, bound in ulp, and the exact value (none: no result stated). -/
def boundedLane (fn ulps : Nat) (x : W32) (v : Option FVal) : W32 :=
  let pick := Config.ulpPick fn x.toNat
  match v with
  | none => BitVec.ofNat 32 pick
  | some v => withinUlps ulps pick v

end Sys2Proof
end

