-- ==== Sys2Proof/Machine/GradScale.lean ====
section
/-!
DEFINITION. The gradient scale s_g of R82, as the groups of 64 elements of R220 and the gradient tiles of the node die use it.
-/
namespace Sys2Proof.Machine

/-- The scale in the step of a frame: the first use in a frame sets it afresh from the step before (R82). -/
def stepScale (g : GradScale) (f : Nat) : GradScale :=
  if g.frame = f then g else { exp := gradScaleExp g.amax g.sat g.exp, frame := f }

/-- 2^k as a value. -/
def pow2V (k : Int) : FVal := .fin false 1 k

/-- The E5M2 conversion of g / s_g (R82). -/
def scaledE5M2 (ovf : Bool) (exp : Int) (v : W32) : Conv := toFloat fE5M2 ovf (fmul (dec32 v) (pow2V (-exp)))

/-- The largest finite magnitude among some lanes; +0 where there is none. -/
def amaxOf (vs : List W32) : W32 :=
  vs.foldl (fun acc v =>
    match dec32 v with
    | .fin _ _ _ => if flt (dec32 acc) (dec32 (abs32 v)) then abs32 v else acc
    | _ => acc) 0#32

/-- What the step of a scale has seen: the largest finite |g|, and whether a conversion saturated. -/
def sawGrads (g : GradScale) (vs : List W32) (cs : List Conv) : GradScale :=
  { g with amax := amaxOf (g.amax :: vs), sat := g.sat || cs.any Conv.sat }

/-- The gradient tile whose bytes hold address `a`: a T0 tile of E5M2 elements, neither raw nor SCALED, whose header holds a gradient scale (R231; log
entry 90). -/
def gradTile (s : State) (a : Nat) : Option Nat :=
  match tileAt s a with
  | none => none
  | some (o, t) => match tileAddr o t with
    | none => none
    | some (h, _) =>
      let hdr := readMem s h 32
      if tierOf h = 0 ∧ fmtType (fld hdr 0 0 8) = 5 ∧ fld hdr 0 8 1 = 0 ∧ fld hdr 0 11 1 = 0 ∧ fld hdr 4 0 16 ≠ 0 then some (2 ^ 32 * o.id + t) else none

/-- The scale of a gradient tile in the present frame; the first step uses s_g = 1. -/
def tileScale (s : State) (k : Nat) : GradScale := stepScale (cget { frame := s.run.frame } s.mem.grads k) s.run.frame

/-- A header as MCLOSE leaves it, with the scale in SCALE where the tile is a gradient tile. -/
def scaleHeader (s : State) (a : Nat) (hdr : Bytes) : Bytes :=
  match gradTile s a with
  | some k => patch hdr 4 (leBytes 2 (1024 * ((tileScale s k).exp + 15).toNat))
  | none => hdr

end Sys2Proof.Machine
end

