-- ==== Sys2Proof/Machine/Boot.lean ====
section
/-!
DEFINITION. The boot chain (R435 to R449), the restore of the proof record (R454), the end of boot and of self-tests (R326,
R345, R387, R444).
-/
namespace Sys2Proof.Machine

/-! ### Firmware images (R437, R438) -/

def imageBody (b : Bytes) : Nat := fld b 12 0 32
def imageVersion (b : Bytes) : Nat := fld b 8 0 32

/-- FW_DIGEST of an image. -/
def imageDigest (b : Bytes) : Nat := shake256 (slice b 0 (128 + imageBody b))

/-- An image that verifies (R438). -/
def imageVerifies (b : Bytes) : Bool :=
  let ko := 128 + imageBody b
  let sl := fld b 20 0 16
  let key := slice b ko 1793
  lowestBad ([okFld 0 0 32 (· == 0x4657494D), okFld 4 0 16 (· == 1), rsvFld 4 16 16, rsvFld 0x14 16 16] ++ rsvBytes 0x18 0x7F) b == none &&
  imageBody b % 64 == 0 && decide (ko ≤ 6291456) && fld b 16 0 32 == ko && decide (1 ≤ sl) && decide (sl ≤ 1280) &&
  decide (ko + 1793 + sl ≤ b.length) && shake256 key == Config.rootDigest &&
  Config.falconVerify key (imageDigest b) (slice b (ko + 1793) sl)

/-- The boot directory copy in force (R436): the valid one with the higher SEQ. -/
def bootDirOf (n : Nor) : BootDir :=
  match n.dir0, n.dir1 with
  | some a, some b => if a.seq ≥ b.seq then a else b
  | some a, none => a
  | none, some b => b
  | none, none => ⟨0, true, true, 0⟩

/-- Write the boot directory: the copy not in force, with the next SEQ (R436). -/
def writeBootDir (n : Nor) (d : BootDir) : Nor :=
  let cur := bootDirOf n
  let d := { d with seq := cur.seq + 1 }
  match n.dir0, n.dir1 with
  | some a, some b => if a.seq ≥ b.seq then { n with dir1 := some d } else { n with dir0 := some d }
  | some _, none => { n with dir1 := some d }
  | none, _ => { n with dir0 := some d }

/-- A firmware slot's bytes and its VALID bit. -/
def slotImage (n : Nor) (i : Nat) : Bytes := if i = 0 then n.slot0 else n.slot1
def slotValid (d : BootDir) (i : Nat) : Bool := if i = 0 then d.valid0 else d.valid1

/-- Can the ROM boot a slot (R442). -/
def bootable (n : Nor) (i : Nat) : Bool := slotValid (bootDirOf n) i && imageVerifies (slotImage n i)

/-! ### Identity (R445, R447) -/

/-- The seed that a power-up reading and a helper copy give, where its check holds. -/
def seedFrom (sram : Nat) (helper : Bytes) : Option Nat :=
  let seed := Config.fuzzyExtract sram helper % 2 ^ 256
  if fld helper 0 0 256 = shake256 (1#8 :: leBytes 32 seed) then some seed else none

/-- The certificate passes the checks of R447: the key and signature rules of R438, and the public key. -/
def certOk (n : Nor) (seed : Option Nat) : Bool :=
  let c := n.cert
  let key := slice c 0x840 1793
  let sl := fld c 6 0 16
  decide (1 ≤ sl) && decide (sl ≤ 1280) && shake256 key == Config.rootDigest &&
  Config.falconVerify key (shake256 (slice c 0 0xF80)) (slice c 0xF80 sl) &&
  (match seed with | some k => Config.falconPublic k == slice c 0x20 1793 | none => false)

/-! ### Restore (R454) -/

/-- The record to restore: SEQ, entries, CHECK, and whether it lies in proof B. -/
def recordToRestore (n : Nor) : Option ((Nat × List Tlv × Nat) × Bool) :=
  match parseRecord n.bankA, parseRecord n.bankB with
  | some a, some b => if a.1 ≥ b.1 then some (a, false) else some (b, true)
  | some a, none => some (a, false)
  | none, some b => some (b, true)
  | none, none => none

/-- A quota record that passes for any slice. -/
def noQuota : Bytes := layoutBytes 32 [(20, 2, 40)]

/-- The entries whose values their own rules allow; a rejected slice map rejects every quota record (R454). -/
def acceptedSettings (s : State) (ts : List Tlv) : List Tlv :=
  let known := ts.filter fun t => knownType t.type
  let mapE := known.find? fun t => t.type == 0x20
  let mapOk := match mapE with | none => true | some t => t.index == 0 && t.value.length == 1088 && sliceMapOk s t.value (fun _ => noQuota)
  let map := match mapE with | some t => if mapOk then t.value else factorySliceMap | none => factorySliceMap
  let keys := known.any fun t => t.type == 0x31
  known.filter fun t =>
    if t.type = 0x20 then mapOk
    else if t.type = 0x21 then mapOk && decide (t.index < 16) && t.value.length == 32 && (quotaBad s map t.index t.value == none)
    else if t.type = 0x30 then settingOk s t && (leNat t.value % 2 == 0 || keys)
    else settingOk s t

/-- One entry of a restored fault map. -/
def faultEntryOf (b : Bytes) : FaultEntry :=
  ⟨fld b 0 0 16, fld b 0 16 5, fld b 0 21 2, fld b 0 23 4, fld b 0 27 1 == 1, fld b 4 0 16, fld b 8 0 64, 0⟩

/-- Put the settings in force (R454). -/
def applySettings (s : State) (ts : List Tlv) : State :=
  let s := { s with boot := { s.boot with settings := ts } }
  let num := fun (ty : Nat) (dflt : Nat) => match setting s ty 0 with | some b => leNat b | none => dflt
  let map := (setting s 0x20 0).getD factorySliceMap
  let pol := num 7 (640 * 65536)
  { s with
    setup := { s.setup with
      clmap := (List.range 4).foldl (fun c q => match setting s 0x10 q with | some b => cset 0x76543210 c q (leNat b) | none => c) []
      bpmap := (List.range 72).foldl (fun c d => match setting s 0x11 d with | some b => cset 0 c d (leNat b) | none => c) []
      sliceMap := (setting s 0x20 0).getD []
      quota := (List.range 16).foldl (fun c i => match setting s 0x21 i with | some b => cset [] c i b | none => c) []
      epoch := fld map 4 0 32, phase := fld map 8 0 2, job := fld map 0x10 0 64
      preferred := num 6 1, running := num 6 1, flat := bit pol 0, setPoint := pol / 65536 }
    cnt := { s.cnt with continuous := bit (num 8 0) 0 }
    faults := { s.faults with map := match setting s 0x12 0 with
      | some b => (List.range (b.length / 16)).map fun i => faultEntryOf (slice b (16 * i) 16)
      | none => [] }
    power := { s.power with point := num 6 1, flat := bit pol 0, setPoint := pol / 65536 } }

/-- Read both banks and restore (R454). -/
def restore (s : State) : State :=
  let va := (parseRecord s.nor.bankA).isSome
  let vb := (parseRecord s.nor.bankB).isSome
  let fl := 4 * b2n va + 8 * b2n vb
  match recordToRestore s.nor with
  | none => applySettings { s with boot := { s.boot with flags := s.boot.flags + 2, record := [], proofSeq := 0, proofInB := false, proofCheck := 0 } } []
  | some ((seq, ts, chk), inB) =>
    let acc := acceptedSettings s ts
    let rejected := acc.length != (ts.filter fun t => knownType t.type).length
    applySettings { s with boot := { s.boot with
      flags := s.boot.flags + fl + 16 * b2n inB + 32 * b2n rejected, record := ts, proofSeq := seq, proofInB := inB, proofCheck := chk } } acc

/-! ### The boot chain (R441 to R444) -/

/-- Write the power controller's events into the fault log ahead of any other record (R491). -/
def logPowerEvents (s : State) : State :=
  let es := s.power.log.drop (s.power.log.length - s.power.unlogged)
  let s := es.foldl (fun s e => logFault s { code := e.1, event := false, arg0 := e.2.1, arg1 := e.2.2 }) s
  { s with power := { s.power with unlogged := 0 } }

/-- R441 to R447: ROM, directory, image, seed, firmware, certificate, restore. -/
def execBoot (x : BootIn) (s : State) : Host.Outcome State Fault Refusal :=
  if s.node.state ≠ stBoot ∨ s.power.state ≠ psOn ∨ s.boot.chained then .next s
  else
    let d := bootDirOf s.nor
    let slot := if bootable s.nor d.active then some d.active else if bootable s.nor (1 - d.active) then some (1 - d.active) else none
    let seed := if x.powerUp then (seedFrom x.sram s.nor.helper0).or (seedFrom x.sram s.nor.helper1) else s.boot.seed
    let b0 : Boot := { seed := seed, conjId := x.conjId.toNat, slotId := x.slotId.toNat, chained := true
                       serial := fld s.nor.cert 8 0 64, grade := fld s.nor.cert 0x10 0 1 }
    match slot with
    | none =>
      .next (enterState { s with boot := { b0 with romRecovery := true } } stFault)
    | some i =>
      let img := slotImage s.nor i
      let flags := (if i = d.active then 0 else 1) + (if certOk s.nor seed then 0 else 128)
      let s := { s with boot := { b0 with
        firmware := true, activeSlot := i, fwVersion := imageVersion img, fwDigest := imageDigest img, flags := flags } }
      let s := logPowerEvents (restore s)
      .next (if seed.isNone then enterFault s else idlePower s)

/-- R441, R444: every training has ended. -/
def execBootComplete (stacksOk boardOk : Bool) (s : State) : Host.Outcome State Fault Refusal :=
  if s.node.state = stBoot ∧ s.boot.firmware ∧ s.fab.trained ∧ s.flash.trained then
    if stacksOk && boardOk then
      .next (moveTo { s with faults := { s.faults with test := some (false, stRestored, none) } } stSelftest)
    else .next (enterFault s)
  else .next s

/-! ### Self-tests (R345, R387, R444) -/

/-- Begin the admission test of R426: the soak. -/
def beginSoak (s : State) : State := { s with orr := { s.orr with soak := some s.run.frame } }

/-- Map out the failing units of a self-test; true where every one of them is covered by a spare (R387, R444). -/
def mapOut (s : State) (fails : List TestFail) : State × Bool :=
  fails.foldl (fun (acc : State × Bool) f =>
    let (s, ok) := acc
    let u := f.unit.toNat
    let s := mapMismatch s u f.arg0.toNat
    if isQuarantined s u then (s, ok)
    else match fence s u f.arg0.toNat with
      | some s' => (s', ok)
      | none => (s, false)) (s, true)

/-- The response of SELFTEST (R345). -/
def selftestResponse (s : State) (fails : List TestFail) : Bytes :=
  let n := min fails.length ((3584 - 32) / 64)
  layoutBytes 32 [(0, 2, b2n fails.isEmpty), (2, 2, fails.length), (4, 2, n)] ++
  (fails.take n).flatMap fun f =>
    faultBytes s { code := 0, event := false, dom := unitDomain f.unit.toNat, unit := f.unit.toNat, arg0 := f.arg0.toNat }

/-- Failing units enter the fault map; a SELFTEST in FAULT only reports (R345). -/
def selftestFailures (s : State) (fails : List TestFail) : State :=
  fails.foldl (fun s f => mapMismatch s f.unit.toNat f.arg0.toNat) s

/-- R326, R345, R387, R427: a self-test ends. -/
def execSelftestDone (fails : List TestFail) (s : State) : Host.Outcome State Fault Refusal :=
  match s.faults.test with
  | none => .next s
  | some (_, back, mbox) =>
    let s := { s with faults := { s.faults with test := none } }
    match mbox with
    | some m =>
      let resp := selftestResponse s fails
      if s.node.state = stFault then .next (finish s m { status := sOk, resp := resp })
      else
        let s := selftestFailures s fails
        .next (finish (moveTo s back) m { status := sOk, resp := resp })
    | none =>
      let (s, ok) := mapOut s fails
      if s.node.state = stSelftest then
        if !ok then .next (enterFault s)
        else
          let s := moveTo s stRestored
          .next (if s.faults.autoStart && !s.faults.holdStart then beginSoak s else s)
      else if s.node.state = stEclipsed then .next (if ok then beginSoak s else s)
      else .next s

end Sys2Proof.Machine
end

