-- ==== Sys2Proof/Machine/Orrery.lean ====
section
/-!
DEFINITION. The orrery membership protocol (R407 to R434): the view, the health table, and the messages and timers of a
node as member, coordinator, deputy, candidate and former.
-/
namespace Sys2Proof.Machine

/-! ### The view record (R407) -/

/-- The 224 bytes of a view. -/
def viewBytes (v : View) : Bytes :=
  layoutBytes 224 [(0, 4, v.num), (4, 4, packBits [(0, 9, v.coord), (9, 9, v.deputy), (18, 1, b2n v.hold), (19, 1, b2n v.degraded)]),
    (8, 8, v.effective), (0x10, 8, v.lastEclipse), (0x18, 8, v.drops.getD 0 0), (0x20, 8, v.drops.getD 1 0), (0x28, 8, v.drops.getD 2 0),
    (0x30, 8, v.drops.getD 3 0), (0x40, 128, v.status.foldl (fun n kv => n + kv.2 % 4 * 4 ^ kv.1) 0)]

/-- The view a record spells. -/
def viewOf (b : Bytes) : View :=
  { num := fld b 0 0 32, coord := fld b 4 0 9, deputy := fld b 4 9 9, hold := fld b 4 18 1 == 1, degraded := fld b 4 19 1 == 1,
    effective := fld b 8 0 64, lastEclipse := fld b 0x10 0 64,
    drops := [fld b 0x18 0 64, fld b 0x20 0 64, fld b 0x28 0 64, fld b 0x30 0 64]
    status := (List.range 512).foldl (fun c n => cset 0 c n (fld b (0x40 + n / 4) (2 * (n % 4)) 2)) [] }

/-- STATUS of a node in a view. -/
def View.of (v : View) (n : Nat) : Nat := cget 0 v.status n

/-- The nodes of a view with one of some statuses, ascending. -/
def View.nodes (v : View) (sts : List Nat) : List Nat := (v.status.filter fun kv => sts.contains kv.2).map Prod.fst

/-- COORDINATOR and DEPUTY of R407. -/
def View.elect (v : View) : View :=
  match v.nodes [1] with
  | [] => v
  | [a] => { v with coord := a, deputy := a }
  | a :: b :: _ => { v with coord := a, deputy := b }

/-- Set a node's status. -/
def View.set (v : View) (n st : Nat) : View := { v with status := cset 0 v.status n st }

/-- The node is the coordinator of the view in force. -/
def isCoord (s : State) : Bool := match s.orr.view with | some v => v.coord == nodeId s && v.of (nodeId s) == 1 | none => false

/-- Some partner pair of the view has no LIVE member (R418, R433). -/
def pairLost (s : State) (v : View) : Bool :=
  (v.nodes [2, 3]).any fun n => match partnerOf s n with | some p => v.of p != 1 | none => true

/-- The frame number of the node, or the last it held (R432). -/
def frameNow (s : State) : Nat := max s.run.frame s.dump.lastFrame

/-! ### Scores, drops, losses (R410 to R415) -/

/-- An entry of the health table. -/
def healthOf (s : State) (n : Nat) : Health := cget {} s.orr.health n

/-- SCORE with the changes that wait for the deputy. -/
def scoreNow (s : State) (n : Nat) : Nat :=
  ((s.orr.unacked.filter fun u => u.1 == n).map Prod.snd).getLast?.getD (healthOf s n).score

/-- Record a drop (R414) and what R419 makes of it. -/
def recordDrop (s : State) (f : Nat) : State :=
  let d := (f :: s.orr.drops).take 4
  let four := d.getD 3 0
  { s with orr := { s.orr with drops := d, holdDue := s.orr.holdDue || (four != 0 && decide (f ≤ four + framesOf s 60000)) } }

/-- Act on a change of SCORE: a fall from 64 or more to below 64 is a drop (R410, R414). A lost node's SCORE stays 0 (R415). -/
def applyScore (s : State) (n v : Nat) : State :=
  let old := (healthOf s n).score
  let v := if s.orr.losses.contains n then 0 else v
  let s := { s with orr := { s.orr with health := cmod {} s.orr.health n fun h => { h with score := v } } }
  let s := if n = nodeId s then { s with orr := { s.orr with score := v } } else s
  if old ≥ 64 ∧ v < 64 ∧ statusOf s n = 1 then recordDrop s s.run.frame else s

/-- An exit of another node from LIVE, as this node's health table keeps it; its own it notes itself (R410). -/
def exitOf (s : State) (n : Nat) : State :=
  if n = nodeId s then s else { s with orr := { s.orr with health := cmod {} s.orr.health n fun h => noteExit h s.run.frame } }

/-- Send an entry of the health table to its subject and to the deputy; `kind` 1: the deputy's answer acts on the change first in `unacked`,
2: it changes nothing (R410). -/
def sendScore (s : State) (n v kind : Nat) : State :=
  match s.orr.view with
  | none => s
  | some w =>
    let s := if n = nodeId s ∨ n = w.deputy then s else
      let s := orrSend s 2 n n 0 v
      { s with orr := { s.orr with awaiting := s.orr.awaiting ++ [(n, 2)] } }
    if w.deputy = nodeId s then s
    else
      let s := orrSend s 2 w.deputy n 0 v
      { s with orr := { s.orr with awaiting := s.orr.awaiting ++ [(w.deputy, kind)] } }

/-- A change of SCORE by the coordinator: it goes to the subject and the deputy, and acts once the deputy has acknowledged
it (R410). -/
def changeScore (s : State) (n v : Nat) : State :=
  match s.orr.view with
  | none => s
  | some w =>
    let s := { s with orr := { s.orr with health := cmod {} s.orr.health n fun h => { h with since := s.run.frame } } }
    if w.deputy = nodeId s then applyScore (sendScore s n v 1) n v
    else sendScore { s with orr := { s.orr with unacked := s.orr.unacked ++ [(n, v)] } } n v 1

/-- The coordinator learns that a node is lost (R415): it goes into the next view; SCORE, EXIT and drops take the loss at once, and the
deputy is told. -/
def loseNode (s : State) (n : Nat) : State :=
  if s.orr.losses.contains n || !liveNode s n then s
  else
    let s := { s with orr := { s.orr with
      losses := s.orr.losses ++ [n]
      health := cmod {} s.orr.health n fun h => { h with score := 0 } } }
    sendScore (recordDrop (exitOf s n) s.run.frame) n 0 2

/-- Fault codes that mean a loss of the subject (R412). -/
def lossCode (c : Nat) : Bool := c ∈ [5, 7, 0x12, 0x30, 0x31, 0x32]

/-- R410, R412, R414: the coordinator charges a reported penalty. -/
def execReport (m : OrMsg) (s : State) : Host.Outcome State Fault Refusal :=
  let n := m.subject.val
  if !isCoord s || statusOf s n != 1 then .next s
  else if lossCode m.code.toNat then .next (loseNode s n)
  else if m.value = 0#8 then .next s
  else .next (changeScore s n (scoreNow s n - m.value.toNat))

/-- R410: the subject mirrors its score, the deputy records the change, and both acknowledge. -/
def execScore (m : OrMsg) (s : State) : Host.Outcome State Fault Refusal :=
  let n := m.subject.val
  let me := nodeId s
  let dep : Bool := match s.orr.view with | some v => v.deputy == me | none => false
  if n == me || dep then
    let s := if dep then applyScore s n m.value.toNat else s
    let s := if n = me then { s with orr := { s.orr with score := m.value.toNat } } else s
    .next (orrSend s 4 m.sender.val n 0 0)
  else .next s

/-- R410, R421: an acknowledgement answers the oldest message its sender has not acknowledged (log entry 30). -/
def execAck (m : OrMsg) (s : State) : Host.Outcome State Fault Refusal :=
  let n := m.sender.val
  match s.orr.awaiting.find? fun a => a.1 == n with
  | none => .next s
  | some a =>
    let s := { s with orr := { s.orr with awaiting := s.orr.awaiting.erase a } }
    if a.2 = 0 then .next { s with orr := { s.orr with acks := s.orr.acks ++ [n] } }
    else if a.2 = 1 then
      match s.orr.unacked with
      | [] => .next s
      | u :: r => .next (applyScore { s with orr := { s.orr with unacked := r } } u.1 u.2)
    else .next s

/-- R413: F(1 s) frames without a penalty raise a LIVE node's score by 1. -/
def execScoreRecovery (node : Fin 512) (s : State) : Host.Outcome State Fault Refusal :=
  let n := node.val
  let f := framesOf s 1000
  if isCoord s && statusOf s n == 1 && decide (0 < f) && decide ((healthOf s n).since + f ≤ s.run.frame) && decide (scoreNow s n < 255) then
    .next (changeScore s n (scoreNow s n + 1))
  else .next s

/-- R385, R415: the coordinator treats the node as lost; any other node passes the notice on. A deputy that hears it of the
coordinator learns the loss (R423). -/
def execNotice (m : OrMsg) (s : State) : Host.Outcome State Fault Refusal :=
  let n := m.subject.val
  match s.orr.view with
  | none => .next s
  | some v =>
    if isCoord s then .next (loseNode s n)
    else if v.coord = n ∧ v.deputy = nodeId s then
      .next { s with orr := { s.orr with losses := s.orr.losses.filter (· != n) ++ [n] } }
    else .next (orrSend s 6 v.coord n 0 0)

/-! ### Views (R416 to R424) -/

/-- Failing nodes that R416 lets the coordinator eclipse, against a view: the lowest SCORE, then the lowest node ID. -/
def eclipseChoice (s : State) (v : View) : Option Nat :=
  if v.hold || (v.lastEclipse != 0 && decide (s.run.frame < v.lastEclipse + framesOf s 5000)) then none
  else
    let c := (v.nodes [1]).filter fun n => decide ((healthOf s n).score < 64) &&
      (match partnerOf s n with | some p => v.of p == 1 | none => false)
    c.foldl (fun acc n => match acc with
      | none => some n
      | some a => if (healthOf s n).score < (healthOf s a).score then some n else some a) none

/-- May a node leave against a view (R425, R433). -/
def mayDepart (s : State) (v : View) (n : Nat) : Bool :=
  match partnerOf s n with
  | none => true
  | some p => v.of p == 1 && !s.orr.losses.contains p && !s.orr.departs.contains p

/-- The body of JOIN and FORM (R411): the firmware digest, the map epoch, the partner; an unpaired node, which forms a pair by itself (R409), names itself
(log entry 91). -/
def joinBytes (digest epoch partner : Nat) : Bytes := leBytes 32 digest ++ layoutBytes 8 [(0, 4, epoch), (4, 4, partner % 512)]

/-- This node's own body of JOIN and FORM. -/
def ownJoin (s : State) : Bytes := joinBytes s.boot.fwDigest s.setup.epoch ((partner s).getD (nodeId s))

/-- Send a proposal to every LIVE and LOADING node of the view (R421). -/
def propose (s : State) (v : View) : State :=
  let dst := (v.nodes [1, 2]).filter (· != nodeId s)
  let s := dst.foldl (fun s n => orrSendBody s 3 n (nodeId s) 0 0 v.num (frameNow s) (viewBytes v)) s
  { s with orr := { s.orr with
      pending := some v, proposed := true, acks := []
      awaiting := (s.orr.awaiting.filter fun a => a.2 != 0) ++ dst.map fun n => (n, 0) } }

/-- The losses in a view; the loss of its partner ends a load (R415, R431), and the fourth drop within 60 s sets HOLD (R419). -/
def withLosses (s : State) (v : View) : View :=
  let w := { v with hold := v.hold || s.orr.holdDue, drops := s.orr.drops }
  let w := s.orr.losses.foldl (fun w n => w.set n 3) w
  s.orr.losses.foldl (fun w n => match partnerOf s n with
    | some p => if w.of p = 2 then w.set p 3 else w
    | none => w) w

/-- COORDINATOR, DEPUTY and DEGRADED of a view that is otherwise complete (R407, R418). -/
def closeView (s : State) (w : View) : View :=
  let w := w.elect
  { w with degraded := w.hold || pairLost s w }

/-- A pending proposal with a loss in it: nothing else changes (R422). -/
def amendedView (s : State) (p : View) : View := closeView s (withLosses s p)

/-- The next view of the coordinator, item by item (R421), and the departures it refuses. A candidate whose partner is no longer LIVE does
not begin its load (R428). -/
def nextView (s : State) (v : View) : View × List Nat :=
  let w := { withLosses s v with num := v.num + 1 }
  let w := s.orr.lives.foldl (fun w n => if w.of n = 2 then w.set n 1 else w) w
  let w := s.orr.loads.foldl (fun w n =>
    if (match partnerOf s n with | none => true | some p => w.of p == 1) then w.set n 2 else w) w
  let (w, refused) := s.orr.departs.foldl (fun (acc : View × List Nat) n =>
    let ok := match partnerOf s n with | none => true | some p => acc.1.of p == 1
    if ok then (acc.1.set n 3, acc.2) else (acc.1, acc.2 ++ [n])) (w, [])
  let w := match eclipseChoice s w with | none => w | some n => { w.set n 3 with lastEclipse := s.run.frame + 1 }
  (closeView s w, refused)

/-- Is there anything for a new view to apply. -/
def viewDue (s : State) (v : View) : Bool :=
  !s.orr.losses.isEmpty || !s.orr.lives.isEmpty || !s.orr.loads.isEmpty || !s.orr.departs.isEmpty || s.orr.holdDue ||
    (eclipseChoice s v).isSome

/-- The nodes that a next view eclipses for score: those it takes from LIVE that neither are lost nor depart (R416, R417). -/
def eclipsedIn (s : State) (v w : View) : List Nat :=
  (v.nodes [1]).filter fun n => w.of n == 3 && !s.orr.losses.contains n && !s.orr.departs.contains n

/-- R421, R422: the coordinator forms a view, or amends its proposal where a node whose answer it awaits is lost. -/
def execViewForm (s : State) : Host.Outcome State Fault Refusal :=
  match s.orr.view with
  | none => .next s
  | some v =>
    if !isCoord s || !viewDue s v then .next s
    else if s.orr.proposed then
      match s.orr.pending with
      | some p => if s.orr.losses.any fun n => s.orr.awaiting.contains (n, 0) then .next (propose s (amendedView s p)) else .next s
      | none => .next s
    else
      let (w, refused) := nextView s v
      let late := s.orr.loads.filter fun n => w.of n != 2
      let s := late.foldl (fun s n => orrSend s 9 n n 4 0) (refused.foldl (fun s n => orrSend s 9 n n 0 0) s)
      let s := (eclipsedIn s v w).foldl exitOf s
      let s := { s with orr := { s.orr with
        health := (s.orr.loads.foldl (fun h n => cmod {} h n fun e => { e with since := s.run.frame }) s.orr.health)
        departs := s.orr.departs.filter (!refused.contains ·), loads := s.orr.loads.filter (!late.contains ·) } }
      .next (propose s w)

/-- R421: store the proposal and acknowledge it. A former drops its own proposal for one from a lower node ID (R432). -/
def execPropose (m : OrMsg) (view : Bytes) (s : State) : Host.Outcome State Fault Refusal :=
  let n := m.sender.val
  let ok := match s.orr.view with
    | some v => v.coord == n || s.orr.joining || s.orr.isFormer || s.orr.soak.isSome
    | none => !s.orr.proposed || decide (n < nodeId s)
  if ok then
    .next (orrSend { s with orr := { s.orr with
      pending := some (viewOf view), proposed := false, acks := [], joining := false
      awaiting := s.orr.awaiting.filter fun a => a.2 != 0 } } 4 n (nodeId s) 0 0)
  else .next s

/-- R423: the deputy's view replaces any pending proposal. -/
def execTakeover (m : OrMsg) (view : Bytes) (s : State) : Host.Outcome State Fault Refusal :=
  match s.orr.view with
  | none => .next s
  | some v =>
    if v.deputy = m.sender.val then .next { s with orr := { s.orr with pending := some (viewOf view), proposed := false, acks := [] } }
    else .next s

/-- R423: the deputy takes over and issues the beat of the frame. -/
def execDeputyTakeover (s : State) : Host.Outcome State Fault Refusal :=
  match s.orr.view with
  | none => .next s
  | some v =>
    let me := nodeId s
    let silent := s.run.running && s.run.waiting && s.fab.beat.isNone
    if v.deputy = me ∧ v.coord ≠ me ∧ s.run.running ∧ (s.orr.losses.contains v.coord ∨ silent) then
      let s := { s with orr := { s.orr with
        losses := s.orr.losses.filter (· != v.coord)
        health := cmod {} s.orr.health v.coord fun h => { noteExit h s.run.frame with score := 0 } } }
      let s := recordDrop s s.run.frame
      let w := closeView s ({ v with num := v.num + 1, drops := s.orr.drops, hold := v.hold || s.orr.holdDue }.set v.coord 3)
      let dst := (w.nodes [1, 2]).filter (· != me)
      let s := dst.foldl (fun s n => orrSendBody s 5 n me 0 0 w.num (frameNow s) (viewBytes w)) s
      let b : BeatMsg := {
        frame := BitVec.ofNat 64 (s.run.frame + 1), published := BitVec.ofNat 48 s.recs.published, apply := false
        epoch := BitVec.ofNat 32 s.setup.epoch, view := BitVec.ofNat 32 w.num, root := Fin.ofNat 512 me, missing := [v.coord] }
      let s := { s with
        orr := { s.orr with pending := some w, proposed := false, acks := [] }
        fab := { s.fab with beat := some b, issued := true, out := s.fab.out ++ dst.map fun n => .beat n b } }
      .next s
    else .next s

/-- R420: HOLD clears once F(600 s) frames have passed since the last drop the node knows of, DROP0. -/
def execHoldClear (s : State) : Host.Outcome State Fault Refusal :=
  match s.orr.view with
  | none => .next s
  | some v =>
    if v.hold ∧ s.orr.drops.getD 0 0 + framesOf s 600000 ≤ s.run.frame then
      .next { s with orr := { s.orr with view := some { v with hold := false }, holdDue := false } }
    else .next s

/-! ### Departures and admission (R425 to R431) -/

/-- R425: the coordinator accepts or refuses a departure. -/
def execDepart (m : OrMsg) (s : State) : Host.Outcome State Fault Refusal :=
  let n := m.subject.val
  match s.orr.view with
  | none => .next s
  | some v =>
    if !isCoord s || v.of n != 1 then .next s
    else if mayDepart s v n then .next { s with orr := { s.orr with departs := s.orr.departs.filter (· != n) ++ [n] } }
    else .next (orrSend s 9 n n 0 0)

/-- The first check of R428 that a candidate fails outside formation; 0 where it fails none. -/
def joinCheck (s : State) (n : Nat) (m : OrMsg) (b : JoinBody) : Nat :=
  if m.value.toNat < 200 then 1
  else if b.digest.toNat ≠ s.boot.fwDigest then 2
  else if !inDomain s n || liveNode s n then 3
  else if (match b.partner with
      | some p => !(statusOf s p.val == 1 && partnerOf s p.val == some n)
      | none => false) then 4
  else if b.escalated then 5
  else 0

/-- The coordinator's handling of a JOIN (R428): an admitted candidate's SCORE becomes its test score, and the deputy is told. -/
def joinAt (s : State) (m : OrMsg) (b : JoinBody) : State :=
  let n := m.subject.val
  let c := joinCheck s n m b
  if c ≠ 0 then orrSend s 9 n n c 0
  else sendScore { s with orr := { s.orr with
    loads := s.orr.loads.filter (· != n) ++ [n]
    health := cmod {} s.orr.health n fun h => { h with score := m.value.toNat }
    partners := cset 0 s.orr.partners n (match b.partner with | some p => p.val + 1 | none => 0) } } n m.value.toNat 2

/-- R428. -/
def execJoin (m : OrMsg) (b : JoinBody) (s : State) : Host.Outcome State Fault Refusal :=
  if isCoord s then .next (joinAt s m b) else .next s

/-- What follows a refusal or a failed test on the path of R387 or in PROBATION: the third failed test in a row is the last (R427, R428). -/
def stayEclipsed (s : State) (failed : Bool) : State :=
  let k := if failed then s.orr.failedTests + 1 else 0
  moveTo { s with orr := { s.orr with
    failedTests := k, noRetest := s.orr.noRetest || decide (k ≥ 3), probation := true, joining := false, isFormer := false } } stEclipsed

/-- Admission is not granted, for a failed test or by a refusal: START and RESUME complete with S_BUSY; otherwise the node stays ECLIPSED
(R346, R427, R428). -/
def admissionRefused (s : State) (failed : Bool) : State :=
  let s := { s with orr := { s.orr with joining := false, isFormer := false, soak := none } }
  match s.node.trans with
  | some _ => finishTrans s { status := sBusy }
  | none => if s.faults.autoStart || s.node.state == stEclipsed then stayEclipsed s failed else s

/-- R326, R346, R428: a refused departure or candidate. -/
def execRefuse (m : OrMsg) (s : State) : Host.Outcome State Fault Refusal :=
  if m.subject.val ≠ nodeId s then .next s
  else match s.node.trans with
    | some (code, _) =>
      if code = 0x1B ∨ code = 0x1D then .next (finishTrans s { status := sBusy }) else .next (admissionRefused s false)
    | none => if s.orr.joining || s.orr.isFormer then .next (admissionRefused s false) else .next s

/-- R430: the candidate becomes LIVE in the next view. -/
def execLoaded (m : OrMsg) (s : State) : Host.Outcome State Fault Refusal :=
  let n := m.subject.val
  if isCoord s && statusOf s n == 2 then .next { s with orr := { s.orr with lives := s.orr.lives.filter (· != n) ++ [n] } } else .next s

/-- The node's own FORM or JOIN value is the test score; it floods FORM over its DOMAIN links (R432). -/
def becomeFormer (s : State) : State :=
  let me := nodeId s
  let f : Former := ⟨me, s.orr.testScore, s.dump.lastView, frameNow s, s.setup.epoch, s.boot.fwDigest, partner s, s.dump.escalated⟩
  let s := { s with orr := { s.orr with isFormer := true, formers := s.orr.formers.filter (fun g => g.node != me) ++ [f] } }
  (neighbours s).foldl (fun s n => orrSendBody s 0xB n me 0 s.orr.testScore s.dump.lastView (frameNow s) (ownJoin s)) s

/-- S_t of R426. -/
def testScoreOf (s : State) (mismatches mapped : Nat) : Nat :=
  let h := healthOf s (nodeId s)
  let hour := framesOf s 3600000
  let recent := fun e => decide (0 < e) && decide (frameNow s ≤ e + hour)
  let ex := (if s.orr.byExit then [h.exit2, h.exit3] else [h.exit1, h.exit2, h.exit3]).filter recent
  255 - 32 * mismatches - 16 * mapped - 32 * ex.length

/-- R426, R427, R432: the soak ends. -/
def execAdmissionTestEnd (mismatches mapped : Nat) (s : State) : Host.Outcome State Fault Refusal :=
  match s.orr.soak with
  | none => .next s
  | some _ =>
    let st := testScoreOf s mismatches mapped
    let s := { s with orr := { s.orr with soak := none, testScore := st } }
    if st < 200 then .next (admissionRefused s true)
    else
      let s := { s with orr := { s.orr with joining := true } }
      match s.orr.view with
      | some v =>
        if v.coord = nodeId s then .next (becomeFormer s)
        else .next (orrSendBody s 7 v.coord (nodeId s) 0 st v.num (frameNow s) (ownJoin s))
      | none => .next (becomeFormer s)

/-- R427: a node in PROBATION retests, beginning with the full self-test; not after the third failure, nor escalated. -/
def execProbationRetest (s : State) : Host.Outcome State Fault Refusal :=
  if s.node.state = stEclipsed ∧ s.orr.probation ∧ !s.orr.noRetest ∧ !s.dump.escalated ∧ s.faults.test = none ∧ s.orr.soak = none then
    .next { s with faults := { s.faults with test := some (true, stEclipsed, none) } }
  else .next s

/-- R432: neither PROPOSE nor REFUSE within 100 ms. -/
def execFormerTimeout (s : State) : Host.Outcome State Fault Refusal :=
  if s.orr.joining && !s.orr.isFormer then .next (becomeFormer s) else .next s

/-- What a FORM says of its sender. -/
def formerOf (m : OrMsg) (b : JoinBody) : Former :=
  ⟨m.subject.val, m.value.toNat, m.view.toNat, m.frame.toNat, b.epoch.toNat, b.digest.toNat, b.partner.map (·.val), b.escalated⟩

/-- R432: FORM is passed on once; a LIVE or LOADING node hands it to its coordinator, which treats it as a JOIN. -/
def execForm (m : OrMsg) (b : JoinBody) (s : State) : Host.Outcome State Fault Refusal :=
  let me := nodeId s
  let key := m.subject.val + 512 * (m.value.toNat + 256 * (m.view.toNat + 2 ^ 32 * m.frame.toNat))
  if s.orr.seenForms.contains key || m.subject.val == me then .next s
  else
    let f := formerOf m b
    let s := { s with orr := { s.orr with
      seenForms := s.orr.seenForms ++ [key]
      formers := s.orr.formers.filter (fun g => g.node != f.node) ++ [f]
      partners := cset 0 s.orr.partners f.node (match f.partner with | some p => p + 1 | none => 0) } }
    let body := joinBytes f.digest f.epoch (f.partner.getD f.node)
    let s := (neighbours s).foldl (fun s n => orrSendBody s 0xB n f.node 0 f.score f.view f.frame body) s
    if isCoord s then .next (joinAt s m b)
    else match s.orr.view with
      | some v => if liveNode s me then .next (orrSendBody s 0xB v.coord f.node 0 f.score f.view f.frame body) else .next s
      | none => .next s

/-- The first check a former fails in formation; 0 for none (R428, R432). -/
def formCheck (s : State) (top : Nat) (f : Former) : Nat :=
  if f.score < 200 then 1
  else if f.digest ≠ s.boot.fwDigest then 2
  else if !inDomain s f.node then 3
  else if f.escalated then 5
  else if f.epoch ≠ top then 6
  else 0

/-- R432: the lowest former proposes the domain's first view. -/
def execFormationWindowEnd (s : State) : Host.Outcome State Fault Refusal :=
  let me := nodeId s
  let fs := s.orr.formers
  if s.orr.isFormer && !s.orr.proposed && s.orr.pending.isNone && fs.all (fun f => decide (me ≤ f.node)) then
    let top := fs.foldl (fun n f => max n f.epoch) 0
    let good := fs.filter fun f => formCheck s top f == 0
    let bad := fs.filter fun f => formCheck s top f != 0
    let s := bad.foldl (fun s f => if f.node = me then s else orrSend s 9 f.node f.node (formCheck s top f) 0) s
    if !(good.any fun f => f.node == me) then .next (admissionRefused s false)
    else
      let num := good.foldl (fun n f => max n f.view) 0 + 1
      let loading := fun (f : Former) => f.node != me && partner s == some f.node && !s.orr.delta.isEmpty
      let v : View := { num := num, drops := s.orr.drops, status := good.foldl (fun c f => cset 0 c f.node (if loading f then 2 else 1)) [] }
      let s := { s with orr := { s.orr with
        firstFrame := some (good.foldl (fun n f => max n f.frame) 0 + 1), joining := false
        health := good.foldl (fun h f => cmod {} h f.node fun e => { e with score := f.score }) s.orr.health } }
      .next (propose s (closeView s v))
  else .next s

/-- R429, R430: everything is loaded; the candidate sends LOADED. -/
def execPartnerLoadDone (s : State) : Host.Outcome State Fault Refusal :=
  match s.orr.view with
  | none => .next s
  | some v => if v.of (nodeId s) = 2 then .next (orrSend s 0xA v.coord (nodeId s) 0 0) else .next s

/-! ### A view takes effect (R408, R417, R421, R425, R430, R431) -/

/-- What the node does when the view in force gives it another status than before. -/
def ownStatus (s : State) (old new : Nat) : State :=
  if new = 1 ∧ old ≠ 1 then
    -- admitted: START and RESUME complete, and R328 and R387 give the state
    let back := if s.node.state = stEclipsed then s.node.wasServing else s.faults.autoStart && s.faults.toServing
    let s := { s with
      faults := { s.faults with autoStart := false, toServing := false, holdStart := false }
      orr := { s.orr with probation := false, failedTests := 0, joining := false, isFormer := false, formers := [], byExit := false
                          score := s.orr.testScore } }
    let s := enterState s (if back ∧ s.node.trans = none then stServing else stReady)
    abortIllegal (finishTrans s { status := sOk })
  else if new = 3 ∧ old ≠ 3 then
    match s.node.trans with
    | some (code, _) =>
      if code = 0x1B ∨ code = 0x1D then
        -- an accepted departure
        let s := { s with orr := { s.orr with byExit := false } }
        let s := enterState (haltPlate s) (if code = 0x1B then stMaintenance else stRestored)
        abortIllegal (finishTrans s { status := sOk })
      else
        finishTrans (haltPlate s) { status := sBusy }
    | none =>
      -- eclipsed for score, or loading cancelled
      let serving := s.node.state == stServing
      let s := { s with
        node := { s.node with wasServing := serving }
        orr := { s.orr with probation := decide (old = 1) } }
      let s := moveTo (haltPlate s) stEclipsed
      if old = 1 then { s with faults := { s.faults with test := some (true, stEclipsed, none) } } else s
  else s

/-- The coordinator brings a new deputy up to date: what the old one had not acknowledged, then every entry of the table (R410). -/
def shareTable (s : State) (old : Option View) : State :=
  match s.orr.view with
  | none => s
  | some w =>
    if w.coord ≠ nodeId s ∨ old.map View.deputy = some w.deputy then s
    else
      let us := s.orr.unacked
      let s := { s with orr := { s.orr with awaiting := s.orr.awaiting.filter fun a => a.2 != 1 } }
      if w.deputy = nodeId s then us.foldl (fun s u => applyScore s u.1 u.2) { s with orr := { s.orr with unacked := [] } }
      else
        let s := us.foldl (fun s u => sendScore s u.1 u.2 1) s
        s.orr.health.foldl (fun s kv => sendScore s kv.1 kv.2.score 2) s

/-- The exits of other nodes that the deputy reads off a new view: those taken from LIVE with a SCORE below 64; the coordinator has noted them,
and so has a deputy that takes over (R410, R423). -/
def exitsSeen (s : State) (old : Option View) (v : View) : State :=
  match old with
  | none => s
  | some w =>
    let me := nodeId s
    if w.coord = me ∨ (w.deputy ≠ me ∧ v.deputy ≠ me) then s
    else ((w.nodes [1]).filter fun n => v.of n == 3 && decide ((healthOf s n).score < 64) && !(n == w.coord && v.coord == me)).foldl exitOf s

/-- The pending view comes into force at the start of a frame (R421). -/
def adoptView (s : State) (v : View) (frame : Nat) : State :=
  let me := nodeId s
  let old := match s.orr.view with | some w => w.of me | none => 0
  let gone := match partner s with
    | some p => (match s.orr.view with | some w => w.of p == 1 | none => false) && v.of p != 1
    | none => false
  let before := s.orr.view
  let eclipse := match before with | some w => v.lastEclipse != w.lastEclipse | none => false
  let v := { v with effective := frame, lastEclipse := if eclipse then frame else v.lastEclipse }
  let leaves := match s.node.trans with | some (code, _) => decide (code = 0x1B ∨ code = 0x1D) | none => false
  let s := if v.of me = 3 && !leaves then leaveLive s else s
  let s := exitsSeen s before v
  let done := fun (l : List Nat) (sts : List Nat) => l.filter fun n => !sts.contains (v.of n)
  let s := { s with
    orr := { s.orr with
      view := some v, pending := none, proposed := false, acks := [], holdDue := s.orr.holdDue && !v.hold
      awaiting := s.orr.awaiting.filter fun a => a.2 != 0 && (v.of a.1 == 1 || v.of a.1 == 2)
      losses := done s.orr.losses [0, 3], lives := done s.orr.lives [1, 0, 3], loads := done s.orr.loads [2, 1], departs := done s.orr.departs [0, 3]
      drops := if v.coord = me then s.orr.drops else v.drops
      delta := if gone then [] else s.orr.delta
      cursor := match partner s with | some p => if v.of p = 2 then some (s.orr.cursor.getD 0) else none | none => none
      firstFrame := none }
    dump := { s.dump with lastView := v.num }
    recs := { s.recs with redrive := s.recs.redrive || gone } }
  ownStatus (shareTable s before) old (v.of me)

end Sys2Proof.Machine
end

