-- ==== Sys2Proof/Machine/Operands.lean ====
section
/-!
DEFINITION. The operand forms of lane records: addresses and locations (R64, R84, R92, R235, R236), format bytes (R66) and
the frame that every lane command shares.
-/
namespace Sys2Proof.Machine

/-! ### The plate's records (R25, R35, R36) -/

/-- The record that covers step `k` of a lane, the step within it, and how many REFRESH records stand before it in its run;
`run` counts those passed. -/
def recFrom : List Rec → Nat → Nat → Option (Rec × Nat × Nat)
  | [], _, _ => none
  | r :: rs, k, run =>
    if k ≤ r.rep then some (r, k, run)
    else recFrom rs (k - (r.rep + 1)) (if r.op = 2 then run + 1 else 0)

/-- The record that a lane of the plate in use runs in the present step; none for a lane that the lane table lacks (R35). -/
def recAt (s : State) (id : Nat) : Option (Rec × Nat × Nat) :=
  match s.run.plate with
  | none => none
  | some p =>
    match p.lanes.find? fun l => l.id == id with
    | none => none
    | some l => recFrom l.recs s.run.step 0

/-- Operands of a record in its `i`-th step (R36). A spanning opcode uses them unchanged, as in step 0. -/
def recA (r : Rec) (i : Nat) : W32 := BitVec.ofInt 32 (r.a + i * r.sa)
def recBw (r : Rec) (i : Nat) : W32 := BitVec.ofInt 32 (r.b + i * r.sb)

/-- Units of a cluster by the low bits of the LANE_ID. -/
def unitOf (id : Nat) : Nat := id % 8

/-- Spanning opcodes (R92, R130, R156, R235, R236, R324; R37). -/
def spanning (id op : Nat) : Bool :=
  if id < 0x100 then (unitOf id == 5 && decide (0x14 ≤ op)) || (unitOf id == 6 && decide (0x12 ≤ op))
  else if id < 0x200 then decide (0x10 ≤ op)
  else if id < 0x300 then op == 0x18 || op == 2
  else if id = 0x600 then op == 0x12
  else if id = 0x500 ∨ id = 0x501 then op == 0x10
  else false

/-- The plate has the lane begin, in the present step, the action of an opcode with these operands over `n` steps: an ordinary
opcode in each step of its record, with that step's operands, a spanning one once, at the record's first step (R27, R36). -/
def laneActs (s : State) (id op : Nat) (o : OpAB) (n : Nat) : Bool :=
  match recAt s id with
  | none => false
  | some (r, i, _) =>
    r.op == op && recA r i == o.a && recBw r i == o.b && (if spanning id op then i == 0 && n == r.rep + 1 else n == 1)

/-- The lane's unit may begin its action, and this is the action the stroke holds for it. -/
def laneReady (s : State) (id op : Nat) (o : OpAB) (n : Nat) : Bool := laneFree s id && laneActs s id op o n

/-- A lane command: where it is the action the stroke holds for the lane, the unit does `f` on the state in which it is taken for `n`
steps. Any other command is no action of the lane, whose unit does what its stroke holds and nothing else (R25, R35; log
entry 8). -/
def laneRun (s : State) (lane op : Nat) (o : OpAB) (n : Nat) (f : State → Host.Outcome State Fault Refusal) :
    Host.Outcome State Fault Refusal :=
  if laneReady s lane op o n then f (ran s lane n) else .next s

/-- The same, for operands of which a load check of R39 is asked: no plate in use holds a record that fails one, so that no lane runs it
(log entry 37). -/
def laneChecked (s : State) (lane op : Nat) (o : OpAB) (n : Nat) (ok : Bool) (f : State → Host.Outcome State Fault Refusal) :
    Host.Outcome State Fault Refusal :=
  if ok then laneRun s lane op o n f else .next s

/-! ### Operand fields -/

/-- Field [lo + len − 1 : lo] of an operand. -/
def opField (x : W32) (lo len : Nat) : Nat := bits x.toNat lo len

/-- Reserved bits from `lo` upward are 0. -/
def opRsv (x : W32) (lo : Nat) : Bool := x.toNat / 2 ^ lo == 0

/-- Granules of a cluster store and of the node store. -/
def clGranules : Nat := 131072
def nsGranules : Nat := 524288

/-- The address of granule `g` of the node store or of a cluster store, where `n` granules from it exist. -/
def place (inCluster : Bool) (cl g n : Nat) : Option Nat :=
  if inCluster then (if g + n ≤ clGranules ∧ cl < 32 then some (clAddr cl (32 * g)) else none)
  else if g + n ≤ nsGranules then some (nsAddr (32 * g))
  else none

/-- A location of R235 and R236: [18:0] granule, [19] cluster store, [24:20] logical cluster. -/
def location (x : W32) (n : Nat) : Option Nat := place (bit x.toNat 19) (opField x 20 5) (opField x 0 19) n

/-- The destination or source of SRD and SWR (R92): [19:0] granule, [20] cluster store, [25:21] logical cluster. -/
def srdPlace (x : W32) (n : Nat) : Option Nat := place (bit x.toNat 20) (opField x 21 5) (opField x 0 20) n

/-- A cluster store address in granules (R64, R84, R156), where `bytes` bytes from it exist. -/
def clPlace (cl : Nat) (x : W32) (bytes : Nat) : Option Nat :=
  let g := opField x 0 17
  if 32 * g + bytes ≤ clSize then some (clAddr cl (32 * g)) else none

/-- The address of channel granule `g` (R90, R92), where `n` granules from it exist. -/
def chPlace (c : Chan) (g n : Nat) : Option Nat :=
  if 32 * (g + n) ≤ chSize then some (t1Addr c.stack c.ch (32 * g)) else none

/-- Continue with an address that exists. -/
def withAddr (a : Option Nat) (f : Nat → Host.Outcome State Fault Refusal) : Host.Outcome State Fault Refusal :=
  match a with
  | none => .fault .noSuchAddress
  | some x => f x

/-- Granules that `n` bytes take. -/
def granulesOf (n : Nat) : Nat := ceilDiv n 32

/-- Bytes of a delayed write with clear poison marks. -/
def cleanMem (a : Nat) (bs : Bytes) : Landing := .mem a bs (List.replicate (granulesOf bs.length) false)

end Sys2Proof.Machine
end

