-- ==== Sys2Proof/Machine/Flags.lean ====
section
/-!
DEFINITION. The flags of the arithmetic units: ACC_SAT, INVALID and FORMAT_MISMATCH of a MAC column with the integer and float
accumulation that sets them (R59 to R62, R65), and the saturation and NaN counts of conversions (R75).
-/
namespace Sys2Proof.Machine

/-- One column of an accumulator bank: accumulator, WSUM, and the flag bits: 0 ACC_SAT, 1 INVALID, 2 FORMAT_MISMATCH, 3 WSUM has
saturated. -/
structure Col where
  acc  : W32
  wsum : W32
  flag : Nat
  deriving DecidableEq, Repr

def accSat (f : Nat) : Bool := bit f 0
def invalid (f : Nat) : Bool := bit f 1

/-- Set bit `b` of a flag word. -/
def setFlag (f b : Nat) : Nat := if bit f b then f else f + 2 ^ b

/-- A saturating 32-bit addition: the sum, and whether it saturated (R59). -/
def satAdd32 (x : W32) (d : Int) : W32 × Bool :=
  let v := x.toInt + d
  if v > 2147483647 then (0x7FFFFFFF#32, true)
  else if v < -2147483648 then (0x80000000#32, true)
  else (BitVec.ofInt 32 v, false)

/-- The sum of integers. -/
def sumInt (l : List Int) : Int := l.foldl (· + ·) 0

/-- A code as a factor of an integer product; none for the integer NaN code (R67). -/
def intFactor (t code : Nat) : Option Int :=
  match decodeElem t code with
  | .int i => some i
  | _ => none

/-- WSUM of a column takes the weight codes of the step, each by the TYPE of its register (R59, R61). The manual applies R61 to WSUM and does
not say whether its saturation shows in the column's ACC_SAT, nor whether WSUM goes on in a column that ACC_SAT or INVALID has frozen; nor what an
integer NaN code adds. Here a saturated WSUM stands by a flag of its own that MDRAIN does not show, a frozen column's WSUM goes on, and the
integer NaN code adds its two's complement value, −128 or −8 (DESIGN CHOICE, log entry 82). ASUM is treated the same way. -/
def addWsum (ws : List (Nat × Nat)) (c : Col) : Col :=
  if bit c.flag 3 then c
  else
    let r := satAdd32 c.wsum (sumInt (ws.map fun w => codeValue w.1 w.2))
    { c with wsum := r.1, flag := if r.2 then setFlag c.flag 3 else c.flag }

/-- One step of an integer column (R59, R61, R62): the activation codes, and the TYPE and code of each weight. -/
def intColumn (ta : Nat) (as : List Nat) (ws : List (Nat × Nat)) (c : Col) : Col :=
  let c := addWsum ws c
  if accSat c.flag || invalid c.flag then c
  else
    let fa := as.map (intFactor ta)
    let fw := ws.map fun w => intFactor w.1 w.2
    if fa.contains none || fw.contains none then { c with acc := 0#32, flag := setFlag c.flag 1 }
    else
      let r := satAdd32 c.acc (sumInt (List.zipWith (fun a w => a.getD 0 * w.getD 0) fa fw))
      { c with acc := r.1, flag := if r.2 then setFlag c.flag 0 else c.flag }

/-- An exact value is infinite. -/
def isInfV : FVal → Bool
  | .inf _ => true
  | _ => false

/-- One step of a float column (R60 to R62). -/
def floatColumn (ta tw : Nat) (as ws : List Nat) (c : Col) : Col :=
  if accSat c.flag || invalid c.flag then c
  else
    let fa := as.map (decodeF (floatFmt ta))
    let fw := ws.map (decodeF (floatFmt tw))
    let acc := dec32 c.acc
    let sum := (List.zipWith fmul fa fw).foldl fadd acc
    if sum == .nan then { c with acc := nan32, flag := setFlag c.flag 1 }
    else
      let finite := !(isInfV acc || fa.any isInfV || fw.any isInfV)
      let r := enc32 sum
      if finite && isInfV (dec32 r) then
        { c with acc := (if r == 0x7F800000#32 then 0x7F7FFFFF#32 else 0xFF7FFFFF#32), flag := setFlag c.flag 0 }
      else { c with acc := r }

/-- A register with a format mismatch, or one of a poisoned tile, sets its flags in every column of the bank (R65, R252). Of a column that
ACC_SAT had frozen before, R61 keeps the value and R62 gives 0 or NaN: here it keeps its saturated value (DESIGN CHOICE, log entry 82). -/
def badColumn (isInt mismatch : Bool) (c : Col) : Col :=
  let f := if mismatch then setFlag c.flag 2 else c.flag
  if accSat f || invalid f then { c with flag := setFlag f 1 }
  else { c with acc := if isInt then 0#32 else nan32, flag := setFlag f 1 }

/-- The counts of one conversion of many: saturations and NaN inputs (R75). -/
def convCounts (cs : List Conv) : Nat × Nat := ((cs.filter fun c => c.sat).length, (cs.filter fun c => c.nan).length)

/-- Count saturations and NaN inputs of a lane's unit (R75). -/
def countConv (s : State) (lane sat nan : Nat) : State := countArith (countArith s lane 0 sat) lane 1 nan

end Sys2Proof.Machine
end

