-- ==== Sys2Proof/Machine/Mac.lean ====
section
/-!
DEFINITION. The MAC array lanes: MLOAD, MMAC, MDRAIN (R57 to R65).
-/
namespace Sys2Proof.Machine

/-! ### Registers of an array -/

/-- The LANE_ID of an array, and its number among all arrays. -/
def macLane (u : MacUnit) : Nat := clLane u.cl u.ar
def macNum (u : MacUnit) : Nat := u.cl.val * 4 + u.ar.val

/-- Keys: an element of a weight register, a register, an accumulator of a bank, a bank. -/
def wElem (u : MacUnit) (reg i : Nat) : Nat := (macNum u * 2 + reg) * 1024 + i
def wReg (u : MacUnit) (reg : Nat) : Nat := macNum u * 2 + reg
def accKey (u : MacUnit) (bank col : Nat) : Nat := (macNum u * 4 + bank) * 64 + col
def bankKey (u : MacUnit) (bank : Nat) : Nat := macNum u * 4 + bank

/-- A column of a bank. -/
def getCol (s : State) (u : MacUnit) (bank col : Nat) : Col :=
  let k := accKey u bank col
  ⟨cget 0 s.units.acc k, cget 0 s.units.wsum k, cget 0 s.units.mflag k⟩

/-- Write the 64 columns of a bank. -/
def setCols (s : State) (u : MacUnit) (bank : Nat) (cs : List Col) : State :=
  let k := accKey u bank 0
  { s with units := { s.units with
      acc := csetN 0 s.units.acc k (cs.map Col.acc)
      wsum := csetN 0 s.units.wsum k (cs.map Col.wsum)
      mflag := csetN 0 s.units.mflag k (cs.map Col.flag) } }

/-! ### MLOAD -/

/-- Load a tile's elements into a weight register: format and poison state are checked (R64, R65, R233, R252; log entry 31). -/
def loadWeights (s : State) (u : MacUnit) (a fmt reg : Nat) : State :=
  let hdr := readMem s a 32
  let n := payloadBytes fmt false
  let payload := readMem s (a + 32) n
  let mismatch := fld hdr 0 0 8 != fmt || fld hdr 0 8 1 != 0
  let poisoned := !mismatch && !tileSound s a (a + 32) n
  let s := { s with units := { s.units with
      weight := csetN 0 s.units.weight (wElem u reg 0) (unpackElems (fmtBits fmt) 1024 payload)
      wfmt := cset 0 s.units.wfmt (wReg u reg) fmt
      wbad := cset 0 s.units.wbad (wReg u reg) (b2n mismatch + 2 * b2n poisoned) } }
  let lane := macLane u
  let s := if mismatch then
      let f : FaultInfo := ⟨0x21, true, laneDomain lane, laneUnit s lane, 0xFFFF, fld hdr 12 0 32, fld hdr 16 0 32, false, false⟩
      countArith (logFault s f) lane 4 1
    else s
  if poisoned then poisonFinding s (fld hdr 12 0 32) (fld hdr 16 0 32) lane 1 else s

/-- R64: MLOAD. An expected byte that names int32 or PAIR16 is valid (R66); the manual says that these types occur only in vector loads and stores
and in descriptors, and not that such an MLOAD fails: it loads 32-bit elements, which no MMAC pairs with an operand (DESIGN CHOICE, log entry 82). -/
def execMload (u : MacUnit) (o : OpAB) (s : State) : Host.Outcome State Fault Refusal :=
  let fmt := opField o.b 0 8
  laneChecked s (macLane u) 0x10 o 1 (opRsv o.a 17 && opRsv o.b 9 && fmtOk fmt) fun s =>
    withAddr (clPlace u.cl o.a (32 + payloadBytes fmt false)) fun a => .next (loadWeights s u a fmt (opField o.b 8 1))

/-! ### MMAC -/

/-- The rows of a pair (R57): the (register, row) of each product; none where the pair or ROW_SLICE is refused. `t0` and `t1` are the TYPEs
in W0 and W1, of which a pair of 4-bit integers takes both. -/
def pairRows (ta t0 t1 reg j : Nat) : Option (List (Nat × Nat)) :=
  let rows := fun (r a n : Nat) => (List.range n).map fun i => (r, a + i)
  let four := fun (t : Nat) => isIntClass t && typeBits t == 4
  let tw := if reg = 0 then t0 else t1
  if isIntClass ta && isIntClass tw then
    if j ≠ 0 then none
    else if four ta && four tw then (if four t0 && four t1 then some (rows 0 0 16 ++ rows 1 0 16) else none)
    else some (rows reg 0 16)
  else if isFloatType ta && isFloatType tw then
    if ta = 7 ∨ tw = 7 then (if j ≤ 15 then some (rows reg j 1) else none)
    else if ta = 6 ∨ tw = 6 then (if j ≤ 3 then some (rows reg (4 * j) 4) else none)
    else if j = 0 then some (rows reg 0 16) else none
  else none

/-- The TYPE that a weight register was last loaded with. -/
def wType (s : State) (u : MacUnit) (reg : Nat) : Nat := fmtType (cget 0 s.units.wfmt (wReg u reg))

/-- Start a bank from 0 (CLEAR of R64). -/
def clearBank (s : State) (u : MacUnit) (bank : Nat) : State :=
  let s := setCols s u bank (List.replicate 64 ⟨0, 0, 0⟩)
  { s with units := { s.units with asum := cset 0 s.units.asum (bankKey u bank) 0, aflag := cset false s.units.aflag (bankKey u bank) false } }

/-- ASUM takes the activation codes of the step (R59, R61). -/
def addAsum (s : State) (u : MacUnit) (bank : Nat) (d : Int) : State :=
  let k := bankKey u bank
  if cget false s.units.aflag k then s
  else
    let r := satAdd32 (cget 0 s.units.asum k) d
    { s with units := { s.units with asum := cset 0 s.units.asum k r.1, aflag := cset false s.units.aflag k r.2 } }

/-- ACC_SAT and INVALID that a step has set, counted by the array's sentinel (R62). -/
def countRisen (s : State) (u : MacUnit) (old new : List Col) : State :=
  let rose := fun (b : Nat) => ((List.range 64).filter fun n =>
    bit (new.getD n ⟨0, 0, 0⟩).flag b && !bit (old.getD n ⟨0, 0, 0⟩).flag b).length
  countArith (countArith s (macLane u) 2 (rose 0)) (macLane u) 3 (rose 1)

/-- One multiply-accumulate step (R57 to R62). -/
def macStep (s : State) (u : MacUnit) (a ta : Nat) (rows : List (Nat × Nat)) (bank : Nat) (clear : Bool) : State :=
  let s := if clear then clearBank s u bank else s
  let isInt := isIntClass ta
  let acts := unpackElems (typeBits ta) rows.length (readMem s a (rows.length * typeBits ta / 8))
  let regs := (rows.map Prod.fst).eraseDups
  let bad := regs.foldl (fun n r => n ||| cget 0 s.units.wbad (wReg u r)) 0
  let old := (List.range 64).map (getCol s u bank)
  let new := (List.range 64).map fun n =>
    let ws := rows.map fun p => (wType s u p.1, cget 0 s.units.weight (wElem u p.1 (p.2 * 64 + n)))
    let c := old.getD n ⟨0, 0, 0⟩
    if bad ≠ 0 then badColumn isInt (bit bad 0) (if isInt then addWsum ws c else c)
    else if isInt then intColumn ta acts ws c
    else floatColumn ta ((ws.map Prod.fst).headD 0) acts (ws.map Prod.snd) c
  let s := setCols s u bank new
  let s := if isInt then addAsum s u bank (sumInt (acts.map (codeValue ta))) else s
  countRisen s u old new

/-- The step on a weight register that holds no operand of the pair: no MLOAD of the plate has loaded it, so that the load checks could not judge
the pair, and the manual states no result. The accumulators and WSUMs of the columns that are not frozen are free values, as is ASUM; flags
stand (DESIGN CHOICE, log entry 83). -/
def macFree (s : State) (u : MacUnit) (bank : Nat) (clear : Bool) : State :=
  let s := if clear then clearBank s u bank else s
  let f := fun (i : Nat) => BitVec.ofNat 32 (Config.free (s.drawn + i))
  let cols := (List.range 64).map fun n =>
    let c := getCol s u bank n
    if accSat c.flag || invalid c.flag then c else ⟨f (2 * n), f (2 * n + 1), c.flag⟩
  let s := setCols s u bank cols
  { s with
    drawn := s.drawn + 129
    units := { s.units with asum := cset 0 s.units.asum (bankKey u bank) (f 128) } }

/-- R64: MMAC. A pair of R58 or a ROW_SLICE outside R57 is refused at load, by the formats that the lane's own records load. -/
def execMmac (u : MacUnit) (o : OpAB) (s : State) : Host.Outcome State Fault Refusal :=
  let fmt := opField o.b 0 8
  let ta := fmtType fmt
  let reg := opField o.b 8 1
  laneChecked s (macLane u) 0x11 o 1 (opRsv o.a 17 && opRsv o.b 16 && fmtOk fmt) fun s =>
    match pairRows ta (wType s u 0) (wType s u 1) reg (opField o.b 12 4) with
    | none => .next (macFree s u (opField o.b 9 2) (bit o.b.toNat 11))
    | some rows =>
      withAddr (clPlace u.cl o.a (rows.length * typeBits ta / 8)) fun a =>
        .next (macStep s u a ta rows (opField o.b 9 2) (bit o.b.toNat 11))

/-! ### MDRAIN -/

/-- The 64 lanes that MDRAIN copies (R64). -/
def drainLanes (s : State) (u : MacUnit) (src bank : Nat) : List W32 :=
  (List.range 64).map fun n =>
    let c := getCol s u bank n
    if src = 0 then c.acc
    else if src = 1 then c.wsum
    else if src = 2 then cget 0 s.units.asum (bankKey u bank)
    else BitVec.ofNat 32 (c.flag % 8)

/-- R64: MDRAIN. -/
def execMdrain (u : MacUnit) (o : OpAB) (s : State) : Host.Outcome State Fault Refusal :=
  laneChecked s (macLane u) 0x12 o 1 (opRsv o.a 10 && opRsv o.b 0) fun s =>
    let bank := opField o.a 8 2
    let src := opField o.a 6 2
    let inv := (List.range 64).map fun n => src == 0 && invalid (getCol s u bank n).flag
    .next (later s 1 (.drain u.cl (opField o.a 0 6) (drainLanes s u src bank) inv))

end Sys2Proof.Machine
end

