-- ==== Sys2Proof/Machine/Vector.lean ====
section
/-!
DEFINITION. The vector unit lanes: VLOAD, VSTORE and the functions of VOP (R79, R81, R84 to R88).
-/
namespace Sys2Proof.Machine

/-- The LANE_ID of a vector unit. -/
def vecLane (cl : Nat) : Nat := clLane cl 4

/-! ### Loads and stores -/

/-- A poison mark on any granule of 64 elements (R113, R252). -/
def anyMark (s : State) (a bytes : Nat) : Bool := (marksOf s a (granulesOf bytes)).any id

/-- R84, R87, R252: VLOAD. Poisoned granules give NaN lanes (log entry 32). -/
def execVload (cl : Fin 32) (o : OpAB) (s : State) : Host.Outcome State Fault Refusal :=
  let fmt := opField o.a 6 8
  let t := fmtType fmt
  let n := 64 * typeBits t / 8
  laneChecked s (vecLane cl) 0x20 o 1 (opRsv o.a 14 && opRsv o.b 17 && fmtOk fmt) fun s =>
    withAddr (clPlace cl o.b n) fun a =>
      let ls := (unpackElems (typeBits t) 64 (readMem s a n)).map (loadLane t)
      let marks := marksOf s a (granulesOf n)
      let per := 256 / typeBits t
      let vals := (List.range 64).map fun i => if marks.getD (i / per) false then nan32 else (ls.getD i (0, false)).1
      let nans := ((List.range 64).filter fun i => marks.getD (i / per) false || (ls.getD i (0, false)).2).length
      let s := later s 1 (.vreg cl (opField o.a 0 6) vals)
      let s := match anyMark s a n, tileAt s a with
        | true, some (ob, t) => poisonFinding s ob.id t (vecLane cl) 1
        | _, _ => s
      .next (countConv s (vecLane cl) 0 nans)

/-- The elements of a VSTORE, and the state with what a gradient tile has seen: E5M2 elements of a gradient tile are stored under its scale (R82). -/
def storeElems (fmt : Nat) (a : Nat) (vs : List W32) (s : State) : List Conv × State :=
  match if fmtType fmt = 5 then gradTile s a else none with
  | some k =>
    let g := tileScale s k
    let cs := vs.map (scaledE5M2 (fmtOvf fmt) g.exp)
    (cs, { s with mem := { s.mem with grads := cset {} s.mem.grads k (sawGrads g vs cs) } })
  | none => (vs.map (storeLane fmt), s)

/-- R84, R82: VSTORE. -/
def execVstore (cl : Fin 32) (o : OpAB) (s : State) : Host.Outcome State Fault Refusal :=
  let fmt := opField o.a 6 8
  let t := fmtType fmt
  let n := 64 * typeBits t / 8
  laneChecked s (vecLane cl) 0x21 o 1 (opRsv o.a 14 && opRsv o.b 17 && fmtOk fmt) fun s =>
    withAddr (clPlace cl o.b n) fun a =>
      let (cs, s) := storeElems fmt a (getVreg s cl (opField o.a 0 6)) s
      let k := convCounts cs
      .next (countConv (later s 1 (cleanMem a (packElems (typeBits t) (cs.map Conv.code)))) (vecLane cl) k.1 k.2)

/-! ### VOP -/

/-- The operands of a VOP record (R84): FN, destination, the three sources; the immediate. -/
def vopOp (v : Vop) (fn : Nat) : OpAB :=
  ⟨BitVec.ofNat 32 (packBits [(0, 8, fn), (8, 6, v.dst), (14, 6, v.src1), (20, 6, v.src2), (26, 6, v.src3)]), v.imm⟩

/-- A VOP record of function `fn` (R84): the immediate is 0 where FN uses none. -/
def vopRun (v : Vop) (fn : Nat) (immUsed : Bool) (s : State) (f : State → Host.Outcome State Fault Refusal) :
    Host.Outcome State Fault Refusal :=
  laneChecked s (vecLane v.cl) 0x22 (vopOp v fn) 1 (immUsed || v.imm == 0) f

/-- A function of the lanes of three registers, written to the destination in the next step. -/
def vopLanes (v : Vop) (fn : Nat) (s : State) (immUsed : Bool) (f : State → List W32 → List W32 → List W32 → List W32) :
    Host.Outcome State Fault Refusal :=
  vopRun v fn immUsed s fun s =>
    .next (later s 1 (.vreg v.cl v.dst (f s (getVreg s v.cl v.src1) (getVreg s v.cl v.src2) (getVreg s v.cl v.src3))))

/-- One operand lane by lane. -/
def vop1 (v : Vop) (fn : Nat) (s : State) (f : W32 → W32) : Host.Outcome State Fault Refusal := vopLanes v fn s false fun _ a _ _ => a.map f
/-- Two operands lane by lane. -/
def vop2 (v : Vop) (fn : Nat) (s : State) (f : W32 → W32 → W32) : Host.Outcome State Fault Refusal :=
  vopLanes v fn s false fun _ a b _ => List.zipWith f a b
/-- Three operands lane by lane. -/
def zip3 (f : W32 → W32 → W32 → W32) : List W32 → List W32 → List W32 → List W32
  | a :: as, b :: bs, c :: cs => f a b c :: zip3 f as bs cs
  | _, _, _ => []

/-- MIN and MAX of two lanes (R85): a NaN gives way to the other operand, equal operands give SRC1. -/
def pick32 (larger : Bool) (a b : W32) : W32 :=
  if isNaN32 a then (if isNaN32 b then nan32 else b)
  else if isNaN32 b then a
  else if (if larger then flt (dec32 a) (dec32 b) else flt (dec32 b) (dec32 a)) then b else a

/-- One stage of R88: lane i with lane i + `h`. -/
def foldHalf (f : W32 → W32 → W32) (h : Nat) (l : List W32) : List W32 := List.zipWith f (l.take h) ((l.drop h).take h)

/-- The pairwise reduction of 64 lanes (R88). -/
def reduce64 (f : W32 → W32 → W32) (l : List W32) : W32 :=
  (foldHalf f 1 (foldHalf f 2 (foldHalf f 4 (foldHalf f 8 (foldHalf f 16 (foldHalf f 32 l)))))).headD 0

def execMov (v : Vop) (s : State) : Host.Outcome State Fault Refusal := vop1 v 0x00 s id
def execAdd (v : Vop) (s : State) : Host.Outcome State Fault Refusal := vop2 v 0x01 s add32
def execSub (v : Vop) (s : State) : Host.Outcome State Fault Refusal := vop2 v 0x02 s sub32
def execMul (v : Vop) (s : State) : Host.Outcome State Fault Refusal := vop2 v 0x03 s mul32
def execFma (v : Vop) (s : State) : Host.Outcome State Fault Refusal := vopLanes v 0x04 s false fun _ => zip3 fma32
def execDiv (v : Vop) (s : State) : Host.Outcome State Fault Refusal := vop2 v 0x05 s div32
def execSqrt (v : Vop) (s : State) : Host.Outcome State Fault Refusal := vop1 v 0x06 s sqrt32
def execMin (v : Vop) (s : State) : Host.Outcome State Fault Refusal := vop2 v 0x07 s (pick32 false)
def execMax (v : Vop) (s : State) : Host.Outcome State Fault Refusal := vop2 v 0x08 s (pick32 true)
def execAbs (v : Vop) (s : State) : Host.Outcome State Fault Refusal := vop1 v 0x09 s abs32
def execNeg (v : Vop) (s : State) : Host.Outcome State Fault Refusal := vop1 v 0x0A s neg32

/-- R85: int32 1 where SRC1 < SRC2; 0 otherwise, and where either is NaN. -/
def execCmplt (v : Vop) (s : State) : Host.Outcome State Fault Refusal :=
  vop2 v 0x0B s fun a b => if flt (dec32 a) (dec32 b) then 1#32 else 0#32

/-- R85: SRC2 where the int32 SRC1 is non-zero, else SRC3. -/
def execSel (v : Vop) (s : State) : Host.Outcome State Fault Refusal :=
  vopLanes v 0x0C s false fun _ => zip3 fun a b c => if a = 0 then c else b

def execRcp (v : Vop) (s : State) : Host.Outcome State Fault Refusal := vop1 v 0x10 s (div32 (ofInt32 1))
def execRsqrt (v : Vop) (s : State) : Host.Outcome State Fault Refusal :=
  vop1 v 0x11 s fun x => boundedLane 0x11 1 x (some (rsqrtV (dec32 x)))
def execExp (v : Vop) (s : State) : Host.Outcome State Fault Refusal :=
  vop1 v 0x12 s fun x => boundedLane 0x12 1 x (some (expV (dec32 x)))
def execLog (v : Vop) (s : State) : Host.Outcome State Fault Refusal :=
  vop1 v 0x13 s fun x => boundedLane 0x13 1 x (some (logV (dec32 x)))
def execSigmoid (v : Vop) (s : State) : Host.Outcome State Fault Refusal :=
  vop1 v 0x14 s fun x => boundedLane 0x14 2 x (some (sigmoidV (dec32 x)))
def execTanh (v : Vop) (s : State) : Host.Outcome State Fault Refusal :=
  vop1 v 0x15 s fun x => boundedLane 0x15 2 x (some (tanhV (dec32 x)))
def execGelu (v : Vop) (s : State) : Host.Outcome State Fault Refusal :=
  vop1 v 0x16 s fun x => boundedLane 0x16 2 x (geluV (dec32 x))
def execSilu (v : Vop) (s : State) : Host.Outcome State Fault Refusal :=
  vop1 v 0x17 s fun x => boundedLane 0x17 2 x (siluV (dec32 x))

/-- R85: int32 to binary32. -/
def execCvti (v : Vop) (s : State) : Host.Outcome State Fault Refusal := vop1 v 0x20 s fun x => ofInt32 x.toInt

/-- ROUNDI of one lane (R85): the integer, and whether it saturated or was a NaN. -/
def roundLane (x : W32) : W32 × Bool × Bool :=
  let r := toIntRange (-2147483648) 2147483647 0 none (dec32 x)
  (BitVec.ofInt 32 r.1, r.2.1, r.2.2)

/-- R85, R75: ROUNDI. -/
def execRoundi (v : Vop) (s : State) : Host.Outcome State Fault Refusal :=
  vopRun v 0x21 false s fun s =>
    let rs := (getVreg s v.cl v.src1).map roundLane
    .next (countConv (later s 1 (.vreg v.cl v.dst (rs.map Prod.fst))) (vecLane v.cl)
      (rs.filter fun r => r.2.1).length (rs.filter fun r => r.2.2).length)

/-- R88: the sum over the lanes, in every lane. -/
def execSumreduce (v : Vop) (s : State) : Host.Outcome State Fault Refusal :=
  vopLanes v 0x30 s false fun _ a _ _ => List.replicate 64 (reduce64 add32 a)
/-- R88: the maximum over the lanes, in every lane. -/
def execMaxreduce (v : Vop) (s : State) : Host.Outcome State Fault Refusal :=
  vopLanes v 0x31 s false fun _ a _ _ => List.replicate 64 (reduce64 (pick32 true) a)

def execAddi (v : Vop) (s : State) : Host.Outcome State Fault Refusal := vopLanes v 0x38 s true fun _ a _ _ => a.map (add32 · v.imm)
def execMuli (v : Vop) (s : State) : Host.Outcome State Fault Refusal := vopLanes v 0x39 s true fun _ a _ _ => a.map (mul32 · v.imm)

/-- R85: the scalar registers from lane 0 of the sources and from B. -/
def execSetx (v : Vop) (s : State) : Host.Outcome State Fault Refusal :=
  vopRun v 0x40 true s fun s =>
    let l0 := fun (r : Fin 64) => (getVreg s v.cl r).headD 0
    .next { s with units := { s.units with
      xs := cset 0 s.units.xs v.cl (l0 v.src1), xo := cset 0 s.units.xo v.cl (l0 v.src2)
      xa := cset 0 s.units.xa v.cl (l0 v.src3), xk := cset 0 s.units.xk v.cl v.imm } }

/-- SCALE and OFFSET of a PAIR16 lane (R66). -/
def pairScale (x : W32) : Nat := bits x.toNat 0 16
def pairOffset (x : W32) : Nat := bits x.toNat 16 16

/-- R79: DEQ of one lane. -/
def deqLane (s : State) (cl : Nat) (p b pr : W32) : W32 :=
  dequant p b (widen16 (pairScale pr)) (widen16 (pairOffset pr)) (cget 0 s.units.xs cl) (cget 0 s.units.xo cl) (cget 0 s.units.xa cl)
    (cget 0 s.units.xk cl)

/-- R85, R79: DEQ. A lane of SRC1 drained from an INVALID column gives NaN (log entry 33). -/
def execDeq (v : Vop) (s : State) : Host.Outcome State Fault Refusal :=
  vopLanes v 0x41 s false fun s a b c =>
    List.zipWith (fun (y : W32) (i : Bool) => if i then nan32 else y) (zip3 (deqLane s v.cl) a b c) (getVinv s v.cl v.src1)

/-- The target of the QUANT or LSQGRAD that a vector unit runs in this step of the plate in use (log entry 12). -/
def targetAt (s : State) (cl : Nat) : Nat := quantFmt ((s.run.plate.map Plate.digest).getD 0) (vecLane cl) s.run.step

/-- R77: QUANT of one lane to a target. -/
def quantLane (fmt : Nat) (x pr : W32) : Encoded := encodeValue fmt (pairScale pr) (pairOffset pr) x

/-- R85, R77, R75: QUANT. -/
def execQuant (v : Vop) (s : State) : Host.Outcome State Fault Refusal :=
  vopRun v 0x42 false s fun s =>
    let es := List.zipWith (quantLane (targetAt s v.cl)) (getVreg s v.cl v.src1) (getVreg s v.cl v.src3)
    .next (countConv (later s 1 (.vreg v.cl v.dst (es.map fun e => BitVec.ofInt 32 e.code))) (vecLane v.cl)
      (es.filter Encoded.sat).length (es.filter Encoded.nan).length)

/-- The gradients of one lane (R81); with SCALE 0 the value u of R77 is not formed, and the gradient of the scale is free (log
entry 13). -/
def lsqLane (fmt : Nat) (g x pr : W32) (free : Nat) : W32 × W32 × W32 :=
  let r := lsqGrad fmt (pairScale pr) (pairOffset pr) g x
  if isZeroV (decodeF f16 (pairScale pr)) then (r.1, BitVec.ofNat 32 free, r.2.2) else r

/-- R85, R81: LSQGRAD writes the destination and the next two registers. Of a destination V62 or V63 the manual does not say what takes the
place of the registers that V63 is the last of: the gradients that have no register are not kept (DESIGN CHOICE, log entry 82). -/
def execLsqgrad (v : Vop) (s : State) : Host.Outcome State Fault Refusal :=
  vopRun v 0x43 false s fun s =>
    let f := s.drawn
    let s := { s with drawn := f + 64 }
    let g := getVreg s v.cl v.src1
    let x := getVreg s v.cl v.src2
    let p := getVreg s v.cl v.src3
    let rs := (List.range 64).map fun i => lsqLane (targetAt s v.cl) (g.getD i 0) (x.getD i 0) (p.getD i 0) (Config.free (f + i))
    let gives := fun (i : Nat) (l : List W32) (s : State) => if v.dst.val + i < 64 then later s 1 (.vreg v.cl (v.dst.val + i) l) else s
    .next (gives 2 (rs.map fun r => r.2.2) (gives 1 (rs.map fun r => r.2.1) (gives 0 (rs.map Prod.fst) s)))

end Sys2Proof.Machine
end

