-- ==== Sys2Proof/Machine/Lanes.lean ====
section
/-!
DEFINITION. The actions common to lanes: IDLE, MAINT and REFRESH (R37, R45 to R49, R195, R398), and the refresh of a node that
runs no plate (R111).
-/
namespace Sys2Proof.Machine

/-- R25, R37: IDLE does nothing and completes at once. -/
def execIdle (_lane : BitVec 16) (s : State) : Host.Outcome State Fault Refusal := .next s

/-! ### MAINT (R48, R49, R195) -/

/-- An item goes before another in the order of R195. -/
def itemBefore (a b : Item) : Bool :=
  if a.urgent != b.urgent then a.urgent
  else if a.cls ≠ b.cls then a.cls < b.cls
  else if a.enq ≠ b.enq then a.enq < b.enq
  else a.num < b.num

/-- A merge item that is passed over: another merge holds its bank pair (R189). -/
def itemBlocked (s : State) (i : Item) : Bool :=
  match i.work with
  | .merge x l p => !(s.bg.merges.any fun m => m.index == x && m.node == nodeId s && m.leaf == l && m.switched.isNone) &&
      s.bg.merges.any fun m => m.pair == p
  | _ => false

/-- The first item in the order of R195 that uses a lane, of those queued at the preceding boundary. -/
def itemFor (s : State) (lane : Nat) : Option Item :=
  (s.bg.items.filter fun i => i.lane == lane && decide (i.num < s.bg.cut) && decide (0 < i.left) && !itemBlocked s i).foldl
    (fun acc i => match acc with
      | none => some i
      | some a => if itemBefore i a then some i else some a) none

/-- The bank pair that a stack channel's `k`-th canary names on a mismatch: the first of the two it compares (R89, R95). -/
def canaryPair (lane k : Nat) : Nat :=
  let pos := 2 * k % 24
  32 * (pos / 2) + 2 * ((lane - 0x200) % 16) + pos % 2

/-! ### Refresh (R45 to R47, R108, R109, R111) -/

/-- Is a stack hot after a reading of its hottest bank die, in units of 0.1 °C (R109). -/
def hotAfter (old : Bool) (temp : Int) : Bool := if temp > 850 then true else if temp ≤ 820 then false else old

/-- One channel issues `n` refresh commands to each of its 48 banks (R108, R461). -/
def refreshChannel (s : State) (stack ch n : Nat) : State :=
  let k := 16 * stack + ch
  count { s with units := { s.units with refresh := cmod 0 s.units.refresh k fun v => (v + n) % 8192 } } (9 + stack) 4 k 3 (48 * n)

/-- R45, R108, R109: one REFRESH position of 128 steps. The stack's temperature counts at the start of a slot, and what it decides holds for
the channel's whole slot. -/
def execRefresh (c : Chan) (hot : Bool) (temp : Int) (s : State) : Host.Outcome State Fault Refusal :=
  let l := chLane c
  let k := 16 * c.stack.val + c.ch.val
  match recAt s l with
  | none => .next s
  | some (r, i, run) =>
    if !laneFree s l || r.op != 2 || r.hot != hot || i != 0 then .next s
    else
      let stack := if run % 4 = 0 then hotAfter (cget false s.units.hot c.stack) temp else cget false s.units.hot c.stack
      let slot := if run % 4 = 0 then stack else cget false s.units.slotHot k
      let s := { s with
        units := { s.units with hot := cset false s.units.hot c.stack stack, slotHot := cset false s.units.slotHot k slot }
        run := { s.run with busy := cset 0 s.run.busy l (s.run.now + 128) } }
      if hot && !slot then .next s else .next (refreshChannel (countLane s l 0 128) c.stack c.ch 1)

/-- R111, R386: the refresh of one 7.8 µs interval in a stack of a node that runs no plate. -/
def execStandaloneRefresh (stack : Fin 6) (temp : Int) (s : State) : Host.Outcome State Fault Refusal :=
  if s.run.running || s.node.state == stOff || s.faults.inReset.contains (9 + stack.val) then .next s
  else
    let isHot := hotAfter (cget false s.units.hot stack) temp
    let s := { s with units := { s.units with hot := cset false s.units.hot stack isHot } }
    .next ((List.range 16).foldl (fun s ch => refreshChannel s stack ch (if isHot then 4 else 2)) s)

end Sys2Proof.Machine
end

