-- ==== Sys2Proof/Machine/Places.lean ====
section
/-!
DEFINITION. Where extents, ring backings and received flash data may lie (R38, R229, R240 to R242, R247, R321): the regions of a tier, the
gaps that nothing occupies, and the choice among them.
-/
namespace Sys2Proof.Machine

/-- The bytes of an extent of `n` tiles. -/
def extentBytes (pl n : Nat) : Nat := n * (pl + 32)

/-- Two byte runs overlap. -/
def overlaps (a n b m : Nat) : Bool := decide (a < b + m) && decide (b < a + n)

/-- Bytes of a ring's aperture, and of its backing (R321). -/
def apertureBytes (b : Bytes) : Nat := 4096 + fld b 4 0 32 * 2 ^ fld b 8 0 5

/-- The plate region of the node store (R38): where its 2 MiB lie, the manual does not give (log entry 7). -/
def plateBytes : Nat := 2097152
def plateAddr : Nat := nsAddr (plateBytes * (Config.plateRegion % 8))

/-- What is taken: extents, ring backings and received flash data, as (address, bytes). -/
def spaceTaken (s : State) : List (Nat × Nat) :=
  s.mem.objs.flatMap (fun o => o.extents.map fun e => (e.1, extentBytes o.payload e.2)) ++
    s.host.rings.map (fun r => (t2Addr r.backing, apertureBytes r.desc)) ++ s.flash.received.map fun kv => (kv.2, 2048)

/-- The regions of a tier an extent of a slice may lie in: (base, bytes). A T1 extent lies in one stack channel of the slice, a T0 extent in the node
store or in the store of one of its clusters. -/
def regions (s : State) (slice tier : Nat) : List (Nat × Nat) :=
  if tier = 0 then (nsAddr 0, nsSize) :: ((List.range 32).filter (bit (sliceClusters (sliceMapOf s) slice))).map fun c => (clAddr c 0, clSize)
  else if tier = 1 then
    ((List.range 96).filter (bit (sliceStacks (sliceMapOf s) slice))).map fun c => (t1Addr (c / 16) (c % 16) 0, chSize)
  else if tier = 2 then [(t2Addr 0, dumpBase)]
  else [(3 * 2 ^ 62, t3Gb s * 1000000000)]

/-- Insert a run in ascending address. -/
def insertRun (x : Nat × Nat) : List (Nat × Nat) → List (Nat × Nat)
  | [] => [x]
  | y :: r => if x.1 < y.1 then x :: y :: r else y :: insertRun x r

/-- Objects begin at multiples of a granule, in T3 of a slot (R228, R245). -/
def alignOf (tier : Nat) : Nat := if tier = 3 then 2048 else 32

/-- The gaps between runs in ascending address, from `a` up to `top`. -/
def gapsIn (al top : Nat) : List (Nat × Nat) → Nat → List (Nat × Nat)
  | [], a => if a < top then [(a, top - a)] else []
  | (b, n) :: r, a => (if a < b then [(a, b - a)] else []) ++ gapsIn al top r (max a (roundUp al (b + n)))

/-- The gaps of the regions of a tier for a slice; the plate region is no gap of the node store. -/
def gaps (s : State) (slice tier : Nat) : List (Nat × Nat) :=
  (regions s slice tier).flatMap fun r =>
    let runs := ((spaceTaken s).filter fun t => overlaps t.1 t.2 r.1 r.2) ++ if r.1 = nsAddr 0 then [(plateAddr, plateBytes)] else []
    gapsIn (alignOf tier) (r.1 + r.2) (runs.foldl (fun l t => insertRun t l) []) r.1

/-- Places for a run of `n` bytes in a tier. Which of them the node takes, the manual does not give (R241; log entry 7). -/
def places (s : State) (slice tier n : Nat) : List Nat := ((gaps s slice tier).filter fun g => decide (n ≤ g.2)).map Prod.fst

/-- One of the places, by a free choice. -/
def choosePlace (l : List Nat) (k : Nat) : Option Nat := if l.isEmpty then none else l[Config.place k % l.length]?

end Sys2Proof.Machine
end

