-- ==== Sys2Proof/Machine/Flash.lean ====
section
/-!
DEFINITION. Flash: slots, stripes and staging (R245 to R248), the flash lanes (R238), reads, programs and erases that complete
(R142, R247, R248, R250 to R252), channel training and loss (R249, R478, R502 to R506).
-/
namespace Sys2Proof.Machine

/-! ### Slots (R245, R246) -/

def slotBytes : Nat := 2048
def stripeSlots : Nat := 184

/-- The slot map entry of a slot, and its fields. -/
def slotEntry (s : State) (n : Nat) : Nat := cget 0 s.flash.slotMap n
def seStripe (e : Nat) : Nat := bits e 0 32
def seIndex (e : Nat) : Nat := bits e 32 8
def seStaged (e : Nat) : Bool := bit e 40
def sePoisoned (e : Nat) : Bool := bit e 41
def seValid (e : Nat) : Bool := bit e 42

/-- Put a slot map entry together. -/
def mkEntry (stripe index : Nat) (staged poisoned valid : Bool) : Nat :=
  packBits [(0, 32, stripe), (32, 8, index), (40, 1, b2n staged), (41, 1, b2n poisoned), (42, 1, b2n valid)]

/-- Change a slot map entry. -/
def setEntry (s : State) (n e : Nat) : State := { s with flash := { s.flash with slotMap := cset 0 s.flash.slotMap n e } }

/-- The channel of data unit `j` of a stripe (R246). -/
def unitChannel (stripe j : Nat) : Nat := (stripe % 24 + 1 + j) % 24

/-- The channel a slot's data are on. -/
def slotChannel (e : Nat) : Nat := unitChannel (seStripe e) (seIndex e / 8)

/-- The place of a slot's data. -/
def sePlace (e : Nat) : Nat := stripeSlots * seStripe e + seIndex e

/-- Is a flash channel lost or untrained. -/
def chanLost (s : State) (fc : Nat) : Bool := cget false s.flash.lost fc

/-- A slot's worth of bytes; what nothing has written reads as zeros. -/
def fullSlot (d : Bytes) : Bytes := slice d 0 slotBytes

/-- The bytewise XOR of two slots. -/
def xorSlot (a b : Bytes) : Bytes := List.zipWith (· ^^^ ·) a b

/-- A unit of a stripe has been programmed and its channel works. -/
def unitThere (s : State) (stripe ch : Nat) : Bool := !chanLost s ch && cget 0 s.flash.pages (24 * stripe + ch) != 0

/-- Slot `k` of the unit of a stripe on a channel, as NAND holds it: of the parity unit on channel n mod 24, else of a data unit (R246). -/
def unitSlot (s : State) (stripe ch k : Nat) : Bytes :=
  if ch = stripe % 24 then fullSlot (cget [] s.flash.parity (8 * stripe + k))
  else fullSlot (cget [] s.flash.nand (stripeSlots * stripe + 8 * ((ch + 23 - stripe % 24) % 24) + k))

/-- A slot rebuilt by XOR of the 23 other units of its stripe (R246, R251); none where a second one is not there. -/
def rebuildSlot (s : State) (stripe index : Nat) : Option Bytes :=
  let others := (List.range 24).filter (· != unitChannel stripe (index / 8))
  if others.all (unitThere s stripe) then
    some (others.foldl (fun d c => xorSlot d (unitSlot s stripe c (index % 8))) (List.replicate slotBytes 0))
  else none

/-- The data of a slot: staged, programmed, rebuilt where its channel is lost, or never written (zero). -/
def slotData (s : State) (n : Nat) : Bytes :=
  let e := slotEntry s n
  if !seValid e then List.replicate slotBytes 0
  else if seStaged e then fullSlot (cget [] s.flash.staged (sePlace e))
  else if chanLost s (slotChannel e) then (rebuildSlot s (seStripe e) (seIndex e)).getD (List.replicate slotBytes 0)
  else fullSlot (cget [] s.flash.nand (sePlace e))

/-- Bytes from a T3 address (its low 48 bits). -/
def readT3 (s : State) (a n : Nat) : Bytes :=
  let first := a / slotBytes
  let last := (a + n - 1) / slotBytes
  slice ((List.range (last + 1 - first)).flatMap fun i => slotData s (first + i)) (a % slotBytes) n

/-! ### Staging (R247) -/

/-- The slice whose stripe it is. -/
def stripeSlice (s : State) (stripe : Nat) : Nat := cget 0 s.flash.stripeOf stripe - 1

/-- Slots that the staging area of a slice holds. -/
def stagedSlots (s : State) (sl : Nat) : Nat := (s.flash.staged.filter fun kv => stripeSlice s (kv.1 / stripeSlots) == sl).length

/-- STAGE_MIB of a slice leaves room for `k` more slots. -/
def stageRoom (s : State) (sl k : Nat) : Bool :=
  decide ((stagedSlots s sl + k) * slotBytes ≤ fld (quotaOf s sl) 16 0 32 * 1048576)

/-- The parity of a stripe (R246): slot `k` of its parity unit, from the data collected in staging. -/
def parityOf (s : State) (stripe k : Nat) : Bytes :=
  (List.range 23).foldl (fun d j => xorSlot d (fullSlot (cget [] s.flash.staged (stripeSlots * stripe + 8 * j + k)))) (List.replicate slotBytes 0)

/-- The node computes a stripe's parity and queues its unit programs on every channel that is not lost (R247). -/
def queueStripe (s : State) (stripe : Nat) : State :=
  let cs := (List.range 24).filter fun c => !chanLost s c
  { s with flash := { s.flash with
      openS := s.flash.openS.filter fun o => o.stripe != stripe
      parity := (List.range 8).foldl (fun m k => cset [] m (8 * stripe + k) (parityOf s stripe k)) s.flash.parity
      programs := s.flash.programs ++ [(stripe, cs.length)]
      progQ := cs.foldl (fun m c => cset [] m c (cget [] m c ++ [stripe])) s.flash.progQ } }

/-- Write one slot through the slice's staging area (R245, R247), with its POISONED flag. -/
def writeSlot (s : State) (sl n : Nat) (d : Bytes) (poisoned : Bool) : State :=
  let (s, o) := match s.flash.openS.find? fun o => o.slice == sl with
    | some o => (s, o)
    | none =>
      let o : OpenStripe := ⟨sl, s.flash.nextStripe, 0, s.run.frame⟩
      ({ s with flash := { s.flash with
          openS := s.flash.openS ++ [o], nextStripe := s.flash.nextStripe + 1, stripeOf := cset 0 s.flash.stripeOf o.stripe (sl + 1) } }, o)
  let s := setEntry s n (mkEntry o.stripe o.used true poisoned true)
  let s := { s with flash := { s.flash with
      staged := cset [] s.flash.staged (stripeSlots * o.stripe + o.used) d
      openS := s.flash.openS.map fun p => if p.stripe = o.stripe then { p with used := p.used + 1 } else p } }
  if o.used + 1 = stripeSlots then queueStripe s o.stripe else s

/-- Slots that `n` bytes from a T3 address touch. -/
def slotsOf (a n : Nat) : List Nat := if n = 0 then [] else (List.range ((a + n - 1) / slotBytes + 1 - a / slotBytes)).map (a / slotBytes + ·)

/-- Write bytes at a T3 address: whole slots are rewritten (R245), and stay poisoned where they were (R252). -/
def writeT3 (s : State) (sl a : Nat) (bs : Bytes) : State :=
  (slotsOf a bs.length).foldl (fun s n =>
    let lo := n * slotBytes
    let from' := if a > lo then a - lo else 0
    let part := if a > lo then bs.take (slotBytes - from') else (bs.drop (lo - a)).take slotBytes
    writeSlot s sl n (patch (slotData s n) from' part) (sePoisoned (slotEntry s n))) s

/-- T3_RD and T3_WR of the slice of a stripe, and of the node (R461). -/
def countT3 (s : State) (stripe c bytes : Nat) : State :=
  let sl := stripeSlice s stripe
  count (count s 16 2 sl c bytes) 16 3 0 c bytes

/-- A counter of a flash channel (group 7). -/
def countFc (s : State) (fc c n : Nat) : State := count s 16 7 fc c n

/-- The reads of the units that rebuild a slot, as those channels count them, but for one that has been counted (R251, R461). -/
def countUnits (s : State) (ch but : Nat) : State :=
  (List.range 24).foldl (fun s c => if c = ch ∨ c = but then s else countFc (countFc s c 0 slotBytes) c 2 1) s

/-- A slot read for a maintenance item: its channel, or those of the units that rebuild it, and T3_RD of the slice where the item serves one (R461, R462). -/
def countSlotRead (s : State) (sl : Option Nat) (ch : Nat) : State :=
  let s := if chanLost s ch then countUnits s ch ch else countFc (countFc s ch 0 slotBytes) ch 2 1
  let s := match sl with | some i => count s 16 2 i 7 slotBytes | none => s
  count s 16 3 0 7 slotBytes

/-- R247: an open stripe that is 250 frames old. -/
def execStripeAgeFlush (sl : Fin 16) (s : State) : Host.Outcome State Fault Refusal :=
  match s.flash.openS.find? fun o => o.slice == sl.val && decide (o.born + 250 ≤ s.run.frame) with
  | none => .next s
  | some o => .next (queueStripe s o.stripe)

/-! ### Command queues and credits (R238, R250) -/

/-- The LANE_ID of a flash channel, and its command queue. -/
def cmdQueue (s : State) (fc : Nat) : List (Nat × Nat) := cget [] s.flash.cmdQ fc
def setCmds (s : State) (fc : Nat) (q : List (Nat × Nat)) : State := { s with flash := { s.flash with cmdQ := cset [] s.flash.cmdQ fc q } }

/-- A free credit of an express channel; a standard channel needs none, which is credit 0 here. -/
def freeCredit (s : State) (fc : Nat) : Option Nat :=
  if fc < 4 then (List.range 256).find? fun k => cget 0 s.flash.credits (fc * 256 + k) == 0 else some 0

/-- Take or return a credit of an express channel. -/
def setCredit (s : State) (fc k v : Nat) : State :=
  if fc < 4 then { s with flash := { s.flash with credits := cset 0 s.flash.credits (fc * 256 + k) v } } else s

/-- A command's argument with its credit. -/
def withCredit (arg k : Nat) : Nat := arg + 2 ^ 48 * k

/-- Can a command be handed over: the channel works and its queue has room. -/
def canHand (s : State) (fc : Nat) : Bool :=
  !s.faults.inReset.contains 16 && s.flash.trained && !chanLost s fc && decide ((cmdQueue s fc).length < 64)

/-- Hand a command to the command queue (kind, argument, granules of its data). -/
def hand (s : State) (fc kind arg granules k : Nat) : State :=
  setCredit (setCmds s fc (cmdQueue s fc ++ [(kind, withCredit arg k)])) fc k granules

/-- The order of R141. -/
def readBefore (a b : FRead) : Bool :=
  if a.admitAt ≠ b.admitAt then a.admitAt < b.admitAt else if a.query ≠ b.query then a.query < b.query else a.rank < b.rank

/-- The first channel after a lost one that works; a read rebuilt from a stripe goes out on it, as one command for its 23. -/
def readChannel (s : State) (fc : Nat) : Nat :=
  if !chanLost s fc then fc else (((List.range 24).map fun i => (fc + i) % 24).find? fun c => !chanLost s c).getD fc

/-- The entry by which a query planned in frame `f` reads a slot of a full vector (R190): the slot map's, or, where a merge has switched since, the one
of before. -/
def entryAt (s : State) (f slot : Nat) : Nat :=
  let old := fun (m : Merge) => match m.switched with
    | some g => if f < g then (m.vecs.find? fun x => x.1 == slot).map Prod.snd else none
    | none => none
  (s.bg.merges.findSome? old).getD (slotEntry s slot)

/-- A read of a window that begins now (R141): admission frame, query slot and stage-2 rank of its query, REQUEST_ID, candidate, slot, and the slot's
entry. What the staging area still holds is back at once. -/
def newRead (s : State) (p : Plate) (admitAt query rank req vid slot e : Nat) : FRead :=
  let fc := slotChannel e
  let here := cget [] s.flash.staged (sePlace e)
  let staged := if e = slotEntry s slot then seStaged e else !here.isEmpty
  let stage := if staged then 2 else if chanLost s fc ∧ (rebuildSlot s (seStripe e) (seIndex e)).isNone then 3 else 0
  { admitAt := admitAt, query := query, rank := rank, req := req, vid := vid, slot := slot
    channel := readChannel s fc, until_ := s.run.frame + p.flashWindow, cost := if staged then 0 else if chanLost s fc then 23 else 1, stage := stage
    data := if staged then fullSlot here else [], place := sePlace e }

/-- Insert a read in the order of R141. -/
def insertRead (r : FRead) : List FRead → List FRead
  | [] => [r]
  | x :: l => if readBefore r x then r :: x :: l else x :: insertRead r l

/-- The first read of a channel's read queue. -/
def nextRead (s : State) (fc : Nat) : Option FRead :=
  (s.flash.reads.filter fun r => r.channel == fc && r.stage == 4).foldl
    (fun acc r => match acc with | none => some r | some a => if readBefore r a then some r else some a) none

/-- R238: FISSUE. -/
def execFissue (fc : Fin 24) (s : State) : Host.Outcome State Fault Refusal :=
  laneRun s (fcLane fc) 0x10 ⟨0, 0⟩ 1 fun s =>
    match nextRead s fc, freeCredit s fc with
    | some r, some k =>
      if canHand s fc then
        .next (hand { s with flash := { s.flash with reads := s.flash.reads.map fun q => if q = r then { q with stage := 1 } else q } }
          fc 0 r.place 64 k)
      else .next s
    | _, _ => .next s

/-- R238: FPROG. -/
def execFprog (fc : Fin 24) (s : State) : Host.Outcome State Fault Refusal :=
  laneRun s (fcLane fc) 0x11 ⟨0, 0⟩ 1 fun s =>
    match cget [] s.flash.progQ fc, freeCredit s fc with
    | st :: q, some k =>
      if canHand s fc then .next (hand { s with flash := { s.flash with progQ := cset [] s.flash.progQ fc q } } fc 1 st 512 k)
      else .next s
    | _, _ => .next s

/-- R238: FERASE. -/
def execFerase (fc : Fin 24) (s : State) : Host.Outcome State Fault Refusal :=
  laneRun s (fcLane fc) 0x12 ⟨0, 0⟩ 1 fun s =>
    match cget [] s.flash.eraseQ fc with
    | st :: q =>
      if canHand s fc then .next (setCmds { s with flash := { s.flash with eraseQ := cset [] s.flash.eraseQ fc q } } fc (cmdQueue s fc ++ [(2, st)]))
      else .next s
    | [] => .next s

/-- The first command of a kind in a channel's command queue, and the queue without it. -/
def popCmd (s : State) (fc kind : Nat) : Option (Nat × Nat × State) :=
  ((cmdQueue s fc).find? fun c => c.1 == kind).map fun c =>
    (c.2 % 2 ^ 48, c.2 / 2 ^ 48, setCmds s fc ((cmdQueue s fc).erase c))

/-! ### NAND operations that complete -/

/-- The tiles that lie in a slot. -/
def slotTiles (s : State) (n : Nat) : List (Nat × Nat) :=
  ((List.range 64).filterMap fun i => (tileAt s (3 * 2 ^ 62 + slotBytes * n + 32 * i)).map fun x => (x.1.id, x.2)).eraseDups

/-- A poison finding on a slot: POISONED in its slot map entry, and what R252 does for each tile in it. -/
def poisonSlot (s : State) (fc n : Nat) : State :=
  let e := slotEntry s n
  let s := setEntry s n (mkEntry (seStripe e) (seIndex e) (seStaged e) true (seValid e))
  (slotTiles s n).foldl (fun s x => poisonFinding s x.1 x.2 (fcLane fc) 0) s

/-- Data of a read on a standard channel land in the receive area of the slice, in T2, for BRD to read (R247, R249). -/
def receive (s : State) (n : Nat) (d : Bytes) : State :=
  let a := match s.flash.received.find? fun kv => kv.1 == n with
    | some kv => some kv.2
    | none => choosePlace (places s (stripeSlice s (seStripe (slotEntry s n))) 2 slotBytes) s.drawn
  match a with
  | none => s
  | some a => { writeMem s a d with flash := { s.flash with received := cset 0 s.flash.received n a }, drawn := s.drawn + 1 }

/-- The slot whose data lie at a place now. -/
def slotAt (s : State) (place : Nat) : Option Nat :=
  (s.flash.slotMap.find? fun kv => seValid kv.2 && sePlace kv.2 == place).map Prod.fst

/-- What a NAND read of a place gives, and whether it is lost: the programmed data, or the stripe's XOR where the slot's channel is lost (R251) or the
controller could not correct the read and the stripe's parity did (R142). A unit that the node has not programmed holds what the read brings. -/
def readBack (s : State) (place : Nat) (r : NandRead) : Bytes × Bool :=
  let st := place / stripeSlots
  let ch := unitChannel st (place % stripeSlots / 8)
  let other := rebuildSlot s st (place % stripeSlots)
  if chanLost s ch then
    match other with
    | some d => (d, r.uncorrectable)
    | none => (fullSlot r.data, true)
  else if r.uncorrectable then
    match other with
    | some d => (d, !r.rebuilt)
    | none => (fullSlot r.data, true)
  else if cget 0 s.flash.pages (24 * st + ch) = 0 then (fullSlot r.data, false)
  else (fullSlot (cget [] s.flash.nand place), false)

/-- R142, R249 to R252: the first read of the channel's command queue returns. -/
def execFlashReadDone (fc : Fin 24) (r : NandRead) (s : State) : Host.Outcome State Fault Refusal :=
  match popCmd s fc 0 with
  | none => .next s
  | some (pl, k, s) =>
    let (d, bad) := readBack s pl r
    let s := countT3 (countFc (countFc s fc 0 slotBytes) fc 2 1) (pl / stripeSlots) 7 slotBytes
    let ch := unitChannel (pl / stripeSlots) (pl % stripeSlots / 8)
    let s := if chanLost s ch || (r.uncorrectable && r.rebuilt) then countUnits s ch fc else s
    let s := if r.corrected then countFc s fc 4 1 else s
    let s := if r.uncorrectable then addItem (countFc s fc 5 1) 1 (.parity fc) (fcLane fc) false 1 else s
    let s := match bad, slotAt s pl with | true, some n => poisonSlot s fc n | _, _ => s
    let mine := fun (q : FRead) => q.channel == fc.val && q.place == pl && q.stage == 1
    match s.flash.reads.find? mine with
    | none => .next (setCredit s fc k 0)   -- the read is late already: its data are discarded
    | some q =>
      let s : State := { s with flash := { s.flash with reads := s.flash.reads.map fun x => if x = q then { x with stage := if bad then 3 else 2, data := d } else x } }
      if bad then .next (setCredit s fc k 0)
      else if fc.val < 4 then .next (writeMem s (xAddr (4194304 * fc.val + 16384 * k)) d)
      else .next (receive s q.slot d)

/-- R246, R247: a unit program is done: the unit's slots are in NAND, on a page of the flash controller's choice. -/
def execFlashProgramDone (fc : Fin 24) (s : State) : Host.Outcome State Fault Refusal :=
  match popCmd s fc 1 with
  | none => .next s
  | some (st, k, s) =>
    let here := s.flash.staged.filter fun kv => kv.1 / stripeSlots == st && unitChannel st (kv.1 % stripeSlots / 8) == fc.val
    let s := setCredit (countFc s fc 1 16384) fc k 0
    let n := slotBytes * here.length
    let s := count (count s 16 2 (stripeSlice s st) 8 n) 16 3 0 8 n
    let left := ((s.flash.programs.find? fun p => p.1 == st).map Prod.snd).getD 1 - 1
    .next { s with
      drawn := s.drawn + 1
      flash := { s.flash with
        nand := here.foldl (fun m kv => cset [] m kv.1 kv.2) s.flash.nand
        pages := cset 0 s.flash.pages (24 * st + fc.val) (Config.free s.drawn % 2 ^ 32 + 1)
        programs := if left = 0 then s.flash.programs.filter fun p => p.1 != st
                    else s.flash.programs.map fun p => if p.1 = st then (st, left) else p
        clearing := if left = 0 then s.flash.clearing ++ [st] else s.flash.clearing } }

/-- R248: a block erase is done: the reclaimed stripe's unit is empty. -/
def execFlashEraseDone (fc : Fin 24) (s : State) : Host.Outcome State Fault Refusal :=
  match popCmd s fc 2 with
  | none => .next s
  | some (st, _, s) =>
    .next { countFc s fc 6 1 with flash := { s.flash with
      nand := cdrop (fun k => k / stripeSlots == st && unitChannel st (k % stripeSlots / 8) == fc.val) s.flash.nand
      parity := if st % 24 = fc.val then cdrop (fun k => k / 8 == st) s.flash.parity else s.flash.parity
      pages := cset 0 s.flash.pages (24 * st + fc.val) 0 } }

/-! ### Channels lost and trained (R249, R251, R478, R502 to R506) -/

/-- A channel is lost: its programs are not made, and a parity rebuild is queued (R194, R251). -/
def loseChannel (s : State) (fc : Nat) : State :=
  let gone := cget [] s.flash.progQ fc ++ ((cmdQueue s fc).filter fun c => c.1 == 1).map fun c => c.2 % 2 ^ 48
  let programs := gone.foldl (fun ps st => ps.map fun p => if p.1 = st then (p.1, p.2 - 1) else p) s.flash.programs
  let s := { s with flash := { s.flash with
    lost := cset false s.flash.lost fc true, progQ := cset [] s.flash.progQ fc [], eraseQ := cset [] s.flash.eraseQ fc []
    cmdQ := cset [] s.flash.cmdQ fc []
    programs := programs.filter fun p => p.2 != 0
    clearing := s.flash.clearing ++ (programs.filter fun p => p.2 == 0).map Prod.fst } }
  addItem s 1 (.parity fc) (fcLane fc) false 1

/-- R506: a line mismatch on two consecutive commands. -/
def execFlashLineFault (fc line : Fin 24) (s : State) : Host.Outcome State Fault Refusal :=
  if s.flash.trained && !chanLost s fc && !s.faults.inReset.contains 16 then
    .next (loseChannel (logFault s { code := 0x207, event := true, dom := 16, unit := 0x300 + fc.val, arg0 := fc.val, arg1 := line.val }) fc)
  else .next s

/-- R478: a group becomes invalid in service. -/
def execNandSenseLost (group : Fin 6) (s : State) : Host.Outcome State Fault Refusal :=
  let g := group.val
  if s.power.state != psOn || !bit s.power.sense g then .next s
  else
    let s' := { s with power := { s.power with sense := s.power.sense - 2 ^ g, live := s.power.live ||| 2 ^ (10 + g) } }
    let s' := logFault s' { code := 0x106, event := true, dom := 16, arg0 := g }
    let s' := startReset s' 16
    .next (powerIbi s { s' with faults := { s'.faults with senseHeld := s'.faults.senseHeld ++ [g] } })

/-- R478: the group has been valid for 100 ms; DOM_FLASH is released once no group holds it. -/
def execNandSenseRestored (group : Fin 6) (s : State) : Host.Outcome State Fault Refusal :=
  let g := group.val
  if !s.faults.senseHeld.contains g then .next s
  else
    let s' := { s with
      power := { s.power with sense := s.power.sense ||| 2 ^ g, live := if bit s.power.live (10 + g) then s.power.live - 2 ^ (10 + g) else s.power.live }
      faults := { s.faults with senseHeld := s.faults.senseHeld.filter (· != g) } }
    let s' := if s'.faults.senseHeld.isEmpty then { s' with faults := { s'.faults with inReset := s'.faults.inReset.filter (· != 16) } } else s'
    .next (powerIbi s s')

/-- What training makes of one channel: lost, in REACH, changed to REACH from RATE, its fault records as (code, ARG1). -/
structure ChanOutcome where
  lost    : Bool
  reach   : Bool
  changed : Bool
  faults  : List (Nat × Nat)
  deriving DecidableEq, Repr

/-- The fault records of the line test (R503, R504): which result, on which line. -/
def lineFaults (ls : List LineResult) : List (Nat × Nat) :=
  (List.range 24).filterMap fun i =>
    match ls.getD i .loaded with
    | .shortGnd => some (0x200, i)
    | .shortVio => some (0x201, i)
    | .bridge o => some (0x202, (Config.bridgeArg i o.val).toNat)
    | .opened => if i < 16 ∨ (20 ≤ i ∧ ls.getD (i - 4) .loaded = .loaded) then some (0x203, i) else none
    | .loaded => none

/-- A line result that loses the channel (R504). -/
def lineFatal (ls : List LineResult) : Bool :=
  (List.range 24).any fun i =>
    match ls.getD i .loaded with
    | .opened => decide (i < 16)
    | .loaded => false
    | _ => true

/-- The search of R505 over positions 0 to 3: packages used, and the position of a missing package. -/
def packageSearch (t : FlashTrain) : Nat × Option Nat :=
  let loaded := fun (k : Nat) => t.lines.getD (16 + k) .loaded == .loaded && t.lines.getD (20 + k) .loaded == .loaded
  let good := fun (k : Nat) => loaded k && t.packs.getD k .missing == .qualified
  let stop := ((List.range 4).find? fun k => !good k).getD 4
  let beyond := (List.range 4).any fun k => decide (stop < k) && good k
  (stop, if stop < 4 ∧ (loaded stop ∨ beyond) then some stop else none)

/-- The outcome of one channel: express or standard, set to REACH or not (R249, R504 to R506). -/
def trainChannel (express setReach : Bool) (t : FlashTrain) : ChanOutcome :=
  let lf := lineFaults t.lines
  if lineFatal t.lines then ⟨true, false, false, lf⟩
  else
    let (used, missing) := packageSearch t
    let lf := lf ++ (match missing with | some k => [(0x204, k)] | none => [])
    if used = 0 then ⟨true, false, false, lf⟩
    else if express then (if t.dq3600 then ⟨false, false, false, lf⟩ else ⟨true, false, false, lf ++ [(0x205, 0)]⟩)
    else if setReach then (if t.dq2400 then ⟨false, true, false, lf⟩ else ⟨true, false, false, lf ++ [(0x205, 0)]⟩)
    else if used > 2 then (if t.dq2400 then ⟨false, true, true, lf⟩ else ⟨true, false, false, lf ++ [(0x205, 0)]⟩)
    else if t.dq3600 then ⟨false, false, false, lf⟩
    else if t.dq2400 then ⟨false, true, true, lf ++ [(0x206, 0)]⟩
    else ⟨true, false, false, lf ++ [(0x205, 0)]⟩

/-- Put one channel's outcome in force; one that training loses has its live slots rewritten (R251). -/
def applyOutcome (s : State) (fc : Nat) (c : ChanOutcome) : State :=
  let s := if c.lost && !chanLost s fc && !s.bg.items.any (fun i => i.work == .parity fc) then addItem s 1 (.parity fc) (fcLane fc) false 1 else s
  let s := c.faults.foldl (fun s f => logFault s { code := f.1, event := false, dom := 16, unit := 0x300 + fc, arg0 := fc, arg1 := f.2 }) s
  let s := if c.changed then postEvent s 0 8 0 fc else s
  { s with flash := { s.flash with
      lost := cset false s.flash.lost fc (c.lost || isQuarantined s (0x300 + fc)), reach := cset false s.flash.reach fc c.reach } }

/-- A channel with nothing found. -/
def noTrain : FlashTrain := ⟨[], [], false, false, 0⟩

/-- R249, R478, R502 to R506, R344: flash training ends. Channels of an invalid group are lost untrained. -/
def execFlashTrainingDone (results : List FlashTrain) (s : State) : Host.Outcome State Fault Refusal :=
  if s.power.state ≠ psOn ∨ s.flash.trained ∨ s.faults.inReset.contains 16 then .next s
  else
    let setReach := match setting s 4 0 with | some b => leNat b | none => 0
    let s := (List.range 24).foldl (fun s fc =>
      if bit s.power.sense (fc / 4) then
        applyOutcome s fc (trainChannel (decide (fc < 4)) (bit setReach (fc - 4)) (results.getD fc noTrain))
      else applyOutcome s fc ⟨true, false, false, []⟩) s
    let caps := ((List.range 24).filter fun fc => !chanLost s fc).map fun fc => (results.getD fc noTrain).capacity
    let cap := match caps with | [] => 0 | a :: r => r.foldl min a
    .next (finishResets { s with flash := { s.flash with trained := true, capacity := cap } } 16)

end Sys2Proof.Machine
end

