-- ==== Sys2Proof/Machine/Links.lean ====
section
/-!
DEFINITION. Fabric links (R257 to R265): routing (R271 to R273), flits, credits, acknowledgement and replay, training (R260 to
R262), lasers (R259), latencies (R43, R270), and conjunctions (R278 to R281).
-/
namespace Sys2Proof.Machine

/-! ### Routing (R271 to R274) -/

/-- The coordinates of a node ID differ in exactly one place (R272). -/
def isNeighbour (a b : Nat) : Bool :=
  b2n (a % 8 != b % 8) + b2n (a / 8 % 8 != b / 8 % 8) + b2n (a / 64 != b / 64) == 1

/-- The first hop of the dimension-order route from `a` to `b` (R273). -/
def firstHop (a b : Nat) : Nat :=
  if a % 8 ≠ b % 8 then a - a % 8 + b % 8
  else if a / 8 % 8 ≠ b / 8 % 8 then a - 8 * (a / 8 % 8) + 8 * (b / 8 % 8)
  else b

/-- The view that decides who takes part: the one in force, or in formation the pending one. -/
def treeView (s : State) : Option View := if s.run.running then s.orr.view else s.orr.pending

/-- The root of the beat tree; a node without a view is its own. -/
def beatRoot (s : State) : Nat := match treeView s with | some v => v.coord | none => nodeId s

/-- The node's own position in its conjunction, and whether it has the primary role. -/
def conjPos (s : State) : Nat := s.boot.conjId
def conjPrimary (s : State) : Bool := conjPos s == s.conj.primary

/-- A member of a conjunction whose beat root is the primary (R279). -/
def conjMember (s : State) : Bool := s.conj.formed && !conjPrimary s

/-- The root of the domain, which in a conjunction is its primary. -/
def isRoot (s : State) : Bool := beatRoot s == nodeId s && !conjMember s

/-- The live nodes of the tree view. -/
def treeNodes (s : State) : List Nat := match treeView s with | some v => v.nodes [1, 2] | none => [nodeId s]

/-- The children of this node: live nodes whose first hop to the root it is. A member of a conjunction leaves them to the primary. -/
def beatChildren (s : State) : List Nat :=
  if conjMember s then [] else (treeNodes s).filter fun n => n != nodeId s && n != beatRoot s && firstHop n (beatRoot s) == nodeId s

/-- A link's record. -/
def getLink (s : State) (l : Nat) : Link := cget noLink s.fab.links l
def setLink (s : State) (l : Nat) (x : Link) : State := { s with fab := { s.fab with links := cset noLink s.fab.links l x } }

/-- The working DOMAIN links to a neighbour, by link number (R272). -/
def linksTo (s : State) (n : Nat) : List Nat :=
  (List.range 32).filter fun l =>
    let x := getLink s l
    x.state == 3 && portRole s (l / 4) == 0 && (match x.peer with | some t => t.node.val == n | none => false)

/-- The working CONJ links to a position (R278). -/
def conjLinks (s : State) (pos : Nat) : List Nat :=
  (List.range 32).filter fun l =>
    let x := getLink s l
    x.state == 3 && portRole s (l / 4) == 2 && (match x.peer with | some t => t.conjId.toNat == pos | none => false)

/-- The links by which a flit for a node leaves: those to the first hop of its route (R273). A node that is neither LIVE nor LOADING uses any DOMAIN
link where it has none of those (R411), and a member of a conjunction without one hands the flit to the next member (log entry 92). -/
def hopLinks (s : State) (dst : Nat) : List Nat :=
  let ls := linksTo s (firstHop (nodeId s) dst)
  if !ls.isEmpty then ls
  else if s.conj.formed then
    let ms := s.conj.members
    conjLinks s (ms.getD ((ms.idxOf (conjPos s) + 1) % max 1 ms.length) 0)
  else if liveNode s (nodeId s) then []
  else (List.range 32).filter fun l => (getLink s l).state == 3 && portRole s (l / 4) == 0

/-! ### Flits (R263, R264) -/

/-- Credits each VC starts with (R264). -/
def vcCredits (vc : Nat) : Nat := [32, 128, 15, 15].getD vc 0

/-- The VC of a flit; TRAIN and IDLE have none. -/
def flitVc (f : Bytes) : Option Nat := if fld f 0 0 8 = 0 ∨ fld f 0 0 8 = 6 then none else some (fld f 0 8 2)

/-- Where a flit stands in the order of transmission: ARM and BEAT, CONTROL, SLOT, BULK2, BULK1. -/
def flitRank (f : Bytes) : Nat :=
  let ty := fld f 0 0 8
  if ty = 3 ∨ ty = 4 then 0 else [1, 2, 4, 3].getD (fld f 0 8 2) 1

/-- May a link send a flit now: it holds a credit and its replay buffer has room (R264, R265). -/
def maySend (x : Link) (f : Bytes) : Bool :=
  decide (x.replay.length < 128) &&
    (match flitVc f with | none => true | some vc => decide (cget 0 x.used vc < vcCredits vc))

/-- The next flit a link sends. -/
def nextFlit (x : Link) : Option Bytes :=
  (x.queue.filter (maySend x)).foldl (fun acc f => match acc with
    | none => some f
    | some a => if flitRank f < flitRank a then some f else some a) none

/-- The trailer of a flit on a link. -/
def trailer (x : Link) (head : Bytes) : Bytes :=
  let t := layoutBytes 12 [(0, 2, x.txSeq), (2, 2, (x.rxSeq + 65535) % 65536),
    (4, 4, packBits [(0, 8, cget 0 x.returns 0), (8, 8, cget 0 x.returns 1), (16, 4, cget 0 x.returns 2), (20, 4, cget 0 x.returns 3),
      (24, 1, b2n x.retry)])]
  t ++ leBytes 4 (crc32c (head ++ t))

/-- A link counter (group 5). -/
def countLink (s : State) (l c n : Nat) : State := count s 4 5 l c n

/-- A flit leaves by a link: where it was passed on, its credit goes back on the link it came by (R264). -/
def passedOn (s : State) (l : Nat) (f : Bytes) : State :=
  match s.fab.transit.find? fun t => t.1 == l && t.2.2 == f with
  | none => s
  | some t =>
    let x := getLink s t.2.1
    let s := setLink s t.2.1 { x with returns := match flitVc f with | none => x.returns | some vc => cmod 0 x.returns vc (· + 1) }
    { s with fab := { s.fab with transit := s.fab.transit.erase t } }

/-- Send the flits a link may send, at most `n`. -/
def pump (s : State) (l : Nat) : Nat → State
  | 0 => s
  | n + 1 =>
    let x := getLink s l
    if x.state ≠ 3 then s
    else match nextFlit x with
      | none => s
      | some f =>
        let x' := { x with
          queue := x.queue.erase f, replay := x.replay ++ [f ++ trailer x f], txSeq := (x.txSeq + 1) % 65536, retry := false, returns := []
          used := match flitVc f with | none => x.used | some vc => cmod 0 x.used vc (· + 1) }
        pump (passedOn (countLink (countLink (setLink s l x') l 0 1) l 2 256) l f) l n

/-- Queue flits on a link, and send what may be sent. -/
def linkSend (s : State) (l : Nat) (fs : List Bytes) : State :=
  let x := getLink s l
  pump (setLink s l { x with queue := x.queue ++ fs }) l (x.queue.length + fs.length)

/-- Send flits toward a node over its first hop's links, in rotation (R273). -/
def routeSome (s : State) (dst : Nat) (fs : List Bytes) : State :=
  match hopLinks s dst with
  | [] => s
  | ls =>
    let s' := (List.range fs.length).foldl (fun s i => linkSend s (ls.getD ((s.fab.rotate + i) % ls.length) 0) [fs.getD i []]) s
    { s' with fab := { s'.fab with rotate := (s.fab.rotate + fs.length) % 32 } }

/-- The orrery messages that wait go to their links (R411; log entry 38). -/
def sendOrrery (s : State) : State :=
  s.fab.orrery.foldl (fun s m => routeSome s m.1 m.2) { s with fab := { s.fab with orrery := [] } }

/-- Send flits toward a node, behind the orrery messages that wait. -/
def routeFlits (s : State) (dst : Nat) (fs : List Bytes) : State := routeSome (sendOrrery s) dst fs

/-- The links the flits of a message leave by. -/
def routeLinks (s : State) (dst n : Nat) : List Nat :=
  match hopLinks s dst with
  | [] => []
  | ls => (List.range n).map fun i => ls.getD ((s.fab.rotate + i) % ls.length) 0

/-- Count the flits of a slot on the links they leave by (R270). -/
def countSlotFlits (s : State) (slot : Nat) (links : List Nat) : State :=
  { s with fab := { s.fab with slotFlits := links.foldl (fun m l => cmod 0 m (slot * 32 + l) (· + 1)) s.fab.slotFlits } }

/-- Report something of the fabric (log entry 76). -/
def note (s : State) (n : FabricNote) : State := { s with fab := { s.fab with notes := s.fab.notes ++ [n] } }

/-- The domain's neighbours of this node (R272). -/
def domainPeers (s : State) : List Nat := (domainNodes s).filter (isNeighbour (nodeId s))

/-- Remove a link from service. -/
def dropLink (s : State) (l st : Nat) : State := setLink s l { getLink s l with state := st, queue := [], replay := [] }

/-- What a node reports once a DOMAIN link to a node has gone and no parallel link is left: the neighbour without a link (R272), and, where that was its
parent in the beat tree, a fabric fault (R274; log entry 91). -/
def linkGone (s : State) (n : Nat) : State :=
  if !(linksTo s n).isEmpty || !isNeighbour (nodeId s) n then s
  else
    let s := note s (.noLink n)
    if s.run.running && !isRoot s && firstHop (nodeId s) (beatRoot s) == n then
      logFault s { code := 0x33, event := false, dom := 4, unit := 0x812, arg0 := 1 }
    else s

/-- A link fails in service: it is removed, its parallel links take what it has not sent (R273), and what follows is reported. -/
def failLink (s : State) (l st : Nat) : State :=
  let x := getLink s l
  let s := dropLink s l st
  match x.peer with
  | none => s
  | some p =>
    if x.state ≠ 3 then s
    else
      let ls := linksTo s p.node
      let route := fun (i : Nat) => ls.getD (i % max 1 ls.length) 0
      let s := if ls.isEmpty || portRole s (l / 4) != 0 then s
        else (List.range x.queue.length).foldl (fun s i =>
          let f := x.queue.getD i []
          let move := fun (t : Nat × Nat × Bytes) => if t.1 = l ∧ t.2.2 = f then (route i, t.2) else t
          linkSend { s with fab := { s.fab with transit := s.fab.transit.map move } } (route i) [f]) s
      if portRole s (l / 4) = 0 then linkGone s p.node else s

/-! ### The link receiver (R265) -/

/-- Credits that a trailer returns for a VC. -/
def flitReturns (f : Bytes) (vc : Nat) : Nat := [fld f 0xF4 0 8, fld f 0xF4 8 8, fld f 0xF4 16 4, fld f 0xF4 20 4].getD vc 0

/-- A flit that is accepted at link level, discarded, and counted (R263). -/
def flitUnknown (f : Bytes) : Bool :=
  decide (fld f 0 0 8 > 8) || fld f 0 11 5 != 0 || fld f 0 25 7 != 0 || fld f 4 9 7 != 0 || fld f 8 24 8 != 0 || fld f 0xF4 25 7 != 0 ||
    fld f 0xF8 0 32 != 0

/-- The sequence numbers from the oldest of `n` outstanding up to `ack` that an ACKSEQ acknowledges. -/
def ackCount (x : Link) (ack : Nat) : Nat :=
  let oldest := (x.txSeq + 65536 - x.replay.length) % 65536
  let k := (ack + 65536 - oldest + 1) % 65536
  if k ≤ x.replay.length then k else 0

/-- Replay what is outstanding: counted; after 16 in a row the link is removed (R265). -/
def replayLink (s : State) (l : Nat) : State :=
  let x := getLink s l
  let s := countLink (countLink (countLink (setLink s l { x with replays := x.replays + 1 }) l 4 1) l 0 x.replay.length) l 2
    (256 * x.replay.length)
  if x.replays + 1 < 16 then s
  else logFault (failLink s l 8) { code := 0x34, event := true, dom := 4, unit := 0x400 + l / 4, arg0 := l }

/-- An IDLE flit carries the trailer of a link that has nothing else to send (R263). -/
def sendIdle (s : State) (l : Nat) : State :=
  let dst := match (getLink s l).peer with | some p => p.node.val | none => nodeId s
  linkSend s l [flitHead 0 0 false (nodeId s) dst 0 0 0 s.run.frame []]

/-- After a flit has come in: the link sends what it may, and an IDLE flit where it sends nothing and its trailer has something to tell. -/
def answerFlit (s : State) (l n : Nat) (idle : Bool) : State :=
  let was := (getLink s l).txSeq
  let s := pump (sendOrrery s) l n
  let x := getLink s l
  if x.state = 3 ∧ x.txSeq = was ∧ !idle then sendIdle s l else s

/-- Does a flit go on from here: DATA, DELIVERED, ORRERY and BULK for another node (R263, R273). -/
def goesOn (s : State) (f : Bytes) : Bool := ([1, 2, 5, 7].contains (fld f 0 0 8)) && fld f 4 0 9 != nodeId s

/-- Pass a flit on: its header and payload, a BULK1 flit on BULK2 from here, with the trailer of the next link; a DATA flit counts for its slot (R263,
R264, R270, R273). One that no link takes on is discarded, and its credit goes back. -/
def passFlit (s : State) (l : Nat) (f : Bytes) : State :=
  let head := f.take 240
  let head := if fld head 0 8 2 = 2 then patch head 1 (leBytes 1 (fld head 1 0 8 + 1)) else head
  match hopLinks s (fld f 4 0 9) with
  | [] =>
    let x := getLink s l
    setLink s l { x with returns := match flitVc f with | none => x.returns | some vc => cmod 0 x.returns vc (· + 1) }
  | ls =>
    let o := ls.getD (s.fab.rotate % ls.length) 0
    let s := if fld f 0 0 8 = 1 then countSlotFlits s (fld f 4 16 16) [o] else s
    linkSend { s with fab := { s.fab with rotate := (s.fab.rotate + 1) % 32, transit := s.fab.transit ++ [(o, l, head)] } } o [head]

/-- R263 to R265: a flit arrives on a link. -/
def execLinkFlitReceive (link : Fin 32) (flit : Bytes) (fecOk : Bool) (s : State) : Host.Outcome State Fault Refusal :=
  let l := link.val
  let x := getLink s l
  if x.state ≠ 3 ∨ s.faults.inReset.contains 4 then .next s
  else if !fecOk || flit.length != 256 || fld flit 0xFC 0 32 != crc32c (flit.take 252) || fld flit 0xF0 0 16 != x.rxSeq then
    .next (answerFlit (setLink s l { x with retry := true }) l x.queue.length false)
  else
    let k := ackCount x (fld flit 0xF0 16 16)
    let on := !flitUnknown flit && goesOn s flit
    let x := { x with
      rxSeq := (x.rxSeq + 1) % 65536
      acked := fld flit 0xF0 16 16
      replay := x.replay.drop k
      replays := if k > 0 then 0 else x.replays
      used := (List.range 4).foldl (fun u vc => cmod 0 u vc (· - flitReturns flit vc)) x.used
      returns := match flitVc flit with | none => x.returns | some vc => if on then x.returns else cmod 0 x.returns vc (· + 1) }
    let s := countLink (countLink (setLink s l x) l 1 1) l 3 256
    let s := if flitUnknown flit then countLink s l 5 1 else s
    let s := if fld flit 0xF4 24 1 = 1 ∧ !x.replay.isEmpty then replayLink s l else s
    let s := if on then passFlit s l flit else s
    .next (answerFlit s l (getLink s l).queue.length (fld flit 0 0 8 == 0))

/-- R265: ACKSEQ has not advanced for 4 µs while flits are outstanding. -/
def execReplayTimeout (link : Fin 32) (s : State) : Host.Outcome State Fault Refusal :=
  let x := getLink s link
  if x.state = 3 ∧ !x.replay.isEmpty then .next (replayLink s link) else .next s

/-! ### Training (R259 to R262) -/

/-- A lane trains: its port has a role other than OFF, DOM_FABRIC is out of reset, and nothing has been found of it yet. -/
def laneTrains (s : State) (l : Nat) : Bool :=
  s.power.state == 2 && !s.faults.inReset.contains 4 && portRole s (l / 4) != 3 && decide ((getLink s l).state ≤ 2)

/-- The peer's Tx lane that this node hears on each of its Rx lanes; 255 for none (R260). -/
def hearsNow (s : State) : List Nat :=
  (List.range 32).map fun l => match (getLink s l).peer with | some p => 4 * p.port.val + p.lane.val | none => 255

/-- The TRAIN flits that a lane sends until it has formed a link (R260, R271). -/
def trainOut (s : State) (l : Nat) : TrainMsg :=
  ⟨BitVec.ofNat 16 (domainNumber s), Fin.ofNat 512 (nodeId s), Fin.ofNat 8 (l / 4), Fin.ofNat 4 l, Fin.ofNat 4 (portRole s (l / 4)),
   BitVec.ofNat 6 s.boot.slotId, BitVec.ofNat 3 s.boot.conjId, BitVec.ofNat 64 s.boot.serial, hearsNow s⟩

def sendTrain (s : State) (l : Nat) : State := { s with fab := { s.fab with out := s.fab.out ++ [.train l (trainOut s l)] } }

/-- R260, R261: light is received; a lane whose pair stands switched then is one that the node has corrected, and reports. -/
def execLightDetected (lane : Fin 32) (s : State) : Host.Outcome State Fault Refusal :=
  if laneTrains s lane then
    let x := getLink s lane
    let s := if x.swapped then note s (.swapped lane) else s
    .next (sendTrain (setLink s lane { x with state := 2 }) lane)
  else .next s

/-- R261: a half-period without light has passed. -/
def execPairSwapToggle (lane : Fin 32) (s : State) : Host.Outcome State Fault Refusal :=
  let x := getLink s lane
  if laneTrains s lane && decide (x.state ≤ 1) then
    .next (sendTrain (setLink s lane { x with state := 1, swapped := !x.swapped }) lane)
  else .next s

/-- Why a DOMAIN link to this peer is MISWIRED (R272). -/
def miswired (s : State) (p : TrainMsg) : Bool :=
  !isNeighbour (nodeId s) p.node.val || !inDomain s p.node.val || p.domain.toNat != domainNumber s || p.role.val != 0

/-- The Tx lane of this node that the peer reports hearing: on the lane that its flits come from, else on the first of its lanes that hears one of
this port role which has no link yet (R262; log entry 91). -/
def txHeard (s : State) (rx : Nat) (p : TrainMsg) : Option Nat :=
  let q := 4 * p.port.val + p.lane.val
  let free := fun (t : Nat) => !(List.range 32).any fun l => l != rx && (getLink s l).state == 3 && (getLink s l).tx == some t
  let ok := fun (t : Nat) => decide (t < 32) && portRole s (t / 4) == portRole s (rx / 4) && free t
  if ok (p.hears.getD q 255) then some (p.hears.getD q 255) else p.hears.find? ok

/-- R260, R262, R272: a TRAIN flit arrives on a lane. -/
def execTrain (rx : Fin 32) (latencyNs : Nat) (p : TrainMsg) (s : State) : Host.Outcome State Fault Refusal :=
  if laneTrains s rx then
    let x := getLink s rx
    let t := txHeard s rx p
    let st := if t.isNone then 2 else if portRole s (rx.val / 4) = 0 ∧ miswired s p then 6 else 3
    .next (sendTrain (setLink s rx { x with state := st, peer := some p, latency := latencyNs, tx := t }) rx)
  else .next s

/-- R260, R262: 500 ms have passed: no light is DARK, light without an answer is ONE_WAY. -/
def execLaneTrainingTimeout (lane : Fin 32) (s : State) : Host.Outcome State Fault Refusal :=
  let x := getLink s lane
  if laneTrains s lane then
    let heard := decide (x.state = 2)
    .next (note (setLink s lane { x with state := if heard then 5 else 4 }) (if heard then .oneWay lane else .dark lane))
  else .next s

/-- The member positions of a conjunction retained at the primary: size and arrangement (R278). -/
def conjSetting (s : State) : Nat × Nat :=
  match setting s 5 0 with
  | some b => (leNat b % 16, leNat b / 16)
  | none => (1, 0)

/-- The node is configured as a member of a conjunction: a CONJ port is in use and it is a secondary, or the primary of more than
one. -/
def conjCandidate (s : State) : Bool :=
  (List.range 8).any (fun p => portRole s p == 2) && (s.boot.conjId != 0 || decide ((conjSetting s).1 > 1))

/-- R260: fabric training is complete. DARK and ONE_WAY lanes are reported (R412), and neighbours without a working link (R272); a secondary sends its
JOIN (R278). -/
def execFabricTrainingComplete (s : State) : Host.Outcome State Fault Refusal :=
  if s.power.state ≠ 2 ∨ s.fab.trained ∨ s.faults.inReset.contains 4 then .next s
  else
    let s := { s with fab := { s.fab with trained := true } }
    let bad := ((List.range 32).filter fun l => (getLink s l).state == 4 || (getLink s l).state == 5).length
    let s := match s.orr.view with
      | some v => if bad > 0 then orrSend s 1 v.coord (nodeId s) 0 (min 32 (4 * bad)) else s
      | none => s
    let s := ((domainPeers s).filter fun n => (linksTo s n).isEmpty).foldl (fun s n => note s (.noLink n)) s
    .next (if conjCandidate s && s.boot.conjId != 0 then
      { s with fab := { s.fab with out := s.fab.out ++ [.conjJoin s.boot.conjId s.boot.serial s.boot.fwDigest] } } else s)

/-- R259: a laser fails, or with `engine` the whole optical engine of the lane, whose 16 links go together. -/
def execLaserFail (lost : LaserLoss) (s : State) : Host.Outcome State Fault Refusal :=
  let l := lost.lane.val
  let st := (getLink s l).state
  if s.power.state ≠ 2 ∨ s.faults.inReset.contains 4 ∨ portRole s (l / 4) = 3 ∨ st = 7 then .next s
  else
    let s := if lost.engine then ((List.range 16).map (l / 16 * 16 + ·)).foldl (fun s k => failLink s k 7) s else failLink s l 7
    .next (logFault s { code := 0x35, event := true, dom := 4, unit := 0x400 + l / 4, arg0 := l, arg1 := b2n lost.engine })

/-- R43, R270: a measured latency, of the beat tree (0 hops) or of a route of some hops. -/
def execFabricLatency (hops ns : Nat) (s : State) : Host.Outcome State Fault Refusal :=
  if s.power.state ≠ 2 then .next s
  else
    let s := { s with fab := if hops = 0 then { s.fab with treeNs := ns } else { s.fab with routeNs := cset 0 s.fab.routeNs hops ns } }
    match s.run.running, s.run.plate with
    | true, some p =>
      let past := if hops = 0 then decide (p.treeNs < ns) else p.slots.any fun t => t.hops == hops && decide (t.routeNs < ns)
      .next (if past then logFault s { code := 0x33, event := false, dom := 4, unit := 0x812, arg0 := hops, arg1 := ns } else s)
    | _, _ => .next s

/-! ### Conjunctions (R278 to R281) -/

/-- Is this node a secondary of a conjunction, formed or not. -/
def conjSecondary (s : State) : Bool := if s.conj.formed then !conjPrimary s else conjCandidate s && s.boot.conjId != 0

/-- A member has a working CONJ link to a position. -/
def conjLink (s : State) (pos : Nat) : Bool := !(conjLinks s pos).isEmpty

/-- A millisecond passes (log entry 4): in the power controller, and for a position 1 that has no working CONJ link to position 0 (R280). -/
def tick (s : State) : State :=
  if !s.power.vmgt then s
  else
    { millisecond s with conj := { s.conj with
      unlinked := if s.conj.formed && conjPos s == 1 && !conjLink s 0 then min 10 (s.conj.unlinked + 1) else 0 } }

/-- Positions 1 to M − 1 each joined exactly once with the primary's firmware, and each has a CONJ link (R278). -/
def conjComplete (s : State) (m : Nat) : Bool :=
  let js := s.conj.joined
  js.length == m - 1 &&
    (List.range (m - 1)).all fun i =>
      js.any (fun j => j.1 == i + 1 && j.2.2 == s.boot.fwDigest) && conjLink s (i + 1)

/-- The conjunction forms at the primary: ACCEPT goes to every member, and it is one node (R278). -/
def conjForm (s : State) : State :=
  let (m, arr) := conjSetting s
  let e := s.conj.epoch + 1
  let s := { s with
    conj := { s.conj with formed := true, size := m, arrangement := arr, epoch := e, members := List.range m, primary := 0 }
    fab := { s.fab with out := s.fab.out ++ (List.range (m - 1)).map fun i => .conjAccept (i + 1) m arr (nodeId s) e } }
  s

/-- R278: the primary receives a JOIN. -/
def execConjJoin (position : Fin 8) (serial : BitVec 64) (digest : BitVec 256) (s : State) : Host.Outcome State Fault Refusal :=
  if s.boot.conjId ≠ 0 ∨ s.conj.formed ∨ s.conj.failed ∨ !conjCandidate s ∨ !s.fab.trained then .next s
  else
    let s := { s with conj := { s.conj with joined := s.conj.joined ++ [(position.val, serial.toNat, digest.toNat)] } }
    .next (if conjComplete s (conjSetting s).1 then conjForm s else s)

/-- R278: a secondary receives ACCEPT, and the members enter RESTORED together. -/
def execAccept (size : Fin 9) (arrangement : Fin 3) (node : Fin 512) (epoch : W32) (s : State) : Host.Outcome State Fault Refusal :=
  if s.boot.conjId = 0 ∨ s.conj.formed ∨ !conjCandidate s then .next s
  else
    let s := { s with conj := { s.conj with
      formed := true, size := size.val, arrangement := arrangement.val, epoch := epoch.toNat, members := List.range size.val, primary := 0 } }
    let d := domainSetting s
    let n := node.val
    let d := d - bits d 25 9 * 2 ^ 25 + (n % 8 + 8 * (n / 8 % 8) + 64 * (n / 64)) * 2 ^ 25
    .next { s with boot := { s.boot with settings := putTlv s.boot.settings ⟨1, 0, leBytes 5 d⟩ } }

/-- R278: no conjunction forms: CONJ_INCOMPLETE names the missing and the duplicated positions. -/
def execConjFormTimeout (s : State) : Host.Outcome State Fault Refusal :=
  if s.boot.conjId ≠ 0 ∨ s.conj.formed ∨ s.conj.failed ∨ !conjCandidate s then .next s
  else
    let m := (conjSetting s).1
    let n := fun (i : Nat) => (s.conj.joined.filter fun j => j.1 == i).length + (if i = 0 then 1 else 0)
    let mask := fun (f : Nat → Bool) => (List.range 8).foldl (fun a i => if f i then a + 2 ^ i else a) 0
    let missing := mask fun i => decide (i < m) && n i == 0
    let dup := mask fun i => decide (n i > 1)
    .next (postEvent { s with conj := { s.conj with failed := true } } 0 9 0 (packBits [(0, 8, missing), (8, 8, dup)]))

/-- R281: a member is lost. -/
def execConjMemberLost (position : Fin 8) (s : State) : Host.Outcome State Fault Refusal :=
  let p := position.val
  if !s.conj.formed || !s.conj.members.contains p then .next s
  else
    let s := logFault s { code := 0x38, event := true, dom := 4, unit := 0x812, arg0 := p }
    if s.conj.arrangement = 2 then
      .next { s with conj := { s.conj with members := s.conj.members.filter (· != p), size := s.conj.size - 1 } }
    else .next (enterFault s)

end Sys2Proof.Machine
end

