-- ==== Sys2Proof/Machine/Mover.lean ====
section
/-!
DEFINITION. The movers and the board DRAM edge controller: MCOPY, MXBUF, MCLOSE, MCHECK, BRD, BWR, BGATHER (R235 to R237, R250).
-/
namespace Sys2Proof.Machine

/-- The LANE_IDs of a mover and of the edge controller. -/
def moveLane (cl : Nat) : Nat := clLane cl 6
def edgeLane : Nat := 0x600

/-- R235: MCOPY. A poison mark travels with its granule. -/
def execMcopy (cl : Fin 32) (o : OpAB) (s : State) : Host.Outcome State Fault Refusal :=
  let lane := moveLane cl
  let n := opField o.a 25 2 + 1
  laneChecked s lane 0x10 o 1 (opRsv o.a 27 && opRsv o.b 25) fun s =>
    withAddr (location o.a n) fun a => withAddr (location o.b n) fun d =>
      .next (countTier (countTier (later s 16 (.mem d (readMem s a (32 * n)) (marksOf s a n))) lane 0 (32 * n)) lane 1 (32 * n))

/-- Credits of an express channel and granules of one credit (R250). -/
def credGranules : Nat := 512
def credits : Nat := 256

/-- Return the credits of channel `fc` whose data end within granules `g` to `g + n − 1` (R250). -/
def returnCredits (s : State) (fc g n : Nat) : State :=
  { s with flash := { s.flash with credits := (List.range credits).foldl (fun m k =>
      let used := cget 0 s.flash.credits (fc * credits + k)
      let last := k * credGranules + used - 1
      if used ≠ 0 ∧ g ≤ last ∧ last < g + n then cset 0 m (fc * credits + k) 0 else m) s.flash.credits } }

/-- R235, R250: MXBUF. -/
def execMxbuf (cl : Fin 32) (o : OpAB) (s : State) : Host.Outcome State Fault Refusal :=
  let lane := moveLane cl
  let n := opField o.a 19 2 + 1
  let g := opField o.a 0 17
  let fc := opField o.a 17 2
  laneChecked s lane 0x11 o 1 (opRsv o.a 21 && opRsv o.b 25) fun s =>
    withAddr (if g + n ≤ credits * credGranules then some (xAddr (4194304 * fc + 32 * g)) else none) fun a =>
      withAddr (location o.b n) fun d =>
        .next (countTier (returnCredits (later s 32 (.mem d (readMem s a (32 * n)) (marksOf s a n))) fc g n) lane 1 (32 * n))

/-- Steps an MCLOSE or MCHECK record covers at least (R235). -/
def closeSteps (pl : Nat) : Nat := ceilDiv pl 128 + 2

/-- What MCLOSE and MCHECK share: payload bytes by operand B, and the address of the header. -/
def tileOp (cl op : Nat) (o : OpAB) (steps : Nat) (s : State) (f : State → Nat → Nat → Host.Outcome State Fault Refusal) :
    Host.Outcome State Fault Refusal :=
  let fmt := opField o.b 0 8
  let pl := payloadBytes fmt (bit o.b.toNat 8)
  laneChecked s (moveLane cl) op o steps (opRsv o.a 25 && opRsv o.b 9 && fmtOk fmt && decide (closeSteps pl ≤ steps)) fun s =>
    withAddr (location o.a (1 + pl / 32)) fun a => f s a pl

/-- R232, R235: MCLOSE. -/
def execMclose (cl : Fin 32) (o : OpAB) (steps : Nat) (s : State) : Host.Outcome State Fault Refusal :=
  tileOp cl 0x12 o steps s fun s a pl =>
    let hdr := scaleHeader s a (closeHeader (readMem s a 32) (readMem s (a + 32) pl))
    .next (countTier (countTier (later s (steps + 15) (.mem a hdr (marksOf s a 1))) (moveLane cl) 0 (32 + pl)) (moveLane cl) 1 32)

/-- R233, R235, R252: MCHECK. -/
def execMcheck (cl : Fin 32) (o : OpAB) (steps : Nat) (s : State) : Host.Outcome State Fault Refusal :=
  tileOp cl 0x13 o steps s fun s a pl =>
    let lane := moveLane cl
    let hdr := readMem s a 32
    let obj := fld hdr 12 0 32
    let t := fld hdr 16 0 32
    let s := countTier s lane 0 (32 + pl)
    if fld hdr 0 0 8 ≠ opField o.b 0 8 ∨ fld hdr 0 8 1 ≠ opField o.b 8 1 then
      .next (countArith (logFault s ⟨0x21, true, laneDomain lane, laneUnit s lane, 0xFFFF, obj, t, false, false⟩) lane 4 1)
    else if tileSound s a (a + 32) pl then .next s
    else .next (poisonFinding s obj t lane steps)

/-! ### The edge controller -/

/-- Bytes per step of the edge controller by point (R237). -/
def edgeLimit (point : Nat) : Nat := [1024, 512, 384].getD point 1024

/-- What BRD and BWR share: the T2 address, the location, the bytes. -/
def edgeOp (op : Nat) (o : OpAB) (s : State) (f : State → Nat → Nat → Nat → Host.Outcome State Fault Refusal) : Host.Outcome State Fault Refusal :=
  let n := 128 * (opField o.b 25 3 + 1)
  let off := 128 * o.a.toNat
  laneChecked s edgeLane op o 1 (opRsv o.b 28 && decide (n ≤ edgeLimit s.setup.running)) fun s =>
    withAddr (if off + n ≤ dumpBase then some (t2Addr off) else none) fun a => withAddr (location o.b (n / 32)) fun d => f s a d n

/-- R236: BRD. -/
def execBrd (o : OpAB) (s : State) : Host.Outcome State Fault Refusal :=
  edgeOp 0x10 o s fun s a d n => .next (countTier (later s 256 (.mem d (readMem s a n) (marksOf s a (n / 32)))) edgeLane 5 n)

/-- R236: BWR. -/
def execBwr (o : OpAB) (s : State) : Host.Outcome State Fault Refusal :=
  edgeOp 0x11 o s fun s a d n => .next (countTier (later s 256 (.mem a (readMem s d n) (marksOf s d (n / 32)))) edgeLane 6 n)

/-- The entries of a gather list that are fetched with `left` bursts: (offset, length), in list order (R236). -/
def gather : List Nat → Nat → List (Nat × Nat)
  | [], _ => []
  | e :: r, left =>
    let off := bits e 0 40
    let len := bits e 40 12
    let cost := ceilDiv len 64
    if dumpBase < off + len ∨ left < cost then [] else (off, len) :: gather r (left - cost)

/-- The fetch of a gather list ends at an entry that reaches into the dump region or beyond board DRAM (R236). -/
def gatherCut (es : List Nat) (left : Nat) : Bool :=
  let got := gather es left
  match es.drop got.length with
  | [] => false
  | e :: _ => decide (dumpBase < bits e 0 40 + bits e 40 12) && decide (ceilDiv (bits e 40 12) 64 ≤ left - got.foldl (fun n e => n + ceilDiv e.2 64) 0)

/-- R236: BGATHER. -/
def execBgather (o : OpAB) (steps : Nat) (s : State) : Host.Outcome State Fault Refusal :=
  laneChecked s edgeLane 0x12 o steps (opRsv o.a 19 && opRsv o.b 25) fun s =>
    let a := nsAddr (32 * opField o.a 0 19)
    let count := readNat s a 2
    withAddr (if addrOk a (32 + 8 * count) then some a else none) fun a =>
      let es := (List.range count).map fun i => readNat s (a + 32 + 8 * i) 8
      let got := gather es (steps - 256)
      let s := if gatherCut es (steps - 256) then countSeen s 1 edgeLane else s
      let data := got.flatMap fun e => readMem s (t2Addr e.1) e.2
      withAddr (location o.b (granulesOf data.length)) fun d =>
        let s := later (later s steps (cleanMem d data)) steps (.mem (a + 2) (leBytes 2 got.length) [])
        .next (countTier s edgeLane 5 (64 * (got.foldl (fun n e => n + ceilDiv e.2 64) 0)))

end Sys2Proof.Machine
end

