-- ==== Sys2Proof/Machine/Beat.lean ====
section
/-!
DEFINITION. Steps (R25 to R27, R464), the arm (R40, R269, R275), ring samples (R322, R323), and the beat (R41 to R44, R276,
R421, R432).
-/
namespace Sys2Proof.Machine

/-! ### Arms (R40, R169, R275) -/

/-- Combine two arms (R275). -/
def combineArms (a b : ArmMsg) : ArmMsg :=
  { a with
    ready := if a.ready.toNat ≤ b.ready.toNat then a.ready else b.ready
    complete := a.complete && b.complete && a.epoch == b.epoch
    present := a.present ++ b.present.filter (!a.present.contains ·) }

/-- READY of R169: the largest SN up to which every write on this node is in place. A record whose undo is awaited is not (R182). -/
def readySn (s : State) : Nat :=
  match s.recs.notInPlace ++ s.recs.held with
  | [] => s.run.frame
  | l => l.foldl (fun n e => min n e.1) (s.run.frame + 1) - 1

/-- The map epoch of the next copies (R40). -/
def nextEpoch (s : State) : Nat := match s.setup.change with | some c => c.epoch | none => s.setup.epoch

/-- The node's own arm. -/
def ownArm (s : State) : ArmMsg :=
  { frame := BitVec.ofNat 64 s.run.frame, ready := BitVec.ofNat 48 (readySn s), complete := s.setup.complete
    epoch := BitVec.ofNat 32 (nextEpoch s), present := [nodeId s] }

/-- The bit mask of some node IDs as 64 bytes. -/
def nodeMask (l : List Nat) : Bytes := leBytes 64 (l.eraseDups.foldl (fun m n => m + 2 ^ n) 0)

/-- The ARM flit's payload (R275). -/
def armBytes (m : ArmMsg) : Bytes :=
  layoutBytes 32 [(0, 8, m.frame.toNat), (8, 8, m.ready.toNat + 2 ^ 48 * b2n m.complete), (16, 4, m.epoch.toNat)] ++ nodeMask m.present

/-- The BEAT flit's payload (R276). -/
def beatBytes (m : BeatMsg) : Bytes :=
  layoutBytes 32 [(0, 8, m.frame.toNat), (8, 8, m.published.toNat + 2 ^ 48 * b2n m.apply), (16, 4, m.epoch.toNat), (20, 4, m.view.toNat),
    (24, 4, m.root.val)] ++ nodeMask m.missing

/-- Hand a message to the links: the message, and its flits toward `dst`. -/
def sendOut (s : State) (dst : Nat) (m : OutMsg) (fs : List Bytes) : State :=
  routeFlits { s with fab := { s.fab with out := s.fab.out ++ [m] } } dst fs

/-- Send an arm to the parent; a member of a conjunction sends it to the primary over a CONJ link (R279). -/
def sendArm (s : State) (m : ArmMsg) : State :=
  if conjMember s then { s with fab := { s.fab with out := s.fab.out ++ [.conjArm m] } }
  else
    let p := firstHop (nodeId s) (beatRoot s)
    sendOut s p (.arm p m) [flitHead 3 0 true (nodeId s) p 0 0 96 s.run.frame (armBytes m)]

/-- The positions of the other members of the conjunction that the primary leads. -/
def conjOthers (s : State) : List Nat := if s.conj.formed && conjPrimary s then s.conj.members.filter (· != conjPos s) else []

/-- Are the arms of all other members held (R279). -/
def membersHeld (s : State) : Bool := decide ((conjOthers s).length ≤ s.fab.memberArms)

/-- Are the arms of all live children, and of the other members of the conjunction, held. -/
def childrenHeld (s : State) : Bool :=
  membersHeld s && (beatChildren s).all fun n => match s.fab.combined with | some m => m.present.contains n | none => false

/-- Send the combined arm once it is due (R275). The root keeps its own. -/
def armStep (s : State) : State :=
  if s.fab.armed && !s.fab.armSent && !isRoot s && childrenHeld s then
    match s.fab.combined with
    | none => s
    | some m => sendArm { s with fab := { s.fab with armSent := true } } m
  else s

/-- Add an arm to the combined one. -/
def addArm (s : State) (m : ArmMsg) : State :=
  { s with fab := { s.fab with combined := some (match s.fab.combined with | none => m | some c => combineArms c m) } }

/-- R269: a message not acknowledged by step N − L is missing. -/
def reportMissing (s : State) : State :=
  (s.fab.sent.filter fun m => !m.acked).foldl (fun s m =>
    logFaultFor s m.dst { code := 0x36, event := true, dom := 4, unit := 0x812, arg0 := m.slot, arg1 := m.dst }) s

/-- The node begins step N − L (R40). -/
def armNow (s : State) : State :=
  let s := reportMissing s
  armStep (addArm { s with fab := { s.fab with armed := true } } (ownArm s))

/-! ### Ring samples (R322, R323) -/

/-- Fields of a ring descriptor (R321). -/
def Ring.port (r : Ring) : Nat := r.num / 32
def Ring.cls (r : Ring) : Nat := fld r.desc 0 6 2
def Ring.entries (r : Ring) : Nat := fld r.desc 4 0 32
def Ring.inShift (r : Ring) : Nat := fld r.desc 8 0 5
def Ring.outShift (r : Ring) : Nat := fld r.desc 8 8 5
def Ring.perFrame (r : Ring) : Nat := fld r.desc 12 0 16
def Ring.aperture (r : Ring) : Nat := fld r.desc 0x10 0 64
def Ring.resultBase (r : Ring) : Nat := fld r.desc 0x18 0 64
def Ring.doneAddr (r : Ring) : Nat := fld r.desc 0x20 0 64

/-- Bytes of a port's BAR2. -/
def bar2Bytes (s : State) (port off n : Nat) : Bytes := cgetN 0#8 s.host.bar2 (port * 2 ^ 28 + off) n

/-- Bytes of record `j` of a ring. -/
def ringRecord (s : State) (r : Ring) (j off n : Nat) : Bytes :=
  bar2Bytes s r.port (r.aperture + 4096 + j % r.entries * 2 ^ r.inShift + off) n

/-- Replace a ring. -/
def setRing (s : State) (r : Ring) : State :=
  { s with host := { s.host with rings := s.host.rings.map fun q => if q.num = r.num then r else q } }

/-- RING_ERROR (R319): cause 1 to the ring's slice, cause 2 to slice 0, naming the ring and the slice that held it; on the ring's
port. -/
def ringError (s : State) (r : Ring) (cause : Nat) : State :=
  let dst := if cause = 1 then r.slice else 0
  pushEvent s r.port dst (eventBytes s 7 dst none 0 (packBits [(0, 6, r.num), (8, 8, cause), (16, 4, r.slice)]))

/-- Sample one open ring. -/
def sampleRing (s : State) (r : Ring) : State :=
  if !r.isOpen || r.badProducer || portDown s r.port then s
  else
    let p := leNat (bar2Bytes s r.port r.aperture 8)
    if p < r.sampled ∨ p > r.consumer + r.entries then
      ringError (setRing s { r with badProducer := true, isOpen := false }) r 1
    else
      let new := (List.range (p - r.sampled)).map fun i =>
        let h := ringRecord s r (r.sampled + i) 0 8
        (fld h 4 0 32, fld h 0 0 8)
      setRing s { r with sampled := p, records := r.records ++ new }

/-- Every open ring is sampled. -/
def sampleRings (s : State) : State := s.host.rings.foldl sampleRing s

/-! ### The step (R25, R464) -/

/-- Is the timing of the present step captured, and with which weight (R464). -/
def captureWeight (s : State) : Nat :=
  if s.cnt.continuous then 1 else if s.run.step % 256 = s.run.frame % 256 then 256 else 0

/-- The lane timing counters of one captured step. -/
def captureLanes (s : State) (t : StepTime) (w : Nat) : State :=
  let last := t.active.foldl (fun m a => max m a.2) 0
  t.active.foldl (fun s a =>
    let s := countLane s a.1 3 (w * a.2)
    let s := countLane s a.1 4 (w * (t.ps - a.2))
    if a.2 = last then countLane s a.1 5 w else s) s

/-- STEP_PS_MAX of the node so far. -/
def stepMax (s : State) : Nat := cget 0 s.cnt.bank (ckey 1 0 3) + cget 0 s.cnt.inc (ckey 1 0 3)

/-- The counters of one step. -/
def countStep (s : State) (t : StepTime) : State :=
  let s := count s 0 1 0 1 1
  let w := captureWeight s
  if w = 0 then s
  else
    let s := count s 0 1 0 2 (w * t.ps)
    let s := count s 0 1 0 3 (t.ps - stepMax s)
    captureLanes { s with cnt := { s.cnt with sampledSteps := s.cnt.sampledSteps + 1 } } t w

/-- MAC array lanes whose action in the step is neither IDLE nor MAINT (R398). -/
def macActive (s : State) : Nat :=
  match s.run.plate with
  | none => 0
  | some p => (p.lanes.filter fun l => decide (l.id < 0x100) && decide (l.id % 8 < 4) &&
      (match recFrom l.recs s.run.step 0 with | some (r, _, _) => decide (1 < r.op) | none => false)).length

/-- Has every unit raised completion: a lane of the plate with an action in the step has run it. -/
def strokeDone (s : State) : Bool :=
  match s.run.plate with
  | none => false
  | some p => p.lanes.all fun l =>
      match recFrom l.recs s.run.step 0 with
      | some (r, _, _) => r.op == 0 || decide (s.run.now < cget 0 s.run.busy l.id)
      | none => true

/-- R25: every unit has completed, and all advance together. -/
def execStepAdvance (t : StepTime) (s : State) : Host.Outcome State Fault Refusal :=
  match s.run.plate with
  | none => .next s
  | some p =>
    if !s.run.running || s.run.waiting || !strokeDone s then .next s
    else
      let s := countStep s t
      let s := { s with run := { s.run with stepPs := t.ps, macBusy := s.run.macBusy + macActive s, now := s.run.now + 1 } }
      let s := landDue s
      if s.run.step + 1 < p.steps then
        let s := { s with run := { s.run with step := s.run.step + 1 } }
        .next (if s.run.step + p.lead = p.steps then sampleRings (armNow s) else s)
      else .next { s with run := { s.run with waiting := true } }

/-! ### The beat (R40 to R44, R169, R421, R423, R432) -/

/-- The view the next beat carries: the pending proposal of this node once every acknowledgement has arrived (R421). -/
def beatView (s : State) : Option View :=
  match s.orr.pending with
  | some v => if s.orr.proposed && s.orr.awaiting.all (fun a => a.2 != 0) then some v else s.orr.view
  | none => s.orr.view

/-- The nodes whose arms the beat waits for (R40, R421). -/
def awaitedArms (s : State) : List Nat :=
  (treeNodes s).filter fun n => match beatView s with | some v => v.of n != 3 | none => true

/-- The awaited nodes whose arms have not reached the root. -/
def missingArms (s : State) : List Nat :=
  (awaitedArms s).filter fun n => match s.fab.combined with | some m => !m.present.contains n | none => true

/-- The published SN of the beat for the present frame (R169). -/
def publishSn (s : State) : Nat :=
  match s.fab.combined with
  | none => s.recs.published
  | some m => max s.recs.published (min (s.run.frame - 3) m.ready.toNat)

/-- Pass a beat to the children (R276), and to the other members of the conjunction (R279). -/
def passBeat (s : State) (b : BeatMsg) : State :=
  let s := (beatChildren s).foldl (fun s n => sendOut s n (.beat n b) [flitHead 4 0 true (nodeId s) n 0 0 96 s.run.frame (beatBytes b)]) s
  { s with fab := { s.fab with out := s.fab.out ++ (conjOthers s).map fun p => .conjBeat p b } }

/-- A node finds itself listed in a beat (R44). -/
def takeBeat (s : State) (b : BeatMsg) : State :=
  let s := { s with fab := { s.fab with beat := some b } }
  if s.run.running && b.missing.contains (nodeId s) then
    let s := logFault s { code := 0x30, event := true, dom := 4, unit := 0x812 }
    { s with run := { s.run with stopAt := some stFault } }
  else s

/-- The root sends a beat and acts on it. -/
def issueBeat (s : State) (b : BeatMsg) : State :=
  let s := passBeat s b
  let s := { s with fab := { s.fab with issued := true } }
  takeBeat s b

/-- The beat of the present frame. -/
def beatNow (s : State) (missing : List Nat) : BeatMsg :=
  { frame := BitVec.ofNat 64 (s.run.frame + 1), published := BitVec.ofNat 48 (publishSn s)
    apply := if alone s then s.setup.complete else match s.fab.combined with | some m => m.complete | none => false
    epoch := BitVec.ofNat 32 s.setup.epoch
    view := BitVec.ofNat 32 ((beatView s).map View.num |>.getD 0)
    root := Fin.ofNat 512 (nodeId s), missing := missing }

/-- The published SN of a domain's first beat: the highest that any former held. What other formers held is not told to the
coordinator by FORM, so it is a free value at least its own (log entry 7). -/
def firstPublished (s : State) (v : View) : Nat × State :=
  if (v.nodes [1, 2]).length ≤ 1 then (s.dump.lastSn, s)
  else
    let (x, s) := draw s
    (max s.dump.lastSn (x % 2 ^ 48), s)

/-- R40, R42, R169, R421, R432: the root issues the beat. -/
def execBeatIssue (s : State) : Host.Outcome State Fault Refusal :=
  if s.run.running then
    if !isRoot s || s.fab.issued || s.fab.beat.isSome then .next s
    else if alone s then (if s.run.waiting && membersHeld s then .next (issueBeat s (beatNow s [])) else .next s)
    else if s.fab.armed && membersHeld s && (missingArms s).isEmpty then .next (issueBeat s (beatNow s []))
    else .next s
  else
    match s.orr.pending, s.orr.firstFrame with
    | some v, some f =>
      if s.orr.proposed && s.orr.awaiting.all (fun a => a.2 != 0) && isRoot s && s.fab.beat.isNone then
        let (sn, s) := firstPublished s v
        let b : BeatMsg := {
          frame := BitVec.ofNat 64 f, published := BitVec.ofNat 48 sn, apply := false, epoch := BitVec.ofNat 32 s.setup.epoch
          view := BitVec.ofNat 32 v.num, root := Fin.ofNat 512 (nodeId s), missing := [] }
        .next (issueBeat s b)
      else .next s
    | _, _ => .next s

/-- R44: DEADLINE_NS has passed since the previous beat; the missing nodes are listed, and lost to the coordinator (R415). A node
alone never waits, but for the other members of its conjunction. -/
def execBeatDeadlineExpire (s : State) : Host.Outcome State Fault Refusal :=
  if !s.run.running || !isRoot s || s.fab.issued || s.fab.beat.isSome || (membersHeld s && (alone s || (missingArms s).isEmpty)) then .next s
  else
    let gone := if alone s then [] else missingArms s
    let s := issueBeat s (beatNow s gone)
    .next (if isCoord s then (gone.filter (· != nodeId s)).foldl loseNode s else s)

/-- R44: the wait for the beat has passed twice DEADLINE_NS. -/
def execBeatLost (s : State) : Host.Outcome State Fault Refusal :=
  if s.run.running && s.run.waiting && s.fab.beat.isNone then
    .next (enterFault (logFault s { code := 0x31, event := true, dom := 4, unit := 0x812 }))
  else .next s

/-- The view number the next beat carries, as this node expects it: that of the view in force, or of the pending one. -/
def viewExpected (s : State) (num : Nat) : Bool :=
  (match s.orr.view with | some v => v.num == num | none => false) ||
    (match s.orr.pending with | some v => v.num == num | none => false)

/-- The node state is one in which an admitted node waits for its first beat. -/
def awaitsStart (s : State) : Bool :=
  s.node.state == stRestored || s.node.state == stMaintenance || s.node.state == stEclipsed

/-- The pending view is the one a beat carries, and has this node take part. -/
def admittedBy (s : State) (num : Nat) : Bool :=
  match s.orr.pending with
  | some v => v.num == num && (v.of (nodeId s) == 1 || v.of (nodeId s) == 2)
  | none => false

/-- R276, R44: a beat arrives. -/
def execBeat (p : BeatMsg) (s : State) : Host.Outcome State Fault Refusal :=
  if s.faults.inReset.contains 4 then .next s
  else if s.run.running then
    if s.fab.beat.isSome then .next s
    else
      let s := passBeat s p
      if p.frame.toNat ≠ s.run.frame + 1 ∨ p.epoch.toNat ≠ s.setup.epoch ∨ !viewExpected s p.view.toNat then
        .next (enterFault (logFault s { code := 0x32, event := true, dom := 4, unit := 0x812, arg0 := p.frame.toNat, arg1 := p.view.toNat }))
      else .next (takeBeat s p)
  else if awaitsStart s && admittedBy s p.view.toNat then .next (takeBeat (passBeat s p) p)
  else .next s

/-- R275: a child's arm. One for another frame is of no use and is discarded. An arm from this node's own ID is that of another member of the
conjunction (R279). -/
def execArm (src : Fin 512) (p : ArmMsg) (s : State) : Host.Outcome State Fault Refusal :=
  if !s.run.running || p.frame.toNat != s.run.frame || s.faults.inReset.contains 4 then .next s
  else if src.val = nodeId s then .next (armStep (addArm { s with fab := { s.fab with memberArms := s.fab.memberArms + 1 } } p))
  else if s.fab.armSent then .next (sendArm s p)
  else .next (armStep (addArm s p))

/-- R275: BEAT_TREE_NS after its own arm the node sends what it has combined. -/
def execArmForwardTimeout (s : State) : Host.Outcome State Fault Refusal :=
  if s.run.running && s.fab.armed && !s.fab.armSent && !isRoot s then
    match s.fab.combined with
    | none => .next s
    | some m => .next (sendArm { s with fab := { s.fab with armSent := true } } m)
  else .next s

end Sys2Proof.Machine
end

