-- ==== Sys2Proof/Machine/Objects.lean ====
section
/-!
DEFINITION. Objects (R239 to R243): their allocation, the structures that name them, reading and writing whole tiles by the host,
by BULK and by a rebuild (R232 to R234, R254, R356).
-/
namespace Sys2Proof.Machine

/-! ### Tiles (R230 to R233) -/

/-- Bytes from an address of any tier. -/
def readAny (s : State) (a n : Nat) : Bytes := if tierOf a = 3 then readT3 s (a % 2 ^ 48) n else readMem s a n

/-- The poison of `n` bytes from an address: a mark on a granule, or POISONED of a slot. -/
def poisonedAt (s : State) (a n : Nat) : Bool :=
  if tierOf a = 3 then (slotsOf (a % 2 ^ 48) n).any fun k => sePoisoned (slotEntry s k)
  else (marksOf s a (granulesOf n)).any id

/-- Write bytes at an address of any tier; the granules written carry no poison mark. In T3 the slots go through the slice's
staging area. -/
def writeAny (s : State) (sl a : Nat) (bs : Bytes) : State :=
  if tierOf a = 3 then writeT3 s sl (a % 2 ^ 48) bs
  else setMarks (writeMem s a bs) a (List.replicate (granulesOf bs.length) false)

/-- Header and payload of a tile. -/
def readTile (s : State) (o : Obj) (t : Nat) : Option (Bytes × Bytes) :=
  (tileAddr o t).map fun hp => (readAny s hp.1 32, readAny s hp.2 o.payload)

/-- Slots that writing a tile takes in staging. -/
def tileSlots (o : Obj) (t : Nat) : Nat :=
  match tileAddr o t with
  | some (h, p) => if tierOf h = 3 then (slotsOf (h % 2 ^ 48) 32).length + (slotsOf (p % 2 ^ 48) o.payload).length else 0
  | none => 0

/-- Staging of the object's slice takes one tile more. -/
def tileRoom (s : State) (o : Obj) (t : Nat) : Bool := tileSlots o t == 0 || stageRoom s o.slice (tileSlots o t)

/-- Write a tile, payload before header. -/
def writeTile (s : State) (o : Obj) (t : Nat) (hdr payload : Bytes) : State :=
  match tileAddr o t with
  | none => s
  | some (h, p) => writeAny (writeAny s o.slice p payload) o.slice h hdr

/-- The tiles whose payload `n` bytes from an address touch, where they lie in one object; else the tiles of the first and the last byte. -/
def tilesTouched (s : State) (a n : Nat) : List (Obj × Nat) :=
  if n = 0 then []
  else match tileAt s a, tileAt s (a + n - 1) with
    | some (o, t), some (o', t') => if o.id = o'.id then (List.range (t' + 1 - t)).map fun i => (o, t + i) else [(o, t), (o', t')]
    | some x, none => [x]
    | none, some x => [x]
    | none, none => []

/-- Close a tile whose payload the node has written (R232). -/
def closeTileOf (s : State) (o : Obj) (t : Nat) : State :=
  match tileAddr o t, readTile s o t with
  | some (h, _), some (hdr, pl) => if tierOf h = 3 then writeT3 s o.slice (h % 2 ^ 48) (closeHeader hdr pl) else writeMem s h (closeHeader hdr pl)
  | _, _ => s

/-- Node units write some structures, given as (address, bytes), and close every tile they touched, once (R232). -/
def writeNode (s : State) (ws : List (Nat × Bytes)) : State :=
  let put := fun (s : State) (w : Nat × Bytes) =>
    if tierOf w.1 = 3 then writeT3 s (((tileAt s w.1).map fun x => x.1.slice).getD 0) (w.1 % 2 ^ 48) w.2 else writeMem s w.1 w.2
  let tiles := (ws.flatMap fun w => tilesTouched s w.1 w.2.length).eraseDups
  tiles.foldl (fun s x => closeTileOf s x.1 x.2) (ws.foldl put s)

/-- Bytes moved outside the plate's lanes in T0 to T2, read or written, for a slice and the node; for the node alone where no slice is named (R461, R462).
T3 counts where its slots move. -/
def countMoved (s : State) (sl : Option Nat) (a n : Nat) (wr : Bool) : State :=
  let t := tierOf a
  if t = 3 ∨ n = 0 then s
  else
    let c := [0, 2, 5].getD t 0 + b2n wr
    let dom := if t = 0 then (if bit a 61 then 0 else 5 + a / 2 ^ 59 % 4) else if t = 1 then 9 + a % 2 ^ 62 / 2 ^ 59 else 15
    let s := match sl with | some i => count s dom 2 i c n | none => s
    let s := count s dom 3 0 c n
    match channelOf a with
    | some ch => count s dom 4 ch (b2n wr) n
    | none => s

/-- A whole tile moved. -/
def countTile (s : State) (sl : Option Nat) (o : Obj) (t : Nat) (wr : Bool) : State :=
  match tileAddr o t with
  | some (h, p) => countMoved (countMoved s sl h 32 wr) sl p o.payload wr
  | none => s

/-- The lowest byte of a tile header with a Reserved bit set (R9, R231). -/
def headerBad (hdr : Bytes) : Option Nat := lowestBad (rsvFld 0 12 4 :: rsvBytes 0x14 0x1F) hdr

/-- The tile a host or a BULK message supplies has the TAG of its payload (R232). -/
def tagOk (hdr payload : Bytes) : Bool := fld hdr 8 0 32 == crc32c payload

/-- Is a tile sound (R233): TAG, POISONED, poison marks. -/
def tileGood (s : State) (o : Obj) (t : Nat) : Bool :=
  match tileAddr o t, readTile s o t with
  | some (h, p), some (hdr, pl) => tagOk hdr pl && fld hdr 0 10 1 == 0 && !poisonedAt s h 32 && !poisonedAt s p o.payload
  | _, _ => false

/-! ### Shard blocks (R199 to R201) -/

/-- Fields of a table descriptor (R197). -/
def tbDim (b : Bytes) : Nat := fld b 4 16 16
def tbFormat (b : Bytes) : Nat := fld b 4 0 8
def tbRows (b : Bytes) : Nat := fld b 8 0 40
def tbShift (b : Bytes) : Nat := fld b 8 40 5
def tbOptimiser (b : Bytes) : Nat := fld b 0x20 0 2
def tbHold (b : Bytes) : Nat := fld b 0x3C 0 16
def tbDir (b : Bytes) : Nat := fld b 0x18 0 64
def tbMap (b : Bytes) : Nat := fld b 0x10 0 64

/-- Bytes of a row with its trailer (R71), and of its optimiser state (R199). -/
def rowBytes (b : Bytes) : Nat :=
  tbDim b * fmtBits (tbFormat b) / 8 + (if fmtType (tbFormat b) = 8 ∨ fmtType (tbFormat b) = 9 then 8 else 0)
def rowState (b : Bytes) : Nat := [0, tbDim b + 8, 2 * (tbDim b + 8), 4].getD (tbOptimiser b) 0

/-- Rows in a shard. -/
def shardRows (b : Bytes) (shard : Nat) : Nat := min (2 ^ tbShift b) (tbRows b - shard * 2 ^ tbShift b)

/-- A shard directory entry's address, and its fields. -/
def shardEntry (d : Desc) (shard : Nat) : Nat := tbDir d.bytes + 16 * shard
def shardBlock (s : State) (d : Desc) (shard : Nat) : Nat := readNat s (shardEntry d shard) 8
def shardFlags (s : State) (d : Desc) (shard : Nat) : Nat := readNat s (shardEntry d shard + 8) 1

/-- Write OWNED and ARRIVING of a shard directory entry. -/
def setShardFlags (s : State) (d : Desc) (shard : Nat) (owned arriving : Bool) : State :=
  writeNode s [(shardEntry d shard + 8, leBytes 1 (b2n owned + 2 * b2n arriving))]

/-- Where a row and its state lie in a shard block. -/
def rowAddr (b : Bytes) (block place : Nat) : Nat := block + place * rowBytes b
def stateAddr (b : Bytes) (block shard place : Nat) : Nat := block + shardRows b shard * rowBytes b + place * rowState b

/-! ### What names an object (R355, R356) -/

/-- An address lies in an object. -/
def inObj (o : Obj) (a : Nat) : Bool := (tileOfExtent o.detached o.payload a o.extents 0).isSome

/-- The addresses a descriptor and its update block name (R119, R167, R197, R244). -/
def descAddrs (kind : Nat) (bytes block : Bytes) : List Nat :=
  if kind = 1 then
    [0x18, 0x20, 0x28, 0x30, 0x38, 0x40].map (fun o => fld bytes o 0 64) ++ [0x10, 0x20, 0x28].map fun o => fld block o 0 64
  else if kind = 2 then [fld bytes 0x10 0 64, fld bytes 0x18 0 64]
  else [fld bytes 0x10 0 64, fld bytes 0x18 0 64]

/-- A descriptor names an object, by identifier or by an address in it. An address 0 names nothing. -/
def descNames (kind : Nat) (bytes block : Bytes) (o : Obj) : Bool :=
  (kind == 3 && fld bytes 4 0 32 == o.id) || (descAddrs kind bytes block).any fun a => a != 0 && inObj o a

/-- Shards of a table. -/
def tbShards (b : Bytes) : Nat := ceilDiv (tbRows b) (2 ^ tbShift b)

/-- A table's shard directory names an object: a block of it lies there (R198, R201, R211). -/
def blockIn (s : State) (d : Desc) (o : Obj) : Bool :=
  d.kind == 2 && tbDir d.bytes != 0 &&
    (List.range (tbShards d.bytes)).any fun sh => shardBlock s d sh != 0 && inObj o (shardBlock s d sh)

/-- A set-up object in use names an object. -/
def namedInUse (s : State) (o : Obj) : Bool :=
  s.setup.descs.any (fun d => descNames d.kind d.bytes d.block o || blockIn s d o) || s.setup.shardMaps.any (fun m => inObj o m.2.2)

/-- A next copy names an object. -/
def namedByNext (s : State) (o : Obj) : Bool :=
  (s.setup.next ++ s.setup.later).any fun n => match n.obj with
    | .desc k b u => descNames k b u o
    | .version k b u => descNames k b u o
    | _ => false

/-- An old version still held names an object. -/
def namedByOld (s : State) (o : Obj) : Bool := s.setup.oldDescs.any fun d => descNames d.1.kind d.1.bytes d.1.block o || blockIn s d.1 o

/-- OBJ_FREE refuses the object. Rings name no object: their backing is no object's. -/
def objHeld (s : State) (o : Obj) : Bool := namedInUse s o || namedByNext s o || namedByOld s o

/-! ### Allocation (R241, R242) -/

/-- Insert a gap, the largest first. -/
def insertGap (x : Nat × Nat) : List (Nat × Nat) → List (Nat × Nat)
  | [] => [x]
  | y :: r => if y.2 < x.2 then x :: y :: r else y :: insertGap x r

/-- Extents for `n` tiles from some gaps, at most `k` of them: those found, and the tiles left over. -/
def fillGaps (pl : Nat) : Nat → Nat → List (Nat × Nat) → List (Nat × Nat) × Nat
  | 0, n, _ => ([], n)
  | _, n, [] => ([], n)
  | k + 1, n, g :: r =>
    let m := min n (g.2 / (pl + 32))
    if m = 0 then ([], n) else let x := fillGaps pl k (n - m) r; ((g.1, m) :: x.1, x.2)

/-- Extents for `n` tiles in some gaps, at most `k` of them: one run in a gap of a free choice where one holds them all, else the largest gaps first. -/
def fitTiles (s : State) (pl k n : Nat) (gs : List (Nat × Nat)) : List (Nat × Nat) × Nat :=
  if n = 0 then ([], 0)
  else if k = 0 then ([], n)
  else match choosePlace ((gs.filter fun g => decide (extentBytes pl n ≤ g.2)).map Prod.fst) s.drawn with
    | some a => ([(a, n)], 0)
    | none => fillGaps pl k n (gs.foldl (fun l g => insertGap g l) [])

/-- Tiles of a payload that the slice's quota in a tier still takes. -/
def quotaTiles (s : State) (slice tier pl : Nat) : Nat := (tierQuota s slice tier - tierUse s slice tier) / (pl + 32)

/-- Node store gaps, and the gaps of a tier that no quota limits: those of the slice's cluster stores (R240). -/
def quotaGaps (s : State) (slice tier : Nat) : List (Nat × Nat) := (gaps s slice tier).filter fun g => tier != 0 || bit g.1 61
def freeGaps (s : State) (slice tier : Nat) : List (Nat × Nat) := (gaps s slice tier).filter fun g => tier == 0 && !bit g.1 61

/-- Extents for the first tiles of an inline object in a tier: within the quota, then, in T0, in the slice's cluster stores; those found, and the
tiles left over. Which of the two comes first is a choice of the model (log entry 89). -/
def fitTier (s : State) (slice tier pl k n : Nat) : List (Nat × Nat) × Nat :=
  let m := min n (quotaTiles s slice tier pl)
  let x := fitTiles s pl k m (quotaGaps s slice tier)
  let y := fitTiles s pl (k - x.1.length) (n - m + x.2) (freeGaps s slice tier)
  (x.1 ++ y.1, y.2)

/-- A detached object whole in one tier. -/
def fitWhole (s : State) (slice tier pl n : Nat) : Option (List (Nat × Nat)) :=
  let gs := (if n ≤ quotaTiles s slice tier pl then quotaGaps s slice tier else []) ++ freeGaps s slice tier
  (choosePlace ((gs.filter fun g => decide (extentBytes pl n ≤ g.2)).map Prod.fst) s.drawn).map fun a => [(a, n)]

/-- The extents of a new object (R241, R242); none for S_NO_SPACE. -/
def allocate (s : State) (o : Obj) : Option (List (Nat × Nat)) :=
  let tier := fld o.desc 4 2 2
  let spill := fld o.desc 4 4 1 == 1
  let n := o.tiles
  let pl := o.payload
  if o.detached then
    match fitWhole s o.slice tier pl n with
    | some e => some e
    | none => if spill && decide (tier < 3) then fitWhole s o.slice (tier + 1) pl n else none
  else if tier = 3 then none
  else
    let here := fitTier s o.slice tier pl 64 n
    if here.2 = 0 then some here.1
    else if !spill || tier = 2 then none
    else
      let next := fitTier s o.slice (tier + 1) pl (64 - here.1.length) here.2
      if next.2 = 0 then some (here.1 ++ next.1) else none

end Sys2Proof.Machine
end

