-- ==== Sys2Proof/Machine/Messages.lean ====
section
/-!
DEFINITION. Messages between nodes: FSEND (R266), DATA and DELIVERED (R268, R269), CONFIRM (R402), BULK (R216, R254, R273, R277,
R361, R429).
-/
namespace Sys2Proof.Machine

/-! ### FSEND (R266) -/

/-- The LANE_ID of a fabric port. -/
def portLane (p : Nat) : Nat := 0x400 + p

/-- Flits of a message. -/
def dataFlits (len : Nat) : Nat := ceilDiv len 224

/-- Send one message of a send list; a skipped one is counted on the port's first link. -/
def sendEntry (port slot : Nat) (s : State) (e : Nat) : State :=
  let dst := bits e 0 9
  let src := bits e 32 19
  let dest := bits e 64 19
  let len := bits e 96 16
  if dst = nodeId s ∨ !liveNode s dst then countLink s (4 * port) 6 1
  else if len = 0 then s
  else
    let bs := readMem s (nsAddr (32 * src)) len
    let n := dataFlits len
    let fs := (List.range n).map fun i =>
      flitHead 1 1 (i + 1 == n) (nodeId s) dst slot i (min 224 (len - 224 * i)) s.run.frame ((bs.drop (224 * i)).take 224)
    let s := countSlotFlits s slot (routeLinks s dst n)
    let s := sendOut s dst (.data dst slot n dest len bs) fs
    { s with fab := { s.fab with sent := s.fab.sent ++ [⟨slot, dst, dest, false⟩] } }

/-- R266, R270: FSEND. A slot number that is not below FABRIC_SLOTS, and an FSEND after LAST_SEND, fail check 6 of R39. -/
def execFsend (port : Fin 8) (o : OpAB) (s : State) : Host.Outcome State Fault Refusal :=
  let slot := opField o.b 0 16
  let ok := match s.run.plate with
    | none => true
    | some p => (match p.slots[slot]? with | some e => decide (s.run.step ≤ e.lastSend) | none => false)
  laneChecked s (portLane port) 0x10 o 1 (opRsv o.a 19 && opRsv o.b 16 && ok) fun s =>
    let a := nsAddr (32 * opField o.a 0 19)
    let n := readNat s a 2
    withAddr (if addrOk a (32 + 16 * n) then some a else none) fun a =>
      .next (((List.range n).map fun i => readNat s (a + 32 + 16 * i) 16).foldl (sendEntry port slot) s)

/-! ### DATA and DELIVERED (R268) -/

/-- Two records of the same arriving message. -/
def sameMsg (p : DataMsg) (m : RecvMsg) : Bool := m.slot == p.slot.toNat && m.src == p.src.val && m.dest == p.dest.toNat

/-- R268: a flit of a DATA message: its payload is written, and a complete message is answered with DELIVERED. -/
def execData (p : DataMsg) (s : State) : Host.Outcome State Fault Refusal :=
  if !s.run.running || s.faults.inReset.contains 4 then .next s
  else
    let len := p.length.toNat
    let at' := 32 * p.dest.toNat + 224 * p.seq.toNat
    let n := min 224 (len - 224 * p.seq.toNat)
    if n = 0 ∨ nsSize < at' + n then .next s
    else
      let s := writeMem s (nsAddr at') (slice p.data 0 n)
      let m := (s.fab.recv.find? (sameMsg p)).getD ⟨p.slot.toNat, p.src.val, p.dest.toNat, len, []⟩
      let seen := m.got.contains p.seq.toNat
      let m' := { m with got := if seen then m.got else m.got ++ [p.seq.toNat] }
      let s := { s with fab := { s.fab with recv := s.fab.recv.filter (!sameMsg p ·) ++ [m'] } }
      if !seen && m'.got.length == dataFlits len then
        .next (sendOut s p.src (.delivered p.src p.slot.toNat p.dest.toNat)
          [flitHead 2 0 true (nodeId s) p.src p.slot.toNat 0 4 s.run.frame (leBytes 4 p.dest.toNat)])
      else .next s

/-- R268: the notice acknowledges a message this node sent, in this frame or, late, in an earlier one. -/
def execDelivered (src : Fin 512) (slot : BitVec 16) (dest : BitVec 19) (s : State) : Host.Outcome State Fault Refusal :=
  let mine := fun (m : SentMsg) => m.slot == slot.toNat && m.dst == src.val && m.dest == dest.toNat && !m.acked
  match s.fab.sent.find? mine with
  | none => .next { s with fab := { s.fab with unacked := s.fab.unacked.filter fun m => !mine m.2 } }
  | some m => .next { s with fab := { s.fab with sent := s.fab.sent.map fun k => if k = m then { k with acked := true } else k } }

/-- VECTOR_ID of an update record (R173). -/
def recVid (b : Bytes) : Nat := fld b 0x10 0 64

/-- R402: the writes of the record count as in place, and its copy is done with. -/
def execConfirm (_home : Fin 512) (sn : BitVec 48) (vid : BitVec 64) (s : State) : Host.Outcome State Fault Refusal :=
  .next { s with recs := { s.recs with
    notInPlace := s.recs.notInPlace.filter (· != (sn.toNat, vid.toNat))
    copies := s.recs.copies.filter fun c => !(c.1 == sn.toNat && recVid c.2 == vid.toNat) } }

/-! ### BULK -/

/-- Send a BULK message: within the domain to an intermediate node on BULK1, in rotation among the neighbours that a working link reaches; one for another
domain names that domain's gateway (R273, R277). -/
def sendBulk (s : State) (m : BulkMsg) : State :=
  let vias := (domainPeers s).filter fun n => !(linksTo s n).isEmpty
  if m.domain.toNat ≠ domainNumber s ∨ vias.isEmpty then { s with fab := { s.fab with out := s.fab.out ++ [.bulk m.dst m.dst { m with first := false }] } }
  else
    { s with fab := { s.fab with
      out := s.fab.out ++ [.bulk (vias.getD (s.fab.bulkVia % vias.length) 0) m.dst { m with first := true }]
      bulkVia := s.fab.bulkVia + 1 } }

/-- The status with which a tile is written under the rules of OBJ_WRITE (R356), and the state after it. -/
def bulkTile (s : State) (object index : Nat) (bytes : Bytes) : Nat × State :=
  match findObj s object with
  | none => (sBadParam, s)
  | some o =>
    if o.tiles ≤ index ∨ bytes.length ≠ 32 + o.payload ∨ (headerBad (bytes.take 32)).isSome then (sBadParam, s)
    else if namedInUse s o then (sBusy, s)
    else if !tagOk (bytes.take 32) (bytes.drop 32) then (sBadData, s)
    else if !tileRoom s o index then (sBusy, s)
    else (sOk, countTile (writeTile s o index (bytes.take 32) (bytes.drop 32)) (some o.slice) o index true)

/-- The node takes its partner's data (R429). -/
def beingLoaded (s : State) : Bool := statusOf s (nodeId s) == 2

/-- A tile that a partner load brings: written as it comes. -/
def loadTile (s : State) (object index : Nat) (bytes : Bytes) : State :=
  match findObj s object with
  | none => s
  | some o =>
    if o.tiles ≤ index ∨ bytes.length ≠ 32 + o.payload then s
    else countTile (writeTile s o index (bytes.take 32) (bytes.drop 32)) none o index true

/-- An acknowledgement of a bridge tile (R361): PROGRESS counts it; another status than S_OK ends the command. -/
def bridgeAck (s : State) (object index status : Nat) : State :=
  match s.fab.bridge.find? fun e => e.1 == object && e.2.1 == index with
  | none => s
  | some (_, _, m) =>
    match inProg s m with
    | none => { s with fab := { s.fab with bridge := s.fab.bridge.filter fun e => !(e.1 == object && e.2.1 == index) } }
    | some p =>
      if status ≠ sOk then
        let s := { s with fab := { s.fab with bridge := s.fab.bridge.filter fun e => e.2.2 != m } }
        finish s m { status := status, detail := 2 ^ 31, progress := p.moved }
      else
        -- `arg` of the command in progress holds the bytes of one tile
        let s := { s with
          fab := { s.fab with bridge := s.fab.bridge.filter fun e => !(e.1 == object && e.2.1 == index) }
          host := { s.host with inProg := s.host.inProg.map fun q => if q.mailbox = m then { q with moved := q.moved + q.arg } else q } }
        if s.fab.bridge.any fun e => e.2.2 == m then s
        else finish s m { status := sOk, progress := p.moved + p.arg }

/-- The identifier of the object of a shard block that this node has made for a transit; no host can name it. -/
def blockId (table shard : Nat) : Nat := 2 ^ 32 + 65536 * table + shard

/-- A raw detached object for a shard block of a table's slice, with its extent; none where the quota or the space does not hold it (R215). The manual does
not give its tier: T1, else T2 (log entry 88). -/
def blockObject (s : State) (d : Desc) (shard : Nat) : Option Obj :=
  let n := ceilDiv (shardRows d.bytes shard * (rowBytes d.bytes + rowState d.bytes)) 2048
  let desc := layoutBytes 64 [(4, 4, packBits [(0, 2, 3), (2, 2, 1), (4, 1, 1), (5, 1, 1), (16, 4, (descSlice s d).getD 0)]), (8, 4, d.id + 65536), (12, 4, n)]
  let o : Obj := { id := blockId d.id shard, desc := desc, extents := [] }
  (allocate s o).map fun es => { o with extents := es }

/-- A block object takes its place, with fresh tile headers (R231), and the shard's directory entry names it. -/
def placeBlock (s : State) (d : Desc) (shard : Nat) (o : Obj) : State :=
  let s := { s with mem := { s.mem with objs := s.mem.objs ++ [o] }, drawn := s.drawn + 130 }
  let s := (List.range o.tiles).foldl (fun s t => match tileAddr o t with
    | some (h, p) =>
      writeAny s o.slice h (layoutBytes 32 [(0, 4, packBits [(8, 1, 1), (9, 1, 1)]), (8, 4, crc32c (readAny s p o.payload)), (16, 4, t)])
    | none => s) s
  writeNode s [(shardEntry d shard, leBytes 8 ((o.extents.map Prod.fst).headD 0))]

/-- A receiver without a block for the shard makes one (R216). -/
def makeBlock (s : State) (d : Desc) (shard : Nat) : State := ((blockObject s d shard).map (placeBlock s d shard)).getD s

/-- This node no longer holds a shard's block; one that it has made itself is freed (R217, R218). -/
def freeBlock (s : State) (table shard : Nat) : State :=
  let id := blockId table shard
  let gone := ((s.mem.objs.filter fun o => o.id == id).flatMap fun o =>
    (o.extents.filter fun e => tierOf e.1 != 0).map fun e => (tierOf e.1, o.slice, extentBytes o.payload e.2, s.run.frame + 1))
  let s := { s with mem := { s.mem with
      objs := s.mem.objs.filter fun o => o.id != id
      freeing := if s.run.running then s.mem.freeing ++ gone else s.mem.freeing } }
  match findDesc s 2 table with
  | some d => writeNode s [(shardEntry d shard, leBytes 16 0)]
  | none => s

/-- A transit to this node has ended before its map change: its partial copy is freed (R218). -/
def dropArrival (s : State) (table shard : Nat) : State :=
  let here := fun (x : Nat × Nat × Nat) => x.1 == table && x.2.1 == shard
  if s.recs.tables.arriving.any here then
    freeBlock { s with recs := { s.recs with tables := { s.recs.tables with arriving := s.recs.tables.arriving.filter (!here ·) } } } table shard
  else s

/-- A row of a shard in transit (R216): the receivers mark the entry ARRIVING and write the row and its state. -/
def bulkRow (s : State) (src table shard place : Nat) (bytes : Bytes) : State :=
  match findDesc s 2 table with
  | none => s
  | some d =>
    if shardRows d.bytes shard ≤ place then s
    else
      let s := if shardBlock s d shard = 0 then makeBlock s d shard else s
      let blk := shardBlock s d shard
      if blk = 0 then s
      else
        let x := (table, shard, src)
        let s := if s.recs.tables.arriving.contains x then s
          else { s with recs := { s.recs with tables := { s.recs.tables with arriving := s.recs.tables.arriving ++ [x] } } }
        let s := setShardFlags s d shard false true
        let n := rowBytes d.bytes
        let st := slice (bytes.drop n) 0 (rowState d.bytes)
        writeNode s ([(rowAddr d.bytes blk place, slice bytes 0 n)] ++ if st.isEmpty then [] else [(stateAddr d.bytes blk shard place, st)])

/-- R254, R273, R277, R361, R429: a BULK message. One for another domain or another node goes on: from its intermediate node to its destination on BULK2,
from the gateway of its domain as a BULK message of the gateway's. A tile that a rebuild has asked for waits for the rebuild's end. -/
def execBulk (p : BulkMsg) (s : State) : Host.Outcome State Fault Refusal :=
  if s.faults.inReset.contains 4 then .next s
  else if p.domain.toNat = domainNumber s ∧ p.dst.val ≠ nodeId s ∧ p.srcDomain ≠ p.domain ∧ !p.first then .next (sendBulk s p)
  else if p.domain.toNat ≠ domainNumber s ∨ p.dst.val ≠ nodeId s then
    .next { s with fab := { s.fab with out := s.fab.out ++ [.bulk p.dst p.dst { p with first := false }] } }
  else
    match p.body with
    | .tile object index bytes =>
      let o := object.toNat
      let i := index.toNat
      if s.bg.asked.contains (o, i) ∧ p.src.val = (partner s).getD 512 then
        .next { s with bg := { s.bg with answers := s.bg.answers ++ [(o, i, some bytes)] } }
      else if beingLoaded s then .next (loadTile s o i bytes)
      else
        let (st, s) := bulkTile s o i bytes
        .next { s with fab := { s.fab with out := s.fab.out ++ [.bulkAck p.srcDomain.toNat p.src o i st] } }
    | .shardRow table shard place bytes => .next (bulkRow s p.src.val table.toNat shard.toNat place.toNat bytes)
    | .ack object index status => .next (bridgeAck s object.toNat index.toNat status.toNat)

/-- R361: a tile was not acknowledged within 1 s. -/
def execBridgeTileTimeout (s : State) : Host.Outcome State Fault Refusal :=
  match s.fab.bridge with
  | [] => .next s
  | (_, _, m) :: _ =>
    let s' := { s with fab := { s.fab with bridge := s.fab.bridge.filter fun e => e.2.2 != m } }
    match inProg s m with
    | none => .next s'
    | some p => .next (finish s' m { status := sTimeout, progress := p.moved })

end Sys2Proof.Machine
end

