-- ==== Sys2Proof/Machine/Select.lean ====
section
/-!
DEFINITION. The select units: SOPEN, SFEED, SCHAIN, SSUMIN, SEMIT, SSAVE, SRESTORE (R149 to R164).
-/
namespace Sys2Proof.Machine

/-- The LANE_ID of a cluster's select unit. -/
def selLane (cl : Nat) : Nat := clLane cl 5

/-- A cluster's select unit. -/
def getSel (s : State) (cl : Nat) : Sel := cget {} s.units.select cl
def setSel (s : State) (cl : Nat) (u : Sel) : State := { s with units := { s.units with select := cset {} s.units.select cl u } }

/-! ### Entries and their order (R149, R150) -/

/-- The real order of two scores: less, equal. -/
def scoreLt (a b : W32) : Bool := flt (dec32 a) (dec32 b)
def scoreEq (a b : W32) : Bool := feq (dec32 a) (dec32 b)

/-- Entry `a` precedes entry `b` (R150). -/
def precedes (maxOrder : Bool) (a b : SelEntry) : Bool :=
  (if maxOrder then scoreLt b.score a.score else scoreLt a.score b.score) || (scoreEq a.score b.score && decide (a.id < b.id))

/-- Put an entry in its place. -/
def insertEntry (mo : Bool) (e : SelEntry) : List SelEntry → List SelEntry
  | [] => [e]
  | x :: r => if precedes mo e x then e :: x :: r else x :: insertEntry mo e r

/-- The entry of two duplicates that is kept (R157). -/
def keepDup (a b : SelEntry) : SelEntry :=
  if a.stage2 != b.stage2 then (if a.stage2 then b else a)
  else if scoreLt a.score b.score then a
  else if scoreLt b.score a.score then b
  else if a.late != b.late then (if a.late then b else a)
  else if bit a.score.toNat 31 then b else a

/-- Count an entry that is fed and not held. -/
def leaveOut (w : W32) (l : List (W32 × Nat)) : List (W32 × Nat) :=
  if l.any fun p => scoreEq p.1 w then l.map fun p => if scoreEq p.1 w then (p.1, p.2 + 1) else p else l ++ [(w, 1)]

/-- A finite score in units of 2⁻¹⁴⁹; none for an infinity or a NaN. -/
def exactScore (w : W32) : Option Int :=
  match dec32 w with
  | .fin neg m e => some (scaled (-149) neg m e)
  | _ => none

/-- FED, ALL, POS_INF and NEG_INF take an entry (R155). -/
def Sel.addSums (u : Sel) (w : W32) : Sel :=
  match dec32 w with
  | .inf neg => { u with fed := u.fed + 1, posInf := u.posInf + b2n (!neg), negInf := u.negInf + b2n neg }
  | _ => { u with fed := u.fed + 1, all := u.all + (exactScore w).getD 0 }

/-- The held entries take a new entry without a duplicate among them (R157). -/
def Sel.hold (u : Sel) (e : SelEntry) : Sel :=
  let h := insertEntry u.maxOrder e u.held
  if h.length ≤ u.kmax then { u with held := h }
  else { u with held := h.take u.kmax, left := (h.drop u.kmax).foldl (fun l x => leaveOut x.score l) u.left }

/-- The held entry that a new one duplicates (R157); none for a NaN, which is dropped before (R151). -/
def Sel.dupOf (u : Sel) (e : SelEntry) : Option SelEntry :=
  if u.dedup && !isNaN32 e.score then u.held.find? fun h => h.id == e.id else none

/-- Two duplicates are a mismatch (R158). -/
def mismatched (h e : SelEntry) : Bool := h.stage2 == e.stage2 && !scoreEq h.score e.score

/-- The new entry is a duplicate that mismatches the held one. -/
def Sel.mismatch (u : Sel) (e : SelEntry) : Bool := match u.dupOf e with | some h => mismatched h e | none => false

/-- What one entry does to a select unit: NaN, duplicate, mismatch counted (R151, R155, R157, R158, R163). Copies of one ID with different STAGE2
are resolved against the copy that is held when the second arrives, as R157 has it; where KMAX entries are held and one of the copies was not
held, the outcome can depend on the feed order, which R152 excludes (DESIGN CHOICE, log entry 86). -/
def Sel.feed (u : Sel) (child : Bool) (e : SelEntry) : Sel :=
  if isNaN32 e.score then { u with nanCount := satAdd 32 u.nanCount 1 }
  else
    let u := if child then u else u.addSums e.score
    match u.dupOf e with
    | none => u.hold e
    | some h =>
      let mis := mismatched h e
      let u := { u with
        dupCount := satAdd 32 u.dupCount 1, misCount := if mis then satAdd 32 u.misCount 1 else u.misCount, misSeen := u.misSeen || mis
        held := u.held.erase h }
      u.hold (keepDup h e)

/-- Offer one entry to a cluster's open select unit: its counters, and a fault event for each mismatch (R151, R157, R158). -/
def offerOne (cl : Nat) (child : Bool) (s : State) (e : SelEntry) : State :=
  let u := getSel s cl
  let lane := selLane cl
  let s := countArith (countArith (countArith (setSel s cl (u.feed child e)) lane 7 (b2n (isNaN32 e.score))) lane 8 (b2n (u.dupOf e).isSome)) lane 9
    (b2n (u.mismatch e))
  if u.mismatch e then logFault s { code := 0x22, event := true, dom := laneDomain lane, unit := laneUnit s lane } else s

/-- Offer entries to a cluster's select unit. A closed unit discards the feed, and its sentinel counts it (R161). -/
def offer (s : State) (cl : Nat) (child : Bool) (es : List SelEntry) : State :=
  if (getSel s cl).isOpen then es.foldl (offerOne cl child) s else countSeen s 0 (selLane cl)

/-- The valid entries among 16-byte entries (R149). -/
def entriesOf (bs : Bytes) (n : Nat) : List SelEntry :=
  (List.range n).filterMap fun i =>
    if fld bs (16 * i + 12) 0 1 = 1 then
      some ⟨fld bs (16 * i) 0 64, BitVec.ofNat 32 (fld bs (16 * i + 8) 0 32), fld bs (16 * i + 12) 1 1 == 1, fld bs (16 * i + 12) 2 1 == 1⟩
    else none

/-- A valid entry's 16 bytes, and a pad entry's (R154). -/
def entryBytes (e : SelEntry) : Bytes :=
  layoutBytes 16 [(0, 8, e.id), (8, 4, e.score.toNat), (12, 4, 1 + 2 * b2n e.late + 4 * b2n e.stage2)]
def padScore (mo : Bool) : Nat := if mo then 0xFF800000 else 0x7F800000
def padBytes (mo : Bool) : Bytes := layoutBytes 16 [(0, 8, 0xFFFFFFFFFFFFFFFF), (8, 4, padScore mo)]

/-! ### Emission (R153 to R155, R162, R164) -/

/-- The selection. -/
def Sel.selected (u : Sel) : List SelEntry := u.held.take u.k
def Sel.n (u : Sel) : Nat := u.selected.length
def Sel.short (u : Sel) : Bool := decide (u.n < u.k)

/-- BOUNDARY. -/
def Sel.boundary (u : Sel) : W32 :=
  if u.short then BitVec.ofNat 32 (padScore u.maxOrder) else ((u.selected.getLast?).map SelEntry.score).getD 0

/-- TIE_EXCESS (R153, R164). -/
def Sel.tieExcess (u : Sel) : Nat :=
  let b := u.boundary
  let own := ((u.held.drop u.k).filter fun e => scoreEq e.score b).length
  let out := (u.left.filter fun p => scoreEq p.1 b).foldl (fun n p => n + p.2) 0
  let kids := (u.children.filter fun c => !c.short && scoreEq c.boundary b).foldl (fun n c => n + c.ties) 0
  min 65535 (own + out + kids)

/-- A sum with its infinities: the binary32 result, and whether a finite sum left the range (R155). -/
def sumScore (sum : Int) (pos neg : Nat) : W32 × Bool :=
  if pos > 0 ∧ neg > 0 then (nan32, false)
  else if pos > 0 then (0x7F800000#32, false)
  else if neg > 0 then (0xFF800000#32, false)
  else
    let r := enc32 (ofInt false sum (-149))
    (r, isInfV (dec32 r))

/-- SUM_SEL and SUM_REST. -/
def Sel.sums (u : Sel) : (W32 × Bool) × (W32 × Bool) :=
  let f := u.selected.foldl (fun n e => n + (exactScore e.score).getD 0) 0
  let p := (u.selected.filter fun e => e.score == 0x7F800000#32).length
  let n := (u.selected.filter fun e => e.score == 0xFF800000#32).length
  (sumScore f p n, sumScore (u.all - f) (u.posInf - p) (u.negInf - n))

/-- The 128-byte summary block (R162). -/
def Sel.summary (u : Sel) : Bytes :=
  let t := u.tieExcess
  layoutBytes 128
    [(0, 4, packBits [(0, 11, u.k), (11, 1, b2n u.maxOrder), (16, 11, u.n)]),
     (4, 4, packBits [(0, 16, t), (16, 1, b2n (t != 0)), (17, 1, b2n u.short), (18, 1, b2n u.misSeen), (19, 1, b2n u.badK),
       (20, 1, b2n u.tieInexact)]),
     (8, 4, u.boundary.toNat), (12, 4, u.sums.1.1.toNat), (16, 4, u.sums.2.1.toNat), (20, 4, u.nanCount), (24, 8, u.fed),
     (32, 4, u.dupCount), (36, 4, u.misCount), (40, 8, codeOf 64 ((u.fed : Int) - u.n)), (48, 48, codeOf 384 u.all), (96, 4, u.posInf),
     (100, 4, u.negInf)]

/-- The K entries as written: the selection and its pads. -/
def Sel.emitted (u : Sel) : Bytes :=
  u.selected.flatMap entryBytes ++ (List.replicate (u.k - u.n) (padBytes u.maxOrder)).flatten

/-- The state image (R161): the held entries, and the summary. What fills the places up to KMAX that hold no entry, the manual does not say: pad
entries here (DESIGN CHOICE, log entry 10). -/
def Sel.image (u : Sel) : Bytes :=
  u.held.flatMap entryBytes ++ (List.replicate (u.kmax - u.held.length) (padBytes u.maxOrder)).flatten ++ u.summary

/-- Steps that SEMIT, SSAVE and SRESTORE cover at least (R161). -/
def selSteps (kmax : Nat) : Nat := ceilDiv kmax 2 + 4

/-! ### The opcodes -/

/-- R156, R159: SOPEN. -/
def execSopen (cl : Fin 32) (o : OpAB) (s : State) : Host.Outcome State Fault Refusal :=
  let kmax := opField o.a 0 11
  let ind := bit o.a.toNat 13
  laneChecked s (selLane cl) 0x10 o 1 (opRsv o.a 14 && decide (1 ≤ kmax) && decide (kmax ≤ 1024) && opRsv o.b (if ind then 17 else 0)) fun s =>
    let open' := fun (k : Nat) (bad : Bool) =>
      Host.Outcome.next (setSel s cl { isOpen := true, kmax := kmax, k := k, maxOrder := bit o.a.toNat 11, dedup := bit o.a.toNat 12, badK := bad })
    if ind then
      withAddr (clPlace cl o.b 2) fun a =>
        let w := readNat s a 2
        if w = 0 ∨ w > kmax then open' kmax true else open' w false
    else open' kmax false

/-- R156, R163: SFEED. -/
def execSfeed (cl : Fin 32) (o : OpAB) (s : State) : Host.Outcome State Fault Refusal :=
  laneChecked s (selLane cl) 0x11 o 1 (opRsv o.a 17 && opRsv o.b 1) fun s =>
    withAddr (clPlace cl o.a 32) fun a => .next (offer s cl (bit o.b.toNat 0) (entriesOf (readMem s a 32) 2))

/-- The LIST entries of a chain word as entries (R160). -/
def chainEntries (w : Bytes) : List SelEntry :=
  if fld w 0 16 2 = 0 then
    (List.range (min 3 (fld w 0 22 2))).map fun i =>
      ⟨fld w 0 0 16 * 4096 + fld w (8 + 8 * i) 0 12, ofInt32 (fld w (8 + 8 * i) 12 11), false, false⟩
  else []

/-- RESULT of the tasks that are not finished: written and not yet in a queue, queued, running, or with an END word not yet visible (R137). -/
def unfinishedResults (s : State) : List Nat :=
  (s.run.delayed.filterMap fun d => match d.what with | .task _ _ _ b _ => some (fld b 0x30 0 32) | _ => none) ++
    (s.units.nbu.flatMap fun kv => kv.2.queue.map (fun t => fld t.bytes 0x30 0 32) ++ kv.2.done.map NDone.result) ++
    (s.units.scans.filter fun e => decide (s.run.now < e.visible)).map ScanEnd.result

/-- R156, R160, R137: SCHAIN. A word of a scan that is not finished at this step contributes nothing, and the words the scan brings later are
discarded. -/
def execSchain (cl : Fin 32) (o : OpAB) (s : State) : Host.Outcome State Fault Refusal :=
  laneChecked s (selLane cl) 0x12 o 1 (opRsv o.a 19 && opRsv o.b 0) fun s =>
    let g := opField o.a 0 19
    withAddr (place false 0 g 1) fun a =>
      match (unfinishedResults s).find? fun r => decide (r ≤ g) && decide (g < r + 8) with
      | some r => .next { s with units := { s.units with dropped := s.units.dropped.filter (· != r) ++ [r] } }
      | none => .next (offer s cl false (chainEntries (readMem s a 32)))

/-- A child's summary enters the sums (R163, R164). -/
def Sel.addChild (u : Sel) (b : Bytes) : Sel :=
  let full := decide (64 ≤ u.children.length)
  { u with
    fed := u.fed + fld b 0x18 0 64, all := u.all + sint 384 (fld b 0x30 0 384), posInf := u.posInf + fld b 0x60 0 32
    negInf := u.negInf + fld b 0x64 0 32
    nanCount := satAdd 32 u.nanCount (fld b 0x14 0 32), dupCount := satAdd 32 u.dupCount (fld b 0x20 0 32)
    misCount := satAdd 32 u.misCount (fld b 0x24 0 32), misSeen := u.misSeen || fld b 4 18 1 == 1, badK := u.badK || fld b 4 19 1 == 1
    tieInexact := u.tieInexact || full
    children := if full then u.children else u.children ++ [⟨BitVec.ofNat 32 (fld b 8 0 32), fld b 4 0 16, fld b 4 17 1 == 1⟩] }

/-- R156, R163: SSUMIN. A closed unit discards the block, and its sentinel counts it (R161). -/
def execSsumin (cl : Fin 32) (o : OpAB) (s : State) : Host.Outcome State Fault Refusal :=
  laneChecked s (selLane cl) 0x13 o 1 (opRsv o.a 17 && opRsv o.b 0) fun s =>
    withAddr (clPlace cl o.a 128) fun a =>
      let u := getSel s cl
      .next (if u.isOpen then setSel s cl (u.addChild (readMem s a 128)) else countSeen s 0 (selLane cl))

/-- R156, R161: SEMIT. A closed unit writes nothing. -/
def execSemit (cl : Fin 32) (o : OpAB) (steps : Nat) (s : State) : Host.Outcome State Fault Refusal :=
  let u := getSel s cl
  laneChecked s (selLane cl) 0x14 o steps (opRsv o.a 17 && opRsv o.b 17 && (!u.isOpen || decide (selSteps u.kmax ≤ steps))) fun s =>
    if !u.isOpen then .next s
    else
      withAddr (clPlace cl o.a (16 * u.k)) fun a => withAddr (clPlace cl o.b 128) fun b =>
        let s := later (later s steps (cleanMem a u.emitted)) steps (cleanMem b u.summary)
        .next (countArith s (selLane cl) 0 (b2n u.sums.1.2 + b2n u.sums.2.2))

/-- R156, R161: SSAVE. A closed unit has no selection to write. -/
def execSsave (cl : Fin 32) (o : OpAB) (steps : Nat) (s : State) : Host.Outcome State Fault Refusal :=
  let u := getSel s cl
  laneChecked s (selLane cl) 0x15 o steps (opRsv o.a 17 && opRsv o.b 0 && (!u.isOpen || decide (selSteps u.kmax ≤ steps))) fun s =>
    if !u.isOpen then .next s
    else
      withAddr (clPlace cl o.a u.image.length) fun a =>
        let s := later s steps (cleanMem a u.image)
        .next { s with units := { s.units with images := s.units.images.filter (fun p => p.1 != a) ++ [(a, u.image, u)] } }

/-- The image that bytes at an address stand for: the one saved there, else the last one saved that they equal. The image of R161 has no place for
DEDUP, for the entries fed and not held, or for the children of R164; the state itself is remembered for them (log entry 10). -/
def imageAt (s : State) (a : Nat) : Option Sel :=
  let same := s.units.images.filter fun p => readMem s a p.2.1.length == p.2.1
  ((same.find? fun p => p.1 == a).or same.getLast?).map fun p => p.2.2

/-- The state that bytes stand for: the state saved as them; where no unit saved them, KMAX, K, DEDUP and the order of what
they hold are not stated, and are free (R161, log entry 9). -/
def imageState (s : State) (a : Nat) : Sel × State :=
  match imageAt s a with
  | some u => (u, s)
  | none =>
    let (v, s) := draw s
    let kmax := 1 + v % 1024
    let b := readMem s (a + 16 * kmax) 128
    let k := 1 + v / 1024 % kmax
    let u : Sel := { isOpen := true, kmax := kmax, k := k, maxOrder := bit v 21, dedup := bit v 22, held := (entriesOf (readMem s a (16 * kmax)) kmax) }
    ({ u.addChild b with children := [], tieInexact := fld b 4 20 1 == 1 }, s)

/-- R156, R161: SRESTORE. The record must cover the steps that the image's KMAX asks for. -/
def execSrestore (cl : Fin 32) (o : OpAB) (steps : Nat) (s : State) : Host.Outcome State Fault Refusal :=
  let kmax := ((clPlace cl o.a 144).bind (imageAt s) |>.map Sel.kmax).getD 1
  laneChecked s (selLane cl) 0x16 o steps (opRsv o.a 17 && opRsv o.b 0 && decide (selSteps kmax ≤ steps)) fun s =>
    withAddr (clPlace cl o.a 144) fun a =>
      let (u, s) := imageState s a
      .next (setSel s cl u)

end Sys2Proof.Machine
end

