-- ==== Sys2Proof/Machine/Nbu.lean ====
section
/-!
DEFINITION. The NBUs: task records, queues, the in-bank kinds HAM, FCOUNT, IADD, BITS, WRITE and COPY with their paces and the
closing of tiles, and the chain words (R96 to R105, R112 to R114, R184, R517).
-/
namespace Sys2Proof.Machine

/-! ### Task records (R97, R103) -/

def tKind (b : Bytes) : Nat := fld b 0 0 8
def tWidth (b : Bytes) : Nat := fld b 0 8 2
def tClear (b : Bytes) : Bool := fld b 0 10 1 == 1
def tKeep (b : Bytes) : Nat := fld b 0 11 5
def tTag (b : Bytes) : Nat := fld b 0 16 16
def tCount (b : Bytes) : Nat := fld b 4 0 32
def tBase (b : Bytes) : Nat := fld b 8 0 32
def tAux (b : Bytes) : Nat := fld b 12 0 32
def tErase (b : Bytes) : Nat := fld b 0x10 0 32
def tSn (b : Bytes) : Nat := fld b 0x14 0 32
def tQsn (b : Bytes) : Nat := fld b 0x18 0 48
def tResult (b : Bytes) : Nat := fld b 0x30 0 32
def tPayload (b : Bytes) : Bytes := slice b 0x40 128

/-- No map, or no SNs. -/
def noBase : Nat := 0xFFFFFFFF

/-- Granules of a bank pair, and of one of its banks. -/
def pairGranules : Nat := 3145728
def bankGranules : Nat := 1572864

/-- Bits of a sketch by WIDTH. -/
def sketchBits (w : Nat) : Nat := 256 * 2 ^ w

/-- Bytes of the bitmap of an erasure map of capacity C, padded to granules (R184). -/
def bitmapBytes (cap : Nat) : Nat := 32 * ceilDiv cap 256

/-- The range term's fields are valid (R103). -/
def rangeOk (en lo hi : Nat) : Bool := en == 0 || (decide (lo ≤ hi) && decide (hi ≤ lo + 15))

/-- `n` bytes from a bank-pair address lie in the bank pair. -/
def runOk (base n : Nat) : Bool := decide (base + granulesOf n ≤ pairGranules)

/-- COUNT is in range for the KIND. -/
def countOk (k n : Nat) : Bool :=
  decide (1 ≤ n) && decide (n ≤ (if k = 3 then 128 else if k = 4 then 32 else if k = 5 then 4 else 4096))

/-- Bit offset `i` of a BITS task, and increment `i` of an IADD task. -/
def tBitOff (b : Bytes) (i : Nat) : Nat := fld (tPayload b) (4 * i) 0 32
def tInc (b : Bytes) (i : Nat) : Int := sint 8 (fld (tPayload b) i 0 8)

/-- Every address run of a task lies in the bank pair, and COPY ranges do not overlap. -/
def runsOk (b : Bytes) (cap : Nat) : Bool :=
  let n := tCount b
  match tKind b with
  | 1 | 2 =>
    (tKind b == 2 || runOk (tBase b) (n * sketchBits (tWidth b) / 8)) && runOk (tAux b) (4 * n) &&
      (tErase b == noBase || runOk (tErase b) (bitmapBytes cap + 8 * n)) && (tSn b == noBase || runOk (tSn b) (8 * n))
  | 3 => runOk (tBase b) (n * 2 ^ tWidth b)
  | 4 => (List.range n).all fun i => decide (tBase b + tBitOff b i / 256 < pairGranules)
  | 5 => runOk (tBase b) (32 * n)
  | _ => runOk (tBase b) (32 * n) && runOk (tAux b) (32 * n) && (decide (tBase b + n ≤ tAux b) || decide (tAux b + n ≤ tBase b))

/-- A task that has an effect (R103). -/
def taskOk (b : Bytes) (cap : Nat) : Bool :=
  let k := tKind b
  decide (1 ≤ k) && decide (k ≤ 6) && (if k = 1 ∨ k = 3 then tWidth b != 3 else tWidth b == 0) &&
    fld b 0x18 48 16 == 0 && fld b 0x28 11 21 == 0 && (slice b 0x34 12).all (· == 0) && countOk k (tCount b) && runsOk b cap &&
    rangeOk (fld b 0x28 10 1) (fld b 0x28 0 5) (fld b 0x28 5 5)

/-- HAM and FCOUNT read; the other kinds write. -/
def tReads (b : Bytes) : Bool := decide (tKind b ≤ 2)

/-! ### One element of HAM and FCOUNT (R99 to R101) -/

/-- Where an NBU's bank pair begins among its channel's addresses. -/
def pairAddr (c : Chan) (pos : Nat) : Nat := t1Addr c.stack c.ch (32 * pairGranules * pos)

/-- Two bank-pair addresses lie in the same bank. The manual does not say which granules of a bank pair lie in which of its two banks of 48 MiB: here
the first half in the one, the second half in the other (DESIGN CHOICE, log entry 84). -/
def sameBank (a b : Nat) : Bool := (a / bankGranules) == (b / bankGranules)

/-- Paces of element `i` of a reading task (R99): its own, and 2 for each granule of attribute words, erasure bits and insert SNs that it begins in
the bank that holds its own sketch (of FCOUNT, the granule of BASE). -/
def elemPaces (b : Bytes) (i : Nat) : Nat :=
  let own := if tKind b = 1 then 2 ^ (1 + tWidth b) else if i % 4 = 0 then 1 else 0
  let sketch := if tKind b = 1 then tBase b + i * (sketchBits (tWidth b) / 256) else tBase b
  let aux := fun (base per : Nat) => if base ≠ noBase ∧ sameBank (base + i / per) sketch ∧ i % per = 0 then 2 else 0
  own + aux (tAux b) 8 + aux (tErase b) 256 + aux (tSn b) 4

/-- The columns, as bank-pair granules, that element `i` touches. -/
def elemColumns (b : Bytes) (cap i : Nat) : List Nat :=
  let per := sketchBits (tWidth b) / 256
  (if tKind b = 1 then (List.range per).map fun k => tBase b + i * per + k else []) ++
  [tAux b + i / 8] ++ (if tErase b = noBase then [] else [tErase b + i / 256, tErase b + bitmapBytes cap / 32 + i / 4]) ++
  (if tSn b = noBase then [] else [tSn b + i / 4])

/-- The attribute word of element `i`. -/
def elemAttr (s : State) (pa : Nat) (b : Bytes) (i : Nat) : Nat := readNat s (pa + 32 * tAux b + 4 * i) 4

/-- The erasure test of R184 against QSN, for a map of capacity C at an address. -/
def isErased (s : State) (map cap i qsn : Nat) : Bool :=
  bit (readNat s (map + i / 8) 1) (i % 8) && decide (readNat s (map + bitmapBytes cap + 8 * i) 6 ≤ qsn)

/-- The filter terms of R100 on an attribute word. -/
def filterPass (b : Bytes) (attr : Nat) : Bool :=
  let m := fld b 0x20 0 32
  let lo := fld b 0x28 0 5
  let v := bits attr lo (fld b 0x28 5 5 + 1 - lo)
  (attr &&& m) == fld b 0x24 0 32 &&
    (fld b 0x28 10 1 == 0 || (decide (fld b 0x2C 0 16 ≤ v) && decide (v ≤ fld b 0x2C 16 16)))

/-- Element `i` passes (R100). -/
def elemPass (s : State) (pa : Nat) (b : Bytes) (cap i : Nat) : Bool :=
  filterPass b (elemAttr s pa b i) &&
    (tErase b == noBase || !isErased s (pa + 32 * tErase b) cap i (tQsn b)) &&
    (tSn b == noBase || decide (readNat s (pa + 32 * tSn b + 8 * i) 6 ≤ tQsn b))

/-- The bits in which two sketches differ. -/
def hamming (w x y : Nat) : Nat := popCount w (x ^^^ y)

/-- Keep the smallest entries in the order (distance, element index). -/
def keepHam (keep : Nat) (e : HamEntry) : List HamEntry → List HamEntry
  | [] => if keep = 0 then [] else [e]
  | x :: r =>
    if keep = 0 then []
    else if e.dist < x.dist ∨ (e.dist = x.dist ∧ e.idx < x.idx) then e :: (x :: r).take (keep - 1)
    else x :: keepHam (keep - 1) e r

/-- R113: an uncorrectable column that an NBU reads `k` steps from now: the finding on the tile that holds it. -/
def columnFinding (s : State) (c : Chan) (k a : Nat) : State :=
  match tileAt s a with
  | some (o, t) => poisonFinding s o.id t (chLane c) k
  | none => s

/-- Is a bank-pair granule of position `pos` among the uncorrectable columns. -/
def isUe (pos : Nat) (ue : List Nat) (g : Nat) : Bool := ue.contains (pairGranules * pos + g)

/-- Findings on uncorrectable columns. -/
def ueFindings (s : State) (c : Chan) (pos k : Nat) (bad : List Nat) : State :=
  bad.foldl (fun s g => columnFinding s c k (pairAddr c pos + 32 * g)) s

/-- Element `i` of a HAM or FCOUNT task. -/
def readElem (s : State) (c : Chan) (pos k : Nat) (ue : List Nat) (t : NTask) (n : Nbu) (i : Nat) : State × Nbu :=
  let b := t.bytes
  let pa := pairAddr c pos
  let bad := (elemColumns b t.cap i).filter (isUe pos ue)
  -- a column that the element before has read already is no new read
  let fresh := if i = 0 then bad else bad.filter fun g => !(elemColumns b t.cap (i - 1)).contains g
  if !bad.isEmpty then (ueFindings s c pos k fresh, { n with ue := n.ue + fresh.length })
  else if elemPass s pa b t.cap i then
    let n := { n with passed := n.passed + 1 }
    if tKind b = 1 then
      let w := sketchBits (tWidth b)
      let d := hamming w (readNat s (pa + 32 * tBase b + i * (w / 8)) (w / 8)) (leNat (slice (tPayload b) 0 (w / 8)))
      (s, { n with best := keepHam (tKeep b) ⟨d, i, elemAttr s pa b i⟩ n.best })
    else (s, n)
  else (s, n)

/-! ### One granule of the writing kinds (R102, R114) -/

/-- Granules (IADD, WRITE, COPY) or bit offsets (BITS) of a writing task. -/
def writeUnits (b : Bytes) : Nat :=
  if tKind b = 3 then granulesOf (tCount b * 2 ^ tWidth b) else tCount b

/-- The bank-pair granule that unit `u` of a writing task writes. -/
def unitGranule (b : Bytes) (u : Nat) : Nat := if tKind b = 4 then tBase b + tBitOff b u / 256 else tBase b + u

/-- A saturating addition at `w` bits: the code, and whether it saturated. -/
def satAddW (w code : Nat) (inc : Int) : Nat × Bool :=
  let v := sint w code + inc
  let hi : Int := 2 ^ (w - 1) - 1
  let lo : Int := -2 ^ (w - 1)
  if v > hi then (codeOf w hi, true) else if v < lo then (codeOf w lo, true) else (codeOf w v, false)

/-- The new contents of unit `u`'s granule: bytes, elements written, saturations. -/
def unitData (s : State) (pa : Nat) (b : Bytes) (u : Nat) : Bytes × Nat × Nat :=
  let g := readMem s (pa + 32 * unitGranule b u) 32
  match tKind b with
  | 3 =>
    let w := 2 ^ tWidth b
    let per := 32 / w
    let n := min per (tCount b - u * per)
    let r := (List.range n).map fun i => satAddW (8 * w) (fld g (w * i) 0 (8 * w)) (tInc b (u * per + i))
    (r.flatMap (fun x => leBytes w x.1) ++ g.drop (w * n), n, (r.filter Prod.snd).length)
  | 4 =>
    let o := tBitOff b u % 256
    let v := leNat g
    let v' := if tClear b then (if bit v o then v - 2 ^ o else v) else (if bit v o then v else v + 2 ^ o)
    (leBytes 32 v', 1, 0)
  | 5 => (slice (tPayload b) (32 * u) 32, 1, 0)
  | _ => (readMem s (pa + 32 * (tAux b + u)) 32, 1, 0)

/-- Columns that a unit reads. -/
def unitColumns (b : Bytes) (u : Nat) : List Nat :=
  if tKind b = 3 ∨ tKind b = 4 then [unitGranule b u] else if tKind b = 6 then [tAux b + u] else []

/-- A tile an NBU task has open (R114): object, tile, and the CRC of its payload as it was before the task wrote to it. -/
structure OpenTile where
  obj  : Nat
  tile : Nat
  crc  : Nat
  deriving DecidableEq, Repr

/-- Write bytes of the bank pair in a segment: at once on the state that the segment's NBUs work on, and as a write that the other readers see
from the step after (R26). `k` counts the steps from the segment's first to that step. -/
def segWrite (s : State) (k a : Nat) (bs : Bytes) (marks : List Bool) : State :=
  let s := setMarks (writeMem s a bs) a marks
  { s with run := { s.run with delayed := s.run.delayed ++ [⟨s.run.now + k, .mem a bs marks⟩] } }

/-- Close the tile an NBU task has written to (R114): the tag changes as the payload has, whether or not it was right before; the generation
counts up and DEVICE_WRITTEN is set. -/
def closeTile (s : State) (k : Nat) : Option OpenTile → State
  | none => s
  | some x =>
    match findObj s x.obj with
    | none => s
    | some o =>
      match tileAddr o x.tile with
      | none => s
      | some (h, p) =>
        let hdr := readMem s h 32
        let payload := readMem s p o.payload
        let tag := fld hdr 8 0 32 ^^^ x.crc ^^^ crc32c payload
        segWrite s k h (patch (closeHeader hdr payload) 8 (leBytes 4 tag)) []

/-- The tile at an address, with the CRC of its payload. -/
def openTile (s : State) (a : Nat) : Option OpenTile :=
  (tileAt s a).map fun ot => ⟨ot.1.id, ot.2, match tileAddr ot.1 ot.2 with | some (_, p) => crc32c (readMem s p ot.1.payload) | none => 0⟩

/-- Two open tiles are the same tile. -/
def sameTile (x y : Option OpenTile) : Bool :=
  match x, y with
  | some a, some b => a.obj == b.obj && a.tile == b.tile
  | none, none => true
  | _, _ => false

/-- Write unit `u` so that readers see it `k` steps on: the state, the NBU, and whether the unit was written (R113). -/
def writeUnit (s : State) (c : Chan) (pos k : Nat) (ue : List Nat) (t : NTask) (n : Nbu) (u : Nat) : State × Nbu × Bool :=
  let b := t.bytes
  let pa := pairAddr c pos
  let bad := (unitColumns b u).filter (isUe pos ue)
  if !bad.isEmpty then (ueFindings s c pos k bad, { n with ue := n.ue + bad.length }, false)
  else
    let (d, m, sat) := unitData s pa b u
    (segWrite s k (pa + 32 * unitGranule b u) d [false], { n with passed := n.passed + m, sat := n.sat + sat }, true)

/-! ### A task in a segment (R98, R99) -/

/-- Elements `i` to `i + k − 1` of a reading task with `left` paces of a segment of `len` steps: state, NBU, paces left. -/
def readRun (c : Chan) (pos len : Nat) (ue : List Nat) (t : NTask) : Nat → State → Nbu → Nat → State × Nbu × Nat
  | 0, s, n, left => (s, n, left)
  | k + 1, s, n, left =>
    let need := elemPaces t.bytes n.units - n.part
    if need ≤ left then
      let (s, n) := readElem s c pos (len - (left - need)) ue t n n.units
      readRun c pos len ue t k s { n with units := n.units + 1, part := 0, paces := n.paces + need } (left - need)
    else (s, { n with part := n.part + left, paces := n.paces + left }, 0)

/-- Up to `k` units of a writing task with `left` paces of a segment of `len` steps, `open'` the tile it has open: the tile closes when another
is written, with the task, or in the segment's last 2 paces (R114). The manual does not say which paces a task may take before a close: here a unit
that would not leave 2 paces for the close of its tile takes at most 3 of its 4 paces in this segment, and the paces left over pass
without effect, which the task counts (DESIGN CHOICE, log entry 84). A tile of which no unit is written is not opened. -/
def writeRun (c : Chan) (pos len : Nat) (ue : List Nat) (t : NTask) :
    Nat → State → Nbu → Nat → Option OpenTile → State × Nbu × Nat
  | 0, s, n, left, open' =>
    let k := if open'.isSome then 2 else 0
    (closeTile s (len - (left - k)) open', { n with paces := n.paces + k }, left - k)
  | k + 1, s, n, left, open' =>
    let tile := openTile s (pairAddr c pos + 32 * unitGranule t.bytes n.units)
    let change := open'.isSome && !sameTile open' tile
    let need := (if change then 2 else 0) + (4 - n.part)
    if need + (if tile.isSome then 2 else 0) ≤ left then
      let s := if change then closeTile s (len - (left - 2)) open' else s
      let (s, n, wrote) := writeUnit s c pos (len - (left - need)) ue t n n.units
      let now := if change then (if wrote then tile else none) else if open'.isSome then open' else if wrote then tile else none
      writeRun c pos len ue t k s { n with units := n.units + 1, part := 0, paces := n.paces + need } (left - need) now
    else
      let keep := if open'.isSome then 2 else 0
      let p := min (3 - n.part) (left - keep)
      (closeTile s len open', { n with part := n.part + p, paces := n.paces + left }, 0)

/-! ### Chain words (R104, R105) -/

/-- A LIST entry. -/
def listEntry (e : HamEntry) : Nat := packBits [(0, 12, e.idx), (12, 11, e.dist), (32, 32, e.attr)]

/-- A LIST word of up to three entries. -/
def listWord (tag seq : Nat) (es : List HamEntry) : Bytes :=
  layoutBytes 32 [(0, 4, packBits [(0, 16, tag), (22, 2, es.length), (24, 8, seq)]),
    (8, 8, (es.map listEntry).getD 0 0), (16, 8, (es.map listEntry).getD 1 0), (24, 8, (es.map listEntry).getD 2 0)]

/-- An END word. -/
def endWord (tag status seq passed ue sat : Nat) : Bytes :=
  layoutBytes 32 [(0, 8, packBits [(0, 16, tag), (16, 2, 1), (18, 4, status), (24, 8, seq), (32, 13, passed), (45, 8, min 255 ue),
    (53, 8, min 255 sat)])]

/-- The LIST words of the entries from word `seq` on. -/
def listWords (tag : Nat) : Nat → Nat → List HamEntry → List Bytes
  | 0, _, _ => []
  | _ + 1, _, [] => []
  | k + 1, seq, es => listWord tag seq (es.take 3) :: listWords tag k (seq + 1) (es.drop 3)

/-- The words of a task that has run. -/
def taskWords (b : Bytes) (n : Nbu) : List Bytes :=
  let ls := listWords (tTag b) 32 0 n.best
  ls ++ [endWord (tTag b) (if n.ue > 0 then 3 else 0) ls.length n.passed n.ue n.sat]

/-- The NBU with its head task ended at absolute step `at'`. -/
def endTask (n : Nbu) (b : Bytes) (at' : Nat) (words : List Bytes) : Nbu :=
  { n with queue := n.queue.drop 1, paces := 0, units := 0, part := 0, best := [], passed := 0, ue := 0, sat := 0,
           done := n.done ++ [⟨at', tResult b, words⟩] }

/-- Run the eligible tasks of one NBU for the `left` paces that remain of a segment of `len` steps from the present one. -/
def runNbu (c : Chan) (pos len : Nat) (ue : List Nat) : Nat → State → Nbu → Nat → State × Nbu
  | 0, s, n, _ => (s, n)
  | k + 1, s, n, left =>
    match n.queue with
    | [] => (s, n)
    | t :: _ =>
      if left = 0 ∨ s.run.frame < t.eligible then (s, n)
      else
        let b := t.bytes
        if !taskOk b t.cap then
          let need := 256 - n.paces
          if need ≤ left then runNbu c pos len ue k s (endTask n b (s.run.now + len - (left - need) - 1) [endWord (tTag b) 2 0 0 0 0]) (left - need)
          else (s, { n with paces := n.paces + left })
        else
          let total := if tReads b then tCount b else writeUnits b
          let (s, n, left) := if n.units = total then (s, n, left)
            else if tReads b then readRun c pos len ue t (total - n.units) s n left
            else writeRun c pos len ue t (total - n.units) s n left none
          if n.units < total then (s, n)
          else
            let need := 256 - n.paces
            if need ≤ left then runNbu c pos len ue k s (endTask n b (s.run.now + len - (left - need) - 1) (taskWords b n)) (left - need)
            else (s, { n with paces := n.paces + left })

/-! ### Queues (R96) -/

/-- The END words of tasks that found the queue full before this step. -/
def reportFull (n : Nbu) (now : Nat) : Nbu :=
  let due := n.full.filter fun f => f.1 < now
  { n with
    full := n.full.filter fun f => !(f.1 < now)
    done := n.done ++ due.map fun f => ⟨now, tResult f.2, [endWord (tTag f.2) 1 0 0 0 0]⟩ }

/-- R104: the words of a task that has ended enter the chain, and stand in the node store from step `ended` + 320. The words of a scan that its
pool's selection did not wait for are discarded (R137). -/
def emitDone (s : State) (d : NDone) : State :=
  if s.units.dropped.contains d.result then { s with units := { s.units with dropped := s.units.dropped.filter (· != d.result) } }
  else
    let put := (List.range d.words.length).map fun i =>
      Delayed.mk (d.ended + 320) (cleanMem (nsAddr (32 * (d.result + i))) (d.words.getD i []))
    let e := (d.words.getLast?).getD []
    { s with
      run := { s.run with delayed := s.run.delayed ++ put }
      units := { s.units with scans := s.units.scans ++ [⟨d.result, d.ended + 320, fld e 4 0 13, fld e 0 18 4⟩] } }

/-- R104: a task of an NBU has ended. -/
def execNbuTaskEnd (c : Chan) (pos : Fin 24) (s : State) : Host.Outcome State Fault Refusal :=
  let n := getNbu s c pos
  match n.done with
  | [] => .next s
  | d :: r =>
    if s.run.now < d.ended then .next s
    else if nsGranules < d.result + d.words.length then .fault .noSuchAddress
    else .next (emitDone (setNbu s c pos { n with done := r }) d)

end Sys2Proof.Machine
end

