-- ==== Sys2Proof/Machine/Stack.lean ====
section
/-!
DEFINITION. The stack channel lanes: SRD, SWR, NSEG (R92 to R95, R98, R106, R107, R112, R113).
-/
namespace Sys2Proof.Machine

/-- Bytes an SRD delivers: a granule with an uncorrectable column comes with a poison mark, and its data are not stated. -/
def srdData (s : State) (a n ue : Nat) : Bytes × State :=
  (List.range n).foldl (fun (acc : Bytes × State) i =>
    if bit ue i then
      let (v, s) := draw acc.2
      (acc.1 ++ leBytes 32 v, s)
    else (acc.1 ++ readMem s (a + 32 * i) 32, acc.2)) ([], s)

/-- R92, R93, R113: SRD. -/
def execSrd (c : Chan) (o : OpAB) (ecc : Ecc) (s : State) : Host.Outcome State Fault Refusal :=
  let n := opField o.a 27 2 + 1
  let lane := chLane c
  laneChecked s lane 0x10 o 1 (opRsv o.a 29 && opRsv o.b 26) fun s =>
    withAddr (chPlace c (opField o.a 0 27) n) fun a => withAddr (srdPlace o.b n) fun d =>
      let ue := ecc.uncorrectable.toNat % 2 ^ n
      let marks := List.zipWith (fun m i => m || bit ue i) (marksOf s a n) (List.range n)
      let (bs, s) := srdData s a n ue
      let s := countTier (later s 64 (.mem d bs marks)) lane 2 (32 * n)
      let s := count s (laneDomain lane) 4 (16 * c.stack + c.ch) 0 (32 * n)
      .next (count s (laneDomain lane) 4 (16 * c.stack + c.ch) 4 (popCount n ecc.corrected.toNat))

/-- R92, R93: SWR. -/
def execSwr (c : Chan) (o : OpAB) (s : State) : Host.Outcome State Fault Refusal :=
  let n := opField o.a 27 2 + 1
  let lane := chLane c
  laneChecked s lane 0x11 o 1 (opRsv o.a 29 && opRsv o.b 26) fun s =>
    withAddr (chPlace c (opField o.a 0 27) n) fun a => withAddr (srdPlace o.b n) fun d =>
      let s := later s 64 (.mem a (readMem s d (32 * n)) (marksOf s d n))
      .next (count (countTier s lane 3 (32 * n)) (laneDomain lane) 4 (16 * c.stack + c.ch) 1 (32 * n))

/-- Positions that an ink budget allows in a MASK (R106). INK 3 is a fault of check 4 alone (R39), so that check 10 finds none in it. -/
def inkPositions (ink : Nat) : Nat := [6, 12, 18].getD ink 24

/-- Steps of the longest segment at a point (R107). -/
def segLimit (point : Nat) : Nat := [1521, 3125, 4069].getD point 0

/-- One NBU of a segment. -/
def segNbu (c : Chan) (steps : Nat) (ue : List Nat) (s : State) (pos : Nat) : State :=
  let n := reportFull (getNbu s c pos) s.run.now
  let (s, n) := runNbu c pos steps ue (n.queue.length + 1) s n steps
  setNbu s c pos n

/-- The NBUs of a mask run a segment. They see their own writes at once; the channel's memory takes each in the step after it (R26). -/
def segment (c : Chan) (steps mask : Nat) (ue : List Nat) (s : State) : State :=
  let t := ((List.range 24).filter (bit mask)).foldl (segNbu c steps ue) s
  { t with mem := { t.mem with bytes := s.mem.bytes, poison := s.mem.poison } }

/-- R92, R98: NSEG. `ue` names the columns that read as uncorrectable, as channel granules; `corrected` counts the single-bit
corrections. -/
def execNseg (c : Chan) (o : OpAB) (steps : Nat) (ue : List (BitVec 27)) (corrected : Nat) (s : State) :
    Host.Outcome State Fault Refusal :=
  let lane := chLane c
  let mask := opField o.a 0 24
  let ok := match s.run.plate with
    | none => true
    | some p => decide (popCount 24 mask ≤ inkPositions p.ink) && decide (steps ≤ segLimit s.setup.running)
  laneChecked s lane 0x18 o steps (opRsv o.a 24 && opRsv o.b 0 && ok) fun s =>
    let cols := ue.map BitVec.toNat
    let s := segment c steps mask cols s
    let bytes := 16 * steps * popCount 24 mask
    let s := count (countTier s lane 4 bytes) (laneDomain lane) 4 (16 * c.stack + c.ch) 2 bytes
    .next (count s (laneDomain lane) 4 (16 * c.stack + c.ch) 4 corrected)

end Sys2Proof.Machine
end

