-- ==== Sys2Proof/Machine/Walker.lean ====
section
/-!
DEFINITION. The tree walkers: sketches, branch nodes, TWALK, TPLAN with and without WIDEN, TSKETCH (R119 to R134, R136 to R138,
R187).
-/
namespace Sys2Proof.Machine

/-! ### Sketches (R121) -/

/-- A binary32 value greater than +0. -/
def positive32 (x : W32) : Bool := flt (.fin false 0 0) (dec32 x)

/-- The W values at an address. -/
def valuesAt (s : State) (a w : Nat) : List W32 := (List.range w).map fun i => BitVec.ofNat 32 (readNat s (a + 4 * i) 4)

/-- The sketch of some values as a number: bit j for value j. -/
def sketchNat : List W32 → Nat
  | [] => 0
  | x :: r => b2n (positive32 x) + 2 * sketchNat r

/-- NaNs among some values. -/
def nanCount (vs : List W32) : Nat := (vs.filter isNaN32).length

/-! ### Descriptors (R119, R120) -/

def dWidth (d : Desc) : Nat := fld d.bytes 4 3 2
def dDepth (d : Desc) : Nat := fld d.bytes 4 5 3
def dLeaves (d : Desc) : Nat := fld d.bytes 8 24 8
def dKeep (d : Desc) : Nat := fld d.bytes 12 0 8
def dPerLeaf (d : Desc) : Nat := fld d.bytes 12 8 8
def dTop (d : Desc) : Nat := fld d.bytes 0x18 0 64
def dSub (d : Desc) : Nat := fld d.bytes 0x38 0 64
/-- POLICY and TAIL_CAP of an index's update block (R167). -/
def dPolicy (d : Desc) : Nat := fld d.block 0 0 2
def dTailCap (d : Desc) : Nat := fld d.block 4 0 12

/-- The descriptor an index's query runs against (R120, R192): the one in use at its admission, which its share names; without a share
whose plan block this is, the one in use. -/
def descFor (s : State) (block id : Nat) : Option Desc :=
  match s.recs.shares.find? fun q => q.block == some block && q.desc.id == id with
  | some q => some q.desc
  | none => findDesc s 1 id

/-! ### Branch nodes (R126 to R129) -/

/-- Bytes of a branch node by WIDTH. -/
def nodeLen (w : Nat) : Nat := 64 + 64 * (sketchBits w / 8 + 32)

/-- One child entry as the walker ranks it: its pointer, key and distance. -/
structure Child where
  ptr      : Nat
  key      : Int
  dist     : Nat
  isLeaf   : Bool
  excluded : Bool
  deriving DecidableEq, Repr

/-- A filter's mask and value. -/
structure Filter where
  mask  : Nat
  value : Nat
  deriving DecidableEq, Repr

/-- The mask term keeps out everything under a child with these summaries (R129). -/
def childExcluded (f : Filter) (or' and' : Nat) : Bool :=
  (f.mask &&& f.value &&& (or' ^^^ 0xFFFFFFFF)) != 0 || (f.mask &&& (f.value ^^^ 0xFFFFFFFF) &&& and') != 0

/-- The child entry in slot `i` of a branch node's bytes. -/
def childOf (b : Bytes) (w sk : Nat) (f : Filter) (i : Nat) : Child :=
  let n := sketchBits w / 8
  let o := 64 + i * (n + 32)
  let d := hamming (8 * n) (leNat (slice b o n)) sk
  let t := slice b (o + n) 32
  { ptr := fld t 0 0 64, key := 2 * (d : Int) - fld t 8 0 11, dist := d, isLeaf := fld t 8 11 1 == 1
    excluded := childExcluded f (fld t 0x10 0 32) (fld t 0x14 0 32) }

/-- The children of a branch node, in slot order. -/
def childrenOf (b : Bytes) (w sk : Nat) (f : Filter) : List Child :=
  (List.range (min 64 (fld b 4 8 7))).map (childOf b w sk f)

/-- A child ranks strictly before another: key, then distance; ties keep the order they come in (R129). -/
def ranksBefore (a b : Child) : Bool := if a.key ≠ b.key then decide (a.key < b.key) else decide (a.dist < b.dist)

/-- Put a child behind every child that does not rank after it. -/
def insertChild (c : Child) : List Child → List Child
  | [] => [c]
  | x :: r => if ranksBefore c x then c :: x :: r else x :: insertChild c r

/-- Children in rank order; slot position comes before the node's position in the beam (R129). -/
def rankChildren (nodes : List (List Child)) : List Child :=
  let slots := (List.range 64).flatMap fun i => nodes.filterMap fun cs => cs[i]?
  slots.foldl (fun acc c => insertChild c acc) []

/-- The branch nodes at some granule offsets from a base; none where one does not exist. -/
def readNodes (s : State) (base w : Nat) : List Nat → Option (List Bytes)
  | [] => some []
  | o :: r =>
    if addrOk (base + 32 * o) (nodeLen w) then (readNodes s base w r).map fun l => readMem s (base + 32 * o) (nodeLen w) :: l else none

/-- OFFSET of a tree pointer (R128). -/
def ptrOffset (p : Nat) : Nat := bits p 12 36

/-- Steps that reading `n` branch nodes of one level takes (R133). -/
def readSteps (w n : Nat) : Nat := 64 + n * ceilDiv (nodeLen w) 128

/-! ### The lanes -/

/-- The LANE_ID of a tree walker. -/
def walkLane (q : Nat) : Nat := 0x100 + q

/-- The first `n` child entries of some nodes, node by node: those that are ranked when a walk ends after `n` ranking steps. -/
def rankedSoFar : Nat → List (List Child) → List (List Child)
  | _, [] => []
  | n, cs :: r => cs.take n :: rankedSoFar (n - cs.length) r

/-- The new beam of one level within `left` steps and the steps the whole level takes; none where a node does not exist. A level that the
steps do not suffice for leaves the beam of the entries ranked by then (R133; DEDUCED, log entry 84). -/
def walkLevel (s : State) (base w sk : Nat) (f : Filter) (beam : List Nat) (width left : Nat) : Option (List Nat × Nat) :=
  (readNodes s base w (beam.map ptrOffset)).map fun nodes =>
    let cs := nodes.map fun b => childrenOf b w sk f
    (((rankChildren (rankedSoFar (left - readSteps w beam.length) cs)).filter fun c => !c.excluded).take width |>.map Child.ptr,
      readSteps w beam.length + (cs.map List.length).foldl (· + ·) 0)

/-- Levels 0 to 2 within `left` steps: the subtree list, and whether the walk was abandoned (R130, R133). An abandoned walk leaves the
subtrees it has found: those of level 2, if it got there. -/
def walkLevels (s : State) (base w sk : Nat) (f : Filter) : List Nat → List Nat → Nat → Option (List Nat × Bool)
  | [], beam, _ => some (beam, false)
  | width :: r, beam, left =>
    match walkLevel s base w sk f beam width left with
    | none => none
    | some (next, cost) =>
      if cost ≤ left then walkLevels s base w sk f r next (left - cost) else some (if r.isEmpty then next else [], true)

/-- Set a block's word at 0x0C. -/
def blockFlags (a found : Nat) (abandoned : Bool) : Landing :=
  cleanMem (a + 12) (leBytes 4 (packBits [(0, 7, found), (7, 1, b2n abandoned)]))

/-- R130, R132, R133: TWALK. The root is the node at granule offset 0 of TOP_BASE, and a walk block must have room for 64 tree pointers
after its sketch, the most a list can hold (DESIGN CHOICE, log entry 84). -/
def execTwalk (quad : Fin 4) (o : OpAB) (steps : Nat) (s : State) : Host.Outcome State Fault Refusal :=
  let lane := walkLane quad
  laneChecked s lane 0x10 o steps (opRsv o.a 19 && opRsv o.b 0) fun s =>
    let a := nsAddr (32 * opField o.a 0 19)
    let head := readMem s a 64
    match findDesc s 1 (fld head 0 0 16) with
    | none => .next s
    | some d =>
      let w := sketchBits (dWidth d)
      withAddr (if addrOk a (64 + 4 * w + w / 8 + 512) then some a else none) fun a =>
        let vs := valuesAt s (a + 64) w
        if steps < w / 64 then .next (later s steps (blockFlags a 0 true))
        else
          let sk := sketchNat vs
          let f : Filter := ⟨fld head 4 0 32, fld head 8 0 32⟩
          match walkLevels s (dTop d) (dWidth d) sk f [fld d.bytes 8 0 8, fld d.bytes 8 8 8, fld d.bytes 8 16 8] [0] (steps - w / 64) with
          | none => .fault .noSuchAddress
          | some (list, abandoned) =>
            let s := later s steps (cleanMem (a + 64 + 4 * w) (leBytes (w / 8) sk))
            let s := later s steps (.mem (a + 64 + 4 * w + w / 8) (list.flatMap (leBytes 8)) [])
            .next (countArith (later s steps (blockFlags a list.length abandoned)) lane 1 (nanCount vs))

/-- R121, R132: TSKETCH. -/
def execTsketch (quad : Fin 4) (o : OpAB) (steps : Nat) (s : State) : Host.Outcome State Fault Refusal :=
  let lane := walkLane quad
  let wd := opField o.b 19 2
  laneChecked s lane 0x12 o steps (opRsv o.a 19 && opRsv o.b 21 && wd != 3) fun s =>
    let w := sketchBits wd
    withAddr (place false 0 (opField o.a 0 19) (w / 8)) fun a =>
      withAddr (place false 0 (opField o.b 0 19) (granulesOf (w / 8))) fun b =>
        let vs := valuesAt s a w
        if steps < w / 64 then .next s
        else .next (countArith (later s steps (cleanMem b (leBytes (w / 8) (sketchNat vs)))) lane 1 (nanCount vs))

/-! ### Planning (R131, R136, R187) -/

/-- NODE and LEAF of a leaf pointer. -/
def leafNode (p : Nat) : Nat := bits p 0 9
def leafNum (p : Nat) : Nat := bits p 12 24

/-- The nodes whose leaves this node scans: itself, and its partner while the view marks it eclipsed (R23, R131). -/
def scans (s : State) (n : Nat) : Bool := n == nodeId s || (partner s == some n && eclipsed s n)

/-- The directory entry address of a leaf: its own directory, or the replicas' (R125). -/
def leafDirAddr (s : State) (d : Desc) (node leaf : Nat) : Nat :=
  fld d.bytes (if node = nodeId s then 0x28 else 0x30) 0 64 + 64 * leaf

/-- What a plan block says that every task of the query carries. -/
structure PlanCtx where
  desc   : Desc
  head   : Bytes
  sketch : Nat
  deriving DecidableEq, Repr

/-- A HAM task for an array of elements (R136). -/
def hamTask (x : PlanCtx) (tag count sketches attrs erase sns result : Nat) : Bytes :=
  let w := dWidth x.desc
  layoutBytes 192
    [(0, 4, packBits [(0, 8, 1), (8, 2, w), (11, 5, dKeep x.desc), (16, 16, tag)]), (4, 4, count), (8, 4, sketches), (12, 4, attrs),
     (0x10, 4, erase), (0x14, 4, sns), (0x18, 6, fld x.head 0x10 0 48), (0x20, 4, fld x.head 4 0 32), (0x24, 4, fld x.head 8 0 32),
     (0x28, 8, fld x.head 0x18 0 64), (0x30, 4, result), (0x40, 128, x.sketch)]

/-- The lane whose record writes tasks, and its steps in all: `left` of them remain. -/
structure PlanLane where
  lane  : Nat
  steps : Nat
  deriving DecidableEq, Repr

/-- Write a task record to an NBU in the record's step that has `left` steps after and with it: it is in the queue from the next step on
(R96, R133). -/
def writeTask (s : State) (pl : PlanLane) (left : Nat) (c : Chan) (pos : Nat) (b : Bytes) (cap : Nat) : State :=
  later s (pl.steps - left + 1) (.task (nbuKey c pos) pl.lane (s.run.now + (pl.steps - left)) b cap)

/-- Chain position and channel of a leaf directory entry. STACK 6 and 7 and POSITION 24 and above, to which R125 gives no place, count modulo 6
and 24 (DESIGN CHOICE, log entry 84). -/
def leafChan (e : Bytes) : Chan := ⟨Fin.ofNat 6 (fld e 0 0 3), Fin.ofNat 16 (fld e 0 3 4)⟩
def leafPos (e : Bytes) : Nat := fld e 0 7 5 % 24

/-- Write the tasks of one leaf with plan number `num`: the state, the leaf as planned, the steps spent; none where they exceed
`left` before the leaf's own task is written. The tail's task, where the steps end before it, is not written. -/
def planLeaf (s : State) (x : PlanCtx) (pl : PlanLane) (node leaf num left : Nat) : Option (State × PlanLeaf × Nat × Bool) :=
  if left = 0 then none
  else
    let e := readMem s (leafDirAddr s x.desc node leaf) 64
    let c := leafChan e
    let pos := leafPos e
    let result := fld x.head 0x20 0 32 + 16 * num
    let s := writeTask s pl left c pos
      (hamTask x num (fld e 0 12 12) (fld e 4 0 32) (fld e 8 0 32) (fld e 12 0 32) (fld e 16 0 32) result) 2048
    let tail := fld e 0x30 0 32
    let h := readMem s (pairAddr c pos + 32 * tail) 64
    let n := fld h 4 0 12
    let p : PlanLeaf := { num := num, result := result, entry := e, header := h }
    if tail = 0 ∨ n = 0 then some (s, p, 1, true)
    else if left = 1 then some (s, { p with tail := true }, 1, false)
    else
      let s := writeTask s pl (left - 1) c pos
        (hamTask x (num + 0x8000) n (fld h 8 0 32) (fld h 12 0 32) (fld h 16 0 32) (fld h 20 0 32) (result + 8)) (dTailCap x.desc)
      some (s, { p with tail := true, tailTask := true }, 2, true)

/-- Write the tasks of leaves in order: the state, the leaves planned, the next number, the steps left, and whether all were
written. A leaf whose tail is left without a task stays among the planned. -/
def planLeaves (x : PlanCtx) (pl : PlanLane) : List (Nat × Nat) → State → Nat → Nat → State × List PlanLeaf × Nat × Nat × Bool
  | [], s, num, left => (s, [], num, left, true)
  | (node, leaf) :: r, s, num, left =>
    match planLeaf s x pl node leaf num left with
    | none => (s, [], num, 0, false)
    | some (s, p, cost, whole) =>
      if !whole then (s, [p], num + 1, 0, false)
      else
        let (s, ps, num, left, all) := planLeaves x pl r s (num + 1) (left - cost)
        (s, p :: ps, num, left, all)

/-- The leaf entries of a subtree in rank order, and the steps it takes to read and rank them; none where a node does not exist. -/
def subtreeLeaves (s : State) (x : PlanCtx) (f : Filter) (ptr : Nat) : Option (List Child × Nat) :=
  let w := dWidth x.desc
  match readNodes s (dSub x.desc) w [ptrOffset ptr] with
  | none => none
  | some root =>
    let top := root.map fun b => childrenOf b w x.sketch f
    if dDepth x.desc = 5 then
      let ptrs := (top.flatten).map Child.ptr
      (readNodes s (dSub x.desc) w (ptrs.map ptrOffset)).map fun nodes =>
        let cs := nodes.map fun b => childrenOf b w x.sketch f
        (rankChildren cs, readSteps w 1 + readSteps w ptrs.length + (cs.map List.length).foldl (· + ·) 0)
    else some (rankChildren top, readSteps w 1 + (top.map List.length).foldl (· + ·) 0)

/-- The leaves a holder scans, among some leaf pointers (R131). -/
def myLeaves (s : State) (ps : List Nat) : List (Nat × Nat) := (ps.map fun p => (leafNode p, leafNum p)).filter fun p => scans s p.1

/-- Plan one share (R131, R133): its planned and its reserve leaves of this holder, after `cost` steps of reading and ranking. The state, the
share, the next plan number, the steps left, and whether it was finished. -/
def planShare (s : State) (x : PlanCtx) (pl : PlanLane) (planned reserve : List Nat) (cost num left : Nat) :
    State × PlanShare × Nat × Nat × Bool :=
  if left < cost then (s, { planned := [], reserve := [], leaves := 0 }, num, 0, false)
  else
    let mine := myLeaves s planned
    let (s, ps, num, left, all) := planLeaves x pl mine s num (left - cost)
    (s, { planned := ps, reserve := (myLeaves s reserve).map fun p => (p.2, p.1 != nodeId s), leaves := mine.length }, num, left, all)

/-- The planned and reserve leaf pointers of a subtree, and the steps of reading and ranking; none where a node does not exist (R131). -/
def subtreePlan (s : State) (x : PlanCtx) (f : Filter) (ptr : Nat) : Option (List Nat × List Nat × Nat) :=
  (subtreeLeaves s x f ptr).map fun r =>
    let ok := (r.1.filter fun c => !c.excluded).map Child.ptr
    (ok.take (dLeaves x.desc), (ok.drop (dLeaves x.desc)).take (dLeaves x.desc), r.2)

/-- The shares of a TREE plan, subtree by subtree (R131). -/
def treePlans (s : State) (x : PlanCtx) (f : Filter) (ptrs : List Nat) : List (Option (List Nat × List Nat × Nat)) := ptrs.map (subtreePlan s x f)

/-! #### Cluster mode (R135) -/

/-- MODE and LISTS. -/
def dMode (d : Desc) : Nat := fld d.bytes 4 0 2
def dLists (d : Desc) : Nat := fld d.bytes 0x14 0 32
def dBeam2 (d : Desc) : Nat := fld d.bytes 8 16 8
def dRrDims (d : Desc) : Nat := fld d.bytes 0x10 0 16

/-- The list directory lies behind the centroid table, from the next granule on (DESIGN CHOICE, log entry 84). -/
def listDir (d : Desc) : Nat := dTop d + roundUp 32 (dLists d * (dRrDims d + 8))

/-- Leaf count of the list whose entry in the list directory holds a pointer; 0 where none does. -/
def listCount (s : State) (d : Desc) (ptr : Nat) : Nat :=
  match (List.range (dLists d)).find? fun i => readNat s (listDir d + 16 * i) 8 == ptr with
  | some i => readNat s (listDir d + 16 * i + 8) 2
  | none => 0

/-- The leaf pointers of a list, in the order of its leaf pointer array (R128, R135). -/
def listLeaves (s : State) (d : Desc) (ptr : Nat) : List Nat :=
  (List.range (listCount s d ptr)).map fun i => readNat s (dSub d + 32 * ptrOffset ptr + 8 * i) 8

/-- Steps of reading a list's pointer array: as a node of its length (DESIGN CHOICE, log entry 84). -/
def listSteps (n : Nat) : Nat := 64 + ceilDiv (8 * n) 128

/-- Planned lists in rank order: one whose leaves would take the planned total above 2048 cuts the plan off. -/
def cutLists : Nat → List (List Nat) → List (List Nat)
  | _, [] => []
  | n, l :: r => if 2048 < n + l.length then [] else l :: cutLists (n + l.length) r

/-- The shares of a CLUSTER plan: the first BEAM2 lists are planned; the list BEAM2 places further on is a share's reserve
(R135; DESIGN CHOICE, log entry 84). -/
def clusterPlans (s : State) (x : PlanCtx) (ptrs : List Nat) : List (Option (List Nat × List Nat × Nat)) :=
  let b := dBeam2 x.desc
  let planned := cutLists 0 ((ptrs.take b).map (listLeaves s x.desc))
  let reserve := ((ptrs.drop b).take b).map (listLeaves s x.desc)
  (List.range planned.length).map fun i =>
    let l := planned.getD i []
    some (l, reserve.getD i [], listSteps l.length)

/-- Plan the shares of a block in order; none where a branch node does not exist. -/
def planShares (x : PlanCtx) (pl : PlanLane) : List (Option (List Nat × List Nat × Nat)) → State → Nat → Nat → Option (State × List PlanShare × Nat × Bool)
  | [], s, num, _ => some (s, [], num, true)
  | none :: _, _, _, _ => none
  | some (a, b, cost) :: r, s, num, left =>
    let (s, sh, num, left, all) := planShare s x pl a b cost num left
    if !all then some (s, [sh], num, false)
    else (planShares x pl r s num left).map fun t => (t.1, sh :: t.2.1, t.2.2)

/-- Set ABANDONED of a plan block when the steps did not suffice. -/
def markAbandoned (s : State) (a steps : Nat) (all : Bool) : State :=
  if all then s else later s steps (cleanMem (a + 12) (leBytes 1 (readNat s (a + 12) 1 ||| 128)))

/-- A plan block's fixed part and sketch, with the descriptor its query runs against. -/
def planCtx (s : State) (blk : Nat) : Option PlanCtx :=
  let a := nsAddr (32 * blk)
  let head := readMem s a 64
  (descFor s blk (fld head 0 0 16)).map fun d =>
    let w := sketchBits (dWidth d)
    ⟨d, head, readNat s (a + 64 + 4 * w) (w / 8)⟩

/-- R131 to R133, R136: TPLAN with WIDEN 0. -/
def execTplan (quad : Fin 4) (o : OpAB) (steps : Nat) (s : State) : Host.Outcome State Fault Refusal :=
  laneChecked s (walkLane quad) 0x11 o steps (opRsv o.a 19 && opRsv o.b 0) fun s =>
    let blk := opField o.a 0 19
    let a := nsAddr (32 * blk)
    match planCtx s blk with
    | none => .next s
    | some x =>
      let w := sketchBits (dWidth x.desc)
      let f : Filter := ⟨fld x.head 4 0 32, fld x.head 8 0 32⟩
      let n := fld x.head 0x24 0 8
      withAddr (if addrOk a (64 + 4 * w + w / 8 + 8 * n) then some a else none) fun a =>
        let ptrs := (List.range n).map fun i => readNat s (a + 64 + 4 * w + w / 8 + 8 * i) 8
        let plans := if dMode x.desc = 1 then clusterPlans s x ptrs else treePlans s x f ptrs
        match planShares x ⟨walkLane quad, steps⟩ plans s 0 steps with
        | none => .fault .noSuchAddress
        | some (s, shares, num, all) =>
          let p : Plan := { block := blk, nextNum := num, shares := shares, abandoned := !all, at_ := s.run.frame }
          .next (markAbandoned { s with units := { s.units with plans := s.units.plans.filter (fun p => p.block != blk) ++ [p] } } a steps all)

/-! ### Widening (R137, R138) -/

/-- PASSED of a finished scan; none while it is not finished (R137). -/
def scanPassed (s : State) (result : Nat) : Option Nat :=
  ((s.units.scans.filter fun e => e.result == result && decide (e.visible ≤ s.run.now)).getLast?).map ScanEnd.passed

/-- The smaller of PASSED and KEEP over a leaf's scans; none where one is not finished. -/
def leafYield (s : State) (keep : Nat) (p : PlanLeaf) : Option Nat :=
  match scanPassed s p.result with
  | none => none
  | some v =>
    if !p.tail then some (min v keep)
    else if !p.tailTask then none
    else (scanPassed s (p.result + 8)).map fun t => min v keep + min t keep

/-- E of a share; none where some scan is not finished. -/
def shareYield (s : State) (keep : Nat) (sh : PlanShare) : Option Nat :=
  if sh.planned.length ≠ sh.leaves then none
  else sh.planned.foldl (fun acc p => match acc, leafYield s keep p with | some a, some y => some (a + y) | _, _ => none) (some 0)

/-- Is a share short (R138); a share whose scans are not all finished is not examined. -/
def shareShort (s : State) (d : Desc) (sh : PlanShare) : Bool :=
  match shareYield s (dKeep d) sh with
  | none => false
  | some e => decide (e < dPerLeaf d * sh.leaves)

/-- Widen the shares in order: the state, the shares with the reserve leaves written for them, the next number, and whether the steps
sufficed. -/
def widenShares (x : PlanCtx) (pl : PlanLane) : List PlanShare → State → Nat → Nat → State × List PlanShare × Nat × Bool
  | [], s, num, _ => (s, [], num, true)
  | sh :: r, s, num, left =>
    if !shareShort s x.desc sh then
      let t := widenShares x pl r s num left
      (t.1, sh :: t.2.1, t.2.2)
    else
      let ls := (sh.reserve.take sh.leaves).map fun p => (if p.2 then (partner s).getD 0 else nodeId s, p.1)
      let (s, ps, num, left, all) := planLeaves x pl ls s num left
      let sh := { sh with widened := ps }
      if all then
        let t := widenShares x pl r s num left
        (t.1, sh :: t.2.1, t.2.2)
      else (s, sh :: r, num, false)

/-- A query whose record has NO_WIDEN set is never widened (R138, R145). -/
def neverWidens (s : State) (block : Nat) : Bool :=
  s.recs.shares.any fun q => q.block == some block && fld q.bytes 0x18 11 1 == 1

/-- R132, R138: TPLAN with WIDEN 1. -/
def execTplanWiden (quad : Fin 4) (o : OpAB) (steps : Nat) (s : State) : Host.Outcome State Fault Refusal :=
  laneChecked s (walkLane quad) 0x11 o steps (opRsv o.a 19 && o.b == 1#32) fun s =>
    let blk := opField o.a 0 19
    match planCtx s blk, s.units.plans.find? fun p => p.block == blk with
    | some x, some p =>
      if neverWidens s blk then .next s
      else
        let (s, shares, num, all) := widenShares x ⟨walkLane quad, steps⟩ p.shares s p.nextNum steps
        let set := fun (q : Plan) => if q.block = blk then { q with nextNum := num, shares := shares, abandoned := q.abandoned || !all } else q
        .next (markAbandoned { s with units := { s.units with plans := s.units.plans.map set } } (nsAddr (32 * blk)) steps all)
    | _, _ => .next s

end Sys2Proof.Machine
end

