-- ==== Sys2Proof/Machine/Search.lean ====
section
/-!
DEFINITION. Records of queries at their home and at their holders: what the node derives from a vector (R122), the candidates of stage 1
(R137, R139), stage 2 (R140), the flash window (R141, R142), stage 3 and the final selection (R143), with the leaf blocks and tails they read
(R125, R186, R190).
-/
namespace Sys2Proof.Machine

/-! ### Records -/

/-- KIND, INDEX_ID or TABLE_ID, REQUEST_ID and ATTR of a record. -/
def recKind (b : Bytes) : Nat := fld b 0 0 8
def recOwner (b : Bytes) : Nat := fld b 0 16 16
def recReq (b : Bytes) : Nat := fld b 8 0 64
def recAttr (b : Bytes) : Nat := fld b 0x18 0 32
def isUpdate (r : InRec) : Bool := recKind r.bytes == 2 || recKind r.bytes == 3

/-- The vector of an upsert record. -/
def recVector (b : Bytes) : Bytes := b.drop 64

/-- Put a record in place of its former self. -/
def setRec (s : State) (r : InRec) : State :=
  let put := fun (q : InRec) => if q.ring = r.ring ∧ q.index = r.index ∧ q.admitAt = r.admitAt then r else q
  { s with recs := { s.recs with inflight := s.recs.inflight.map put } }

/-- Send a message to a node; to this node itself nothing is sent. -/
def sendRemote (s : State) (dst : Nat) (m : Remote) : State :=
  if dst = nodeId s then s else { s with fab := { s.fab with out := s.fab.out ++ [.remote dst m] } }

/-- The descriptor of an index or table that was in use at a frame's boundary (R120, R192, R209): the one in use, or an old version still held. -/
def descAt (s : State) (kind id f : Nat) : Option Desc :=
  match findDesc s kind id with
  | some d =>
    if d.since ≤ f then some d
    else ((s.setup.oldDescs.map Prod.fst).filter fun o => o.kind == kind && o.id == id && decide (o.since ≤ f)).getLast?
  | none => ((s.setup.oldDescs.map Prod.fst).filter fun o => o.kind == kind && o.id == id && decide (o.since ≤ f)).getLast?

/-! ### Leaves and tails (R125, R186) -/

/-- A leaf or a tail: where its arrays lie. -/
structure Block where
  chan   : Chan
  pos    : Nat
  count  : Nat
  sketch : Nat
  attr   : Nat
  erase  : Nat
  sn     : Nat
  code   : Nat
  ids    : Nat
  vec    : Nat
  cap    : Nat
  deriving DecidableEq, Repr

/-- The leaf of a leaf directory entry. -/
def leafBlock (e : Bytes) : Block :=
  ⟨leafChan e, leafPos e, fld e 0 12 12, fld e 4 0 32, fld e 8 0 32, fld e 12 0 32, fld e 16 0 32, fld e 0x18 0 64, fld e 0x20 0 64,
   fld e 0x28 0 64, 2048⟩

/-- The address of the tail header a leaf names; none without a tail. -/
def tailHead (e : Bytes) : Option Nat :=
  let t := fld e 0x30 0 32
  if t = 0 then none else some (pairAddr (leafChan e) (leafPos e) + 32 * t)

/-- The tail of a leaf by its directory entry and a tail header's bytes. -/
def tailBlockOf (d : Desc) (e h : Bytes) : Option Block :=
  (tailHead e).map fun _ =>
    ⟨leafChan e, leafPos e, fld h 4 0 12, fld h 8 0 32, fld h 12 0 32, fld h 16 0 32, fld h 20 0 32, fld h 0x18 0 64, fld h 0x20 0 64,
     fld h 0x28 0 64, dTailCap d⟩

/-- The tail of a leaf. -/
def tailBlock (s : State) (d : Desc) (e : Bytes) : Option Block := (tailHead e).bind fun a => tailBlockOf d e (readMem s a 64)

/-- Bytes of a code row, and of a full vector. -/
def codeRow (d : Desc) : Nat := fld d.bytes 0x10 0 16 / 2 + 8
def vecBytes (d : Desc) : Nat := 2 * fld d.bytes 4 16 16

/-- Addresses of element `i` of a block. -/
def Block.pa (b : Block) : Nat := pairAddr b.chan b.pos
def Block.sketchAt (b : Block) (d : Desc) (i : Nat) : Nat := b.pa + 32 * b.sketch + i * (sketchBits (dWidth d) / 8)
def Block.attrAt (b : Block) (i : Nat) : Nat := b.pa + 32 * b.attr + 4 * i
def Block.snAt (b : Block) (i : Nat) : Nat := b.pa + 32 * b.sn + 8 * i
def Block.bitAt (b : Block) (i : Nat) : Nat := b.pa + 32 * b.erase + i / 8
def Block.eraseSnAt (b : Block) (i : Nat) : Nat := b.pa + 32 * b.erase + bitmapBytes b.cap + 8 * i
def Block.idAt (b : Block) (i : Nat) : Nat := b.ids + 8 * i
def Block.codeAt (b : Block) (d : Desc) (i : Nat) : Nat := b.code + i * codeRow d
def Block.vecAt (b : Block) (d : Desc) (i : Nat) : Nat := b.vec + i * vecBytes d

/-- The holders of a subtree pointer (R128). -/
def subtreeHolders (s : State) (ptr : Nat) : List Nat :=
  let n := dimA s * dimB s * dimC s
  (List.range (bits ptr 9 2 + 1)).map fun i => (bits ptr 0 9 + i) % n

/-! ### What the node derives from a vector (R122) -/

/-- Elements of a binary16 vector as binary32 lanes. -/
def lanes16 (n : Nat) (b : Bytes) : List W32 := (unpackElems 16 n b).map widen16

/-- The binary16 scale of the symmetric conversion (step 1): amax / 127 rounded toward +∞; 2⁻²⁴ where amax is 0. -/
def symScale (vs : List W32) : Nat := if isZeroV (dec32 (amaxOf vs)) then 1 else round16 true (fdiv (dec32 (amaxOf vs)) (ofInt false 127 0))

/-- The symmetric int8 codes of some lanes under a scale (R77), as signed values; −128 stands for the integer NaN code. -/
def symCodes (scale : Nat) (vs : List W32) : List Int := vs.map fun v => (encodeValue 0x00 scale 0 v).code

/-- Sum over registers of 64 lanes, each reduced under R88, in ascending order. -/
def sumRegisters (vs : List W32) : W32 :=
  (List.range (ceilDiv vs.length 64)).foldl (fun acc i =>
    let r := (vs.drop (64 * i)).take 64
    let t := reduce64 add32 (r ++ List.replicate (64 - r.length) 0#32)
    if i = 0 then t else add32 acc t) 0#32

/-- QN, and Σ v² of a stored vector (step 5). -/
def squareSum (vs : List W32) : W32 := sumRegisters (vs.map fun v => mul32 v v)

/-- Saturations and NaNs counted when lanes are encoded (R75). -/
def encodeCounts (es : List Sys2Proof.Encoded) : Nat × Nat := ((es.filter fun e => e.sat).length, (es.filter fun e => e.nan).length)

/-- A row of values as an RQ row with its trailer, under parameters the node chooses (R71, R76, R77): TYPE 8 is RQ8, 9 is RQ4. -/
def quantRow (type : Nat) (vs : List W32) (aux : Nat) : Bytes :=
  let (scale, off) := chooseParams (typeBits type) vs
  packElems (typeBits type) (vs.map fun v => codeOf (typeBits type) (encodeValue type scale off v).code) ++
    layoutBytes 8 [(0, 2, scale), (2, 2, off), (4, 4, aux)]

/-- The stored quantities of a vector (R122): its sketch from the W sketch values, and its code row from the re-rank values, with Σ v². -/
def encodeVector (d : Desc) (values : List W32) (vector : Bytes) : Bytes × Bytes :=
  let w := sketchBits (dWidth d)
  (leBytes (w / 8) (sketchNat (values.take w)),
    quantRow 9 ((values.drop w).take (dRrDims d)) (squareSum (lanes16 (vecBytes d / 2) vector)).toNat)

/-! ### Stage 1 (R137, R139) -/

/-- The END of a scan that is visible at a step; none where the scan is not finished by then (R137). -/
def scanEndAt (s : State) (at' result : Nat) : Option ScanEnd :=
  (s.units.scans.filter fun e => e.result == result && decide (e.visible ≤ at')).getLast?

/-- The LIST entries in a result slot's words, up to its END word. -/
def scanEntries (s : State) (result : Nat) : List SelEntry :=
  (((List.range 7).map fun i => readMem s (nsAddr (32 * (result + i))) 32).takeWhile fun w => fld w 0 16 2 == 0).flatMap chainEntries

/-- The result granules of the scans of a leaf: its own, and its tail's where it has a task. -/
def PlanLeaf.results (p : PlanLeaf) : List Nat := p.result :: (if p.tailTask then [p.result + 8] else [])

/-- Every leaf of a plan for which a task was written. -/
def Plan.leaves (p : Plan) : List PlanLeaf := p.shares.flatMap fun h => h.planned ++ h.widened

/-- Scans of a plan that are not finished at a step, with what was planned and left without a task (R147). -/
def Plan.unfinished (s : State) (at' : Nat) (p : Plan) : Nat :=
  (p.leaves.map fun l =>
    (l.results.filter fun r => (scanEndAt s at' r).isNone).length + (if l.tail && !l.tailTask then 1 else 0)).foldl (· + ·) 0 +
    (p.shares.map fun h => h.leaves - h.planned.length).foldl (· + ·) 0

/-- The stage-1 pool (R139): the LIST entries of every finished scan, in the order (distance, plan number, element index), PER_LEAF for each
planned leaf. -/
def poolOf (s : State) (d : Desc) (at' : Nat) (p : Plan) : List SelEntry :=
  let ends := (p.leaves.flatMap PlanLeaf.results).filter fun r => (scanEndAt s at' r).isSome
  ((ends.flatMap (scanEntries s)).foldl (fun l e => insertEntry false e l) []).take
    (dPerLeaf d * (p.shares.map PlanShare.leaves).foldl (· + ·) 0)

/-- The leaf or tail block and the element that a pool entry stands for. -/
def poolElem (d : Desc) (p : Plan) (e : SelEntry) : Option (Block × Nat) :=
  let tag := e.id / 4096
  (p.leaves.find? fun l => l.num == tag % 0x8000).map fun l =>
    (if tag < 0x8000 then leafBlock l.entry else (tailBlockOf d l.entry l.header).getD (leafBlock l.entry), e.id % 4096)

/-! ### Stage 2 (R140) -/

/-- Words of a scan's task that are still to come when its pool is selected are discarded (R137). -/
def dropScans (s : State) (at' : Nat) (p : Plan) : State :=
  { s with units := { s.units with
      dropped := s.units.dropped ++ (p.leaves.flatMap PlanLeaf.results).filter fun r => (scanEndAt s at' r).isNone } }

/-- The dot product of R79 of symmetric int8 codes with an RQ4 row; a NaN where the query holds an integer NaN code. -/
def rowProduct (scale : Nat) (q : List Int) (codes : List Nat) (sw ow : Nat) : W32 :=
  if q.contains (-128) then nan32
  else
    let p := sumInt (List.zipWith (fun a b => a * b) q (codes.map Int.ofNat))
    dequant (BitVec.ofInt 32 p) 0#32 (widen16 sw) (widen16 ow) (widen16 scale) 0#32 (BitVec.ofInt 32 (sumInt q)) 0#32

/-- The score of R140 by METRIC: (QN − 2 × X) + AUX, or X. -/
def scoreOf (d : Desc) (qn x aux : W32) : W32 :=
  if fld d.bytes 4 2 1 = 1 then x else add32 (sub32 qn (mul32 (ofInt32 2) x)) aux

/-- Is the ORDER of a METRIC MAX (R150). -/
def metricMax (d : Desc) : Bool := fld d.bytes 4 2 1 == 1

/-- One candidate of a holder's pool; `sum` takes its dot product to the one that its score is made of (R279). -/
def candidateBy (s : State) (q : Share) (sum : W32 → W32) (e : SelEntry) : Option (W32 × Cand) :=
  match s.units.plans.find? fun p => q.block == some p.block with
  | none => none
  | some p =>
    (poolElem q.desc p e).map fun b =>
      let rr := dRrDims q.desc
      let row := readMem s (b.1.codeAt q.desc b.2) (codeRow q.desc)
      let aux : W32 := BitVec.ofNat 32 (fld row (rr / 2 + 4) 0 32)
      let scale := symScale q.values
      let x := rowProduct scale (symCodes scale q.values) (unpackElems 4 rr row) (fld row (rr / 2) 0 16) (fld row (rr / 2 + 2) 0 16)
      let qn := squareSum (lanes16 (vecBytes q.desc / 2) (recVector q.bytes))
      (x, ⟨readNat s (b.1.idAt b.2) 8, scoreOf q.desc qn (sum x) aux, aux, b.1.vecAt q.desc b.2⟩)

/-- Its stage-2 score on a node by itself. -/
def candidate (s : State) (q : Share) (e : SelEntry) : Option Cand := (candidateBy s q id e).map Prod.snd

/-- A selection over entries as a select unit makes it (R149 to R157). -/
def selectOver (maxOrder dedup : Bool) (k : Nat) (es : List SelEntry) : Sel :=
  es.foldl (fun u e => u.feed false e) { isOpen := true, kmax := k, k := k, maxOrder := maxOrder, dedup := dedup }

/-- STAGE2_KEEP and STAGE3_COUNT. -/
def dStage2 (d : Desc) : Nat := fld d.bytes 12 16 8
def dStage3 (d : Desc) : Nat := fld d.bytes 12 24 8

/-- The best STAGE2_KEEP candidates, in order. -/
def bestCands (d : Desc) (cs : List Cand) : List Cand :=
  (selectOver (metricMax d) false (dStage2 d) (cs.map fun c => ⟨c.vid, c.score, false, true⟩)).selected.filterMap fun e =>
    cs.find? fun c => c.vid == e.id && c.score == e.score

/-! ### Stage 3 (R143) -/

/-- The dot product of two binary16 vectors, four products a step (R57, R60), in ascending order of dimension. -/
def dotProduct16 (a b : List Nat) : Nat → Col → Col
  | 0, c => c
  | n + 1, c => dotProduct16 (a.drop 4) (b.drop 4) n (floatColumn 6 6 (a.take 4) (b.take 4) c)

/-- The dot product of stage 3. -/
def exactProduct (q : Share) (vector : Bytes) : W32 :=
  let n := vecBytes q.desc / 2
  (dotProduct16 (unpackElems 16 n (recVector q.bytes)) (unpackElems 16 n vector) (ceilDiv n 4) ⟨0#32, 0#32, 0⟩).acc

/-- The stage-3 score of a candidate from its dot product. -/
def exactScoreOf (q : Share) (c : Cand) (x : W32) : W32 :=
  scoreOf q.desc (squareSum (lanes16 (vecBytes q.desc / 2) (recVector q.bytes))) x c.aux

/-- The full vector of a candidate as its window's reads brought it. -/
def vectorOf (q : Share) (c : Cand) : Bytes :=
  let a := c.vec % 2 ^ 48
  let n := vecBytes q.desc
  slice ((slotsOf a n).flatMap fun k => ((q.data.find? fun x => x.1 == k).map Prod.snd).getD (List.replicate slotBytes 0)) (a % slotBytes) n

/-- The stage-3 answer of a holder for one candidate asked for: its exact score, or its stage-2 score where a read of it was late (R142). -/
def exactEntry (q : Share) (c : Cand) : SelEntry :=
  if q.lates.contains c.vid then ⟨c.vid, c.score, true, true⟩ else ⟨c.vid, exactScoreOf q c (exactProduct q (vectorOf q c)), false, false⟩

/-! ### Messages of a query -/

/-- Change a share. -/
def setShare (s : State) (home req : Nat) (f : Share → Share) : State :=
  { s with recs := { s.recs with shares := s.recs.shares.map fun q => if q.home = home ∧ q.req = req then f q else q } }

/-- Change what the home keeps of a query in flight. -/
def setQuery (s : State) (r : InRec) (f : QueryWork → QueryWork) : State :=
  { s with recs := { s.recs with inflight := s.recs.inflight.map fun q =>
      if q.ring = r.ring ∧ q.index = r.index ∧ q.admitAt = r.admitAt then { q with query := f q.query } else q } }

/-- The query of this home with a REQUEST_ID. -/
def homeQuery (s : State) (req : Nat) : Option InRec :=
  s.recs.inflight.find? fun r => recKind r.bytes == 1 && recReq r.bytes == req && r.status == 0 && !r.answered

/-- The query of this home in a ring's record. -/
def ringQuery (s : State) (ring index : Nat) : Option InRec :=
  s.recs.inflight.find? fun r => recKind r.bytes == 1 && r.ring == ring && r.index == index && r.status == 0 && !r.answered && r.runsAt.isNone

/-! ### Conjunctions (R279) -/

/-- How a conjunction of more than one member divides its work: 0 not at all, 1 WIDEN, 2 DEEPEN, 3 MULTIPLY. -/
def conjMode (s : State) : Nat := if s.conj.formed && decide (1 < s.conj.members.length) then s.conj.arrangement + 1 else 0

/-- Members share the work of a query at its holder. -/
def conjSplits (s : State) : Bool := conjMode s == 1 || conjMode s == 2

/-- Messages from the primary to the other members, to one of them, and from a member to the primary. -/
def toMember (s : State) (p : Nat) (m : Remote) : State := { s with fab := { s.fab with out := s.fab.out ++ [.member p m] } }
def toMembers (s : State) (m : Remote) : State := (conjOthers s).foldl (fun s p => toMember s p m) s
def toPrimary (s : State) (m : Remote) : State := toMember s s.conj.primary m

/-- This node's position as members give it. -/
def posNow (s : State) : Fin 8 := Fin.ofNat 8 (conjPos s)

/-- A sum over the members in ascending position, of this position's value and those of the others (R279). -/
def sumPositions (s : State) (own : W32) (others : List (Nat × W32)) : W32 :=
  match s.conj.members.filterMap fun p => if p = conjPos s then some own else (others.find? fun o => o.1 == p).map Prod.snd with
  | [] => own
  | v :: r => r.foldl add32 v

/-- The dot products that the other members have for a tag of stage 1. -/
def poolDots (q : Share) (tag : Nat) : List (Nat × W32) :=
  q.pools.filterMap fun p => (p.2.find? fun e => e.1 == tag).map fun e => (p.1, e.2.2)

/-- The pool of WIDEN: the elements that every member has kept, with their distances summed, in order (R279; log entry 92). -/
def widenPool (s : State) (q : Share) : List SelEntry :=
  let have' := fun (tag : Nat) => (conjOthers s).filterMap fun p => (q.pools.find? fun x => x.1 == p).bind fun x => x.2.find? fun e => e.1 == tag
  (q.pool.filterMap fun e =>
    let l := have' e.id
    if l.length = (conjOthers s).length then some { e with score := l.foldl (fun v x => v + x.2.1) e.score } else none).foldl
      (fun l e => insertEntry false e l) []

/-- The position that the next admitted record runs on under MULTIPLY; none where it runs here (R279). -/
def runPosition (s : State) : Option Nat :=
  if conjMode s = 3 ∧ !conjMember s then
    let p := s.conj.members.getD (s.recs.admitted.length % s.conj.members.length) (conjPos s)
    if p = conjPos s then none else some p
  else none

/-- The position on which a record of this home with a REQUEST_ID runs, where that is another one. -/
def runningAt (s : State) (kind req : Nat) : Option Nat :=
  (s.recs.inflight.find? fun r => recKind r.bytes == kind && recReq r.bytes == req && !r.answered && r.runsAt.isSome).bind InRec.runsAt

/-- Take a message of a query; none where it is of another kind. -/
def takeQuery (s : State) (m : Remote) : Option State :=
  match m with
  | .share home admitAt place qsn bytes values subtrees =>
    some (match descAt s 1 (recOwner bytes) admitAt.toNat with
      | none => s
      | some d =>
        let q : Share := { home := home, req := recReq bytes, admitAt := admitAt.toNat, place := place.toNat, qsn := qsn.toNat, bytes := bytes,
                           values := values, subtrees := subtrees.map BitVec.toNat, desc := d }
        let s := if conjSplits s then toMembers s m else s
        { s with recs := { s.recs with shares := s.recs.shares.filter (fun x => !(x.home == q.home && x.req == q.req)) ++ [q] } })
  | .list node req entries planned widened unfinished passed ue abandoned =>
    some (match runningAt s 1 req.toNat, homeQuery s req.toNat with
      | some p, _ => toMember s p m
      | none, none => s
      | none, some r =>
        let l : HolderList := ⟨node, entries.map fun e => ⟨e.1.toNat, e.2, false, true⟩, planned, widened, unfinished, passed, ue, abandoned⟩
        setQuery s r fun w => { w with lists := w.lists.filter (fun x => x.node != l.node) ++ [l] })
  | .ask home req wants => some (setShare (if conjSplits s then toMembers s m else s) home req.toNat fun q => { q with asked := wants.map fun w => (w.1.toNat, w.2.toNat) })
  | .exact _ req entries =>
    some (match runningAt s 1 req.toNat, homeQuery s req.toNat with
      | some p, _ => toMember s p m
      | none, none => s
      | none, some r => setQuery s r fun w => { w with scores := w.scores ++ entries.map fun e => ⟨e.1.toNat, e.2.1, e.2.2, e.2.2⟩ })
  | _ => none

/-- Tell a node of a query: this node takes its own message at once; another member of its conjunction hands it to the primary. -/
def tell (s : State) (dst : Nat) (m : Remote) : State :=
  if dst ≠ nodeId s then sendRemote s dst m
  else if conjMember s && !(match m with | .share .. => true | _ => false) then toPrimary s m
  else (takeQuery s m).getD s

/-! ### The strokes of a query -/

/-- The node that scans what a holder holds (R23): the holder, or its partner while the view marks it eclipsed. -/
def scanner (s : State) (n : Nat) : Nat := if eclipsed s n then (partnerOf s n).getD n else n

/-- The home has walked the top levels: each subtree of the list goes to its holders (R130). -/
def strokeWalk (s : State) (r : InRec) (block values : Nat) : State :=
  match r.desc with
  | none => s
  | some d =>
    let w := sketchBits (dWidth d)
    let a := nsAddr (32 * block)
    let found := fld (readMem s (a + 12) 4) 0 0 7
    let list := (List.range found).map fun i => readNat s (a + 64 + 4 * w + w / 8 + 8 * i) 8
    let vs := valuesAt s (nsAddr (32 * values)) (dRrDims d)
    let dests := (list.flatMap fun p => (subtreeHolders s p).map (scanner s)).eraseDups
    let s := setQuery s r fun q => { q with walked := true, abandoned := bit (readNat s (a + 12) 1) 7, holders := dests }
    dests.foldl (fun s n => tell s n (.share (Fin.ofNat 512 (nodeId s)) (BitVec.ofNat 64 r.admitAt) (BitVec.ofNat 16 r.place) (BitVec.ofNat 48 r.sn) r.bytes vs
      ((list.filter fun p => ((subtreeHolders s p).map (scanner s)).contains n).map (BitVec.ofNat 64)))) s

/-- The step, counted from reset, of a step of the frame that ends. -/
def stepOf (s : State) (step : Nat) : Nat :=
  match s.run.plate with
  | some p => s.run.now - (p.steps - min p.steps step)
  | none => s.run.now

/-- Stage-1 selection at a holder, in a step of the frame that ends (R137, R139). -/
def strokePool (s : State) (q : Share) (step : Nat) : State :=
  match s.units.plans.find? fun p => q.block == some p.block with
  | none => s
  | some p =>
    let at' := stepOf s step
    let ends := (p.leaves.flatMap PlanLeaf.results).filterMap (scanEndAt s at')
    let rep : HolderList :=
      { node := nodeId s, entries := [], planned := (p.shares.map PlanShare.leaves).foldl (· + ·) 0
        widened := (p.shares.map fun h => h.widened.length).foldl (· + ·) 0, unfinished := p.unfinished s at'
        passed := (ends.map ScanEnd.passed).foldl (satAdd 32) 0, ue := ends.any fun e => e.status == 3, abandoned := p.abandoned }
    let pool := poolOf s q.desc at' p
    let s := dropScans (setShare s q.home q.req fun q => { q with pool := pool, planAt := p.at_, report := some rep }) at' p
    if conjMode s = 1 ∧ conjMember s then
      toPrimary s (.memberPool (posNow s) (Fin.ofNat 512 q.home) (BitVec.ofNat 64 q.req) (pool.map fun e =>
        (BitVec.ofNat 64 e.id, e.score, ((candidateBy s q id e).map Prod.fst).getD 0#32)))
    else s

/-- A holder's list for the home. -/
def tellList (s : State) (q : Share) (l : HolderList) : State :=
  tell s q.home (.list (Fin.ofNat 512 (nodeId s)) (BitVec.ofNat 64 q.req) (l.entries.map fun e => (BitVec.ofNat 64 e.id, e.score)) l.planned l.widened
    l.unfinished l.passed l.ue l.abandoned)

/-- One list of the members' lists of a share under DEEPEN: a selection under R163 fed in ascending position, and the sums of what they report. -/
def deepenList (s : State) (q : Share) (own : HolderList) : HolderList :=
  let ls := s.conj.members.filterMap fun p => if p = conjPos s then some own else (q.lists.find? fun x => x.1 == p).map Prod.snd
  let sum := fun (f : HolderList → Nat) => (ls.map f).foldl (· + ·) 0
  { node := nodeId s, entries := (selectOver (metricMax q.desc) false (dStage2 q.desc) (ls.flatMap HolderList.entries)).selected
    planned := sum HolderList.planned, widened := sum HolderList.widened, unfinished := sum HolderList.unfinished
    passed := (ls.map HolderList.passed).foldl (satAdd 32) 0, ue := ls.any HolderList.ue, abandoned := ls.any HolderList.abandoned }

/-- The primary sends the list of a share once its own and every other member's are there (R279). -/
def deepenStep (s : State) (home req : Nat) : State :=
  match s.recs.shares.find? fun q => q.home == home && q.req == req with
  | none => s
  | some q =>
    match q.report with
    | none => s
    | some rep =>
      if q.scored && (conjOthers s).all fun p => q.lists.any fun x => x.1 == p then
        tellList (setShare s home req fun q => { q with scored := false }) q
          (deepenList s q { rep with entries := q.cands.map fun c => ⟨c.vid, c.score, false, true⟩ })
      else s

/-- Stage 2 at a holder: the best STAGE2_KEEP candidates go to the home (R140); in a conjunction, as its arrangement combines them (R279). -/
def strokeScore (s : State) (q : Share) : State :=
  match q.report with
  | none => s
  | some rep =>
    if conjMode s = 1 ∧ conjMember s then setShare s q.home q.req fun x => { x with cands := q.pool.filterMap (candidate s q) }
    else
      let pool := if conjMode s = 1 then (widenPool s q).take q.pool.length else q.pool
      let cs := bestCands q.desc (pool.filterMap fun e => (candidateBy s q (fun x => if conjMode s = 1 then sumPositions s x (poolDots q e.id) else x) e).map
        Prod.snd)
      let s := setShare s q.home q.req fun q => { q with cands := cs, scored := true }
      let l := { rep with entries := cs.map fun c => ⟨c.vid, c.score, false, true⟩ }
      if conjMode s = 2 then
        if conjMember s then
          toPrimary s (.memberList (posNow s) (Fin.ofNat 512 q.home) (BitVec.ofNat 64 q.req) (cs.map fun c => (BitVec.ofNat 64 c.vid, c.score)) l.planned
            l.widened l.unfinished l.passed l.ue l.abandoned)
        else deepenStep s q.home q.req
      else tellList s q l

/-- Take a message of another member of the conjunction about a share; none where it is of another kind. -/
def takeMember (s : State) (m : Remote) : Option State :=
  match m with
  | .memberList pos home req entries planned widened unfinished passed ue abandoned =>
    let l : HolderList := ⟨nodeId s, entries.map fun e => ⟨e.1.toNat, e.2, false, true⟩, planned, widened, unfinished, passed, ue, abandoned⟩
    some (deepenStep (setShare s home req.toNat fun q => { q with lists := q.lists.filter (fun x => x.1 != pos.val) ++ [(pos.val, l)] }) home req.toNat)
  | .memberPool pos home req entries =>
    some (setShare s home req.toNat fun q => { q with pools := q.pools.filter (fun x => x.1 != pos.val) ++
      [(pos.val, entries.map fun e => (e.1.toNat, e.2.1, e.2.2))] })
  | .memberExact pos home req entries =>
    some (setShare s home req.toNat fun q => { q with exacts := q.exacts.filter (fun x => x.1 != pos.val) ++
      [(pos.val, entries.map fun e => (e.1.toNat, e.2.1, e.2.2))] })
  | _ => none

/-- Lists in ascending node. -/
def insertList (l : HolderList) : List HolderList → List HolderList
  | [] => [l]
  | x :: r => if l.node < x.node then l :: x :: r else x :: insertList l r

/-- NO_EXACT of a query record (R145). -/
def noExact (r : InRec) : Bool := fld r.bytes 0x18 12 1 == 1

/-- The home merges the lists, duplicates removed, and asks for stage 3 unless NO_EXACT is set (R140, R143). -/
def strokeMerge (s : State) (r : InRec) : State :=
  match r.desc with
  | none => s
  | some d =>
    let ls := r.query.lists.foldl (fun l x => insertList x l) []
    let best := (selectOver (metricMax d) true (dStage3 d) (ls.flatMap HolderList.entries)).selected.map fun e =>
      (e, ((ls.find? fun l => l.entries.contains e).map HolderList.node).getD (nodeId s))
    let s := setQuery s r fun q => { q with best := best }
    if noExact r then s
    else
      let dests := (best.map Prod.snd).eraseDups
      dests.foldl (fun s n => tell s n (.ask (Fin.ofNat 512 (nodeId s)) (BitVec.ofNat 64 (recReq r.bytes))
        ((List.range best.length).filterMap fun i => match best[i]? with
          | some b => if b.2 = n then some (BitVec.ofNat 64 b.1.id, BitVec.ofNat 16 i) else none
          | none => none))) s

/-- The reads of a share's window: every slot that holds part of a candidate's full vector (R141). -/
def windowReads (s : State) (p : Plate) (q : Share) : List FRead :=
  q.asked.flatMap fun a =>
    match q.cands.find? fun c => c.vid == a.1 with
    | none => []
    | some c => (slotsOf (c.vec % 2 ^ 48) (vecBytes q.desc)).map fun k => newRead s p q.admitAt q.place a.2 q.req c.vid k (entryAt s q.planAt k)

/-- The flash window of a share begins (R141). -/
def strokeWindow (s : State) (q : Share) : State :=
  match s.run.plate with
  | none => s
  | some p => { s with flash := { s.flash with reads := (windowReads s p q).foldl (fun l r => insertRead r l) s.flash.reads } }

/-- The stage-3 answer under WIDEN: the members' dot products are summed in ascending position; it is late where any member's read was (R279). -/
def widenExact (s : State) (q : Share) (c : Cand) : SelEntry :=
  let others := q.exacts.filterMap fun p => (p.2.find? fun e => e.1 == c.vid).map fun e => (p.1, e.2)
  if q.lates.contains c.vid || others.any fun o => o.2.2 then ⟨c.vid, c.score, true, true⟩
  else ⟨c.vid, exactScoreOf q c (sumPositions s (exactProduct q (vectorOf q c)) (others.map fun o => (o.1, o.2.1))), false, false⟩

/-- Stage 3 at a holder (R143): the scores, or the LATE stage-2 scores, of what was asked for. -/
def strokeExact (s : State) (q : Share) : State :=
  let cs := q.asked.filterMap fun a => q.cands.find? fun c => c.vid == a.1
  if conjMode s = 1 ∧ conjMember s then
    toPrimary s (.memberExact (posNow s) (Fin.ofNat 512 q.home) (BitVec.ofNat 64 q.req) (cs.map fun c =>
      (BitVec.ofNat 64 c.vid, exactProduct q (vectorOf q c), q.lates.contains c.vid)))
  else
    tell s q.home (.exact (Fin.ofNat 512 (nodeId s)) (BitVec.ofNat 64 q.req) (cs.map fun c =>
      let e := if conjMode s = 1 then widenExact s q c else exactEntry q c
      (BitVec.ofNat 64 e.id, e.score, e.late)))

/-- The final entries: stage 3's, LATE stage-2 scores with them; the stage-2 score of a candidate for which no answer came, or of every one under
NO_EXACT (R143; DESIGN CHOICE for an answer that does not come, log entry 85). -/
def finalEntries (r : InRec) : List SelEntry :=
  r.query.best.map fun b => (r.query.scores.find? fun e => e.id == b.1.id && !noExact r).getD b.1

/-- The home's final selection (R143, R153). -/
def strokeFinal (s : State) (r : InRec) : State :=
  match r.desc with
  | none => s
  | some d =>
    let u := selectOver (metricMax d) true (fld r.bytes 0 8 8) (finalEntries r)
    setQuery s r fun q => { q with final := some (u.selected, u.tieExcess) }

/-- What one stroke has done. -/
def takeStroke (s : State) (x : Stroke) : State :=
  let share := fun (h : Fin 512) (req : BitVec 64) => s.recs.shares.find? fun q => q.home == h.val && q.req == req.toNat
  match x with
  | .walk ring index block values => match ringQuery s ring index with | some r => strokeWalk s r block.toNat values.toNat | none => s
  | .block home req block => setShare s home req.toNat fun q => { q with block := some block.toNat }
  | .pool home req step => match share home req with | some q => strokePool s q step.toNat | none => s
  | .score home req => match share home req with | some q => strokeScore s q | none => s
  | .merge ring index => match ringQuery s ring index with | some r => strokeMerge s r | none => s
  | .window home req => match share home req with | some q => strokeWindow s q | none => s
  | .exact home req => match share home req with | some q => strokeExact s q | none => s
  | .final ring index => match ringQuery s ring index with | some r => strokeFinal s r | none => s

/-- A read of a window has come to its end: late, or its data kept for stage 3 (R142) or for the gather of a look-up's part (R210). -/
def endRead (s : State) (r : FRead) (late : Bool) : State :=
  let s : State := { s with recs := { s.recs with shares := s.recs.shares.map fun (q : Share) =>
      if q.req = r.req ∧ q.admitAt = r.admitAt ∧ q.place = r.query then
        (if late then { q with lates := q.lates ++ [r.vid] } else { q with data := q.data ++ [(r.slot, r.data)] })
      else q } }
  if s.recs.tables.parts.any fun w => w.part.req == r.req && w.part.admitAt == r.admitAt && w.part.place == r.query then
    { s with recs := { s.recs with tables := { s.recs.tables with
        reads := s.recs.tables.reads ++ [(r.req, r.vid, if late then none else some (r.slot, r.data))] } } }
  else s

/-! ### The result of a query (R147) -/

/-- UNSCANNED: a scan unfinished, a walk or a plan abandoned, a holder's list missing (R133, R147, R148). A query that its plate has not carried
through is unscanned too (DESIGN CHOICE, log entry 85). -/
def QueryWork.unscanned (q : QueryWork) : Bool :=
  q.abandoned || !q.walked || q.final.isNone || (q.lists.any fun l => l.abandoned || decide (0 < l.unfinished)) ||
    q.holders.any fun n => !q.lists.any fun l => l.node == n

/-- Bytes 0x20 to 0x33 of the result record, MAP_EPOCH aside. -/
def QueryWork.stats (q : QueryWork) (ties : Nat) : Bytes :=
  let sum := fun (f : HolderList → Nat) => (q.lists.map f).foldl (· + ·) 0
  let widened := sum HolderList.widened
  layoutBytes 20
    [(0, 2, min 65535 (sum HolderList.planned)), (2, 2, min 65535 widened), (4, 2, min 65535 (sum HolderList.unfinished)), (6, 2, ties),
     (8, 4, packBits [(0, 1, b2n (decide (0 < ties))), (1, 1, b2n (decide (0 < widened))), (2, 1, b2n q.unscanned), (3, 1, b2n (q.lists.any HolderList.ue)),
       (4, 1, b2n (q.scores.any SelEntry.late))]),
     (16, 4, (q.lists.map HolderList.passed).foldl (satAdd 32) 0)]

end Sys2Proof.Machine
end

