-- ==== Sys2Proof/Machine/Updates.lean ====
section
/-!
DEFINITION. TAIL indexes: shards and homes (R174), the ID directory (R178, R183), placing an upsert (R179 to R182), erasures and
undos (R184, R185, R253), and merges (R188 to R191).
-/
namespace Sys2Proof.Machine

/-! ### Shards (R174, R200) -/

/-- The product of R174. -/
def idHash (vid : Nat) : Nat := vid * 0x9E3779B97F4A7C15 % 2 ^ 64

/-- The shard of a vector ID. -/
def shardOf (vid : Nat) : Nat := bits (idHash vid) 48 16

/-- The address of a shard table (R174) or shard map (R200) in force. -/
def shardTableIn (maps : List (Bool × Nat × Nat)) (d : Desc) : Nat :=
  match maps.find? fun m => m.1 == (d.kind == 2) && m.2.1 == d.id with
  | some m => m.2.2
  | none => if d.kind = 2 then tbMap d.bytes else fld d.block 0x20 0 64

/-- The owner node of a shard under the map in force, and under the one before. -/
def shardOwner (s : State) (d : Desc) (shard : Nat) : Nat := readNat s (shardTableIn s.setup.shardMaps d + 2 * shard) 2 % 512
def oldOwner (s : State) (d : Desc) (shard : Nat) : Nat := readNat s (shardTableIn s.setup.oldShardMaps d + 2 * shard) 2 % 512

/-- This node owns, or acts as the owner (R23, R174). -/
def actsAs (s : State) (n : Nat) : Bool := n == nodeId s || (partner s == some n && eclipsed s n)

/-! ### The ID directory (R178) -/

def dBuckets (d : Desc) : Nat := fld d.block 0x18 0 32
def dirBase (d : Desc) : Nat := fld d.block 0x10 0 64

/-- The addresses of the entries that a lookup of an ID examines, in order. -/
def dirEntries (d : Desc) (vid : Nat) : List Nat :=
  if dBuckets d = 0 then []
  else
    let b := idHash vid % 2 ^ 48 % dBuckets d
    (List.range 32).map fun i => dirBase d + 64 * ((b + i / 4) % dBuckets d) + 16 * (i % 4)

/-- VALID of a directory entry, and its LEAF and NODE. -/
def entryValid (s : State) (a : Nat) : Bool := bit (readNat s (a + 12) 2) 9
def entryLeaf (s : State) (a : Nat) : Nat := readNat s (a + 8) 3
def entryNode (s : State) (a : Nat) : Nat := readNat s (a + 12) 2 % 512

/-- The entry of an ID. -/
def dirLookup (s : State) (d : Desc) (vid : Nat) : Option Nat :=
  (dirEntries d vid).find? fun a => entryValid s a && readNat s a 8 == vid

/-- Entries that records hold reserved: those of upserts whose directory change is not written yet. -/
def reserved (s : State) : List Nat :=
  (s.recs.inflight.filter fun r => recKind r.bytes == 2 && !r.dirDone && r.status == 0).filterMap InRec.entry

/-- The entry an insertion takes: the first free one that no record holds. -/
def dirFree (s : State) (d : Desc) (vid : Nat) : Option Nat :=
  (dirEntries d vid).find? fun a => !entryValid s a && !(reserved s).contains a

/-- Write a directory entry. -/
def writeEntry (s : State) (a vid leaf node : Nat) (valid : Bool) : State :=
  writeNode s [(a, layoutBytes 16 [(0, 8, vid), (8, 3, leaf), (12, 4, node + 512 * b2n valid)])]

/-! ### Leaves and tails (R125, R186) -/

/-- A leaf's directory entry as this node keeps it. -/
def leafEntry (s : State) (d : Desc) (node leaf : Nat) : Bytes := readMem s (leafDirAddr s d node leaf) 64

/-- The bank pair of a leaf, as the merge area table counts them (R188), and MERGE_SPAN. -/
def pairNumber (e : Bytes) : Nat := 384 * (leafChan e).stack.val + 24 * (leafChan e).ch.val + leafPos e
def mergeSpan (d : Desc) : Nat := fld d.block 12 0 16

/-- Insert SN, erasure bit and SN, vector ID of an element. -/
def elemSn (s : State) (b : Block) (i : Nat) : Nat := readNat s (b.snAt i) 6
def elemErased (s : State) (b : Block) (i : Nat) : Bool := bit (readNat s (b.bitAt i) 1) (i % 8)
def elemEraseSn (s : State) (b : Block) (i : Nat) : Nat := readNat s (b.eraseSnAt i) 6
def elemId (s : State) (b : Block) (i : Nat) : Nat := readNat s (b.idAt i) 8

/-- The bytes of an element's bitmap byte with its erasure bit set or cleared. -/
def eraseBit (s : State) (b : Block) (i : Nat) (on : Bool) : Bytes :=
  let old := readNat s (b.bitAt i) 1
  leBytes 1 (if bit old (i % 8) = on then old else if on then old + 2 ^ (i % 8) else old - 2 ^ (i % 8))

/-- Write the erasure SN word of an element, then its bit (R185). -/
def eraseElem (s : State) (b : Block) (i sn : Nat) : State :=
  writeNode s [(b.eraseSnAt i, leBytes 8 sn), (b.bitAt i, eraseBit s b i true)]

/-- Clear the erasure of an element (R253). -/
def unerase (s : State) (b : Block) (i : Nat) : State := writeNode s [(b.bitAt i, eraseBit s b i false)]

/-- The leaf's own block and its tail. -/
def blocksOf (s : State) (d : Desc) (node leaf : Nat) : List Block :=
  let e := leafEntry s d node leaf
  leafBlock e :: (match tailBlock s d e with | some b => [b] | none => [])

/-- The elements of some blocks that a test picks. -/
def findElems (bs : List Block) (p : Block → Nat → Bool) : List (Block × Nat) :=
  bs.flatMap fun b => ((List.range b.count).filter (p b)).map fun i => (b, i)

/-- This node keeps the leaf of a node: its own, or its partner's as a replica. -/
def keepsLeaf (s : State) (node : Nat) : Bool := node == nodeId s || partner s == some node

/-- Note an address written for the partner's delta (R429): the partner is not LIVE. -/
def noteDelta (s : State) (a : Nat) : State :=
  match partner s with
  | some p => if statusOf s p = 1 ∨ (statusOf s p ≠ 2 ∧ s.orr.delta.contains a) then s else { s with orr := { s.orr with delta := s.orr.delta ++ [a] } }
  | none => s

/-! ### Erasures and undos (R185, R182, R253) -/

/-- Remember a write made for a record that is not published yet. -/
def noteWrote (s : State) (w : Wrote) : State := if s.recs.wrote.contains w then s else { s with recs := { s.recs with wrote := s.recs.wrote ++ [w] } }

/-- Apply an erasure to the copy this node holds. -/
def applyErase (s : State) (d : Desc) (sn vid node leaf : Nat) : State :=
  if !keepsLeaf s node then s
  else
    let c := findElems (blocksOf s d node leaf) fun b i => elemId s b i == vid && decide (elemSn s b i < sn) && !elemErased s b i
    let best := c.foldl (fun acc e => match acc with
      | none => some e
      | some a => if elemSn s a.1 a.2 < elemSn s e.1 e.2 then some e else some a) none
    let done := findElems (blocksOf s d node leaf) fun b i => elemId s b i == vid && elemErased s b i && elemEraseSn s b i == sn && elemSn s b i != sn
    match best with
    | none => s
    | some (b, i) => if done.isEmpty then noteWrote (noteDelta (eraseElem s b i sn) (b.bitAt i)) ⟨sn, vid, d.id, node, leaf⟩ else s

/-- Undo the writes a record with SN `sn` made for an ID in a leaf: its element is erased with its own insert SN, its erasure is
cleared. -/
def applyUndo (s : State) (d : Desc) (sn vid node leaf : Nat) : State :=
  if !keepsLeaf s node then s
  else
    let bs := blocksOf s d node leaf
    let mine := findElems bs fun b i => elemId s b i == vid && elemSn s b i == sn
    let s := mine.foldl (fun s e => eraseElem s e.1 e.2 sn) s
    let gone := findElems bs fun b i => elemId s b i == vid && elemSn s b i != sn && elemErased s b i && elemEraseSn s b i == sn
    gone.foldl (fun s e => unerase s e.1 e.2) s

/-- Undo every write that this node has made for a record; from then on it counts as in place, and a copy of the record is forgotten (R182, R253). -/
def undoWrites (s : State) (ix sn vid : Nat) : State :=
  let ws := s.recs.wrote.filter fun w => w.sn == sn && w.vid == vid && w.ix == ix
  let s := match findDesc s 1 ix with
    | none => s
    | some d => ws.foldl (fun s (w : Wrote) => applyUndo s d sn vid w.node w.leaf) s
  { s with recs := { s.recs with
      wrote := s.recs.wrote.filter fun w => !ws.contains w
      held := s.recs.held.filter (· != (sn, vid))
      copies := s.recs.copies.filter fun c => !(c.1 == sn && recVid c.2 == vid)
      notInPlace := s.recs.notInPlace.filter (· != (sn, vid)) } }

/-! ### Merges that begin (R188, R189) -/

/-- MERGE_PACES, and the paces that the image of a leaf's merge takes: 4 for each granule copied (R99, R189; log entry 87). -/
def mergePaces (d : Desc) : Nat := fld d.block 12 16 16
def imagePaces (s : State) (d : Desc) (e : Bytes) : Nat :=
  let n := (leafBlock e).count + ((tailBlock s d e).map Block.count).getD 0
  4 * (granulesOf (n * (sketchBits (dWidth d) / 8 + codeRow d + 28)) + granulesOf (bitmapBytes 2048) + granulesOf (bitmapBytes (dTailCap d)) + 2)

/-- The boundary from which the paces of a merge that starts at boundary `m` suffice for its image. -/
def readyAt (s : State) (d : Desc) (e : Bytes) (m : Nat) : Nat := m + ceilDiv (imagePaces s d e) (mergePaces d)

/-! ### Placing (R180 to R182) -/

/-- HARD, SOFT and ATTEMPTS of an update block. -/
def dSoft (d : Desc) : Nat := fld d.block 4 12 12
def dHard (d : Desc) : Nat := fld d.block 8 0 12
def dAttempts (d : Desc) : Nat := fld d.block 8 12 3

/-- The leaf entries of a subtree in rank order against a sketch, with no exclusion: (node, leaf). -/
def rankLeaves (s : State) (d : Desc) (sketch ptr : Nat) : List (Nat × Nat) :=
  match subtreeLeaves s ⟨d, [], sketch⟩ ⟨0, 0⟩ ptr with
  | none => []
  | some (cs, _) => cs.map fun c => (leafNode c.ptr, leafNum c.ptr)

/-- Elements in the tail of a leaf. -/
def tailCount (s : State) (d : Desc) (node leaf : Nat) : Nat := ((tailBlock s d (leafEntry s d node leaf)).map Block.count).getD 0

/-- Where a child slot of a branch node holds ATTR_OR and ATTR_AND. -/
def summaryAt (d : Desc) (node slot : Nat) : Nat := node + 64 + slot * (sketchBits (dWidth d) / 8 + 32) + sketchBits (dWidth d) / 8 + 16

/-- ATTR_OR and ATTR_AND of a child slot as they are once `or'` and `and'` are taken in (R127). -/
def widened (s : State) (d : Desc) (node slot or' and' : Nat) : Nat × Nat :=
  (readNat s (summaryAt d node slot) 4 ||| or', readNat s (summaryAt d node slot + 4) 4 &&& and')

/-- An attribute word widens the summaries of a child slot: a 1 outside ATTR_OR or a 0 inside ATTR_AND (R179). -/
def widens (s : State) (d : Desc) (node slot attr : Nat) : Bool :=
  widened s d node slot attr attr != (readNat s (summaryAt d node slot) 4, readNat s (summaryAt d node slot + 4) 4)

/-- Take summaries into those of a child slot. -/
def widenBy (s : State) (d : Desc) (node slot or' and' : Nat) : State :=
  let w := widened s d node slot or' and'
  writeNode s [(summaryAt d node slot, leBytes 4 w.1 ++ leBytes 4 w.2)]

/-- Widen the summaries of a child slot by an attribute word, where it widens them. -/
def widenSlot (s : State) (d : Desc) (node slot attr : Nat) : State :=
  if widens s d node slot attr then widenBy s d node slot attr attr else s

/-- The slots of a branch node whose child pointer `p` picks. -/
def slotsWith (s : State) (d : Desc) (node : Nat) (p : Nat → Bool) : List Nat :=
  (List.range (readNat s (node + 4) 4 / 256 % 128)).filter fun i =>
    p (readNat s (node + 64 + i * (sketchBits (dWidth d) / 8 + 32) + sketchBits (dWidth d) / 8) 8)

/-- Widen the summaries on a subtree's branch nodes on the path to a leaf (R180). -/
def widenSubtree (s : State) (d : Desc) (ptr node leaf attr : Nat) : State :=
  let root := dSub d + 32 * ptrOffset ptr
  let isIt := fun (p : Nat) => leafNode p == node && leafNum p == leaf
  if dDepth d = 5 then
    (slotsWith s d root fun _ => true).foldl (fun s i =>
      let p := readNat s (root + 64 + i * (sketchBits (dWidth d) / 8 + 32) + sketchBits (dWidth d) / 8) 8
      let sub := dSub d + 32 * ptrOffset p
      match slotsWith s d sub isIt with
      | [] => s
      | k :: _ => widenSlot (widenSlot s d sub k attr) d root i attr) s
  else (slotsWith s d root isIt).foldl (fun s i => widenSlot s d root i attr) s

/-- The CONSTANT flag of a row or channel in the statistics of its object (R78, R80). -/
def setConstant (s : State) (a : Nat) (on : Bool) : State := { s with mem := { s.mem with constant := cset false s.mem.constant a on } }

/-- A row has been quantized with parameters that the node chose: a SCALE of 0 makes it a constant row, which counts (R78). -/
def noteConstant (s : State) (slice a scale : Nat) : State :=
  let s := setConstant s a (scale == 0)
  if scale = 0 then count s 0 10 slice 5 1 else s

/-- Append an element to a tail (R180, R186): the arrays, then COUNT. -/
def appendElem (s : State) (d : Desc) (b : Block) (head sn vid attr : Nat) (sketch code vector : Bytes) : State :=
  let i := b.count
  let row := slice code 0 (codeRow d)
  let s := writeNode s [(b.sketchAt d i, slice sketch 0 (sketchBits (dWidth d) / 8)), (b.attrAt i, leBytes 4 attr), (b.snAt i, leBytes 8 sn),
    (b.eraseSnAt i, leBytes 8 0), (b.bitAt i, eraseBit s b i false), (b.codeAt d i, row), (b.idAt i, leBytes 8 vid),
    (3 * 2 ^ 62 + b.vecAt d i % 2 ^ 48, slice vector 0 (vecBytes d)),
    (head + 4, leBytes 2 ((i + 1) % 4096 + readNat s (head + 4) 2 / 4096 * 4096))]
  let s := noteConstant s ((descSlice s d).getD 0) (b.codeAt d i) (fld row (dRrDims d / 2) 0 16)
  noteDelta s (b.idAt i)

/-- What a holder makes of an upsert: the leaf chosen, FALLBACK, TAIL_FULL. -/
structure PlaceOut where
  leaf     : Nat
  node     : Nat
  fallback : Bool
  full     : Bool
  deriving DecidableEq, Repr

/-- A holder sets or clears the busy mark of a subtree: the mark goes out in the next frame, and applies everywhere at the boundary after
(R181). -/
def markBusy (s : State) (ix ptr : Nat) (on : Bool) : State :=
  let f := s.run.frame
  let s := { s with recs := { s.recs with
      marks := s.recs.marks ++ [((ix, ptr), on, f + 2)]
      mine := s.recs.mine.filter (· != (ix, ptr)) ++ (if on then [(ix, ptr)] else []) } }
  { s with recs := { s.recs with
      reports := s.recs.reports ++ (otherNodes s).map fun n => (f + 1, n, .busy (BitVec.ofNat 16 ix) (BitVec.ofNat 64 ptr) on) } }

/-- The leaf a placing holder takes: the first of its tries whose tail is below HARD, else L* (R180). -/
def placeTries (d : Desc) (ls : List (Nat × Nat)) (node : Nat) : List (Nat × Nat) :=
  (ls.filter fun l => l.1 == node).take (dAttempts d)

/-- Staging room for a full vector of an element (R247). -/
def vectorRoom (s : State) (d : Desc) (b : Block) : Bool :=
  stageRoom s ((descSlice s d).getD 0) (slotsOf (b.vecAt d b.count % 2 ^ 48) (vecBytes d)).length

/-- Place an upsert that has reached a holder (R180 to R182); none where this node places nothing. A write already made is skipped
(R403). A tail at TAIL_CAP, and a full vector that staging has no room for, fail the record (R182, R247). -/
def placeUpsert (s : State) (d : Desc) (ptr sn vid attr : Nat) (sketch code vector : Bytes) : State × Option PlaceOut :=
  match rankLeaves s d (leNat sketch) ptr with
  | [] => (s, none)
  | (node, first) :: rest =>
    if !keepsLeaf s node then (s, none)
    else
      let tries := placeTries d ((node, first) :: rest) node
      match tries.find? fun l => !(findElems (blocksOf s d node l.2) fun b i => elemId s b i == vid && elemSn s b i == sn).isEmpty with
      | some l => (s, some ⟨l.2, node, l.2 != first, false⟩)
      | none =>
        let open' := tries.find? fun l => decide (tailCount s d node l.2 < dHard d)
        let s := if open'.isNone ∧ actsAs s node ∧ !s.recs.mine.contains (d.id, ptr) then markBusy s d.id ptr true else s
        let leaf := match open' with | some l => l.2 | none => first
        let e := leafEntry s d node leaf
        match tailBlock s d e, tailHead e with
        | some b, some h =>
          if b.count ≥ dTailCap d ∨ !vectorRoom s d b then
            let s := { s with recs := { s.recs with held := s.recs.held ++ [(sn, vid)] } }
            let s := if b.count < dTailCap d then s
              else logFault s { code := 0x23, event := true, dom := 0, unit := 0x200 + 16 * b.chan.stack.val + b.chan.ch.val, arg0 := vid, arg1 := leaf }
            (s, some ⟨leaf, node, leaf != first, true⟩)
          else
            let s := noteWrote (appendElem s d b h sn vid attr sketch code vector) ⟨sn, vid, d.id, node, leaf⟩
            (widenSubtree s d ptr node leaf attr, some ⟨leaf, node, leaf != first, false⟩)
        | _, _ => (s, none)

/-- The walk of R179 from a branch node `off` through `k` levels: a beam of 1 and no exclusion. The subtree it reaches, and the branch nodes
and slots taken, as (granule offset, slot). -/
def upsertWalk (s : State) (d : Desc) (sketch : Nat) : Nat → Nat → Option (Nat × List (Nat × Nat))
  | 0, _ => none
  | k + 1, off =>
    let node := dTop d + 32 * off
    let w := dWidth d
    if !addrOk node (nodeLen w) then none
    else
      let cs := childrenOf (readMem s node (nodeLen w)) w sketch ⟨0, 0⟩
      match rankChildren [cs] with
      | [] => none
      | c :: _ =>
        let i := (cs.findIdx? fun x => x == c).getD 0
        if k = 0 then some (c.ptr, [(off, i)]) else (upsertWalk s d sketch k (ptrOffset c.ptr)).map fun r => (r.1, (off, i) :: r.2)

/-- What the home makes of an upsert in the frame of its admission (R122, R179). -/
def encodeUpsert (s : State) (d : Desc) (values : List W32) (b : Bytes) : Option UpsertCode :=
  let x := encodeVector d (values ++ List.replicate (sketchBits (dWidth d) + dRrDims d - values.length) 0#32) (recVector b)
  (upsertWalk s d (leNat x.1) 3 0).map fun w => ⟨x.1, x.2, w.1, w.2⟩

/-- The largest SN of an update record known to have written something in an index (R193). -/
def noteSn (s : State) (ix sn : Nat) : State := { s with recs := { s.recs with updSn := cmod 0 s.recs.updSn ix (max sn) } }

/-- Writes whose SN is published can no longer be undone. -/
def forgetWrites (s : State) : State :=
  let past := s.recs.wrote.filter fun w => decide (w.sn ≤ s.recs.published)
  past.foldl (fun s w => noteSn s w.ix w.sn) { s with recs := { s.recs with wrote := s.recs.wrote.filter fun w => !decide (w.sn ≤ s.recs.published) } }

/-- An update record with an SN above a cut counts against a version switch of its index, as far as this node knows of it: admitted here, copied
from the partner, or written here as a holder (R193). -/
def beyondCut (s : State) (ix cut : Nat) : Bool :=
  decide (cut < cget 0 s.recs.updSn ix) || (s.recs.inflight.any fun r => isUpdate r && recOwner r.bytes == ix && r.status == 0 && decide (cut < r.sn)) ||
    (s.recs.copies.any fun c => recOwner c.2 == ix && decide (cut < c.1)) || s.recs.wrote.any fun w => w.ix == ix && decide (cut < w.sn)

/-! ### Messages that arrive (R179 to R185, R402, R404) -/

/-- Note a write that is not in place before its CONFIRM (R402). -/
def notYet (s : State) (sn vid : Nat) : State :=
  if s.recs.notInPlace.contains (sn, vid) then s else { s with recs := { s.recs with notInPlace := s.recs.notInPlace ++ [(sn, vid)] } }

/-- The home of an ID. -/
def homeOf (s : State) (d : Desc) (vid : Nat) : Nat :=
  let o := shardOwner s d (shardOf vid)
  if statusOf s o = 1 then o else (partnerOf s o).getD o

/-- A record of the home that a report belongs to. -/
def reportTo (s : State) (sn vid leaf node : Nat) (fallback full : Bool) : State :=
  let mark := fun (r : InRec) =>
    if isUpdate r ∧ r.sn = sn ∧ recVid r.bytes = vid ∧ r.status = 0 then
      { r with placed := some (leaf, node), tailFull := r.tailFull || full, flags := r.flags ||| (8 * b2n fallback) }
    else r
  { s with recs := { s.recs with inflight := s.recs.inflight.map mark } }

/-- A holder's part in an upsert: it is placed, and the leaf is reported to the home in the frame after (R180). -/
def holdUpsert (s : State) (d : Desc) (sn vid attr ptr : Nat) (sketch code vector : Bytes) : State :=
  let (s, out) := placeUpsert s d ptr sn vid attr sketch code vector
  match out with
  | none => s
  | some o =>
    let home := homeOf s d vid
    if home = nodeId s then reportTo s sn vid o.leaf o.node o.fallback o.full
    else
      let m : Remote := .placed (BitVec.ofNat 48 sn) (BitVec.ofNat 64 vid) (BitVec.ofNat 24 o.leaf) (Fin.ofNat 512 o.node) o.fallback o.full
      { s with recs := { s.recs with reports := s.recs.reports ++ [(s.run.frame + 1, home, m)] } }

/-- Messages whose frame has come go out. -/
def sendReports (s : State) : State :=
  let now := s.recs.reports.filter fun r => decide (r.1 ≤ s.run.frame)
  now.foldl (fun s r => sendRemote s r.2.1 r.2.2) { s with recs := { s.recs with reports := s.recs.reports.filter fun r => !decide (r.1 ≤ s.run.frame) } }

/-- Take one message of another node's update; none where it is of another kind. -/
def takeUpdate (s : State) (m : Remote) : Option State :=
  match m with
  | .upsert sn vid ix attr subtree sketch code vector =>
    some (match findDesc s 1 ix.toNat with
      | none => s
      | some d => holdUpsert (notYet s sn.toNat vid.toNat) d sn.toNat vid.toNat attr.toNat subtree.toNat sketch code vector)
  | .erase sn vid ix leaf =>
    some (match findDesc s 1 ix.toNat with
      | none => s
      | some d =>
        let s := applyErase (notYet s sn.toNat vid.toNat) d sn.toNat vid.toNat (nodeId s) leaf.toNat
        match partner s with
        | some p => applyErase s d sn.toNat vid.toNat p leaf.toNat
        | none => s)
  | .undo sn vid ix => some (undoWrites s ix.toNat sn.toNat vid.toNat)
  | .busy ix subtree on => some { s with recs := { s.recs with marks := s.recs.marks ++ [((ix.toNat, subtree.toNat), on, s.run.frame)] } }
  | .placed sn vid leaf node fallback full => some (reportTo s sn.toNat vid.toNat leaf.toNat node fallback full)
  | .directory sn ix vid leaf node valid =>
    some (match findDesc s 1 ix.toNat with
      | none => s
      | some d =>
        let s := noteSn s d.id sn.toNat
        match (dirLookup s d vid.toNat).or (if valid then dirFree s d vid.toNat else none) with
        | none => s
        | some a => writeEntry s a vid.toNat leaf.toNat node valid)
  | .widen ix offset slot or' and' =>
    some (match findDesc s 1 ix.toNat with
      | none => s
      | some d => widenBy s d (dTop d + 32 * offset.toNat) slot or'.toNat and'.toNat)
  | .copy sn bytes => some { s with recs := { s.recs with copies := s.recs.copies ++ [(sn.toNat, bytes)] } }
  | .merge ix leaf start floor cut =>
    some (match findDesc s 1 ix.toNat, partner s with
      | some d, some p =>
        let e := leafEntry s d p leaf.toNat
        { s with bg := { s.bg with merges := s.bg.merges ++ [{ index := d.id, node := p, leaf := leaf.toNat, start := start.toNat, floor := floor.toNat
                                                               cut := cut.toNat, span := mergeSpan d, switched := none, entry := [], pair := pairNumber e
                                                               ready := readyAt s d e start.toNat }] } }
      | _, _ => s)
  | .merged ix node leaf =>
    some { s with bg := { s.bg with merges := s.bg.merges.map fun m =>
        if m.index = ix.toNat ∧ m.node = node.val ∧ m.leaf = leaf.toNat then { m with theirs := true } else m } }
  | _ => none

/-- Apply the busy marks whose boundary this is (R181). -/
def applyMarks (s : State) : State :=
  let now := s.recs.marks.filter fun m => decide (m.2.2 ≤ s.run.frame)
  { s with recs := { s.recs with
      marks := s.recs.marks.filter fun m => !decide (m.2.2 ≤ s.run.frame)
      busy := now.foldl (fun b m => if m.2.1 then b.filter (· != m.1) ++ [m.1] else b.filter (· != m.1)) s.recs.busy } }

/-! ### The home's frames (R179, R182, R183, R402) -/

/-- A node and its partner. -/
def withPartner (s : State) (n : Nat) : List Nat := n :: (match partnerOf s n with | some p => [p] | none => [])

/-- The nodes an update record's messages go to: the subtree's holders and their partners, and those of the old copy (R179). -/
def receivers (s : State) (r : InRec) : List Nat :=
  let up := match r.encoding with | some e => (subtreeHolders s e.subtree).flatMap (withPartner s) | none => []
  let old := match r.old with | some o => withPartner s o.2 | none => []
  (up ++ old).eraseDups

/-- Frame b + 1: the messages go out (R179). -/
def homeSend (s : State) (d : Desc) (r : InRec) : State :=
  let sn := BitVec.ofNat 48 r.sn
  let vid := BitVec.ofNat 64 (recVid r.bytes)
  let ix := BitVec.ofNat 16 d.id
  let attr := recAttr r.bytes
  let s := match r.encoding with
    | none => s
    | some e =>
      let m : Remote := .upsert sn vid ix (BitVec.ofNat 32 attr) (BitVec.ofNat 64 e.subtree) e.sketch e.code (recVector r.bytes)
      let s := ((subtreeHolders s e.subtree).flatMap (withPartner s)).eraseDups.foldl (fun s n => sendRemote s n m) s
      let out := e.path.filter fun p => widens s d (dTop d + 32 * p.1) p.2 attr
      (otherNodes s).foldl (fun s n => out.foldl (fun s p =>
        let w := widened s d (dTop d + 32 * p.1) p.2 attr attr
        sendRemote s n (.widen ix (BitVec.ofNat 36 p.1) (Fin.ofNat 64 p.2) (BitVec.ofNat 32 w.1) (BitVec.ofNat 32 w.2))) s) s
  match r.old with
  | none => s
  | some o => (withPartner s o.2).foldl (fun s n => sendRemote s n (.erase sn vid ix (BitVec.ofNat 24 o.1))) s

/-- Frame b + 2: the home's own writes, where it is itself a receiver. -/
def homeWrite (s : State) (d : Desc) (r : InRec) : State :=
  let vid := recVid r.bytes
  let s := match r.encoding with
    | none => s
    | some e =>
      let s := e.path.foldl (fun s p => widenSlot s d (dTop d + 32 * p.1) p.2 (recAttr r.bytes)) s
      if ((subtreeHolders s e.subtree).flatMap (withPartner s)).contains (nodeId s) then
        holdUpsert s d r.sn vid (recAttr r.bytes) e.subtree e.sketch e.code (recVector r.bytes)
      else s
  match r.old with
  | none => s
  | some o => applyErase s d r.sn vid o.2 o.1

/-- Every message of a record sent in frame b + 1 has been acknowledged with DELIVERED (R402). -/
def allDelivered (s : State) (r : InRec) : Bool :=
  let dests := receivers s r
  !s.fab.unacked.any fun m => m.1 == r.admitAt + 1 && dests.contains m.2.dst

/-- CONFIRM goes out once every message to the record's receivers has been acknowledged (R402); the home's own writes count as in
place. -/
def homeConfirm (s : State) (r : InRec) : State :=
  if !allDelivered s r then s
  else
    let vid := recVid r.bytes
    let all := (receivers s r ++ (match partner s with | some p => [p] | none => [])).eraseDups.filter (· != nodeId s)
    let s := all.foldl (fun s n => { s with fab := { s.fab with out := s.fab.out ++ [.confirm n r.sn vid] } }) s
    let s := setRec s { r with confirmed := true }
    { s with recs := { s.recs with
        notInPlace := s.recs.notInPlace.filter (· != (r.sn, vid))
        journal := s.recs.journal.filter fun j => !(j.sn == r.sn && recVid j.bytes == vid) } }

/-- A record's undo goes to every node that may have written for it, and to the partner, which holds a copy of the record (R182, R253). -/
def sendUndo (s : State) (d : Desc) (r : InRec) : State :=
  (receivers s r ++ (match partner s with | some p => [p] | none => [])).eraseDups.foldl (fun s n =>
    sendRemote s n (.undo (BitVec.ofNat 48 r.sn) (BitVec.ofNat 64 (recVid r.bytes)) (BitVec.ofNat 16 d.id))) s

/-- Frame b + 4: the directory (R183), or S_BUSY after TAIL_FULL (R182). An upsert whose holder has not reported yet waits for the report. -/
def homeDirectory (s : State) (d : Desc) (r : InRec) : State :=
  let vid := recVid r.bytes
  let ix := BitVec.ofNat 16 d.id
  if r.tailFull then
    sendUndo (setRec s { r with status := sBusy, due := s.run.frame, entry := none, dirDone := true }) d r
  else
    let up := recKind r.bytes == 2
    match r.entry, if up then r.placed else r.old with
    | some a, some (leaf, node) =>
      let s := writeEntry (noteSn (setRec s { r with dirDone := true }) d.id r.sn) a vid leaf node up
      (match partner s with
       | none => s
       | some p => sendRemote s p (.directory (BitVec.ofNat 48 r.sn) ix (BitVec.ofNat 64 vid) (BitVec.ofNat 24 leaf) (Fin.ofNat 512 node) up))
    | _, _ => if up then s else setRec s { r with dirDone := true }

/-- A record that will write nothing any more: nothing of it is awaited, and the journal forgets it. -/
def dropWrites (s : State) (r : InRec) : State :=
  { s with recs := { s.recs with
      notInPlace := s.recs.notInPlace.filter (· != (r.sn, recVid r.bytes))
      held := s.recs.held.filter (· != (r.sn, recVid r.bytes))
      journal := s.recs.journal.filter fun j => !(j.sn == r.sn && recVid j.bytes == recVid r.bytes) } }

/-- The record in flight that a copy of it stands for. -/
def sameRec (s : State) (r : InRec) : Option InRec :=
  s.recs.inflight.find? fun q => q.ring == r.ring && q.index == r.index && q.admitAt == r.admitAt

/-- One update record at the boundary that begins the present frame: b + 1 sends, b + 2 writes, b + 4 writes the directory, b + 5 undoes what failed
with TAIL_FULL (R179 to R183). -/
def homeFrame (s : State) (r0 : InRec) : State :=
  match sameRec s r0 with
  | none => s
  | some r =>
    match findDesc s 1 (recOwner r.bytes) with
    | none => s
    | some d =>
      let age := s.run.frame - r.admitAt
      if r.status ≠ 0 then (if r.tailFull ∧ age = 5 then dropWrites (undoWrites s d.id r.sn (recVid r.bytes)) r else s)
      else if age = 1 then homeSend s d r
      else
        let s := if age = 2 then homeWrite s d r else s
        let s := match sameRec s r with | some r => if 2 ≤ age ∧ !r.confirmed then homeConfirm s r else s | none => s
        match sameRec s r with
        | some r => if 4 ≤ age ∧ !r.dirDone then homeDirectory s d r else s
        | none => s

/-- Every update record at the boundary, in admission order. -/
def homeFrames (s : State) : State := (s.recs.inflight.filter isUpdate).foldl homeFrame s

end Sys2Proof.Machine
end

