-- ==== Sys2Proof/Machine/Tables.lean ====
section
/-!
DEFINITION. Embedding tables: a look-up's positions and parts (R199, R203, R205, R206), gathering and pooling at the owners (R207, R209, R210, R213),
the optimiser steps of the gradients (R82, R83, R219 to R225), and what a transit changes for both (R217).
-/
namespace Sys2Proof.Machine

/-! ### Look-up records (R203, R205) -/

/-- Offsets of the arrays of a look-up (R203): OFFSETS, INDEX, WEIGHT, end. -/
def lookIdx (b : Bytes) : Nat := 64 + roundUp 8 (4 * (fld b 0x10 0 11 + 1))
def lookWt (b : Bytes) : Nat := lookIdx b + 8 * fld b 0x14 0 17
def lookEnd (b : Bytes) : Nat := if fld b 0 8 2 = 2 then lookWt b + roundUp 8 (2 * fld b 0x14 0 17) else lookWt b

/-- Word `i` of OFFSETS, and index `p`. -/
def lookOff (b : Bytes) (i : Nat) : Nat := fld b (64 + 4 * i) 0 32
def lookIndex (b : Bytes) (p : Nat) : Nat := fld b (lookIdx b + 8 * p) 0 64

/-- The test an index meets first: 1 the sentinel, 2 the sign, 3 the range; 0 where it is kept (R205). -/
def dropTest (rows i : Nat) : Nat := if i = 0xFFFFFFFF then 1 else if i ≥ 2 ^ 63 then 2 else if i ≥ rows then 3 else 0

/-- The drops of a look-up (R205): negative, out of range, sentinel. -/
def lookupDrops (d : Desc) (b : Bytes) : Nat × Nat × Nat :=
  let ts := (List.range (fld b 0x14 0 17)).map fun p => dropTest (tbRows d.bytes) (lookIndex b p)
  (ts.count 2, ts.count 3, ts.count 1)

/-- The positions of a look-up that are not dropped, bag by bag. -/
def lookPositions (d : Desc) (b : Bytes) : List TPos :=
  (List.range (fld b 0x10 0 11)).flatMap fun g =>
    (List.range (lookOff b (g + 1) - lookOff b g)).filterMap fun k =>
      let p := lookOff b g + k
      if dropTest (tbRows d.bytes) (lookIndex b p) = 0 then
        some ⟨g, p, lookIndex b p, if fld b 0 8 2 = 2 then fld b (lookWt b + 2 * p) 0 16 else 0⟩
      else none

/-! ### Rows and owners (R199 to R202) -/

/-- Shard of a row and its place there (R199). -/
def rowShard (d : Desc) (r : Nat) : Nat := r / 2 ^ tbShift d.bytes
def rowPlace (d : Desc) (r : Nat) : Nat := r % 2 ^ tbShift d.bytes

/-- The node that acts as the owner of a shard (R202, R23). -/
def shardActor (s : State) (d : Desc) (shard : Nat) : Nat := scanner s (shardOwner s d shard)

/-- This node serves a shard: it acts as its owner and holds its block, which no transit is filling (R201, R202). -/
def servesShard (s : State) (d : Desc) (shard : Nat) : Bool :=
  shardActor s d shard == nodeId s && shardBlock s d shard != 0 && !bit (shardFlags s d shard) 1

/-- Where a row and its state lie on this node. -/
def rowAt (s : State) (d : Desc) (r : Nat) : Nat := rowAddr d.bytes (shardBlock s d (rowShard d r)) (rowPlace d r)
def stateAt (s : State) (d : Desc) (r : Nat) : Nat := stateAddr d.bytes (shardBlock s d (rowShard d r)) (rowShard d r) (rowPlace d r)

/-- The values of a row of `n` elements in a format (R207): an RQ row's under its trailer, each one fused operation; the others exact. -/
def rowValues (fmt n : Nat) (b : Bytes) : List W32 :=
  let t := fmtType fmt
  let k := typeBits t
  if t = 8 ∨ t = 9 then
    let sc := fld b (n * k / 8) 0 16
    let off := fld b (n * k / 8 + 2) 0 16
    (unpackElems k n b).map fun c => dequantValue sc off (Int.ofNat c)
  else (unpackElems k n b).map fun c => (loadLane t c).1

/-- Values written in a row format (R223): an RQ row with fresh parameters and AUX 0, the others converted; with saturations and NaNs. -/
def rowOf (fmt : Nat) (vs : List W32) : Bytes × Nat × Nat :=
  let t := fmtType fmt
  if t = 8 ∨ t = 9 then
    let ps := chooseParams (typeBits t) vs
    let n := encodeCounts (vs.map fun v => encodeValue t ps.1 ps.2 v)
    (quantRow t vs 0, n.1, n.2)
  else
    let cs := vs.map (storeLane fmt)
    let n := convCounts cs
    (packElems (typeBits t) (cs.map Conv.code), n.1, n.2)

/-! ### Messages of tables -/

/-- Change the tables' part of the state. -/
def setTables (s : State) (f : Tables → Tables) : State := { s with recs := { s.recs with tables := f s.recs.tables } }

/-- Queue a message for the frame `at'`. -/
def reportAt (s : State) (at' dst : Nat) (m : Remote) : State := { s with recs := { s.recs with reports := s.recs.reports ++ [(at', dst, m)] } }

/-- Change the record of a kind, REQUEST_ID and admission that waits at this home. -/
def setWaiting (s : State) (kind req admitAt : Nat) (f : InRec → InRec) : State :=
  let put := fun (r : InRec) => if recKind r.bytes = kind ∧ recReq r.bytes = req ∧ r.admitAt = admitAt ∧ r.answered = false then f r else r
  { s with recs := { s.recs with inflight := s.recs.inflight.map put } }

/-- The home takes an owner's answer to a look-up's part, or an owner's report on a gradient. -/
def takePartial (s : State) (p : Partial) : State := setWaiting s 4 p.req p.admitAt fun r => { r with partials := r.partials ++ [p] }
def takeDone (s : State) (g : GradDone) : State := setWaiting s 5 g.req g.admitAt fun r => { r with reports := r.reports ++ [g] }

/-- An owner's answer goes to the home in the next frame (R206). -/
def tellPartial (s : State) (home : Nat) (p : Partial) : State :=
  if home = nodeId s then takePartial s p else reportAt s (s.run.frame + 1) home (.partial_ p)

/-- An owner's report goes to the home in frame u + 3, which this boundary begins (R224). -/
def tellDone (s : State) (home : Nat) (g : GradDone) : State :=
  if home = nodeId s then takeDone s g else reportAt s s.run.frame home (.gradDone g)

/-- The transit that has moved a shard from this node since a map epoch (R217). -/
def movedFrom (s : State) (table shard epoch : Nat) : Option Moved :=
  s.recs.tables.moved.find? fun m => m.table == table && m.shard == shard && m.giver == nodeId s && decide (epoch < m.epoch)

/-- The training state that this node holds of a look-up as an owner, or as the partner that acts for it (R219, R404). -/
def trainAt (s : State) (home req : Nat) : Option OwnTrain :=
  (s.recs.tables.own ++ s.recs.tables.copies).find? fun t => t.home == home && t.req == req

/-- Training state joins what this node holds of the same look-up. -/
def addTrain (l : List OwnTrain) (t : OwnTrain) : List OwnTrain :=
  match l.find? fun x => x.home == t.home && x.req == t.req with
  | none => l ++ [t]
  | some _ => l.map fun x =>
      if x.home = t.home ∧ x.req = t.req then
        { x with positions := x.positions ++ t.positions.filter (!x.positions.contains ·), applied := x.applied ++ t.applied.filter (!x.applied.contains ·) }
      else x

/-- A gradient's part reaches an owner in frame `got`. A shard that has moved away is its new owner's: the part goes on to it in frames t and t + 1, and is
answered with S_MOVED from t + 2 on (R217). -/
def takeGrad (s : State) (p : GradPart) (got : Nat) : State :=
  let gone : List Moved := match findDesc s 2 p.table, trainAt s p.home p.lookup with
    | some d, some t => (t.positions.filterMap fun (x : TPos) => movedFrom s p.table (rowShard d x.row) p.epoch).eraseDups
    | _, _ => []
  match gone.find? fun m => decide (m.at_ + 2 ≤ got) with
  | some m => tellDone s p.home ⟨nodeId s, p.req, p.admitAt, false, sMoved, m.owner⟩
  | none =>
    let s := ((gone.map Moved.owner).eraseDups).foldl (fun s n => reportAt s s.run.frame n (.grad p)) s
    setTables s fun t => { t with grads := t.grads ++ [p] }

/-- Take a message of a table; none where it is of another kind. -/
def takeTable (s : State) (m : Remote) : Option State :=
  match m with
  | .part p => some (setTables s fun t => { t with parts := t.parts ++ [{ at_ := max s.run.frame (p.admitAt + 2), got := s.run.frame - 1, part := p }] })
  | .partial_ p => some (match runningAt s 4 p.req with | some pos => toMember s pos m | none => takePartial s p)
  | .grad p => some (takeGrad s p (s.run.frame - 1))
  | .gradDone g => some (takeDone s g)
  | .gradLost home _ table => some (logFaultFor s home { code := 0x37, event := true, dom := 4, unit := 0x812, arg0 := table.toNat, arg1 := home })
  | .training t =>
    some (match findDesc s 2 t.table with
      | none => s
      | some d =>
        let mine := fun (x : TPos) => shardOwner s d (rowShard d x.row) == nodeId s
        if t.positions.all mine then setTables s fun x => { x with own := addTrain x.own t }
        else setTables s fun x => { x with copies := addTrain x.copies t })
  | .row table shard place bytes =>
    some (match findDesc s 2 table.toNat with
      | none => s
      | some d =>
        let blk := shardBlock s d shard.toNat
        if blk = 0 then s
        else
          let n := rowBytes d.bytes
          writeNode s [(rowAddr d.bytes blk place.toNat, bytes.take n), (stateAddr d.bytes blk shard.toNat place.toNat, (bytes.drop n).take (rowState d.bytes))])
  | .load table shard counts =>
    let k := 4 * (65536 * table.toNat + shard.toNat)
    some { s with cnt := { s.cnt with shardLoad := (List.range 4).foldl (fun c i => cset 0 c (k + i) ((counts.getD i 0#32).toNat)) s.cnt.shardLoad } }
  | .transitRuns node table on =>
    let mine := fun (sh : Nat) => match findDesc s 2 table.toNat with | some d => shardOwner s d sh == node.val | none => false
    let s := if on then s else dropSubmit s node.val table.toNat mine
    some (setTables s fun t => { t with
      transits := t.transits.filter (· != (node.val, table.toNat)) ++ (if on then [(node.val, table.toNat)] else []) })
  | _ => none

/-! ### The home's part of a look-up (R206) -/

/-- The parts of a look-up by the node that acts as the owner of its rows. -/
def lookParts (s : State) (d : Desc) (r : InRec) : List (Nat × LookPart) :=
  let ps := (lookPositions d r.bytes).map fun x => (shardActor s d (rowShard d x.row), x)
  ((ps.map Prod.fst).eraseDups).map fun o =>
    (o, { home := nodeId s, admitAt := r.admitAt, place := r.place, req := recReq r.bytes, table := d.id, epoch := r.epoch, pool := fld r.bytes 0 8 2
          out16 := fld r.bytes 0 10 1 == 1, train := fld r.bytes 0 11 1 == 1, positions := (ps.filter fun p => p.1 == o).map Prod.snd })

/-- The parts of an admitted look-up go out in frame a + 1; this node's own is gathered in frame a + 2 with the others (R206). -/
def sendParts (s : State) (ps : List (Nat × LookPart)) : State :=
  ps.foldl (fun s p =>
    if p.1 = nodeId s then setTables s fun t => { t with parts := t.parts ++ [{ at_ := s.run.frame + 2, got := s.run.frame + 1, part := p.2 }] }
    else reportAt s (s.run.frame + 1) p.1 (.part p.2)) s

/-! ### Gathering and pooling (R207, R209, R210, R213) -/

/-- Count rows of a shard: 0 gathered, 1 written (R213). -/
def countLoad (s : State) (table shard c n : Nat) : State :=
  { s with cnt := { s.cnt with shardLoad := cmod 0 s.cnt.shardLoad (4 * (65536 * table + shard) + c) (satAdd 32 n) } }

/-- The slots of a row held in T3. -/
def rowSlots (s : State) (d : Desc) (r : Nat) : List Nat := slotsOf (rowAt s d r % 2 ^ 48) (rowBytes d.bytes)

/-- A row's bytes as its gather reads them; none where its flash read was late (R210). -/
def gatherRow (s : State) (d : Desc) (req r : Nat) : Option Bytes :=
  let a := rowAt s d r
  if tierOf a ≠ 3 then some (readMem s a (rowBytes d.bytes))
  else
    let got := (s.recs.tables.reads.filter fun x => x.1 == req && x.2.1 == r).map fun x => x.2.2
    if got.any Option.isNone then none
    else some (slice ((rowSlots s d r).flatMap fun k => ((got.filterMap id).find? fun x => x.1 == k).elim (List.replicate slotBytes 0#8) Prod.snd)
      (a % slotBytes) (rowBytes d.bytes))

/-- One step of the pooling of a bag (R207). -/
def poolStep (pool weight : Nat) (acc v : List W32) : List W32 :=
  if pool = 2 then List.zipWith (fun a x => fma32 (widen16 weight) x a) acc v else List.zipWith add32 acc v

/-- A binary32 value rounded to binary16 (R72, R73). -/
def narrow16 (x : W32) : Nat := (toFloat f16 false (dec32 x)).code

/-- The partial row of each bag an owner has touched, from the rows it has gathered, in ascending position (R207). -/
def poolBags (dim pool : Nat) (out16 : Bool) (xs : List (TPos × List W32)) : List BagPart :=
  ((xs.map fun x => x.1.bag).eraseDups).map fun g =>
    let mine := xs.filter fun x => x.1.bag == g
    let row := mine.foldl (fun acc x => poolStep pool x.1.weight acc x.2) (List.replicate dim 0#32)
    ⟨g, mine.length, if out16 then row.map fun v => widen16 (narrow16 v) else row⟩

/-- The tile of the first of some rows that is poisoned in T0 to T2. -/
def poisonedRow (s : State) (d : Desc) (rows : List Nat) : Option Nat :=
  (rows.map (rowAt s d)).find? fun a => tierOf a != 3 &&
    (poisonedAt s a (rowBytes d.bytes) || (tilesTouched s a (rowBytes d.bytes)).any fun x => match readTile s x.1 x.2 with
      | some (h, _) => fld h 0 10 1 == 1
      | none => false)

/-- The lane by which a stack channel or board DRAM is read. -/
def memLane (a : Nat) : Nat := match channelOf a with | some ch => 0x200 + ch | none => edgeLane

/-- Training state of other homes' look-ups and of this home's own, by look-up (R219). -/
def trainRoom (s : State) : Bool :=
  decide (s.recs.training.length + (s.recs.tables.own.filter fun t => t.home != nodeId s).length < 65536)

/-- The last boundary at which a part can be gathered and still reach its home in time: a depth of 6 leaves frame a + 2 (R206; log entry 88). -/
def lastGather (s : State) (p : LookPart) : Nat := p.admitAt + (match s.run.plate with | some q => q.depth | none => 6) - 4

/-- A look-up's part is gathered and pooled, and answered in the next frame. -/
def poolPart (s : State) (d : Desc) (p : LookPart) : State :=
  let rows := p.positions.map fun x => (x, gatherRow s d p.req x.row)
  let late := (rows.filter fun x => x.2.isNone).length
  let got := rows.filterMap fun x => x.2.map fun b => (x.1, rowValues (tbFormat d.bytes) (tbDim d.bytes) b)
  let me := nodeId s
  let known := s.recs.tables.own.any fun t => t.home == p.home && t.req == p.req
  if p.train ∧ p.home ≠ me ∧ !known ∧ !trainRoom s then tellPartial s p.home ⟨me, p.req, p.admitAt, [], 0, sBusy, 0⟩
  else
    let s := got.foldl (fun s x => countLoad s d.id (rowShard d x.1.row) 0 1) s
    let s := if !p.train then s
      else setTables s fun t => { t with own := addTrain t.own { home := p.home, req := p.req, table := d.id, admitAt := p.admitAt, pool := p.pool
                                                                 positions := got.map Prod.fst } }
    tellPartial s p.home ⟨me, p.req, p.admitAt, poolBags (tbDim d.bytes) p.pool p.out16 got, late, 0, 0⟩

/-- A part whose boundary has come (R206, R209, R210, R217): positions of shards that have moved go on to the new owner, or answer with S_MOVED; rows in
T3 are read first; a poisoned row is waited for as long as there is time, and then answers with S_POISONED. -/
def gatherPart (s : State) (w : WaitPart) : State :=
  let p := w.part
  let f := s.run.frame
  let drop := fun (s : State) => setTables s fun t => { t with parts := t.parts.erase w, reads := t.reads.filter fun x => x.1 != p.req }
  let change := fun (s : State) (v : WaitPart) => setTables s fun t => { t with parts := t.parts.map fun x => if x = w then v else x }
  match descAt s 2 p.table p.admitAt with
  | none => drop s
  | some d =>
    let gone := if w.reading then [] else
      p.positions.filterMap fun x => ((movedFrom s d.id (rowShard d x.row) p.epoch).filter fun m => decide (m.at_ ≤ w.got)).map fun m => (m, x)
    match (gone.map Prod.fst).find? fun m => decide (m.at_ + 2 ≤ w.got) with
    | some m => tellPartial (drop s) p.home ⟨nodeId s, p.req, p.admitAt, [], 0, sMoved, m.owner⟩
    | none =>
      let away := gone.map Prod.snd
      let stay := { p with positions := p.positions.filter fun x => !away.contains x }
      let t3 := stay.positions.filter fun x => tierOf (rowAt s d x.row) == 3
      if w.reading = false ∧ !t3.isEmpty then
        match s.run.plate with
        | none => s
        | some q =>
          let new := t3.flatMap fun x => (rowSlots s d x.row).map fun k => newRead s q p.admitAt p.place x.pos p.req x.row k (slotEntry s k)
          let s := { s with flash := { s.flash with reads := new.foldl (fun l r => insertRead r l) s.flash.reads } }
          change s { w with at_ := f + q.flashWindow, reading := true }
      else
        match poisonedRow s d (stay.positions.map TPos.row) with
        | some a =>
          let s := if w.told then s else match tileAt s a with
            | some (o, t) => poisonFinding s o.id t (memLane a) 0
            | none => s
          if f < lastGather s p then change s { w with told := true, at_ := f + 1 }
          else tellPartial (drop s) p.home ⟨nodeId s, p.req, p.admitAt, [], 0, sPoisoned, 0⟩
        | none =>
          let s := ((gone.map fun g => g.1.owner).eraseDups).foldl (fun s n =>
            reportAt s f n (.part { p with positions := (gone.filter fun g => g.1.owner == n).map Prod.snd })) s
          poolPart (drop s) d stay

/-- The gathers of the frame that this boundary begins (R209). -/
def gatherStep (s : State) : State := (s.recs.tables.parts.filter fun w => decide (w.at_ ≤ s.run.frame)).foldl gatherPart s

/-! ### The home's result (R207, R208) -/

/-- Insert a partial in ascending owner. -/
def insertPartial (p : Partial) : List Partial → List Partial
  | [] => [p]
  | x :: r => if p.owner < x.owner then p :: x :: r else x :: insertPartial p r

/-- The valid count and the pooled row of a bag, as the home combines the partials (R207). -/
def combineBag (dim pool : Nat) (ps : List Partial) (g : Nat) : Nat × List W32 :=
  let mine := (ps.foldl (fun l p => insertPartial p l) []).flatMap fun p => p.bags.filter fun b => b.bag == g
  let n := (mine.map BagPart.count).foldl (· + ·) 0
  let sum := mine.foldl (fun acc b => List.zipWith add32 acc b.row) (List.replicate dim 0#32)
  (n, if pool = 1 ∧ 0 < n then sum.map fun v => div32 v (ofInt32 n) else sum)

/-- Every answer that a look-up or gradient awaits has come. -/
def heardAll (r : InRec) : Bool := r.owners.all fun n => (r.partials.any fun p => p.owner == n) || r.reports.any fun g => g.owner == n

/-- COUNTS and the pooled rows of a look-up's result (R208). -/
def lookBody (d : Desc) (r : InRec) : Bytes :=
  let bags := (List.range (fld r.bytes 0x10 0 11)).map (combineBag (tbDim d.bytes) (fld r.bytes 0 8 2) r.partials)
  let counts := bags.flatMap fun b => leBytes 4 b.1
  let rows := bags.flatMap fun b => b.2.flatMap fun v => if fld r.bytes 0 10 1 = 1 then leBytes 2 (narrow16 v) else leBytes 4 v.toNat
  counts ++ List.replicate (roundUp 32 counts.length - counts.length) 0 ++ rows

/-- The status that the owners' answers give a look-up or gradient, and the new owner of an S_MOVED. -/
def partialStatus (r : InRec) : Nat × Nat :=
  let l := (r.partials.map fun p => (p.status, p.newOwner)) ++ r.reports.map fun g => (g.status, g.newOwner)
  match l.find? fun x => x.1 == sMoved, l.find? fun x => x.1 == sPoisoned, l.find? fun x => x.1 == sBusy with
  | some x, _, _ => x
  | none, some x, _ => (x.1, 0)
  | none, none, some x => (x.1, 0)
  | none, none, none => (0, 0)

/-! ### Gradients at the home (R220) -/

/-- The gradient of bag `g` as binary32 lanes. -/
def gradRow (d : Desc) (b : Bytes) (g : Nat) : List W32 :=
  let dim := tbDim d.bytes
  let half := fld b 0 8 1 == 1
  let n := dim * (if half then 2 else 4)
  let row := slice b (64 + g * n) n
  if half then (unpackElems 16 dim row).map widen16 else (unpackElems 32 dim row).map fun c => BitVec.ofNat 32 c

/-- 64 elements as E5M2 under a scale: the values that arrive, and the conversions (R82). -/
def viaE5M2 (exp : Int) (vs : List W32) : List W32 × List Conv :=
  let cs := vs.map (scaledE5M2 false exp)
  (cs.map fun c => enc32 (fmul (decodeF fE5M2 c.code) (pow2V exp)), cs)

/-- A bag gradient as it travels: with GRAD_E5M2, each group of 64 elements under the scale of its column group of the table at this home (log entry
88). -/
def sendGrad (s : State) (d : Desc) (row : List W32) : List W32 × State :=
  if fld d.bytes 0x20 2 1 = 0 then (row, s)
  else
    (List.range (ceilDiv row.length 64)).foldl (fun (acc : List W32 × State) c =>
      let s := acc.2
      let k := 16 * d.id + c
      let g := stepScale (cget {} s.recs.tables.scales k) s.run.frame
      let vs := (row.drop (64 * c)).take 64
      let (out, cs) := viaE5M2 g.exp vs
      (acc.1 ++ out, setTables s fun t => { t with scales := cset {} t.scales k (sawGrads g vs cs) })) ([], s)

/-- A gradient is expanded to its owners' parts (R220): the parts, and the scales as they are then. -/
def gradParts (s : State) (d : Desc) (r : InRec) (t : TrainState) : List (Nat × GradPart) × State :=
  let (rows, s) := (List.range (fld r.bytes 0x18 0 11)).foldl (fun (acc : List BagPart × State) g =>
    let (row, s) := sendGrad acc.2 d (gradRow d r.bytes g)
    (acc.1 ++ [⟨g, t.counts.getD g 0, row⟩], s)) ([], s)
  let dests := (t.owners.flatten.map (scanner s)).eraseDups
  (dests.map fun o => (o, { home := nodeId s, admitAt := r.admitAt, place := r.place, req := recReq r.bytes, lookup := t.reqId, table := d.id,
                            epoch := fld r.bytes 0x1C 0 32, bags := rows.filter fun b => ((t.owners.getD b.bag []).map (scanner s)).contains o }), s)

/-- The parts go out in frame u + 1, in which this node's own reach it too (R222). -/
def sendGrads (s : State) (ps : List (Nat × GradPart)) : State :=
  ps.foldl (fun s p => if p.1 = nodeId s then takeGrad s p.2 (s.run.frame + 1) else reportAt s (s.run.frame + 1) p.1 (.grad p.2)) s

/-! ### Optimiser steps (R83, R221 to R225) -/

/-- What a position contributes (R221). -/
def contribution (pool : Nat) (b : BagPart) (x : TPos) : List W32 :=
  if pool = 1 then b.row.map fun g => div32 g (ofInt32 b.count) else if pool = 2 then b.row.map (mul32 (widen16 x.weight)) else b.row

/-- One gradient part before another: ascending home, then the home's order of admission (R222). -/
def gradBefore (a b : GradPart) : Bool := if a.home ≠ b.home then a.home < b.home else a.place < b.place

/-- Insert a part in that order. -/
def insertGrad (p : GradPart) : List GradPart → List GradPart
  | [] => [p]
  | x :: r => if gradBefore p x then p :: x :: r else x :: insertGrad p r

/-- The contributions of one part at this node, by row, in ascending position; none of a record already applied (R225). -/
def partContribs (s : State) (d : Desc) (p : GradPart) : List (Nat × List W32) :=
  match trainAt s p.home p.lookup with
  | none => []
  | some t =>
    if t.applied.contains p.req then []
    else
      let mine := t.positions.filter fun x => servesShard s d (rowShard d x.row)
      ((List.range (mine.foldl (fun m x => max m (x.pos + 1)) 0)).flatMap fun i => mine.filter fun x => x.pos == i).filterMap fun x =>
        (p.bags.find? fun b => b.bag == x.bag).map fun b => (x.row, contribution t.pool b x)

/-- A binary32 hyperparameter of a table descriptor. -/
def hyper (d : Desc) (off : Nat) : W32 := BitVec.ofNat 32 (fld d.bytes off 0 32)

/-- Repeated multiplication of β₁ᵗ and β₂ᵗ. -/
def advanceBetas (b1 b2 : W32) : Nat → Betas → Betas
  | 0, b => b
  | n + 1, b => advanceBetas b1 b2 n { b with t := b.t + 1, b1 := mul32 b.b1 b1, b2 := mul32 b.b2 b2 }

/-- β₁ᵗ and β₂ᵗ for the step of a frame (R83, R223): t counts the frames from the boundary of the version to the frame, both included. -/
def betasAt (s : State) (d : Desc) (frame : Nat) : Betas :=
  let b := cget {} s.recs.tables.betas d.id
  let b := if b.since = d.since then b else { since := d.since }
  advanceBetas (hyper d 0x28) (hyper d 0x2C) (frame + 1 - d.since - b.t) b

/-- 1 − x. -/
def oneMinus (x : W32) : W32 := sub32 (ofInt32 1) x

/-- The moments of R83 as new RQ8 rows (step 3). -/
def momentRow (vs : List W32) : Bytes := quantRow 8 vs 0

/-- SGD with momentum: m = μ × m + g, w = w − η × m. -/
def sgdRow (d : Desc) (w g : List W32) (st : Bytes) : List W32 × Bytes :=
  let m := List.zipWith (fun m g => add32 (mul32 (hyper d 0x28) m) g) (rowValues 8 (tbDim d.bytes) st) g
  (List.zipWith (fun w m => sub32 w (mul32 (hyper d 0x24) m)) w m, momentRow m)

/-- AdamW. -/
def adamRow (d : Desc) (b : Betas) (w g : List W32) (st : Bytes) : List W32 × Bytes :=
  let n := tbDim d.bytes
  let b1 := hyper d 0x28
  let b2 := hyper d 0x2C
  let m := List.zipWith (fun m g => add32 (mul32 b1 m) (mul32 (oneMinus b1) g)) (rowValues 8 n st) g
  let v := List.zipWith (fun v g => add32 (mul32 b2 v) (mul32 (oneMinus b2) (mul32 g g))) (rowValues 8 n (st.drop (n + 8))) g
  let step := fun (w : W32) (mv : W32 × W32) =>
    let q := div32 (div32 mv.1 (oneMinus b.b1)) (add32 (sqrt32 (div32 mv.2 (oneMinus b.b2))) (hyper d 0x30))
    sub32 w (mul32 (hyper d 0x24) (add32 q (mul32 (hyper d 0x34) w)))
  (List.zipWith step w (m.zip v), momentRow m ++ momentRow v)

/-- Row-wise Adagrad: the mean over the row is the sum in the order of R88 divided by DIM. -/
def adagradRow (d : Desc) (w g : List W32) (st : Bytes) : List W32 × Bytes :=
  let a := add32 (BitVec.ofNat 32 (fld st 0 0 32)) (div32 (sumRegisters (g.map fun x => mul32 x x)) (ofInt32 (tbDim d.bytes)))
  let den := add32 (sqrt32 a) (hyper d 0x30)
  (List.zipWith (fun w g => sub32 w (div32 (mul32 (hyper d 0x24) g) den)) w g, leBytes 4 a.toNat)

/-- One row under the table's optimiser; a frozen table's rows stay. -/
def optimise (d : Desc) (b : Betas) (w g : List W32) (st : Bytes) : List W32 × Bytes :=
  match tbOptimiser d.bytes with
  | 1 => sgdRow d w g st
  | 2 => adamRow d b w g st
  | 3 => adagradRow d w g st
  | _ => (w, st)

/-- A row that an optimiser step has written goes to the partner (R224), and, below the cursor of its shard's transit, to both receivers (R216). -/
def shareRow (s : State) (d : Desc) (r : Nat) (bytes : Bytes) : State :=
  let sh := rowShard d r
  let pl := rowPlace d r
  let s := match partner s with
    | some p => reportAt s s.run.frame p (.row (BitVec.ofNat 16 d.id) (BitVec.ofNat 16 sh) (BitVec.ofNat 24 pl) bytes)
    | none => s
  match s.bg.transit with
  | some t =>
    if t.table = d.id ∧ t.shard = sh ∧ pl < t.cursor then
      let m := fun (n : Nat) => BulkMsg.mk (BitVec.ofNat 16 (domainNumber s)) (Fin.ofNat 512 (nodeId s)) (BitVec.ofNat 16 (domainNumber s))
        (Fin.ofNat 512 n) false (.shardRow (BitVec.ofNat 16 d.id) (BitVec.ofNat 16 sh) (BitVec.ofNat 24 pl) bytes)
      ((withPartner s t.owner).filter (· != nodeId s)).foldl (fun s n => sendBulk s (m n)) s
    else s
  | none => s

/-- The optimiser is applied to one row on its summed gradient (R222, R223). -/
def stepRow (s : State) (d : Desc) (b : Betas) (r : Nat) (g : List W32) : State :=
  let a := rowAt s d r
  let sa := stateAt s d r
  let (w, st) := optimise d b (rowValues (tbFormat d.bytes) (tbDim d.bytes) (readAny s a (rowBytes d.bytes))) g (readAny s sa (rowState d.bytes))
  let (row, sat, nan) := rowOf (tbFormat d.bytes) w
  let sl := (descSlice s d).getD 0
  let s := writeNode s ([(a, row)] ++ if st.isEmpty then [] else [(sa, st)])
  let s := count (count s 0 10 sl 0 sat) 0 10 sl 1 nan
  let rq := fmtType (tbFormat d.bytes) = 8 ∨ fmtType (tbFormat d.bytes) = 9
  let s := if rq then noteConstant s sl a (fld row (row.length - 8) 0 16) else s
  shareRow (countLoad s d.id (rowShard d r) 1 1) d r (row ++ st)

/-- The summed gradient of a row: from +0, every contribution in order. -/
def sumRow (dim : Nat) (cs : List (Nat × List W32)) (r : Nat) : List W32 :=
  (cs.filter fun c => c.1 == r).foldl (fun acc c => List.zipWith add32 acc c.2) (List.replicate dim 0#32)

/-- A gradient part has been applied here, or had been before; its home is told (R224, R225). -/
def markApplied (s : State) (p : GradPart) : State :=
  let again := match trainAt s p.home p.lookup with | some t => t.applied.contains p.req | none => false
  let mark := fun (t : OwnTrain) => if t.home = p.home ∧ t.req = p.lookup ∧ !t.applied.contains p.req then { t with applied := t.applied ++ [p.req] } else t
  tellDone (setTables s fun x => { x with own := x.own.map mark, copies := x.copies.map mark }) p.home ⟨nodeId s, p.req, p.admitAt, again, 0, 0⟩

/-- The optimiser step of one table with the gradient parts of one frame (R222). -/
def tableStep (s : State) (d : Desc) (frame : Nat) (ps : List GradPart) : State :=
  let ps := ps.foldl (fun l p => insertGrad p l) []
  let cs := ps.flatMap (partContribs s d)
  let b := betasAt s d frame
  let s := if tbOptimiser d.bytes = 2 then setTables s fun t => { t with betas := cset {} t.betas d.id b } else s
  let s := ((cs.map Prod.fst).eraseDups).foldl (fun s r => stepRow s d b r (sumRow (tbDim d.bytes) cs r)) s
  ps.foldl markApplied s

/-- The optimiser steps of the frame that ends at this boundary: the parts of the records admitted three boundaries ago (R222). -/
def optimiserStep (s : State) : State :=
  let due := s.recs.tables.grads.filter fun p => decide (p.admitAt + 3 ≤ s.run.frame)
  let s := setTables s fun t => { t with grads := t.grads.filter fun p => !decide (p.admitAt + 3 ≤ s.run.frame) }
  ((due.map GradPart.table).eraseDups).foldl (fun s k =>
    match findDesc s 2 k with
    | none => s
    | some d => tableStep s d (s.run.frame - 1) (due.filter fun p => p.table == k)) s

/-- In frame a + 3 the training state of a look-up goes to the partner (R404). -/
def copyTraining (s : State) : State :=
  match partner s with
  | none => s
  | some p => (s.recs.tables.own.filter fun t => t.admitAt + 3 == s.run.frame).foldl (fun s t => sendRemote s p (.training t)) s

/-! ### A transit's map change (R217) -/

/-- This node tells every other that a transit of a table begins or ends (R212). -/
def tellTransit (s : State) (table : Nat) (on : Bool) : State :=
  (otherNodes s).foldl (fun s n => sendRemote s n (.transitRuns (Fin.ofNat 512 (nodeId s)) (BitVec.ofNat 16 table) on)) s

/-- The shard of a position of a part that a transit has just moved. -/
def inShard (d : Desc) (shard : Nat) (x : TPos) : Bool := rowShard d x.row == shard

/-- At the old owner: the shard's training state and load counters go to the new owner, with the parts that wait here for their step. -/
def giveShard (s : State) (d : Desc) (shard owner : Nat) : State :=
  let f := s.run.frame
  let send := fun (s : State) (n : Nat) (m : Remote) => reportAt s f n m
  let trains := (s.recs.tables.own.filter fun t => t.table == d.id).filterMap fun t =>
    let ps := t.positions.filter (inShard d shard)
    if ps.isEmpty then none else some { t with positions := ps }
  let s := (withPartner s owner).foldl (fun s n => trains.foldl (fun s t => send s n (.training t)) s) s
  let k := 4 * (65536 * d.id + shard)
  let counts := (List.range 4).map fun i => BitVec.ofNat 32 (cget 0 s.cnt.shardLoad (k + i))
  let s := send s owner (.load (BitVec.ofNat 16 d.id) (BitVec.ofNat 16 shard) counts)
  let s := { s with cnt := { s.cnt with shardLoad := cdrop (fun i => i / 4 == 65536 * d.id + shard) s.cnt.shardLoad } }
  let waits := s.recs.tables.grads.filter fun p => match trainAt s p.home p.lookup with
    | some t => p.table == d.id && t.positions.any (inShard d shard)
    | none => false
  waits.foldl (fun s p => send s owner (.grad p)) s

/-- At a home: a look-up whose parts are on their way when the map changes is answered by the new owner too. -/
def expectOwner (s : State) (d : Desc) (shard giver owner : Nat) : State :=
  let put := fun (r : InRec) =>
    if recKind r.bytes = 4 ∧ recOwner r.bytes = d.id ∧ !r.answered ∧ r.admitAt + 1 = s.run.frame ∧ r.owners.contains giver ∧ !r.owners.contains owner ∧
        (lookPositions d r.bytes).any (inShard d shard) then { r with owners := r.owners ++ [owner] }
    else r
  { s with recs := { s.recs with inflight := s.recs.inflight.map put } }

/-- What a transit's map change does on a node at its boundary t, `giver` being the owner before. -/
def moveShard (s : State) (d : Desc) (shard giver owner : Nat) : State :=
  let me := nodeId s
  let mine := fun (x : Nat × Nat × Nat) => x.1 == d.id && x.2.1 == shard
  let s := setTables s fun t => { t with
    moved := t.moved ++ [⟨d.id, shard, giver, owner, s.run.frame, s.setup.epoch⟩], arriving := t.arriving.filter (!mine ·) }
  let s := expectOwner s d shard giver owner
  let s := if giver = me then giveShard s d shard owner else s
  if owner = me then setShardFlags s d shard true false
  else if partnerOf s owner = some me then setShardFlags s d shard false false
  else if shardBlock s d shard = 0 then s
  else setTables (setShardFlags s d shard false false) fun t => { t with leaving := t.leaving ++ [(d.id, shard, s.run.frame)] }

/-- QUERY_DEPTH frames after a map change, the blocks of shards that have left are freed; no part of then is under way any more. -/
def dropShards (s : State) : State :=
  let old := fun (f : Nat) => decide (f + depthNow s ≤ s.run.frame)
  let gone := s.recs.tables.leaving.filter fun x => old x.2.2
  let s := gone.foldl (fun s x => freeBlock s x.1 x.2.1) s
  setTables s fun t => { t with leaving := t.leaving.filter fun x => !gone.contains x }

/-- The tables' work at a boundary: the steps of the frame that ends, then the gathers of the frame that begins (R209). -/
def tablesStep (s : State) : State := dropShards (copyTraining (gatherStep (optimiserStep s)))

end Sys2Proof.Machine
end

