-- ==== Sys2Proof/Machine/Records.lean ====
section
/-!
DEFINITION. Records in flight: their checks at admission (R145, R146, R173 to R176, R203 to R205, R220, R296), admission from the
rings (R253, R255, R323, R324), their results (R147, R154, R177, R208, R226, R325), withdrawal (R253, R256), custody (R298 to
R301).
-/
namespace Sys2Proof.Machine

/-! ### The maps a record is judged by (R296, R297) -/

/-- MAP_EPOCH of a record by its KIND. -/
def recEpoch (b : Bytes) : Nat :=
  let k := recKind b
  if k = 1 then fld b 0x20 0 32 else if k = 4 then fld b 0x18 0 32 else fld b 0x1C 0 32

/-- Does a record name an index (queries, upserts, deletes) or a table (look-ups, gradients): the KIND of the descriptor. -/
def recDescKind (b : Bytes) : Nat := if recKind b = 4 ∨ recKind b = 5 then 2 else 1

/-- The descriptor a record names. -/
def recDesc (s : State) (b : Bytes) : Option Desc := findDesc s (recDescKind b) (recOwner b)

/-- The descriptor a record names, held by the slice that owns its ring. -/
def ownDesc (s : State) (r : InRec) : Option Desc :=
  match recDesc s r.bytes with
  | some d => if descSlice s d = some r.slice then some d else none
  | none => none

/-- A record routed by the map of the epoch before is admissible (R296). -/
def admissible (s : State) (r : InRec) : Bool :=
  match recDesc s r.bytes with
  | none => false
  | some d =>
    let old := if s.setup.oldMap.isEmpty then factorySliceMap else s.setup.oldMap
    descSlice s d == some r.slice && sliceValid old r.slice && sliceValid (sliceMapOf s) r.slice &&
      (!isUpdate r || shardOwner s d (shardOf (recVid r.bytes)) == oldOwner s d (shardOf (recVid r.bytes)))

/-- MAP_EPOCH is current, or old and admissible (R296). -/
def epochOk (s : State) (r : InRec) : Bool :=
  let e := recEpoch r.bytes
  let cur := s.setup.epoch
  e == cur || (e + 1 == cur && (s.run.frame == s.setup.epochAt || s.run.frame == s.setup.epochAt + 1) && admissible s r)

/-- Put a redirect hint into the log of a slice; with 4096 there it is counted alone (R297). -/
def addHint (s : State) (sl : Nat) (e : Bytes) : State :=
  if (s.recs.redirects.filter fun x => x.1 == sl).length < 4096 then
    { s with recs := { s.recs with redirects := s.recs.redirects ++ [(sl, e)] } }
  else { s with recs := { s.recs with redirMore := cmod 0 s.recs.redirMore sl (satAdd 32 · 1) } }

/-- Append a redirect hint for a record that completes with S_STALE_EPOCH (R297). -/
def redirect (s : State) (r : InRec) : State :=
  let d := recDesc s r.bytes
  let sl := d.bind (descSlice s)
  let node := match d with | some x => if isUpdate r then shardOwner s x (shardOf (recVid r.bytes)) else 0 | none => 0
  let e := layoutBytes 32 [(0, 8, recReq r.bytes), (8, 4, s.setup.epoch), (12, 4, recEpoch r.bytes),
    (16, 4, packBits [(0, 8, recKind r.bytes), (8, 4, sl.getD 0), (12, 1, b2n sl.isSome), (13, 9, node), (22, 1, b2n (isUpdate r && d.isSome))]),
    (24, 8, s.run.frame)]
  addHint s r.slice e

/-! ### Field checks -/

/-- A record's Reserved fields are 0. -/
def rsvZero (b : Bytes) (fs : List Fld) : Bool := lowestBad fs b == none

/-- R145, R146: a query's fields against its index. -/
def queryOk (d : Desc) (b : Bytes) : Bool :=
  let k := fld b 0 8 8
  decide (1 ≤ k) && decide (k ≤ 64) && decide (k ≤ fld d.bytes 12 24 8) && fld b 4 0 32 == 64 + vecBytes d &&
  (fld b 0x14 0 32 &&& (fld b 0x10 0 32 ^^^ 0xFFFFFFFF)) == 0 && rangeOk (fld b 0x18 10 1) (fld b 0x18 0 5) (fld b 0x18 5 5) &&
  rsvZero b (rsvFld 0x18 13 19 :: rsvBytes 0x24 0x3F)

/-- R173, R175, check 3. -/
def updateOk (d : Desc) (b : Bytes) : Bool :=
  let up := recKind b == 2
  fld b 4 0 32 == (if up then 64 + vecBytes d else 64) && recVid b != 0xFFFFFFFFFFFFFFFF && (up || recAttr b == 0) &&
    rsvZero b (rsvFld 0 8 8 :: rsvBytes 0x20 0x3F)

/-- R203, R204: a look-up's fields against its table. -/
def lookupOk (d : Desc) (b : Bytes) : Bool :=
  let bags := fld b 0x10 0 11
  let n := fld b 0x14 0 17
  fld b 0 8 2 != 3 && decide (1 ≤ bags) && decide (bags ≤ 1024) && decide (n ≤ 65536) && fld b 4 0 32 == lookEnd b &&
  lookOff b 0 == 0 && lookOff b bags == n &&
  ((List.range bags).all fun i => decide (lookOff b i ≤ lookOff b (i + 1)) && decide (lookOff b (i + 1) - lookOff b i ≤ fld d.bytes 0x38 0 13)) &&
  !(fld b 0 11 1 == 1 && tbOptimiser d.bytes == 0) &&
  rsvZero b ([rsvFld 0 12 4, rsvFld 0x10 11 21, rsvFld 0x14 17 15] ++ rsvBytes 0x1C 0x3F)

/-- Count drops per table and slice (R205). -/
def countDrops (s : State) (d : Desc) (slice : Nat) (n : Nat × Nat × Nat) : State :=
  let k := 4 * (slice * 65536 + d.id)
  let add := fun (c : Cells Nat) (i v : Nat) => if v = 0 then c else cmod 0 c (k + i) (satAdd 64 v)
  { s with cnt := { s.cnt with drops := add (add (add s.cnt.drops 0 n.1) 1 n.2.1) 2 n.2.2 } }

/-- The training state that a gradient record names. -/
def trainOf (s : State) (b : Bytes) : Option TrainState := s.recs.training.find? fun t => t.reqId == fld b 0x10 0 64

/-- R220: field errors of a gradient. -/
def gradientOk (d : Desc) (b : Bytes) : Bool :=
  fld b 4 0 32 == 64 + fld b 0x18 0 11 * tbDim d.bytes * (if fld b 0 8 1 = 1 then 2 else 4) &&
    rsvZero b ([rsvFld 0 9 7, rsvFld 0x18 11 21] ++ rsvBytes 0x20 0x3F)

/-- A training state's pool holds it: no custody record of it is RELEASED (R299). -/
def poolHolds (s : State) (req kind : Nat) : Bool := !s.recs.custody.any fun c => c.reqId == req && c.kind == kind && c.state == 1

/-- R212, R220: the training state a gradient needs is there. -/
def gradientState (s : State) (d : Desc) (b : Bytes) : Bool :=
  match trainOf s b with
  | none => false
  | some t => t.table == d.id && t.version == fld d.bytes 0 16 16 && t.bags == fld b 0x18 0 11 && poolHolds s t.reqId 0 &&
      (match t.used with | none => true | some u => u == recReq b)

/-! ### Admission -/

/-- Is a table or index, or every record of a slice, named by an OWNER key: (kind, id); kind 0 is a whole slice. -/
def namedBy (r : InRec) (k : Nat × Nat) : Bool :=
  if k.1 = 0 then k.2 == r.slice else k.1 == recDescKind r.bytes && k.2 == recOwner r.bytes

/-- The owner key of an object (R239). -/
def ownerKey (o : Obj) : Nat × Nat := if o.owner = 0xFFFF then (0, o.slice) else (o.ownerKind, o.owner)

/-- Does an earlier record for the same ID stand in the way: one admitted less than five boundaries ago, or whose directory change is still to be
written (R176). -/
def idInFlight (s : State) (r : InRec) : Bool :=
  s.recs.inflight.any fun q => isUpdate q && (q.status == 0 || q.tailFull) && recOwner q.bytes == recOwner r.bytes && recVid q.bytes == recVid r.bytes &&
    (decide (s.run.frame < q.admitAt + 5) || !q.dirDone)

/-- Another record for the same ID waits already. -/
def idDeferred (s : State) (r : InRec) : Bool :=
  s.recs.deferred.any fun q => recOwner q.bytes == recOwner r.bytes && recVid q.bytes == recVid r.bytes

/-- A free custody record (R298). -/
def custodyFree (s : State) : Bool := decide (s.recs.custody.length < 65536)

/-- Take a custody record for a request: HELD, of one pool (R298). -/
def addCustody (s : State) (req slice kind object : Nat) : State :=
  { s with recs := { s.recs with custody := s.recs.custody ++ [⟨req, s.setup.epoch, slice, slice, 0, kind, 0, object⟩] } }

/-- Give a custody record back. -/
def dropCustody (s : State) (req kind : Nat) : State :=
  { s with recs := { s.recs with custody := s.recs.custody.filter fun c => !(c.reqId == req && c.kind == kind) } }

/-- The class of a record by its KIND. -/
def recClass (b : Bytes) : Nat := if recKind b = 1 ∨ recKind b = 4 then 0 else 1

/-- The place a record takes among those of its class admitted at this boundary. -/
def nextPlace (s : State) (r : InRec) : Nat := (s.recs.admitted.filter fun q => recClass q.bytes == recClass r.bytes).length

/-- The record joins those in flight and those of the frame. -/
def takeIn (s : State) (r : InRec) : State :=
  let r := { r with place := nextPlace s r }
  { s with recs := { s.recs with inflight := s.recs.inflight ++ [r], admitted := s.recs.admitted ++ [r] } }

/-- A record that fails at admission: it takes its slot, and its result falls due as any other's (R146, R175, R204). It writes nothing. -/
def failRec (s : State) (r : InRec) (st : Nat) : State :=
  let s := if st = sStaleEpoch then redirect s r else s
  takeIn s { r with status := st, entry := none, encoding := none, dirDone := true }

/-- The boundary at which a record's result falls due, when it is admitted now with a status (R22, R172, R224). -/
def dueFrame (s : State) (r : InRec) (st : Nat) : Nat :=
  let k := recKind r.bytes
  if k = 1 ∨ k = 4 then s.run.frame + depthNow s
  else if k = 5 then s.run.frame + 4
  else if st = 0 then 0 else s.run.frame + 4

/-- An admitted upsert or delete sets out (R175, R178, R402, R518). -/
def startUpdate (s : State) (r : InRec) : State :=
  let s := notYet s r.sn (recVid r.bytes)
  match partner s with
  | some p => { s with fab := { s.fab with out := s.fab.out ++ [.record p r.bytes r.sn] } }
  | none => { s with recs := { s.recs with journal := s.recs.journal ++ [r] } }

/-- Checks 5 and 6 of R175: an upsert that has passed the others is encoded, and its subtree and the slots are judged; one of a new ID takes the first
free entry of the directory. -/
def admitWrite (x : List Encoding) (s : State) (d : Desc) (r : InRec) : State :=
  let vid := recVid r.bytes
  let up := recKind r.bytes == 2
  let e := x.find? fun e => e.ring.val == r.ring && e.index == r.index
  let code := if up then encodeUpsert s d ((e.map Encoding.values).getD []) r.bytes else none
  let busy := up && match code with
    | none => true
    | some c => s.recs.busy.contains (d.id, c.subtree) || !((e.map Encoding.room).getD true)
  let r := { r with encoding := code }
  if busy then failRec s r sBusy
  else match dirLookup s d vid with
    | some a =>
      let r := { r with old := some (entryLeaf s a, entryNode s a), entry := some a, due := 0, flags := if up then r.flags ||| 1 else r.flags }
      startUpdate (takeIn s r) r
    | none =>
      if !up then takeIn s { r with flags := r.flags ||| 2, due := 0, dirDone := true }
      else match dirFree s d vid with
        | none => failRec s r sNoSpace
        | some a =>
          let r := { r with entry := some a, due := 0 }
          startUpdate (takeIn s r) r

/-- R175: an update record, newly admitted or released from the deferral queue. -/
def admitUpdate (x : List Encoding) (s : State) (r : InRec) (again : Bool) : State :=
  match ownDesc s r with
  | none => if !epochOk s r then failRec s r sStaleEpoch else failRec s r sBadParam
  | some d =>
    let tail := dPolicy d == 1
    if tail && !actsAs s (shardOwner s d (shardOf (recVid r.bytes))) then failRec s r sStaleEpoch
    else if !epochOk s r then failRec s r sStaleEpoch
    else if !tail || !updateOk d r.bytes then failRec s r sBadParam
    else if idInFlight s r || (!again && idDeferred s r) then
      if s.recs.deferred.length < 256 ∧ custodyFree s then
        let s := addCustody s (recReq r.bytes) r.slice 1 d.id
        { s with recs := { s.recs with deferred := s.recs.deferred ++ [r] } }
      else failRec s r sBusy
    else admitWrite x s d r

/-- A transit has moved a shard of a record's table since the map the record was routed by: the new owner (R217). -/
def movedShard (s : State) (d : Desc) (r : InRec) (shards : List Nat) : Option Nat :=
  (s.recs.tables.moved.find? fun m => m.table == d.id && shards.contains m.shard && decide (recEpoch r.bytes < m.epoch)).map Moved.owner

/-- The shards of a look-up's rows; of a gradient, every shard that a transit has taken from one of its look-up's owners. -/
def recShards (s : State) (d : Desc) (r : InRec) : List Nat :=
  if recKind r.bytes = 4 then (if lookupOk d r.bytes then ((lookPositions d r.bytes).map fun p => rowShard d p.row).eraseDups else [])
  else match trainOf s r.bytes with
    | none => []
    | some t => (s.recs.tables.moved.filter fun m => m.table == d.id && t.owners.flatten.contains m.giver).map Moved.shard

/-- A record of an old map that is not admissible: S_MOVED where a transit has moved a shard it concerns, else S_STALE_EPOCH (R217, R296). -/
def failStale (s : State) (r : InRec) : State :=
  match (recDesc s r.bytes).filter fun d => d.kind == 2 with
  | none => failRec s r sStaleEpoch
  | some d => match movedShard s d r (recShards s d r) with
    | none => failRec s r sStaleEpoch
    | some n => failRec s { r with partials := [⟨0, 0, 0, [], 0, sMoved, n⟩] } sMoved

/-- Under MULTIPLY a record goes to the position it runs on (R279). -/
def lendRec (s : State) (r : InRec) (p : Nat) : State :=
  toMember s p (.memberRun (Fin.ofNat 64 r.ring) r.index (Fin.ofNat 16 r.slice) (BitVec.ofNat 64 r.admitAt) (BitVec.ofNat 16 (nextPlace s r)) (BitVec.ofNat 48 r.sn)
    r.bytes)

/-- A look-up's admission once its epoch holds (R204 to R206, R219). -/
def admitLookup (s : State) (r : InRec) : State :=
  match ownDesc s r with
  | none => failRec s r sBadParam
  | some d =>
    if !lookupOk d r.bytes then failRec s r sBadParam
    else
      let train := fld r.bytes 0 11 1 == 1
      if train && (!trainRoom s || !custodyFree s) then failRec s r sBusy
      else
        let drops := lookupDrops d r.bytes
        let s := countDrops s d r.slice drops
        let r := { r with drops := drops, desc := some d, place := nextPlace s r }
        let ps := lookParts s d r
        let bags := fld r.bytes 0x10 0 11
        let owners := (List.range bags).map fun g => (ps.filter fun p => p.2.positions.any fun x => x.bag == g).map Prod.fst
        let s := if !train then s else
          let req := recReq r.bytes
          let t : TrainState := { reqId := req, table := d.id, version := fld d.bytes 0 16 16, bags := bags, admitAt := s.run.frame, slice := r.slice
                                  used := none, owners := owners, counts := [] }
          addCustody { s with recs := { s.recs with training := s.recs.training.filter (fun x => x.reqId != req) ++ [t] } } req r.slice 0 d.id
        match if train then none else runPosition s with
        | some p => lendRec (takeIn s { r with runsAt := some p }) r p
        | none => sendParts (takeIn s { r with owners := ps.map Prod.fst }) ps

/-- A gradient's admission once its epoch holds (R220). -/
def admitGradient (s : State) (r : InRec) : State :=
  match ownDesc s r with
  | none => failRec s r sBadParam
  | some d =>
    if !gradientOk d r.bytes then failRec s r sBadParam
    else match trainOf s r.bytes with
      | none => failRec s r sBadState
      | some t =>
        if !gradientState s d r.bytes then failRec s r sBadState
        else
          let id := fld r.bytes 0x10 0 64
          let use := fun (t : TrainState) => if t.reqId = id then { t with used := some (recReq r.bytes) } else t
          let r := { r with desc := some d, place := nextPlace s r }
          let (ps, s) := gradParts { s with recs := { s.recs with training := s.recs.training.map use } } d r t
          sendGrads (takeIn s { r with owners := ps.map Prod.fst }) ps

/-- A record as it sets out at a boundary: newly admitted, whatever became of it before (R176, R255). -/
def freshRec (s : State) (r : InRec) (again : Bool) : InRec :=
  let f := s.run.frame
  let k := recKind r.bytes
  { ring := r.ring, index := r.index, slice := r.slice, bytes := r.bytes, malformed := r.malformed, admitAt := f
    sn := if k = 1 ∨ k = 4 then s.recs.published else f % 2 ^ 48, epoch := s.setup.epoch, flags := 4 * b2n again, desc := recDesc s r.bytes
    due := if r.malformed then f + 1 else dueFrame s r 1 }

/-- Admit one record whose bytes, slice and place are known (R146, R175, R204, R220). A record that names a lost object is answered
at once (R256). -/
def admitOne (x : List Encoding) (s : State) (r : InRec) (again : Bool) : State :=
  let k := recKind r.bytes
  let r := freshRec s r again
  if r.malformed then takeIn s { r with status := sBadParam, dirDone := true }
  else
    let s := countRec s r.slice (if k = 1 ∨ k = 4 then 0 else 1) 1
    if s.recs.lost.any (namedBy r) then takeIn s { r with status := sPoisoned, due := s.run.frame, dirDone := true }
    else if k = 2 ∨ k = 3 then admitUpdate x s r again
    else if !epochOk s r then failStale s r
    else if k = 1 then
      match ownDesc s r with
      | none => failRec s r sBadParam
      | some d =>
        if !queryOk d r.bytes then failRec s r sBadParam
        else match runPosition s with
          | some p => lendRec (takeIn s { r with runsAt := some p }) r p
          | none => takeIn s r
    else if k = 4 then admitLookup s r
    else admitGradient s r

/-! ### Rings (R322 to R324) -/

/-- Does a KIND belong to a class: 0 QUERY, 1 UPDATE. -/
def kindOk (cls k : Nat) : Bool := if cls = 0 then k == 1 || k == 4 else k == 2 || k == 3 || k == 5

/-- Operand B of a record in its `i`-th step (R36). -/
def recB (r : Rec) (i : Nat) : Nat := codeOf 32 (r.b + i * r.sb)

/-- The admission budget of a class and port for the plate in use (R324). -/
def admitBudget (s : State) (port cls : Nat) : Nat :=
  match s.run.plate with
  | none => 0
  | some p => match p.lanes.find? fun l => l.id == 0x500 + port with
    | none => 0
    | some l => 128 * (l.recs.foldl (fun n r => if r.op = 0x10 ∧ r.b % 2 = cls then n + r.rep + 1 else n) 0)

/-- The manifest limit of a class (R33). -/
def classLimit (s : State) (cls : Nat) : Nat :=
  match s.run.plate with | some p => if cls = 0 then p.queriesPF else p.updatesPF | none => 0

/-- What admission has used of its limits: by class, the records; by port and class, the budget. -/
structure Used where
  queries : Nat
  updates : Nat
  budget  : Cells Nat
  deriving DecidableEq, Repr

/-- Records of a class admitted so far. -/
def Used.of (u : Used) (cls : Nat) : Nat := if cls = 0 then u.queries else u.updates
/-- Count one record. -/
def Used.add (u : Used) (cls : Nat) : Used := if cls = 0 then { u with queries := u.queries + 1 } else { u with updates := u.updates + 1 }

/-- The slice is quiescing: a changed slice under a change or a running re-shard (R292, R303). -/
def quiescing (s : State) (slice : Nat) : Bool :=
  (match s.setup.change with | some c => c.quiesced && bit c.changed slice | none => false) ||
    (match s.setup.reshard with | some r => bit r.changed slice | none => false)

/-- Admit from one ring until a limit, a pause or its end stops it: `n` records admitted from it so far. -/
def admitRing (x : List Encoding) (num : Nat) : Nat → Nat → State → Used → State × Used
  | 0, _, s, u => (s, u)
  | fuel + 1, n, s, u =>
    match s.host.rings.find? fun r => r.num == num with
    | none => (s, u)
    | some r =>
      match r.records with
      | [] => (s, u)
      | (len, kind) :: rest =>
        let room := roundUp 32 len
        let bad := !kindOk r.cls kind || decide (len < 64) || decide (2 ^ r.inShift < len) || decide (admitBudget s r.port r.cls < room)
        let key := 2 * r.port + r.cls
        let past := decide (r.perFrame ≤ n) || decide (classLimit s r.cls ≤ u.of r.cls) ||
          (!bad && decide (admitBudget s r.port r.cls < cget 0 u.budget key + room))
        let bytes := patch (patch (ringRecord s r r.consumer 0 (if bad then 64 else len)) 4 (leBytes 4 len)) 0 (leBytes 1 kind)
        let q : InRec := { ring := num, index := r.consumer, slice := r.slice, bytes := bytes, admitAt := 0, sn := 0, epoch := 0, malformed := bad }
        let paused := !bad && s.recs.paused.any (namedBy q) && !s.recs.lost.any (namedBy q)
        if past || paused then (if paused then setRing s { r with paused := true } else s, u)
        else
          let s := setRing s { r with consumer := r.consumer + 1, records := rest }
          let u := { u.add r.cls with budget := if bad then u.budget else cmod 0 u.budget key (· + room) }
          admitRing x num fuel (n + 1) (admitOne x s q false) u

/-- Admit from every ring: HA's before HB's, in ascending number. -/
def admitRings (x : List Encoding) (s : State) (u : Used) : State × Used :=
  (List.range 64).foldl (fun (acc : State × Used) num =>
    match acc.1.host.rings.find? fun r => r.num == num with
    | none => acc
    | some r =>
      if !r.isOpen || r.badProducer || portDown acc.1 r.port then acc
      else if quiescing acc.1 r.slice then (setRing acc.1 { r with paused := true }, acc.2)
      else admitRing x num r.records.length 0 (setRing acc.1 { r with paused := false }) acc.2) (s, u)

/-- Release deferred records whose ID has no earlier record in flight, within UPDATES_PER_FRAME (R176). -/
def releaseDeferred (x : List Encoding) (s : State) (u : Used) : State × Used :=
  s.recs.deferred.foldl (fun (acc : State × Used) r =>
    let (s, u) := acc
    let front := (s.recs.deferred.find? fun q => recOwner q.bytes == recOwner r.bytes && recVid q.bytes == recVid r.bytes) == some r
    if front && !idInFlight s r && poolHolds s (recReq r.bytes) 1 && decide (u.updates < classLimit s 1) && !s.recs.paused.any (namedBy r) then
      let s := dropCustody { s with recs := { s.recs with deferred := s.recs.deferred.erase r } } (recReq r.bytes) 1
      (admitOne x s r true, u.add 1)
    else acc) (s, u)

/-- Is a rebuild of some tile of an owner still to be done. -/
def rebuilding (s : State) (k : Nat × Nat) : Bool :=
  s.bg.items.any fun i => match i.work with
    | .rebuild o _ => (match findObj s o with | some x => x.shared && ownerKey x == k | none => false)
    | _ => false

/-- Re-admit withdrawn records whose owner is rebuilt, in their original order; the pause lifts after the last (R255). -/
def readmit (x : List Encoding) (s : State) (u : Used) : State × Used :=
  let (s, u) := s.recs.withdrawn.foldl (fun (acc : State × Used) r =>
    let (s, u) := acc
    let cls := recClass r.bytes
    let waits := s.recs.paused.any fun k => namedBy r k && rebuilding s k
    if waits || decide (classLimit s cls ≤ u.of cls) || !poolHolds s (recReq r.bytes) 2 then acc
    else
      let s := dropCustody { s with recs := { s.recs with withdrawn := s.recs.withdrawn.erase r } } (recReq r.bytes) 2
      (admitOne x s r false, u.add cls)) (s, u)
  ({ s with recs := { s.recs with paused := s.recs.paused.filter fun k => rebuilding s k || s.recs.withdrawn.any fun r => namedBy r k } }, u)

/-- Admission at a boundary (R323); `x` is what R122's step 2 gives for the upserts it admits. -/
def admission (x : List Encoding) (s : State) : State :=
  let s := { s with recs := { s.recs with admitted := [] } }
  let (s, u) := readmit x s ⟨0, 0, []⟩
  let (s, u) := releaseDeferred x s u
  if s.node.state = stServing then (admitRings x s u).1 else s

/-! ### SADMIT (R324) -/

/-- R324: the records of one class admitted at the boundary that began the frame. -/
def execSadmit (port : Fin 2) (o : OpAB) (steps : Nat) (s : State) : Host.Outcome State Fault Refusal :=
  laneChecked s (0x500 + port.val) 0x10 o steps (opRsv o.a 19 && opRsv o.b 1) fun s =>
    let cls := opField o.b 0 1
    let rs := s.recs.admitted.filter fun r => !r.malformed && recClass r.bytes == cls && decide (r.ring / 32 = port.val)
    let g := opField o.a 0 19
    let start := 1 + granulesOf (16 * rs.length)
    let lens := rs.map fun r => granulesOf r.bytes.length
    let at' := (List.range rs.length).map fun i => g + start + (lens.take i).foldl (· + ·) 0
    withAddr (place false 0 g (start + lens.foldl (· + ·) 0)) fun a =>
      let head := layoutBytes 32 [(0, 2, rs.length)]
      let entries := (List.range rs.length).flatMap fun i =>
        match rs[i]? with
        | none => []
        | some r => layoutBytes 16 [(0, 8, r.index), (8, 4, r.ring), (12, 4, at'.getD i 0)]
      let s := later s steps (cleanMem a (slice (head ++ entries) 0 (32 * start)))
      .next ((List.range rs.length).foldl (fun s i =>
        match rs[i]? with
        | none => s
        | some r => later s steps (cleanMem (nsAddr (32 * at'.getD i 0)) (slice r.bytes 0 (32 * lens.getD i 0)))) s)

/-! ### Results (R147, R154, R177, R208, R226, R323, R325) -/

/-- A query's result (R147): the valid entries of the final selection, then pads. A result that gives no entries carries neither counts nor flags. -/
def queryResult (r : InRec) : Nat × Bytes :=
  let k := fld r.bytes 0 8 8
  let (es, ties) := r.query.final.getD ([], 0)
  let st := if r.status ≠ 0 then r.status else if es.length < k then sShort else sOk
  let good := st == sOk || st == sShort
  let es := if good then es.take k else []
  let stats := if good then r.query.stats ties else List.replicate 20 0
  let maxOrder := match r.desc with | some d => metricMax d | none => false
  let head := layoutBytes 32 [(0, 4, packBits [(0, 8, 0x81), (8, 8, es.length), (16, 16, st)]), (4, 4, k), (8, 8, recReq r.bytes), (16, 8, r.sn % 2 ^ 48),
    (24, 8, r.admitAt)]
  (st, head ++ patch (slice stats 0 32) 12 (leBytes 4 r.epoch) ++ es.flatMap entryBytes ++ (List.replicate (k - es.length) (padBytes maxOrder)).flatten)

/-- The status of a look-up or gradient, and the new owner of an S_MOVED. -/
def ownerStatus (r : InRec) : Nat × Nat := if r.status = 0 ∨ r.status = sMoved then partialStatus r else (r.status, 0)

/-- A look-up's result (R208): its version is the one in use at its admission (R209). -/
def lookupResult (r : InRec) : Nat × Bytes :=
  let (st, owner) := ownerStatus r
  let good := st == sOk
  let late := if good then (r.partials.map Partial.late).foldl (satAdd 32) 0 else 0
  let ver := match r.desc with | some d => fld d.bytes 0 16 16 | none => 0
  let bags := if good then fld r.bytes 0x10 0 11 else 0
  let head := layoutBytes 64 [(0, 4, packBits [(0, 8, 0x84), (16, 16, st)]),
    (4, 4, packBits [(0, 11, bags), (11, 1, fld r.bytes 0 10 1), (12, 1, b2n (decide (0 < late)))]), (8, 8, recReq r.bytes),
    (16, 4, packBits [(0, 16, ver), (16, 9, owner)]), (20, 4, r.epoch), (24, 8, r.admitAt), (32, 4, r.drops.1), (36, 4, r.drops.2.1),
    (40, 4, r.drops.2.2), (44, 4, late)]
  (st, head ++ (match r.desc with | some d => if good then lookBody d r else [] | none => []))

/-- An update's completion (R177). -/
def updateResult (r : InRec) : Nat × Bytes :=
  let fl := if r.status = 0 then r.flags else (r.flags &&& 4)
  (r.status, layoutBytes 32 [(0, 4, packBits [(0, 8, recKind r.bytes + 128), (16, 16, r.status)]), (4, 4, fl), (8, 8, recReq r.bytes),
    (16, 8, r.sn % 2 ^ 48), (24, 8, r.admitAt)])

/-- A gradient's completion (R225, R226). -/
def gradientResult (r : InRec) : Nat × Bytes :=
  let (st, owner) := ownerStatus r
  let again := st == sOk && !r.reports.isEmpty && r.reports.all GradDone.again
  (st, layoutBytes 32 [(0, 4, packBits [(0, 8, 0x85), (16, 16, st)]), (4, 4, packBits [(0, 1, b2n again), (1, 9, owner)]), (8, 8, recReq r.bytes),
    (16, 6, (r.admitAt + 2) % 2 ^ 48), (24, 8, r.admitAt)])

/-- A malformed record's reject result (R323). -/
def rejectResult (r : InRec) : Nat × Bytes :=
  (sBadParam, layoutBytes 32 [(0, 4, packBits [(0, 8, 0x80), (16, 16, sBadParam)]), (8, 8, recReq r.bytes)])

/-- The result of a record. -/
def resultOf (r : InRec) : Nat × Bytes :=
  let k := recKind r.bytes
  if r.malformed then rejectResult r
  else if k = 1 then queryResult r
  else if k = 4 then lookupResult r
  else if k = 5 then gradientResult r
  else updateResult r

/-- A result too long for its slot: its own header with S_BAD_PARAM, N 0 (R325). -/
def fitResult (out : Nat) (x : Nat × Bytes) : Nat × Bytes :=
  if x.2.length ≤ 2 ^ out then x
  else
    let h := x.2.take 64
    (sBadParam, if fld h 0 0 8 = 0x81 then patch h 1 (leBytes 3 (256 * sBadParam)) else patch (patch h 2 (leBytes 2 sBadParam)) 4 (leBytes 4 0))

/-- The record counters of a result (R461). -/
def countResult (s : State) (slice st : Nat) (bytes : Bytes) : State :=
  let s := countRec s slice 2 1
  let s := if st = sShort then countRec s slice 3 1 else if st = sBusy then countRec s slice 4 1
    else if st = sStaleEpoch then countRec s slice 5 1 else if st = sBadParam then countRec s slice 6 1
    else if st = sPoisoned then countRec s slice 7 1 else s
  if fld bytes 0 0 8 = 0x81 then
    countRec (countRec s slice 9 (fld bytes 0x28 1 1)) slice 10 (fld bytes 0x28 2 1)
  else s

/-- Write a result to slot `j` of a ring, or discard it (R306, R325). -/
def writeResult (s : State) (num j st : Nat) (bytes : Bytes) : State :=
  match s.host.rings.find? fun r => r.num == num with
  | none => s
  | some r =>
    if !dmaOk s r.port then setRing s { r with lost := satAdd 32 r.lost 1 }
    else
      let s := countResult s r.slice st bytes
      let s := hostWrite s r.port (r.resultBase + j % r.entries * 2 ^ r.outShift) bytes
      let s := setRing s { r with done := r.done + 1 }
      { s with host := { s.host with written := s.host.written.filter (· != num) ++ [num] } }

/-- A record that a position of the conjunction has run for the primary: its result goes there (R279). -/
def returnLent (s : State) (r : InRec) : State :=
  let x := resultOf r
  toPrimary s (.memberRan (Fin.ofNat 64 r.ring) r.index (BitVec.ofNat 64 r.admitAt) (BitVec.ofNat 16 x.1) x.2)

/-- Answer a record. -/
def answerRec (s : State) (r : InRec) : State :=
  if r.lent then returnLent s r
  else
    match s.host.rings.find? fun q => q.num == r.ring with
    | none => s
    | some q =>
      let (st, bytes) := fitResult q.outShift (r.result.getD (resultOf r))
      writeResult s r.ring r.index st bytes

/-- Take a record to run for the primary, or the result of one that another position has run (R279); none for a message of another kind. -/
def takeRun (s : State) (m : Remote) : Option State :=
  match m with
  | .memberRun ring index slice admitAt place qsn bytes =>
    let r : InRec := { ring := ring, index := index, slice := slice, bytes := bytes, admitAt := admitAt.toNat, sn := qsn.toNat, epoch := s.setup.epoch
                       desc := recDesc s bytes, due := admitAt.toNat + depthNow s, place := place.toNat, lent := true }
    some (if recKind bytes = 4 then admitLookup s r
      else { s with recs := { s.recs with inflight := s.recs.inflight ++ [r] } })
  | .memberRan ring index admitAt status bytes =>
    let put := fun (r : InRec) => if r.ring = ring.val ∧ r.index = index ∧ r.admitAt = admitAt.toNat ∧ r.runsAt.isSome then
      { r with result := some (status.toNat, bytes) } else r
    some { s with recs := { s.recs with inflight := s.recs.inflight.map put } }
  | _ => none

/-- Does a record's result fall due at the present boundary (R22, R172, R183, R224). -/
def isDue (s : State) (r : InRec) : Bool :=
  !r.answered && (r.runsAt.isNone || r.result.isSome || r.status != 0) && (if r.due = 0 then decide (r.sn ≤ s.recs.published) && decide (r.admitAt + 4 ≤ s.run.frame) && r.dirDone
    else decide (r.due ≤ s.run.frame))

/-- A record that its owners let the home answer: a look-up or gradient for which an owner's answer is missing is not answered (DESIGN CHOICE, log
entry 88). -/
def answerable (r : InRec) : Bool := r.status != 0 || r.runsAt.isSome || (recKind r.bytes != 4 && recKind r.bytes != 5) || heardAll r

/-- Training state once its look-up is answered: each bag's total valid count, or nothing where the look-up gave no rows (R219). -/
def closeLookup (s : State) (r : InRec) : State :=
  if fld r.bytes 0 11 1 = 0 ∨ r.status ≠ 0 then s
  else
    let req := recReq r.bytes
    match r.desc with
    | none => s
    | some d =>
      if (ownerStatus r).1 ≠ sOk then
        dropCustody { s with recs := { s.recs with training := s.recs.training.filter fun t => t.reqId != req } } req 0
      else
        let counts := (List.range (fld r.bytes 0x10 0 11)).map fun g => (combineBag (tbDim d.bytes) (fld r.bytes 0 8 2) r.partials g).1
        let put := fun (t : TrainState) => if t.reqId = req then { t with counts := counts } else t
        { s with recs := { s.recs with training := s.recs.training.map put } }

/-- A gradient that an owner answered with S_MOVED: a reissue goes to the new owner too (R217). -/
def closeGradient (s : State) (r : InRec) : State :=
  (r.reports.filter fun g => g.status == sMoved).foldl (fun s (g : GradDone) =>
    let join := fun (l : List Nat) => if l.contains g.owner ∧ !l.contains g.newOwner then l ++ [g.newOwner] else l
    let put := fun (t : TrainState) => if t.reqId = fld r.bytes 0x10 0 64 then { t with owners := t.owners.map join } else t
    { s with recs := { s.recs with training := s.recs.training.map put } }) s

/-- Write the results that fall due (R325). -/
def resultsDue (s : State) : State :=
  let s := (s.recs.inflight.filter (isDue s)).foldl (fun s r =>
    let s := setRec s { r with answered := true }
    if !answerable r then s
    else
      let k := recKind r.bytes
      let s := if k = 4 then closeLookup s r else if k = 5 then closeGradient s r else s
      answerRec s r) s
  let keep := fun (r : InRec) => !r.answered || (isUpdate r && (decide (s.run.frame < r.admitAt + 5) || !r.dirDone))
  { s with recs := { s.recs with inflight := s.recs.inflight.filter keep } }

/-! ### Withdrawal (R253, R256) -/

/-- What a withdrawn look-up, gradient or query has set going on this node ends; a part that has left is an owner's to answer (R225). -/
def dropParts (s : State) (r : InRec) : State :=
  let req := recReq r.bytes
  let me := nodeId s
  let sends := fun (m : Remote) => match m with
    | .part p => p.home == me && p.req == req && p.admitAt == r.admitAt
    | .grad p => p.home == me && p.req == req && p.admitAt == r.admitAt
    | _ => false
  { s with recs := { s.recs with
      reports := s.recs.reports.filter fun x => !sends x.2.2
      shares := s.recs.shares.filter fun q => !(q.home == me && q.req == req && q.admitAt == r.admitAt)
      tables := { s.recs.tables with
        parts := s.recs.tables.parts.filter fun w => !(w.part.home == me && w.part.req == req && w.part.admitAt == r.admitAt)
        grads := s.recs.tables.grads.filter fun p => !(p.home == me && p.req == req && p.admitAt == r.admitAt) } } }

/-- At the boundary after a finding in a SHARED object: withdraw every record in flight that names its OWNER, undo, pause (R253). One for which no
custody record is free completes with S_BUSY (R298). -/
def withdraw (s : State) : State :=
  let keys := (s.recs.findings.filterMap fun f => match findObj s f.1 with
    | some o => if o.shared then some (ownerKey o) else none
    | none => none).eraseDups
  let s := { s with recs := { s.recs with findings := [], paused := s.recs.paused ++ keys.filter (!s.recs.paused.contains ·) } }
  let hit := fun (r : InRec) => keys.any (namedBy r) && !r.answered && !r.malformed &&
    (decide (recClass r.bytes = 0) || decide (s.recs.published < r.sn))
  let out := s.recs.inflight.filter hit
  let s := { s with recs := { s.recs with inflight := s.recs.inflight.filter (!hit ·) } }
  out.foldl (fun s r =>
    let s := if !isUpdate r then dropParts s r else
      match findDesc s 1 (recOwner r.bytes) with
      | none => s
      | some d => dropWrites (undoWrites (sendUndo s d r) d.id r.sn (recVid r.bytes)) r
    let s := if recKind r.bytes = 4 then
        dropCustody { s with recs := { s.recs with training := s.recs.training.filter fun t => t.reqId != recReq r.bytes } } (recReq r.bytes) 0
      else s
    if custodyFree s then
      let s := addCustody s (recReq r.bytes) r.slice 2 (recOwner r.bytes)
      { s with recs := { s.recs with withdrawn := s.recs.withdrawn ++ [{ r with entry := none }] } }
    else answerRec s { r with entry := none, status := sBusy, partials := [] }) s

/-- The POISON_SLACK of a record's slice. -/
def slackOf (s : State) (r : InRec) : Nat := quotaSlack (quotaOf s r.slice)

/-- Complete withdrawn records with S_POISONED; one that a pool has released is answered by neither pool (R299). -/
def poisonOut (s : State) (p : InRec → Bool) : State :=
  (s.recs.withdrawn.filter fun r => p r && poolHolds s (recReq r.bytes) 2).foldl (fun s r =>
    let s := dropCustody { s with recs := { s.recs with withdrawn := s.recs.withdrawn.erase r } } (recReq r.bytes) 2
    answerRec s { r with status := sPoisoned, partials := [] }) s

/-- R256: a withdrawn record not re-admitted by its admission frame + POISON_SLACK. -/
def execPoisonSlackExpire (s : State) : Host.Outcome State Fault Refusal :=
  if !s.run.running then .next s
  else .next (poisonOut s fun r => decide (r.admitAt + slackOf s r ≤ s.run.frame))

/-! ### Training state (R219) and custody (R299 to R301) -/

/-- HOLD_FRAMES of a table. -/
def holdOf (s : State) (table : Nat) : Nat := match findDesc s 2 table with | some d => tbHold d.bytes | none => 0

/-- Training state of a table, held since a frame, whose time has passed. -/
def trainGone (s : State) (table admitAt : Nat) : Bool := decide (admitAt + holdOf s table ≤ s.run.frame)

/-- R219: state whose HOLD_FRAMES have elapsed, at the home, at the owners, and in the partner's copies. -/
def execTrainingStateExpire (s : State) : Host.Outcome State Fault Refusal :=
  if !s.run.running then .next s
  else
    let gone := fun (t : TrainState) => trainGone s t.table t.admitAt
    let s' := (s.recs.training.filter gone).foldl (fun s t => dropCustody s t.reqId 0) s
    .next { s' with recs := { s'.recs with
        training := s.recs.training.filter (!gone ·)
        tables := { s'.recs.tables with
          own := s.recs.tables.own.filter fun t => !trainGone s t.table t.admitAt
          copies := s.recs.tables.copies.filter fun t => !trainGone s t.table t.admitAt } } }

/-- The descriptor that a custody record's OBJECT names (R298): a withdrawn record may name an index or a table. -/
def custodyDesc (s : State) (c : Custody) : Option Desc :=
  let kind := if c.kind = 0 ∨ c.kind = 3 then 2 else match s.recs.withdrawn.find? fun r => c.kind == 2 && recReq r.bytes == c.reqId with
    | some r => recDescKind r.bytes
    | none => 1
  findDesc s kind c.object

/-- The slice that holds OBJECT. -/
def custodySlice (s : State) (c : Custody) : Option Nat := (custodyDesc s c).bind (descSlice s)

/-- R299, R300: release at the boundary at which a change moves OBJECT. -/
def releaseCustody (s : State) : State :=
  let f := fun (c : Custody) => match custodySlice s c with
    | none => c
    | some n =>
      if c.state = 1 then (if n = c.taker then c else { c with taker := n, epoch := s.setup.epoch })
      else if n = c.giver then c
      else { c with state := 1, taker := n, epoch := s.setup.epoch, handover := s.run.frame }
  { s with recs := { s.recs with custody := s.recs.custody.map f } }

/-- The plate has lanes of a slice. -/
def sliceRuns (s : State) (slice : Nat) : Bool := match s.run.plate with | some p => p.lanes.any fun l => l.slice == slice | none => false

/-- R299: the taking pool claims what it may; CLAIMED becomes HELD at once. -/
def claimCustody (s : State) : State :=
  let ok := fun (c : Custody) => c.state == 1 && custodySlice s c == some c.taker && c.epoch == s.setup.epoch && sliceRuns s c.taker
  let took := s.recs.custody.filter ok
  let mine := fun (req kind : Nat) => took.find? fun c => c.reqId == req && c.kind == kind
  { s with recs := { s.recs with
      custody := s.recs.custody.map fun c => if ok c then { c with state := 0, giver := c.taker, handover := 0 } else c
      training := s.recs.training.map fun t => match mine t.reqId 0 with | some c => { t with slice := c.taker } | none => t
      deferred := s.recs.deferred.map fun r => match mine (recReq r.bytes) 1 with | some c => { r with slice := c.taker } | none => r
      withdrawn := s.recs.withdrawn.map fun r => match mine (recReq r.bytes) 2 with | some c => { r with slice := c.taker } | none => r } }

/-- ORPHAN_FRAMES (R301). -/
def orphanFrames (s : State) : Nat := framesOf s 4

/-- Complete a request with S_ORPHAN in a ring of a slice: the record's own ring where the slice holds it, else the slice's first
ring (log entry 41). -/
def orphanIn (s : State) (c : Custody) (slice : Nat) : State :=
  let held := (s.recs.deferred ++ s.recs.withdrawn).find? fun r => recReq r.bytes == c.reqId
  let ofSlice := fun (n : Nat) => s.host.rings.any fun q => q.num == n && q.slice == slice
  let tr : InRec := { ring := 0, index := 0, slice := slice, bytes := layoutBytes 64 [(0, 1, 5), (8, 8, c.reqId)], admitAt := s.run.frame, sn := 0,
                      epoch := s.setup.epoch }
  let r := held.getD tr
  let cls := recClass r.bytes
  let slot := if held.isSome && ofSlice r.ring then some (r.ring, r.index)
    else (s.host.rings.find? fun q => q.slice == slice && q.cls == cls).map fun q => (q.num, q.consumer)
  match slot with
  | none => s
  | some (num, j) => answerRec s { r with ring := num, index := j, status := sOrphan }

/-- R301: an orphan's request completes in the FROM slice and the TO slice, and its state is freed. -/
def execCustodyOrphan (s : State) : Host.Outcome State Fault Refusal :=
  if !s.run.running then .next s
  else
    let late := s.recs.custody.filter fun c => c.state == 1 && decide (c.handover + orphanFrames s ≤ s.run.frame)
    .next (late.foldl (fun s c =>
      let s := orphanIn s c c.giver
      let s := if c.taker = c.giver then s else orphanIn s c c.taker
      let s := if c.kind = 3 then cancelTransit s else s
      { s with recs := { s.recs with
          custody := s.recs.custody.erase c
          training := if c.kind = 0 then s.recs.training.filter (fun t => t.reqId != c.reqId) else s.recs.training
          deferred := if c.kind = 1 then s.recs.deferred.filter (fun r => recReq r.bytes != c.reqId) else s.recs.deferred
          withdrawn := if c.kind = 2 then s.recs.withdrawn.filter (fun r => recReq r.bytes != c.reqId) else s.recs.withdrawn } }) s)

/-! ### Results that have been written (R320, R325), rings that close (R358) -/

/-- R325, R320: the DONE count, and the vector once every ring of the slice on the port is done. -/
def execResultsWritten (ring : Fin 64) (s : State) : Host.Outcome State Fault Refusal :=
  if !s.host.written.contains ring.val then .next s
  else
    let s := { s with host := { s.host with written := s.host.written.filter (· != ring.val) } }
    match s.host.rings.find? fun r => r.num == ring.val with
    | none => .next s
    | some r =>
      let s := if dmaOk s r.port then hostWrite s r.port r.doneAddr (leBytes 8 r.done) else s
      let more := s.host.written.any fun n => s.host.rings.any fun q => q.num == n && q.slice == r.slice && decide (q.port = r.port)
      .next (if more then s else raise s r.port (16 + r.slice))

/-- R358: a closing ring with nothing left to answer. -/
def execRingCloseDone (ring : Fin 64) (s : State) : Host.Outcome State Fault Refusal :=
  match s.host.rings.find? fun r => r.num == ring.val with
  | none => .next s
  | some r =>
    if !r.closing || r.isOpen || ringPending s ring.val then .next s
    else
      let s := freeRing s ring.val
      match s.host.inProg.find? fun p => p.code == 0x59 && p.arg == ring.val with
      | none => .next s
      | some p => .next (finish s p.mailbox { status := sOk })

/-- Has a record of this node still to be answered. -/
def recordsOpen (s : State) (p : InRec → Bool) : Bool :=
  s.recs.inflight.any (fun r => !r.answered && p r) || s.recs.deferred.any p || s.recs.withdrawn.any p

/-- R326, R346: a DRAINING node whose last admitted record is answered enters READY. -/
def execDrainComplete (s : State) : Host.Outcome State Fault Refusal :=
  if s.node.state = stDraining ∧ !recordsOpen s (fun _ => true) then
    match s.node.trans with
    | some (0x1A, _) => .next (abortIllegal (finishTrans (enterState s stReady) { status := sOk }))
    | _ => .next (moveTo s stReady)
  else .next s

end Sys2Proof.Machine
end

