-- ==== Sys2Proof/Machine/Plates.lean ====
section
/-!
DEFINITION. The plate image (R32 to R36), its load checks (R39), admission (R365, R370, R371) and the refusal report (R373).
-/
namespace Sys2Proof.Machine

/-! ### Parsing (R32 to R36, R267) -/

/-- A field of a lane table entry, and of a fabric slot entry. -/
def laneFld (b : Bytes) (i lo len : Nat) : Nat := fld b (fld b 0x18 0 32 + 16 * i) lo len
def slotFld (b : Bytes) (i off lo len : Nat) : Nat := fld b (fld b 0x58 0 32 + 16 * i + off) lo len

/-- LANES, FABRIC_SLOTS, and the end of what check 1 lets a structure lie in. -/
def laneCount (b : Bytes) : Nat := fld b 4 16 16
def slotCount (b : Bytes) : Nat := fld b 0x5C 0 16
def bodyEnd (b : Bytes) : Nat := fld b 8 0 32 - fld b 12 0 32

/-- A structure of `n` bytes lies wholly in the body. -/
def inBody (b : Bytes) (off n : Nat) : Bool := decide (0xC0 ≤ off) && decide (off + n ≤ bodyEnd b)

/-- Check 1 of R39. -/
def plateParses (b : Bytes) : Bool :=
  let len := fld b 8 0 32
  let lto := fld b 0x18 0 32
  let n := laneCount b
  fld b 0 0 32 == 0x4C504E54 && fld b 4 0 16 == 1 && len % 16 == 0 && decide (len ≤ b.length) && decide (1 ≤ n) && decide (n ≤ 359) &&
  decide (fld b 12 0 32 ≤ len) && lto % 16 == 0 && inBody b lto (16 * n) && fld b 0x58 0 32 % 16 == 0 &&
  (slotCount b == 0 || inBody b (fld b 0x58 0 32) (16 * slotCount b)) &&
  (List.range n).all fun i =>
    let off := laneFld b i 32 32
    let cnt := laneFld b i 64 32
    off % 16 == 0 && decide (1 ≤ cnt) && inBody b off (16 * cnt)

/-- An action record (R36). -/
def recOf (b : Bytes) (off : Nat) : Rec :=
  { op := fld b off 0 8, fill := fld b off 8 1 == 1, hot := fld b off 9 1 == 1, rep := fld b off 16 16, a := fld b off 32 32, b := fld b off 64 32
    sa := sint 16 (fld b off 96 16), sb := sint 16 (fld b off 112 16) }

/-- A lane with its records. -/
def laneOf (b : Bytes) (i : Nat) : Lane :=
  { id := laneFld b i 0 16, slice := laneFld b i 16 4
    recs := (List.range (laneFld b i 64 32)).map fun j => recOf b (laneFld b i 32 32 + 16 * j) }

/-- A fabric slot entry (R267). -/
def slotOf (b : Bytes) (i : Nat) : FSlot :=
  { lastSend := slotFld b i 0 0 32, linkFlits := slotFld b i 4 0 16, hops := slotFld b i 4 16 2, arrivalMax := slotFld b i 4 18 14
    routeNs := slotFld b i 8 0 32, arrival := slotFld b i 12 0 19 }

/-- The plate that an image spells. -/
def plateOf (b : Bytes) : Plate :=
  { plateId := fld b 0x10 0 64, digest := fld b 0x20 0 256, steps := fld b 0x40 0 32, lead := fld b 0x44 0 16, treeNs := fld b 0x44 16 16
    deadlineNs := fld b 0x48 0 32, oppoint := fld b 0x4C 0 2, ink := fld b 0x4C 2 2, counting := fld b 0x4C 4 1 == 1
    flashWindow := fld b 0x4C 8 8, depth := fld b 0x4C 16 8, queriesPF := fld b 0x50 0 16, updatesPF := fld b 0x50 16 16
    flashPF := fld b 0x54 0 32, domainNodes := fld b 0x5C 16 16, maintSteps := fld b 0x60 0 32, fillSteps := fld b 0x64 0 32
    refreshGap := fld b 0x68 0 32, slots := (List.range (slotCount b)).map (slotOf b), lanes := (List.range (laneCount b)).map (laneOf b) }

/-! ### Records and their steps -/

/-- Records with their first steps. -/
def withStarts : List Rec → Nat → List (Nat × Rec)
  | [], _ => []
  | r :: rs, k => (k, r) :: withStarts rs (k + r.rep + 1)

/-- Steps that records cover. -/
def stepsOf (rs : List Rec) : Nat := rs.foldl (fun n r => n + r.rep + 1) 0

/-- What earlier records of a lane leave for the judgement of later ones: the expected formats of W0 and W1 (R58), KMAX (R161). -/
structure LaneCtx where
  w0   : Option Nat
  w1   : Option Nat
  kmax : Option Nat
  deriving DecidableEq, Repr

/-- The context after one step of a record. -/
def LaneCtx.after (c : LaneCtx) (id op : Nat) (a b : W32) : LaneCtx :=
  if id < 0x100 ∧ unitOf id < 4 ∧ op = 0x10 then
    (if bit b.toNat 8 then { c with w1 := some (opField b 0 8) } else { c with w0 := some (opField b 0 8) })
  else if id < 0x100 ∧ unitOf id = 5 ∧ op = 0x10 then { c with kmax := some (opField a 0 11) }
  else c

/-- The context after a record. -/
def LaneCtx.afterRec (c : LaneCtx) (id : Nat) (r : Rec) : LaneCtx :=
  (List.range (r.rep + 1)).foldl (fun c i => c.after id r.op (recA r i) (recBw r i)) c

/-- The context at the start of a frame: the frame repeats, so the last records of the lane decide. -/
def startCtx (l : Lane) : LaneCtx := l.recs.foldl (fun c r => c.afterRec l.id r) ⟨none, none, none⟩

/-- FN codes of R85, and those that use the immediate. -/
def fnOk (fn : Nat) : Bool :=
  decide (fn ≤ 0xC) || (0x10 ≤ fn && fn ≤ 0x17) || fn == 0x20 || fn == 0x21 || fn == 0x30 || fn == 0x31 || fn == 0x38 || fn == 0x39 ||
    (0x40 ≤ fn && fn ≤ 0x43)
def fnImm (fn : Nat) : Bool := fn == 0x38 || fn == 0x39 || fn == 0x40

/-- Operands of a MAC array, vector, select unit or mover record: Reserved fields are 0; the other fields are in range. -/
def judgeCluster (c : LaneCtx) (id op n : Nat) (a b : W32) : Option (Bool × Bool) :=
  let cl := id / 8
  let u := unitOf id
  if u < 4 then
    if op = 0x10 then some (opRsv a 17 && opRsv b 9, fmtOk (opField b 0 8) && (clPlace cl a (32 + payloadBytes (opField b 0 8) false)).isSome)
    else if op = 0x11 then
      let fmt := opField b 0 8
      let four := fun (f : Nat) => isIntClass (fmtType f) && typeBits (fmtType f) == 4
      let reg := opField b 8 1
      let own := if reg = 0 then c.w0 else c.w1
      let other := if reg = 0 then c.w1 else c.w0
      let pair := match own with
        | none => true
        | some f =>
          -- a register that no record of the lane loads has no format to judge: a 4-bit pair then counts as whole
          let g := other.getD (if four f then f else 0)
          match pairRows (fmtType fmt) (fmtType (if reg = 0 then f else g)) (fmtType (if reg = 0 then g else f)) reg (opField b 12 4) with
          | none => false
          | some rows => (clPlace cl a (rows.length * typeBits (fmtType fmt) / 8)).isSome
      some (opRsv a 17 && opRsv b 16, fmtOk fmt && pair)
    else if op = 0x12 then some (opRsv a 10 && opRsv b 0, true)
    else none
  else if u = 4 then
    if op = 0x20 ∨ op = 0x21 then
      let fmt := opField a 6 8
      some (opRsv a 14 && opRsv b 17, fmtOk fmt && (clPlace cl b (64 * typeBits (fmtType fmt) / 8)).isSome)
    else if op = 0x22 then
      let fn := opField a 0 8
      some (true, fnOk fn && (fnImm fn || b == 0))
    else none
  else if u = 5 then
    let long := match c.kmax with | none => true | some k => decide (selSteps k ≤ n)
    if op = 0x10 then some (opRsv a 14 && opRsv b (if bit a.toNat 13 then 17 else 0), decide (1 ≤ opField a 0 11) && decide (opField a 0 11 ≤ 1024))
    else if op = 0x11 then some (opRsv a 17 && opRsv b 1, true)
    else if op = 0x12 then some (opRsv a 19 && opRsv b 0, true)
    else if op = 0x13 then some (opRsv a 17 && opRsv b 0, (clPlace cl a 128).isSome)
    else if op = 0x14 then some (opRsv a 17 && opRsv b 17, long)
    else if op = 0x15 ∨ op = 0x16 then some (opRsv a 17 && opRsv b 0, long)
    else none
  else
    let g := opField a 25 2 + 1
    let pl := payloadBytes (opField b 0 8) (bit b.toNat 8)
    if op = 0x10 then some (opRsv a 27 && opRsv b 25, (location a g).isSome && (location b g).isSome)
    else if op = 0x11 then some (opRsv a 21 && opRsv b 25, (location b (opField a 19 2 + 1)).isSome)
    else if op = 0x12 ∨ op = 0x13 then
      some (opRsv a 25 && opRsv b 9, fmtOk (opField b 0 8) && decide (closeSteps pl ≤ n) && (location a (1 + pl / 32)).isSome)
    else none

/-- Operands of the other lanes; `k` is the step. -/
def judgeOther (p : Plate) (id op k : Nat) (a b : W32) : Option (Bool × Bool) :=
  if id < 0x200 then
    if op = 0x10 then some (opRsv a 19 && opRsv b 0, true)
    else if op = 0x11 then some (opRsv a 19 && opRsv b 1, true)
    else if op = 0x12 then some (opRsv a 19 && opRsv b 21, opField b 19 2 != 3)
    else none
  else if id < 0x300 then
    let g := opField a 27 2 + 1
    let c : Chan := ⟨Fin.ofNat 6 ((id - 0x200) / 16), Fin.ofNat 16 id⟩
    if op = 0x10 ∨ op = 0x11 then some (opRsv a 29 && opRsv b 26, (chPlace c (opField a 0 27) g).isSome && (srdPlace b g).isSome)
    else if op = 0x18 then some (opRsv a 24 && opRsv b 0, true)
    else none
  else if id < 0x400 then (if 0x10 ≤ op ∧ op ≤ 0x12 then some (opRsv a 0 && opRsv b 0, true) else none)
  else if id < 0x500 then
    if op = 0x10 then
      some (opRsv a 19 && opRsv b 16, match p.slots[opField b 0 16]? with | some e => decide (k ≤ e.lastSend) | none => false)
    else none
  else if id < 0x600 then (if op = 0x10 then some (opRsv a 19 && opRsv b 1, true) else none)
  else
    let n := 128 * (opField b 25 3 + 1)
    if op = 0x10 ∨ op = 0x11 then some (opRsv b 28, decide (128 * a.toNat + n ≤ dumpBase) && (location b (n / 32)).isSome)
    else if op = 0x12 then some (opRsv a 19 && opRsv b 25, (location b 1).isSome)
    else none

/-- One step of a record, by the opcodes of R37 and of its lane: none where the opcode is not defined for the lane. -/
def judgeStep (p : Plate) (c : LaneCtx) (id : Nat) (r : Rec) (start i : Nat) : Option (Bool × Bool) :=
  if r.op < 2 then some (true, true)
  else if r.op = 2 then (if 0x200 ≤ id ∧ id < 0x300 then some (true, true) else none)
  else if id < 0x100 then judgeCluster c id r.op (r.rep + 1) (recA r i) (recBw r i)
  else judgeOther p id r.op (start + i) (recA r i) (recBw r i)

/-- A record: (Reserved fields are 0 in every step, check 6 holds in every step). -/
def judgeRec (p : Plate) (c : LaneCtx) (id start : Nat) (r : Rec) : Bool × Bool :=
  let n := if spanning id r.op then 1 else r.rep + 1
  let js := (List.range n).map (judgeStep p c id r start)
  (js.all (fun j => match j with | some x => x.1 | none => true),
   js.all (fun j => match j with | some x => x.2 | none => false) && (!r.fill || r.op == 1) && (!r.hot || r.op == 2))

/-- The judgements of a lane's records, with their first steps. -/
def judgeRecs (p : Plate) (id : Nat) : List Rec → LaneCtx → Nat → List (Nat × Bool × Bool)
  | [], _, _ => []
  | r :: rs, c, k => (k, judgeRec p c id k r) :: judgeRecs p id rs (c.afterRec id r) (k + r.rep + 1)

def judgeLane (p : Plate) (l : Lane) : List (Nat × Bool × Bool) := judgeRecs p l.id l.recs (startCtx l) 0

/-! ### Checks 2 to 7 -/

/-- Check 2. -/
def digestOk (b : Bytes) : Bool := fld b 0x20 0 256 == shake256 (patch (slice b 0 (bodyEnd b)) 0x20 (List.replicate 32 0))

/-- Check 3 (R456). -/
def signedOk (s : State) (b : Bytes) : Bool :=
  !signedOnly s || (fld b 12 0 32 != 0 && (customerKeys s).any fun k =>
    Config.falconVerify k (fld b 0x20 0 256) (slice b (bodyEnd b) (fld b 12 0 32)))

/-- The fields of header, manifest, lane table and slot table that check 4 judges. -/
def plateFields (b : Bytes) : List Fld :=
  [rsvFld 0x1C 0 32, okFld 0x40 0 32 (fun v => decide (4096 ≤ v) && decide (v ≤ 1048576)),
   okFld 0x44 0 16 (fun v => decide (256 ≤ v) && decide (v ≤ 16384) && decide (v < fld b 0x40 0 32)),
   okFld 0x4C 0 2 (· != 3), okFld 0x4C 2 2 (· != 3), rsvFld 0x4C 5 3, okFld 0x4C 8 8 (fun v => decide (1 ≤ v) && decide (v ≤ 16)),
   okFld 0x4C 16 8 (fun v => decide (1 ≤ v) && decide (v ≤ 64)), rsvFld 0x4C 24 8,
   okFld 0x5C 16 16 (fun v => decide (1 ≤ v) && decide (v ≤ 512))] ++ rsvBytes 0x6C 0xBF ++
  ((List.range (laneCount b)).flatMap fun i => let o := fld b 0x18 0 32 + 16 * i; [rsvFld o 20 12, rsvFld o 96 32]) ++
  (List.range (slotCount b)).flatMap fun i => let o := fld b 0x58 0 32 + 16 * i; [okFld (o + 4) 16 2 (· != 0), rsvFld (o + 12) 19 13]

/-- Check 4. -/
def fieldsOk (b : Bytes) (p : Plate) : Bool :=
  lowestBad (plateFields b) b == none &&
  ((List.range (laneCount b)).all fun i => (List.range (laneFld b i 64 32)).all fun j => fld b (laneFld b i 32 32 + 16 * j) 10 6 == 0) &&
  p.lanes.all fun l => (judgeLane p l).all fun j => j.2.1

/-- A slice owns a lane (R283). -/
def ownsLane (m : Bytes) (i id : Nat) : Bool :=
  if id < 0x100 then bit (sliceClusters m i) (id / 8)
  else if id < 0x200 then sliceClusters m i / 2 ^ (8 * (id % 4)) % 256 != 0
  else if id < 0x300 then bit (sliceStacks m i) (id - 0x200)
  else if id < 0x400 then bit (sliceFlash m i) (id - 0x300)
  else if id < 0x500 then bit (slicePorts m i) (id - 0x400)
  else if id < 0x600 then sliceBoxes m i / 2 ^ (32 * (id % 2)) % 2 ^ 32 != 0
  else sliceValid m i

/-- The first failure of a check that names lanes: LANE_ID and step. -/
abbrev Fail := Option (Nat × Nat)

/-- The failure with the lowest LANE_ID. -/
def lowestLane (l : List (Nat × Nat)) : Fail :=
  l.foldl (fun acc x => match acc with | none => some x | some a => if x.1 < a.1 then some x else some a) none

/-- Check 5. -/
def lanesBad (m : Bytes) (p : Plate) : Fail :=
  lowestLane ((p.lanes.filter fun l =>
    !laneValid l.id || decide (1 < (p.lanes.filter fun k => k.id == l.id).length) || !(sliceValid m l.slice && ownsLane m l.slice l.id)).map
      fun l => (l.id, 0))

/-- Where a lane does not cover exactly STEPS steps: the first step of the record that runs past them, or of its last record. -/
def coverBad (p : Plate) (l : Lane) : Option Nat :=
  if stepsOf l.recs = p.steps then none
  else match (withStarts l.recs 0).find? fun x => decide (p.steps < x.1 + x.2.rep + 1) with
    | some x => some x.1
    | none => some (((withStarts l.recs 0).map Prod.fst).getLastD 0)

/-- Check 6: the first record of the lane that fails it. -/
def recordsBad (p : Plate) : Fail :=
  lowestLane (p.lanes.filterMap fun l =>
    (minOpt (((judgeLane p l).find? fun j => !j.2.2).map Prod.fst) (coverBad p l)).map fun k => (l.id, k))

/-- Check 7 (R38). -/
def capacityBad (p : Plate) : Fail :=
  let bytes := fun (ls : List Lane) => ls.foldl (fun n l => n + 16 * l.recs.length) 0
  let cl := (List.range 32).filterMap fun c =>
    if bytes (p.lanes.filter fun l => decide (l.id < 0x100) && l.id / 8 == c) > 262144 then some (8 * c, 0) else none
  lowestLane (cl ++ if bytes (p.lanes.filter fun l => decide (0x100 ≤ l.id)) > 1048576 then [(0x100, 0)] else [])

/-! ### Checks 8 to 12, at a point -/

/-- Granules that a stack channel's record moves in its `i`-th step, and the quadrant whose cluster store it reads into. -/
def stackMove (r : Rec) (i : Nat) : Nat × Option Nat :=
  if r.op = 0x10 ∨ r.op = 0x11 then
    let b := recBw r i
    (opField (recA r i) 27 2 + 1, if r.op = 0x10 ∧ bit b.toNat 20 then some (opField b 21 5 / 8) else none)
  else (0, none)

/-- Bytes of the edge controller and the stream engines in one step of a record. -/
def edgeMove (id : Nat) (r : Rec) (i : Nat) : Nat :=
  if id = 0x600 then (if r.op = 0x10 ∨ r.op = 0x11 then 128 * (opField (recBw r i) 25 3 + 1) else if r.op = 0x12 then 64 else 0)
  else if r.op = 0x10 then 128
  else 0

/-- The records that some lanes run in step `k`: LANE_ID, record, step within it. -/
def atStep (ls : List Lane) (k : Nat) : List (Nat × Rec × Nat) :=
  ls.filterMap fun l => (recFrom l.recs k 0).map fun r => (l.id, r.1, r.2.1)

/-- The lane to report of a limit broken in step `k`: the lowest that moves something, with its record's first step. -/
def movers (k : Nat) (l : List (Nat × Rec × Nat × Nat)) (limit : Nat) : List (Nat × Nat) :=
  if l.foldl (fun n x => n + x.2.2.2) 0 ≤ limit then []
  else (l.filter fun x => x.2.2.2 != 0).map fun x => (x.1, k - x.2.2.1)

/-- Check 8 in one step (R14, R94, R237, R324). -/
def bandwidthAt (p : Plate) (point k : Nat) : Fail :=
  let st := (atStep (p.lanes.filter fun l => decide (0x200 ≤ l.id) && decide (l.id < 0x300)) k).map fun x => (x, stackMove x.2.1 x.2.2)
  let ed := (atStep (p.lanes.filter fun l => decide (0x500 ≤ l.id)) k).map fun x => (x.1, x.2.1, x.2.2, edgeMove x.1 x.2.1 x.2.2)
  let amount := fun (q : (Nat × Rec × Nat) × Nat × Option Nat) => (q.1.1, q.1.2.1, q.1.2.2, q.2.1)
  let perStack := (List.range 6).flatMap fun i => movers k ((st.filter fun q => (q.1.1 - 0x200) / 16 == i).map amount) 50
  let quads := (List.range 4).flatMap fun i => movers k ((st.filter fun q => q.2.2 == some i).map amount) 150
  lowestLane (perStack ++ quads ++ movers k (st.map amount) 300 ++ movers k ed (edgeLimit point))

/-- Check 8. -/
def bandwidthBad (p : Plate) (point : Nat) : Fail := (List.range p.steps).findSome? (bandwidthAt p point)

/-- The runs of REFRESH records of a lane (R45). -/
def refreshRuns : List (Nat × Rec) → List (Nat × Rec) → List (List (Nat × Rec))
  | [], cur => if cur.isEmpty then [] else [cur]
  | x :: r, cur =>
    if x.2.op = 2 then refreshRuns r (cur ++ [x]) else if cur.isEmpty then refreshRuns r [] else cur :: refreshRuns r []

/-- The starts of the slots of a run; none where it does not divide into whole slots of 128-step positions. -/
def runSlots (run : List (Nat × Rec)) : Option (List Nat) :=
  let four := fun (i : Nat) => (run.drop (4 * i)).take 4
  let ok := run.length % 4 == 0 && run.all (fun x => x.2.rep == 127) &&
    (List.range (run.length / 4)).all fun i => ((four i).filter fun x => x.2.hot).length == 2
  if ok then some ((List.range (run.length / 4)).map fun i => ((four i).map Prod.fst).headD 0) else none

/-- The slots of a lane; none where a run is malformed. -/
def laneSlots (l : Lane) : Option (List Nat) :=
  let rs := (refreshRuns (withStarts l.recs 0) []).map runSlots
  if rs.all Option.isSome then some (rs.filterMap id).flatten else none

/-- The gaps after each slot of a lane, cyclically: (gap, start of the slot that opens it). -/
def slotGaps (steps : Nat) (ss : List Nat) : List (Nat × Nat) :=
  List.zipWith (fun a b => (if a < b then b - a else steps - a + b, a)) ss (ss.drop 1 ++ ss.take 1)

/-- The largest gap of some. -/
def widest (l : List (Nat × Nat × Nat)) : Option (Nat × Nat × Nat) :=
  l.foldl (fun acc x => match acc with | none => some x | some a => if a.1 < x.1 then some x else some a) none

/-- Largest REFRESH_GAP at a point (R46). -/
def gapLimit (point : Nat) : Nat := 7800000 / worstPs point

/-- The 96 stack channel lanes. -/
def stackLanes (p : Plate) : List Lane := p.lanes.filter fun l => decide (0x200 ≤ l.id) && decide (l.id < 0x260)

/-- Check 9. -/
def refreshBad (p : Plate) (point : Nat) : Fail :=
  let missing := (List.range 96).filter fun i => !(p.lanes.any fun l => l.id == 0x200 + i)
  let shape := (p.lanes.filter fun l => match laneSlots l with
    | none => true
    | some [] => decide (0x200 ≤ l.id) && decide (l.id < 0x260)
    | some _ => false).map fun l => (l.id, 0)
  match lowestLane (missing.map (fun i => (0x200 + i, 0)) ++ shape) with
  | some x => some x
  | none =>
    let gaps := (stackLanes p).flatMap fun l => (slotGaps p.steps ((laneSlots l).getD [])).map fun g => (g.1, l.id, g.2)
    match widest gaps with
    | none => some (0xFFFF, 0)
    | some (g, id, st) => if p.refreshGap = g ∧ g ≤ gapLimit point then none else some (id, st)

/-- Check 10 (R106, R107). -/
def segmentBad (p : Plate) (point : Nat) : Fail :=
  if p.ink = 2 ∧ point ≠ 2 then some (0xFFFF, 0)
  else lowestLane ((stackLanes p).filterMap fun l =>
    ((withStarts l.recs 0).find? fun x => x.2.op == 0x18 &&
      (decide (segLimit point < x.2.rep + 1) || decide (inkPositions p.ink < popCount 24 (x.2.a % 2 ^ 24)))).map fun x => (l.id, x.1))

/-- Check 11 (R43). -/
def beatRuleOk (s : State) (p : Plate) (point : Nat) : Bool :=
  decide (p.treeNs * 1000 ≤ p.lead * worstPs point) && decide (s.fab.treeNs ≤ p.treeNs)

/-- MAINT steps of a lane with FILL as given. -/
def maintOf (l : Lane) (fill : Bool) : Nat := l.recs.foldl (fun n r => if r.op = 1 ∧ r.fill = fill then n + r.rep + 1 else n) 0

/-- The smallest of some numbers; 0 of none. -/
def least : List Nat → Nat
  | [] => 0
  | a :: r => r.foldl min a

/-- Check 12. -/
def maintOk (p : Plate) : Bool :=
  p.maintSteps == least ((stackLanes p).map fun l => maintOf l false) && p.fillSteps == least ((stackLanes p).map fun l => maintOf l true) &&
  p.lanes.all (fun l => decide (1 ≤ maintOf l false + maintOf l true)) && (stackLanes p).all fun l => decide (256 ≤ maintOf l false)

/-! ### Admission (R270, R365, R370, R371) -/

/-- FRAME_PS (R370). -/
def framePs (p : Plate) (point : Nat) (margin : Bool) : Nat :=
  let f := p.steps * worstPs point
  if margin then ceilDiv (f * 1008) 1000 else f

/-- What a slot needs between LAST_SEND and the arm, in ps (R371). -/
def slotNeed (e : FSlot) : Nat := 4 * e.routeNs * 1000 + e.linkFlits * 10240

/-- A live neighbour that no working link reaches (R272). -/
def neighbourCut (s : State) : Bool := (domainPeers s).any fun n => liveNode s n && (linksTo s n).isEmpty

/-- The first slot entry that fails the slot rule (R270), that declares less than the latency measured, or that must route through a pair of neighbours without
a working link: a slot may carry a message to every live node, so that it does where a live neighbour is cut off (R272; log entry 59). -/
def slotBad (s : State) (p : Plate) (point : Nat) : Option Nat :=
  p.slots.findIdx? fun e =>
    decide (p.steps < p.lead + e.lastSend) || decide ((p.steps - p.lead - e.lastSend) * shortPs point < slotNeed e) ||
      decide (e.routeNs < cget 0 s.fab.routeNs e.hops) || neighbourCut s

/-- Checks 8 to 12 at a point: those that fail. -/
def pointFails (s : State) (p : Plate) (point : Nat) : List Nat :=
  (if (bandwidthBad p point).isSome then [8] else []) ++ (if (refreshBad p point).isSome then [9] else []) ++
  (if (segmentBad p point).isSome then [10] else []) ++ (if beatRuleOk s p point then [] else [11]) ++ (if maintOk p then [] else [12])

/-- Check 13 at a point. -/
def admits (s : State) (p : Plate) (point : Nat) (margin : Bool) : Bool :=
  decide (framePs p point margin ≤ p.deadlineNs * 1000) && (slotBad s p point).isNone

/-- A plate is admissible at a point (R365). -/
def admissibleAt (s : State) (p : Plate) (point : Nat) : Bool := (pointFails s p point).isEmpty && admits s p point p.counting

/-- The admissible set. -/
def admissibleSet (s : State) (p : Plate) : List Nat := (List.range 3).filter (admissibleAt s p)

/-- Checks 2 to 7 under a slice map: those that fail. -/
def fixedFails (s : State) (b : Bytes) (p : Plate) (m : Bytes) : List Nat :=
  (if digestOk b then [] else [2]) ++ (if signedOk s b then [] else [3]) ++ (if fieldsOk b p then [] else [4]) ++
  (if (lanesBad m p).isSome then [5] else []) ++ (if (recordsBad p).isSome then [6] else []) ++ (if (capacityBad p).isSome then [7] else [])

/-- Every check of R39 that fails at a point. -/
def plateFails (s : State) (b m : Bytes) (point : Nat) : List Nat :=
  if !plateParses b then [1]
  else
    let p := plateOf b
    let f := fixedFails s b p m ++ pointFails s p point
    if f.isEmpty then (if admits s p point p.counting then [] else [13]) else f

/-- The point a plate is loaded at: its OPPOINT; BALANCED where it names none. -/
def loadPoint (b : Bytes) : Nat := if fld b 0x4C 0 2 = 3 then 1 else fld b 0x4C 0 2

/-- A plate passes its load checks (R39). -/
def plateOk (s : State) (b m : Bytes) : Bool := (plateFails s b m (loadPoint b)).isEmpty

/-! ### The refusal report (R373) -/

/-- LANE and STEP: the first failure of checks 5 to 10, in check order. -/
def firstLane (p : Plate) (m : Bytes) (point : Nat) (fails : List Nat) : Nat × Nat :=
  let of := fun (c : Nat) (f : Fail) => if fails.contains c then f else none
  ((of 5 (lanesBad m p)).or ((of 6 (recordsBad p)).or ((of 7 (capacityBad p)).or ((of 8 (bandwidthBad p point)).or ((of 9 (refreshBad p point)).or
    (of 10 (segmentBad p point))))))).getD (0xFFFF, 0)

/-- The 128-byte refusal report of a plate at a point under a slice map. -/
def refusalReport (s : State) (b m : Bytes) (point : Nat) : Bytes :=
  let fails := plateFails s b m point
  let failed := fails.foldl (fun n c => n + 2 ^ (c - 1)) 0
  if fails = [1] then
    layoutBytes 128 [(0, 4, 0x52465553), (4, 2, 1), (0x10, 4, packBits [(0, 13, failed), (13, 2, point)]), (0x1C, 4, 0xFFFFFFFF),
      (0x2C, 2, 0xFFFF), (0x34, 4, gapLimit point), (0x38, 4, segLimit point), (0x3C, 2, 0xFFFF), (0x48, 4, s.fab.treeNs)]
  else
    let p := plateOf b
    let ran := fails = [] ∨ fails = [13]
    let ns := fun (pt : Nat) => ceilDiv (framePs p pt p.counting) 1000
    let slot := if ran then slotBad s p point else none
    let need := match slot.bind (p.slots[·]?) with | some e => ceilDiv (slotNeed e) (shortPs point) | none => 0
    let (lane, step) := firstLane p m point fails
    let adm := (admissibleSet s p).foldl (fun n q => n + 2 ^ q) 0
    layoutBytes 128 [(0, 4, 0x52465553), (4, 2, 1), (8, 8, p.plateId),
      (0x10, 4, packBits [(0, 13, failed), (13, 2, point), (15, 1, b2n p.counting), (16, 3, adm)]),
      (0x14, 4, p.deadlineNs), (0x18, 4, if ran then ns point else 0), (0x1C, 4, if ran ∧ slot = none then ns point else 0xFFFFFFFF),
      (0x20, 4, ns 0), (0x24, 4, ns 1), (0x28, 4, ns 2), (0x2C, 2, slot.getD 0xFFFF), (0x30, 4, need), (0x34, 4, gapLimit point),
      (0x38, 4, segLimit point), (0x3C, 2, lane), (0x40, 4, step), (0x44, 4, p.lead * worstPs point / 1000), (0x48, 4, s.fab.treeNs)]

end Sys2Proof.Machine
end

