-- ==== Sys2Proof/Machine/Setup.lean ====
section
/-!
DEFINITION. Set-up objects (R19, R42, R333): the rules a descriptor, window, ring or map must meet before Burin marks it complete
(R120, R167, R197, R244, R285, R321, R349, R350), and what applying the set of next copies does (R53, R116, R192, R211, R291 to
R303, R321, R357).
-/
namespace Sys2Proof.Machine

/-! ### Fields of descriptors (R119, R167, R197, R244, R321) -/

/-- A range. -/
def inRange (lo hi v : Nat) : Bool := decide (lo ≤ v) && decide (v ≤ hi)

/-- A structure names an address of a tier (R228): a multiple of 32, the Reserved bits 0, and a place that exists. -/
def addrIn (tier v : Nat) : Bool := v % 32 == 0 && tierOf v == tier && (if tier = 3 then decide (v % 2 ^ 62 < 2 ^ 48) else addrOk v 32)

/-- The same for any tier. -/
def addrAny (v : Nat) : Bool := addrIn (tierOf v) v

/-- An index descriptor's fields (R119). -/
def indexFields (b : Bytes) : List Fld :=
  let mode := fld b 4 0 2
  [okFld 0 0 16 (· != 0xFFFF), okFld 4 0 2 (· < 2), okFld 4 3 2 (· != 3), okFld 4 5 3 (fun v => if mode = 1 then v == 0 else v == 4 || v == 5),
   rsvFld 4 8 8, okFld 4 16 16 (fun v => inRange 64 2048 v && v % 64 == 0)] ++
  [okFld 8 0 8 (inRange 1 64), okFld 8 8 8 (inRange 1 64), okFld 8 16 8 (inRange 1 64), okFld 8 24 8 (inRange 1 64), okFld 12 0 8 (inRange 1 16),
   okFld 12 8 8 (1 ≤ ·), okFld 12 16 8 (inRange 1 128), okFld 12 24 8 (inRange 1 128), okFld 0x10 0 16 (fun v => inRange 16 1024 v && v % 16 == 0),
   rsvFld 0x10 16 16, okFld 0x14 0 32 (fun v => if mode = 1 then inRange 1 65536 v else v == 0)] ++
  [okFld 0x18 0 64 (addrIn 1), okFld 0x20 0 64 (addrIn 1), okFld 0x28 0 64 (addrIn 2), okFld 0x30 0 64 (addrIn 2),
   okFld 0x38 0 64 (fun v => addrIn 1 v || (mode == 1 && v == 0)), okFld 0x40 0 64 addrAny] ++ rsvBytes 0x48 0x7F

/-- A table descriptor's fields (R197). -/
def tableFields (b : Bytes) : List Fld :=
  let o := fld b 0x20 0 2
  let used := fun (os : List Nat) (v : Nat) => os.contains o || v == 0
  [okFld 0 0 16 (· != 0xFFFF), okFld 4 0 8 (fun v => fmtOk v && inRange 4 9 (fmtType v)), rsvFld 4 8 8,
   okFld 4 16 16 (fun v => inRange 64 1024 v && v % 64 == 0), okFld 8 0 40 (1 ≤ ·), okFld 8 40 5 (· ≤ 24), rsvFld 8 45 19] ++
  [okFld 0x10 0 64 (addrIn 1), okFld 0x18 0 64 (addrIn 2), rsvFld 0x20 3 29, okFld 0x24 0 32 (used [1, 2, 3]), okFld 0x28 0 32 (used [1, 2]), okFld 0x2C 0 32 (used [2]), okFld 0x30 0 32 (used [2, 3]),
   okFld 0x34 0 32 (used [2]), okFld 0x38 0 13 (inRange 1 4096), rsvFld 0x38 13 19, okFld 0x3C 0 16 (1 ≤ ·), rsvFld 0x3C 16 16] ++
  rsvBytes 0x44 0x7F

/-- A window descriptor's fields (R244). -/
def windowFields : List Fld :=
  [okFld 0 20 2 (· != 3), rsvFld 0 22 10, okFld 0x10 0 64 (addrIn 0), okFld 0x18 0 64 (fun v => v == 0 || addrIn 1 v)]

/-- The fields of a descriptor by its KIND. -/
def descFields (kind : Nat) (b : Bytes) : List Fld := if kind = 1 then indexFields b else if kind = 2 then tableFields b else windowFields

/-- Bytes of a descriptor by its KIND. -/
def descLen (kind : Nat) : Nat := if kind = 3 then 32 else 128

/-- An update block's fields (R167). -/
def blockFields (b : Bytes) : List Fld :=
  let tail := fld b 0 0 2 == 1
  let f := fun (ok : Nat → Bool) (v : Nat) => if tail then ok v else v == 0
  [okFld 0 0 2 (· < 2), rsvFld 0 2 30, okFld 4 0 12 (f fun v => inRange 64 2048 v && v % 64 == 0), okFld 4 12 12 (f fun _ => true), rsvFld 4 24 8,
   okFld 8 0 12 (f fun _ => true), okFld 8 12 3 (f (inRange 1 4)), rsvFld 8 15 17, okFld 12 0 16 (f (inRange 8 1024)), okFld 12 16 16 (f fun _ => true)] ++
  [okFld 0x10 0 64 (f (addrIn 2)), okFld 0x18 0 32 (f (1 ≤ ·)), rsvFld 0x1C 0 32, okFld 0x20 0 64 (f (addrIn 1)),
   okFld 0x28 0 64 (f (addrIn 2)), rsvFld 0x30 48 16] ++ rsvBytes 0x38 0x3F

/-- SOFT < HARD < TAIL_CAP under POLICY TAIL. -/
def tailOrder (b : Bytes) : Bool := fld b 0 0 2 != 1 || (decide (fld b 4 12 12 < fld b 8 0 12) && decide (fld b 8 0 12 < fld b 4 0 12))

/-- A window's own rules (R244). -/
def windowOk (s : State) (b : Bytes) : Bool :=
  let base := fld b 0x10 0 64
  match findObj s (fld b 4 0 32) with
  | none => false
  | some o =>
    let need := (fld b 0 20 2 + 2) * fld b 8 0 32 * o.tileBytes
    !o.detached && o.extents.all (fun e => tierOf e.1 != 3) && tierOf base == 0 && !bit base 61 && decide (base % 2 ^ 56 + need ≤ clSize) &&
      !(fld b 0x18 0 64 != 0 && o.extents.all fun e => tierOf e.1 == 1)

/-- The reason for which Burin does not mark a descriptor complete (R120, R167, R197, R244). -/
def descReason (s : State) (kind : Nat) (b block : Bytes) : Option Nat :=
  if kind = 1 then
    if fld b 12 8 8 ≤ fld b 12 0 8 ∧ fld b 8 16 8 * fld b 8 24 8 ≤ 2048 ∧ lowestBad (blockFields block) block = none ∧ tailOrder block then none
    else some 3
  else if kind = 2 then (if fld b 8 0 40 ≤ 2 ^ (fld b 8 40 5 + 16) then none else some 3)
  else if windowOk s b then none else some 5

/-! ### Rings (R321) -/

/-- A ring descriptor's fields, for a port. -/
def ringFields (b : Bytes) (port : Nat) : List Fld :=
  let aper := 4096 + fld b 4 0 32 * 2 ^ fld b 8 0 5
  [okFld 0 0 6 (fun v => v / 32 == port), okFld 0 6 2 (· < 2), rsvFld 0 8 24, okFld 4 0 32 (fun v => inRange 16 65536 v && v &&& (v - 1) == 0),
   okFld 8 0 5 (inRange 7 20), rsvFld 8 5 3, okFld 8 8 5 (inRange 6 23), rsvFld 8 13 19, okFld 12 0 16 (inRange 1 4096), rsvFld 12 16 16] ++
  [okFld 0x10 0 64 (fun v => v % 4096 == 0 && decide (v + aper ≤ 2 ^ 28)), okFld 0x18 0 64 (· % 4096 == 0), okFld 0x20 0 64 (· % 8 == 0)] ++
  rsvBytes 0x28 0x3F

/-- A ring's aperture overlaps that of another ring of the port. -/
def apertureClash (s : State) (b : Bytes) : Bool :=
  s.host.rings.any fun r => r.num / 32 == fld b 0 0 6 / 32 && overlaps (fld b 0x10 0 64) (apertureBytes b) r.aperture (apertureBytes r.desc)

/-- Where the backing of a ring is taken in T2; none where the quota or the space does not hold it. -/
def ringBacking (s : State) (b : Bytes) (slice : Nat) : Option Nat :=
  if tierQuota s slice 2 < tierUse s slice 2 + apertureBytes b then none
  else (choosePlace (places s slice 2 (apertureBytes b)) s.drawn).map (· % 2 ^ 62)

/-! ### The set that waits -/

/-- The slice map that will be in force with the set. -/
def nextMap (s : State) : Bytes :=
  (s.setup.next.findSome? fun n => match n.obj with | .sliceMap b => some b | _ => none).getD (sliceMapOf s)

/-- The quota record that will be in force with a composition change: its own, else a staged one, else that in force (R350). -/
def nextQuota (s : State) (i : Nat) : Bytes :=
  match s.setup.next.findSome? (fun n => match n.obj with | .quota j b => if j = i then some b else none | _ => none) with
  | some b => b
  | none => match s.setup.staged.find? fun q => q.1 == i with | some q => q.2 | none => quotaOf s i

/-- The descriptor of a KIND and ID that will be in force with the set. -/
def nextDesc (s : State) (kind id : Nat) : Option Desc :=
  match s.setup.next.findSome? (fun n => match n.obj with
    | .desc k b u => if k = kind ∧ fld b 0 0 16 = id then some (Desc.mk k id b u 0) else none
    | .version k b u => if k = kind ∧ fld b 0 0 16 = id then some (Desc.mk k id b u 0) else none
    | _ => none) with
  | some d => some d
  | none => if s.setup.next.any fun n => n.obj == .remove kind id then none else findDesc s kind id

/-- A shard section entry (R350). -/
def shardOk (s : State) (e : Bytes) : Bool :=
  let table := fld e 0 16 1 == 1
  let a := fld e 8 0 64
  match nextDesc s (if table then 2 else 1) (fld e 0 0 16) with
  | none => false
  | some d =>
    (table || dPolicy d == 1) &&
    (match tileAt s a, tileAt s (a + 131071) with
     | some (o, _), some (o', _) => o.id == o'.id && descSlice s d == some o.slice && tierOf a == 1
     | _, _ => false) &&
    (List.range 65536).all fun i => let w := readNat s (a + 2 * i) 2; w < 512 && inDomain s w

/-- The reason for which Burin does not mark an object complete (R337). -/
def objReason (s : State) (n : Next) : Option Nat :=
  match n.obj with
  | .plate image => if plateOk s image (nextMap s) then none else some 1
  | .clmap _ v => if clmapOk v then none else some 2
  | .bpmap st die v => if bpmapOk (bpmapOf s st die) v then none else some 7
  | .sliceMap m => if sliceMapOk s m (nextQuota s) then none else some 4
  | .desc k b u => descReason s k b u
  | .version k b u => descReason s k b u
  | .ring b sl => if apertureClash s b || (ringBacking s b sl).isNone then some 6 else none
  | .shard e => if shardOk s e then none else some 8
  | .quota _ _ => none
  | .remove _ _ => none
  | .transitOwner _ _ _ => none

/-- Object kind and identifier of a SETUP_REFUSED event (R319); a plate, a bank-pair map and a shard section have no code there: a
free value (log entry 7). -/
def refusedKind (s : State) (n : NextObj) : Nat × Nat :=
  match n with
  | .clmap q _ => (1, q)
  | .desc k b _ => (k + 1, fld b 0 0 16)
  | .version k b _ => (k + 1, fld b 0 0 16)
  | .sliceMap m => (5, fld m 4 0 32)
  | .ring b _ => (6, fld b 0 0 6)
  | _ => (Config.free s.drawn % 256, Config.free (s.drawn + 1) % 2 ^ 32)

/-- Post SETUP_REFUSED to the mailbox that issued an object. -/
def postRefused (s : State) (m : Nat) (n : NextObj) (reason : Nat) : State :=
  let k := refusedKind s n
  postTargeted { s with drawn := s.drawn + 2 } m 4 0 (packBits [(0, 8, k.1), (32, 32, k.2), (64, 16, reason)])

/-- The response data of a refusal: the refusal report of a plate (R333, R373). -/
def refusedData (s : State) (n : NextObj) : Bytes :=
  match n with
  | .plate image => refusalReport s image (nextMap s) (loadPoint image)
  | _ => []

/-- Drop the composition change and what came with it. -/
def dropChange (s : State) : State :=
  { s with setup := { s.setup with change := none, reshard := none, next := s.setup.next.filter (!·.change), complete := false } }

/-- Burin refuses an object: the next copy is discarded, the command completes with S_REFUSED (R333). An object of a composition
change takes the whole change with it. -/
def refuseNext (s : State) (n : Next) (reason : Nat) : State :=
  let reply : Reply := { status := sRefused, detail := reason, resp := refusedData s n.obj }
  let m := if n.change then (match s.setup.reshard with | some r => some r.mailbox | none => s.setup.change.bind Change.mailbox) else n.mailbox
  let s := if n.change then dropChange s else { s with setup := { s.setup with next := s.setup.next.erase n } }
  match m with
  | none => s
  | some m => finish (postRefused s m n.obj reason) m reply

/-- Refuse what breaks its rule, one object after the other. -/
def refuseBad : Nat → State → State
  | 0, s => s
  | k + 1, s =>
    match s.setup.next.findSome? fun n => (objReason s n).map fun r => (n, r) with
    | none => s
    | some (n, r) => refuseBad k (refuseNext s n r)

/-- A bank-pair map of the set whose copy still runs (R117). -/
def copyWaits (s : State) : Bool :=
  s.setup.next.any fun n => match n.obj with | .bpmap st die _ => s.bg.copies.any fun c => c.1 == st && c.2.1 == die | _ => false

/-- Q of R292. -/
def quietFrames (s : State) : Nat := max (depthNow s) 5

/-- A slice of a mask still has a record to answer. -/
def maskOpen (s : State) (mask : Nat) : Bool := recordsOpen s fun r => bit mask r.slice

/-! ### Applying (R19, R42) -/

/-- A setting that the apply of an object leaves in the proof record (R349, R351, R452). -/
def retained (o : NextObj) : List Tlv :=
  match o with
  | .clmap q v => [⟨0x10, q, leBytes 4 v⟩]
  | .bpmap st die v => [⟨0x11, 12 * st + die, leBytes 4 v⟩]
  | _ => []

/-- The action records of some lanes of a plate image, lane by lane. -/
def laneRecords (b : Bytes) (p : Nat → Bool) : Bytes :=
  (List.range (laneCount b)).flatMap fun k =>
    if p (laneFld b k 0 16) then slice b (laneFld b k 32 32) (16 * laneFld b k 64 32) else []

/-- A plate image goes into the other half of the stroke stores and of the plate region (R19, R38). -/
def loadStrokes (s : State) (image : Bytes) : State :=
  let h := b2n (!s.run.half)
  let put := fun (m : Cells Bytes) (c : Nat) => cset [] m (2 * c + h) (laneRecords image fun id => decide (id < 0x100) && id / 8 == c)
  let s := { s with run := { s.run with strokes := (List.range 32).foldl put s.run.strokes } }
  writeMem s (plateAddr + plateBytes / 2 * h) ((laneRecords image fun id => decide (0x100 ≤ id)).take (plateBytes / 2))

/-- The halves that hold the plate come into use; every select unit closes, the MAINT counts restart, and an excess of a slot is reported
anew (R38, R49, R161, R270). -/
def applyPlate (s : State) (image : Bytes) : State :=
  { s with
    fab := { s.fab with excess := [] }
    run := { s.run with plate := some (plateOf image), image := image, half := !s.run.half, maint := [] }
    units := { s.units with select := s.units.select.filterMap fun kv => let u := { kv.2 with isOpen := false }; if u = {} then none else some (kv.1, u) } }

/-- The logical clusters that a cluster map `v` moves, as `old` stood, lose the state of their select units (R161). -/
def dropMoved (old s : State) (q v : Nat) : State :=
  let moved := (List.range 8).filter fun i => bits (clmapOf old q) (4 * i) 4 != bits v (4 * i) 4
  { s with units := { s.units with select := cdrop (fun k => k / 8 == q && moved.contains (k % 8)) s.units.select } }

/-- A cluster map comes into force. -/
def moveClusters (s : State) (q v : Nat) : State := dropMoved s (applyClmap s q v) q v

/-- The frame until which an old version is held (R192, R211, R357). -/
def heldUntil (s : State) : Nat := s.run.frame + depthNow s

/-- Put a descriptor in force; a former one of the same ID is held as the old version. -/
def putDesc (s : State) (kind : Nat) (b block : Bytes) : State :=
  let id := fld b 0 0 16
  let old := (s.setup.descs.filter fun d => d.kind == kind && d.id == id).map fun d => (d, heldUntil s)
  { s with setup := { s.setup with
      descs := s.setup.descs.filter (fun d => !(d.kind == kind && d.id == id)) ++ [⟨kind, id, b, block, s.run.frame⟩]
      oldDescs := s.setup.oldDescs ++ old
      shardMaps := s.setup.shardMaps.filter fun m => !(m.1 == (kind == 2) && m.2.1 == id) } }

/-- The merges of an index end (R192). -/
def endMerges (s : State) (ix : Nat) : State :=
  { s with bg := { s.bg with
      merges := s.bg.merges.filter (·.index != ix)
      items := s.bg.items.filter fun i => match i.work with | .merge x _ _ => x != ix | _ => true } }

/-- Leaves that a node's leaf directory has room for. -/
def dirLeaves (s : State) (d : Desc) (node : Nat) : Nat :=
  let base := leafDirAddr s d node 0
  match tileAt s base with
  | none => 0
  | some (o, _) =>
    match o.extents.find? fun e => decide (e.1 ≤ base) && decide (base < e.1 + extentBytes o.payload e.2) with
    | none => 0
    | some e => (e.1 + (if o.detached then e.2 * o.payload else extentBytes o.payload e.2) - base) / 64

/-- A projection tuned in place: the new version keeps the leaves and changes the projection, so each leaf is sketched again (R194). -/
def resketch (s : State) (kind : Nat) (old : Option Desc) (b : Bytes) : State :=
  match old with
  | none => s
  | some d =>
    if kind = 1 ∧ fld d.bytes 0x28 0 64 = fld b 0x28 0 64 ∧ fld d.bytes 0x20 0 64 ≠ fld b 0x20 0 64 then
      (List.range (dirLeaves s d (nodeId s))).foldl (fun s l =>
        let e := leafEntry s d (nodeId s) l
        if e.all (· == 0) then s else addItem s 4 (.resketch d.id l) (chLane (leafChan e)) false 1) s
    else s

/-- Open a ring: its backing, its control block at 0 (R321, R322). -/
def openRing (s : State) (b : Bytes) (slice backing : Nat) : State :=
  let r : Ring := { num := fld b 0 0 6, desc := b, slice := slice, backing := backing, isOpen := true, paused := false, badProducer := false
                    closing := false, consumer := 0, lost := 0, sampled := 0, records := [], done := 0 }
  { s with host := { s.host with
      rings := s.host.rings.filter (fun q => q.num < r.num) ++ [r] ++ s.host.rings.filter (fun q => r.num < q.num)
      bar2 := csetN 0#8 s.host.bar2 (r.port * 2 ^ 28 + r.aperture) (List.replicate 64 0#8) } }

/-- Open a stream ring whose backing has a place (R321). -/
def openAt (s : State) (b : Bytes) (slice : Nat) (backing : Option Nat) : State :=
  match backing with
  | some a => openRing s b slice a
  | none => s

/-- The new owner of a shard is in the shard table from its boundary (R215). -/
def applyOwner (s : State) (table shard owner : Nat) : State :=
  match findDesc s 2 table with
  | none => s
  | some d => writeNode s [(shardTableIn s.setup.shardMaps d + 2 * shard, leBytes 2 owner)]

/-- Apply one object. -/
def applyObj (s : State) (o : NextObj) : State :=
  match o with
  | .plate image => applyPlate s image
  | .clmap q v => moveClusters s q v
  | .bpmap st die v =>
    let s := if bit v 5 then logFault s { code := 0x13, event := false, dom := 9 + st, unit := 0x700 + 12 * st + die, arg0 := 32 * die + v % 32 } else s
    { s with setup := { s.setup with bpmap := cset 0 s.setup.bpmap (12 * st + die) v } }
  | .sliceMap m => { s with setup := { s.setup with sliceMap := m, phase := fld m 8 0 2, job := fld m 0x10 0 64 } }
  | .quota i b => { s with setup := { s.setup with quota := cset [] s.setup.quota i b, staged := s.setup.staged.filter (·.1 != i) } }
  | .desc k b u => putDesc s k b u
  | .version k b u =>
    let old := findDesc s k (fld b 0 0 16)
    let s := putDesc s k b u
    resketch (if k = 1 then endMerges s (fld b 0 0 16) else s) k old b
  | .remove k id =>
    { s with setup := { s.setup with
        descs := s.setup.descs.filter fun d => !(d.kind == k && d.id == id)
        oldDescs := s.setup.oldDescs ++ (s.setup.descs.filter fun d => d.kind == k && d.id == id).map fun d => (d, heldUntil s) } }
  | .ring b sl => openAt s b sl (ringBacking s b sl)
  | .shard e =>
    let table := fld e 0 16 1 == 1
    let id := fld e 0 0 16
    { s with setup := { s.setup with shardMaps := s.setup.shardMaps.filter (fun m => !(m.1 == table && m.2.1 == id)) ++ [(table, id, fld e 8 0 64)] } }
  | .transitOwner table shard owner => applyOwner s table shard owner

/-- The switch of a TAIL index to a version whose CUT_SN an admitted update record has passed (R193). -/
def cutPassed (s : State) (n : NextObj) : Bool :=
  match n with
  | .version k b u =>
    (match findDesc s 1 (fld b 0 0 16) with
     | some d => k == 1 && dPolicy d == 1 && beyondCut s d.id (fld u 0x30 0 48)
     | none => false)
  | _ => false

/-- Apply one next copy and complete its command; a ring whose place has gone meanwhile is refused (R321), and a version switch that update records have
overtaken changes nothing (R193). -/
def applyItem (s : State) (n : Next) : State :=
  match objReason s n, n.obj, n.change with
  | some 6, .ring _ _, _ => refuseNext s n 6
  | _, _, change =>
   if cutPassed s n.obj then
    (match n.mailbox with | some m => finish s m { status := sBadState, detail := 4 } | none => s)
   else
    let s := applyObj s n.obj
    let s := if (retained n.obj).isEmpty then s else retain s (retained n.obj)
    match n.mailbox, change with
    | some m, false => finish s m { status := sOk }
    | _, _ => s

/-! ### A composition change (R288 to R303) -/

/-- A map takes the channel or cluster of an address from the slice of an object (R303). -/
def mapTakes (target : Bytes) (o : Obj) (a : Nat) : Bool :=
  (match channelOf a with | some c => !bit (sliceStacks target o.slice) c | none => false) ||
    (match clusterOf a with | some c => !bit (sliceClusters target o.slice) c | none => false)

/-- The moves of a re-shard (R303): a tile moves where its object's tier or slice resources differ under the target map: its extents lie
in a channel or cluster that the object's slice does not hold there. -/
def reshardMoves (s : State) (target : Bytes) : List (Nat × Nat) :=
  s.mem.objs.flatMap fun o => (List.range o.tiles).filterMap fun t =>
    match tileAddr o t with
    | none => none
    | some (h, _) =>
      if mapTakes target o h then some (o.id, t) else none

/-- The lane in whose MAINT steps a tile moves. -/
def moveLaneOf (s : State) (obj t : Nat) : Nat :=
  match (findObj s obj).bind fun o => tileAddr o t with
  | some (h, _) => (match channelOf h with | some c => 0x200 + c | none => edgeLane)
  | none => edgeLane

/-- The package held for a phase, and its slice map. -/
def phasePackage (s : State) (ph : Nat) : Option Bytes := (s.setup.phaseMaps.find? fun p => p.1 == ph).map Prod.snd
def packageMap (b : Bytes) : Bytes := slice b (fld b 8 0 32) 1088
def packagePlate (b : Bytes) : Bytes := slice b (fld b 0x10 0 32) (fld b 0x14 0 32)

/-- The parts of a package as next copies; its slice map takes the epoch given (R350). -/
def packageNext (b : Bytes) (epoch : Nat) : List Next :=
  let mk := fun (o : NextObj) => Next.mk o none true
  let q := fld b 12 0 32
  let sh := fld b 0x18 0 32
  [mk (.sliceMap (patch (packageMap b) 4 (leBytes 4 epoch)))] ++
  (if q = 0 then [] else (List.range 16).map fun i => mk (.quota i (slice b (q + 32 * i) 32))) ++
  ((List.range (fld b 0x1C 0 16)).map fun i => mk (.shard (slice b (sh + 16 * i) 16))) ++ [mk (.plate (packagePlate b))]

/-- What a plate image says of a slice's lanes: lane table entries and action records. -/
def laneImage (b : Bytes) (i : Nat) : List Bytes :=
  (List.range (laneCount b)).filterMap fun k =>
    if laneFld b k 16 4 = i then
      some (slice b (fld b 0x18 0 32 + 16 * k) 16 ++ slice b (laneFld b k 32 32) (16 * laneFld b k 64 32))
    else none

/-- The slices changed by a set of next copies (R291), as a mask. -/
def changedMask (s : State) (ns : List Next) : Nat :=
  let s' : State := { s with setup := { s.setup with next := s.setup.next ++ ns } }
  let old := sliceMapOf s
  let new := nextMap s'
  let image := (ns.findSome? fun n => match n.obj with | .plate b => some b | _ => none).getD s.run.image
  ((List.range 16).filter fun i =>
    slice old (64 + 64 * i) 64 != slice new (64 + 64 * i) 64 || quotaOf s i != nextQuota s' i || laneImage s.run.image i != laneImage image i ||
      s.setup.next.any (fun n => nextSlice s n == some i)).foldl (fun m i => m + 2 ^ i) 0

/-- Accept a composition change (R292); a plate it brings goes into the half of the stores that is not in use (R38). -/
def acceptChange (s : State) (epoch : Nat) (mailbox : Option Nat) (ns : List Next) : State :=
  let s := ns.foldl (fun s n => match n.obj with | .plate b => loadStrokes s b | _ => s) s
  { s with setup := { s.setup with
      change := some { epoch := epoch, frame := s.run.frame, mailbox := mailbox, changed := changedMask s ns, quiesced := false }
      next := s.setup.next ++ ns, complete := false } }

/-- Rings of slices that no longer exist close; their slices are named to slice 0 (R322). -/
def closeLostRings (s : State) : State :=
  s.host.rings.foldl (fun s r =>
    if sliceValid (sliceMapOf s) r.slice || r.closing then s
    else ringError (setRing s { r with isOpen := false, closing := true, records := [] }) r 2) s

/-- The end of a change: staged quotas, the epoch in the slice map, the settings, the EPOCH event, custody (R240, R288, R295, R299,
R351). -/
def endChange (s : State) (c : Change) (ns : List Next) : State :=
  let s := s.setup.staged.foldl (fun s q => { s with setup := { s.setup with quota := cset [] s.setup.quota q.1 q.2 } }) s
  let map := patch (sliceMapOf s) 4 (leBytes 4 c.epoch)
  let staged := s.setup.staged.map Prod.fst
  let own := ns.filterMap fun n => match n.obj with | .quota i _ => some i | _ => none
  let s := { s with setup := { s.setup with sliceMap := map, staged := [] } }
  let s := retain s (⟨0x20, 0, map⟩ :: (staged ++ own).map fun i => ⟨0x21, i, cget [] s.setup.quota i⟩)
  let s := postAll s 2 0 (packBits [(0, 32, c.epoch), (32, 2, s.setup.phase), (48, 16, c.changed)])
  closeLostRings (releaseCustody s)

/-- The composition map in force as a package of R350: slice map, quota records, shard maps, plate (R288). -/
def mapPackage (s : State) : Bytes :=
  let shards := s.setup.shardMaps.flatMap fun m => layoutBytes 16 [(0, 4, m.2.1 + 65536 * b2n m.1), (8, 8, m.2.2)]
  let off := 64 + 1088 + 512 + shards.length
  layoutBytes 64 [(0, 4, 0x434D5053), (4, 4, s.setup.epoch), (8, 4, 64), (12, 4, 1152), (16, 4, off), (20, 4, s.run.image.length), (24, 4, 1664),
    (28, 2, s.setup.shardMaps.length)] ++
  patch (slice (sliceMapOf s) 0 1088) 4 (leBytes 4 s.setup.epoch) ++ ((List.range 16).flatMap fun i => slice (quotaOf s i) 0 32) ++ shards ++ s.run.image

/-- A node that is being readmitted takes the map in force from its partner, where its own map is of another epoch (R295). A part that its rule refuses is left out. -/
def takeMap (s : State) (b : Bytes) : State :=
  let e := fld b 4 0 32
  if statusOf s (nodeId s) ≠ 2 ∨ fld (sliceMapOf s) 4 0 32 = e then s
  else
    (packageNext b e).foldl (fun s n =>
      if (objReason s n).isSome then s
      else match n.obj with
        | .plate image => applyPlate (loadStrokes s image) image
        | o => applyObj s o) { s with setup := { s.setup with epoch := e } }

/-- Re-shard at the boundary of E + 1: the moves are queued; with none to make, the event that ends them follows (R303). -/
def startMoves (s : State) (r : Reshard) : State :=
  let target := packageMap ((phasePackage s r.target).getD [])
  let s := { s with setup := { s.setup with reshard := some { r with moving := true } } }
  (reshardMoves s target).foldl (fun s m => addItem s 3 (.reshardMove m.1 m.2) (moveLaneOf s m.1 m.2) false 1) s

/-- The shards that a set of next copies moves: table, shard, the owner before, the owner after (R217). -/
def shardMoves (s : State) (ns : List Next) : List (Desc × Nat × Nat × Nat) :=
  ns.filterMap fun n => match n.obj with
    | .transitOwner table shard owner => (findDesc s 2 table).map fun d => (d, shard, shardOwner s d shard, owner)
    | _ => none

/-- The transit of this node whose map change has applied ends (R217). -/
def closeTransit (s : State) (table shard : Nat) : State :=
  match s.bg.transit with
  | some t =>
    if t.table = table ∧ t.shard = shard then
      tellTransit (endTransit { s with bg := { s.bg with transit := none } } t { status := sOk }) table false
    else s
  | none => s

/-- What the moved shards of an applied set change (R217). -/
def applyTransit (s : State) (ms : List (Desc × Nat × Nat × Nat)) : State :=
  ms.foldl (fun s m => closeTransit (moveShard s m.1 m.2.1 m.2.2.1 m.2.2.2) m.1.id m.2.1) s

/-- The complete set of next copies replaces the copies in use (R19, R42). -/
def applyNext (s : State) : State :=
  let ns := s.setup.next
  let c := s.setup.change
  let s := { s with setup := { s.setup with next := s.setup.later, later := [], complete := false, change := none } }
  let s := match c with
    | some c => { s with setup := { s.setup with
        epoch := c.epoch, epochAt := s.run.frame, oldMap := sliceMapOf s, oldShardMaps := s.setup.shardMaps } }
    | none => s
  let ms := shardMoves s ns
  let s := ns.foldl applyItem s
  match c with
  | none => s
  | some c =>
    let s := applyTransit (endChange s c ns) ms
    match s.setup.reshard with
    | some r =>
      if r.moving then
        finish { s with setup := { s.setup with reshard := none } } r.mailbox { status := sOk }
      else startMoves s r
    | none => match c.mailbox with
      | some m => finish s m { status := sOk }
      | none => s

/-! ### The commands -/

/-- Objects that break a rule are refused; then the set is complete unless a copy runs. With no plate running it applies at once. -/
def markSet (s : State) : State :=
  let s := refuseBad s.setup.next.length s
  if s.setup.next.isEmpty || copyWaits s then s
  else if s.run.running then { s with setup := { s.setup with complete := true } }
  else applyNext s

/-- R19, R117, R333: Burin marks the next copies complete, or refuses them. A composition change waits for its quiet (R292). -/
def execSetupMarkComplete (s : State) : Host.Outcome State Fault Refusal :=
  if !burinUp s || s.setup.next.isEmpty || (s.setup.complete && s.run.running) then .next s
  else if s.setup.change.isSome then .next (refuseBad s.setup.next.length s)
  else .next (markSet s)

/-- R292: every changed slice is quiet, and the change is complete. -/
def execSliceQuiet (s : State) : Host.Outcome State Fault Refusal :=
  match s.setup.change with
  | none => .next s
  | some c =>
    if !burinUp s || s.setup.complete || c.abandoned || (s.run.running && !c.quiesced) || maskOpen s c.changed then .next s else .next (markSet s)

/-- R294: a change that has not applied within 4 × (Q + 1) frames is abandoned: the arm of the frame reports COMPLETE 0, and the next boundary discards it. One
that an arm has already reported complete is not. -/
def execComposeAbandon (s : State) : Host.Outcome State Fault Refusal :=
  match s.setup.change with
  | none => .next s
  | some c =>
    if !s.run.running || s.run.frame < c.frame + 4 * (quietFrames s + 1) || (s.fab.armed && s.setup.complete) then .next s
    else .next { s with setup := { s.setup with complete := false, change := some { c with abandoned := true } } }

/-- The boundary at which an abandoned change is discarded: its command completes with S_TIMEOUT (R294). -/
def dropAbandoned (s : State) : State :=
  match s.setup.change with
  | none => s
  | some c =>
    if !c.abandoned then s
    else
      let m := match s.setup.reshard with | some r => some r.mailbox | none => c.mailbox
      match m with
      | some m => finish (dropChange s) m { status := sTimeout }
      | none => dropChange s

/-- R303: the last move of a re-shard has finished: the target map becomes a next copy with epoch E + 2. -/
def execReshardMovesDone (s : State) : Host.Outcome State Fault Refusal :=
  match s.setup.reshard with
  | none => .next s
  | some r =>
    let left := s.bg.items.any fun i => match i.work with | .reshardMove _ _ => true | _ => false
    if !r.moving || left || s.setup.change.isSome then .next s
    else match phasePackage s r.target with
      | none => .next s
      | some b => .next (acceptChange s (s.setup.epoch + 1) none (packageNext b (s.setup.epoch + 1)))

end Sys2Proof.Machine
end

