-- ==== Sys2Proof/Machine/Quarantine.lean ====
section
/-!
DEFINITION. Quarantine at a boundary (R400, R401): fencing a unit whose condition matches an entry of the fault map, and lifting it.
-/
namespace Sys2Proof.Machine

/-- Fence a unit at a boundary (R400): as without a plate; the moved clusters' select units are lost (R161), a flash channel is lost with what waits for it
(R251), and a port's links fail over to their parallels (R273). -/
def fenceNow (s : State) (unit arg : Nat) : Option State :=
  let q : State → State := fun s => { s with faults := { s.faults with quarantined := s.faults.quarantined ++ [⟨unit, 0, 0, none⟩] } }
  if 0x300 ≤ unit ∧ unit < 0x318 then some (loseChannel (q s) (unit - 0x300))
  else if 0x400 ≤ unit ∧ unit < 0x408 then
    some ((List.range 4).foldl (fun s i => let k := 4 * (unit - 0x400) + i; if (getLink s k).state = 3 then failLink s k 8 else s) (q s))
  else if 0x1000 ≤ unit ∧ unit < 0x1120 then
    (fence s unit arg).map fun t =>
      let v := clmapOf t (quadOf unit)
      if v = clmapOf s (quadOf unit) then t else dropMoved s t (quadOf unit) v
  else fence s unit arg

/-- One entry of the map at a boundary. -/
def testEntry (s : State) (e : FaultEntry) : State :=
  if e.perm then s
  else if conditionMatches s e then
    if isQuarantined s e.unit then
      { s with faults := { s.faults with quarantined := s.faults.quarantined.map fun q =>
        if q.unit = e.unit then { q with freed := none } else q } }
    else
      let rec' : FaultInfo := { code := 0x11, event := true, dom := unitDomain e.unit, unit := e.unit, arg0 := e.arg }
      match fenceNow s e.unit e.arg with
      | some s' => logFault s' rec'
      | none =>
        let s := if 0x200 ≤ e.unit ∧ e.unit < 0x260 then bankPairFailed s ((e.unit - 0x200) / 16) (e.arg / 32 % 12) (e.arg % 32) else s
        let s := logFault s { code := 0x12, event := true, dom := unitDomain e.unit, unit := e.unit, arg0 := e.arg }
        { s with node := { s.node with faultAt := true } }
  else s

/-- The quarantines at a boundary (R400): fence what matches; note since when a condition has failed to match. -/
def quarantineStep (s : State) : State :=
  let s := s.faults.map.foldl testEntry s
  { s with faults := { s.faults with quarantined := s.faults.quarantined.map fun q =>
    if (s.faults.map.any fun e => e.unit == q.unit && conditionMatches s e) then { q with freed := none }
    else { q with freed := some (q.freed.getD s.power.ms) } } }

/-- R400: the condition has failed to match for 60 s, and the original map returns. -/
def execQuarantineLift (unit : BitVec 16) (s : State) : Host.Outcome State Fault Refusal :=
  let u := unit.toNat
  match s.faults.quarantined.find? fun q => q.unit == u with
  | none => .next s
  | some q =>
    match q.freed with
    | none => .next s
    | some t =>
      if s.power.ms < t + 60000 then .next s
      else
        let s := { s with faults := { s.faults with quarantined := s.faults.quarantined.erase q } }
        let s := if 0x1000 ≤ u then
            (if (s.faults.quarantined.any fun o => decide (0x1000 ≤ o.unit) && o.quad == q.quad && physOf o.unit == physOf u) then s
             else moveClusters s q.quad q.clmap)
          else if u < 0x400 then { s with flash := { s.flash with lost := cset false s.flash.lost (u - 0x300) false } }
          else { s with fab := { s.fab with links := (List.range 4).foldl (fun l i =>
            let k := 4 * (u - 0x400) + i
            if (cget noLink l k).state = 8 then cmod noLink l k fun x => { x with state := 3 } else l) s.fab.links } }
        .next (logFault s { code := 0x11, event := true, dom := unitDomain u, unit := u })

end Sys2Proof.Machine
end

