-- ==== Sys2Proof/Machine/Background.lean ====
section
/-!
DEFINITION. Background work: what a MAINT step does for an item (R48, R49, R195, R216, R303), merges and their switch (R188 to R192),
load windows (R213, R214), the end of a transit's copy (R217) and of a rebuild (R254).
-/
namespace Sys2Proof.Machine

/-! ### Tiles that move (R243, R303) -/

/-- Take tile `t` out of extents as an extent of its own. -/
def splitExtents (pl : Nat) : List (Nat × Nat) → Nat → Nat → List (Nat × Nat)
  | [], _, _ => []
  | (a, n) :: r, t, tgt =>
    if t < n then
      (if t = 0 then [] else [(a, t)]) ++ [(tgt, 1)] ++ (if t + 1 < n then [(a + extentBytes pl (t + 1), n - t - 1)] else []) ++ r
    else (a, n) :: splitExtents pl r (t - n) tgt

/-- A copy of a tile verifies it (R233): what is wrong is a finding, unless a rebuild of the tile waits already (R252). -/
def checkTile (s : State) (o : Obj) (t lane k : Nat) : State :=
  if tileGood s o t || s.bg.items.any (fun i => i.work == .rebuild o.id t) then s else poisonFinding s o.id t lane k

/-- Copy bytes with their poison marks. -/
def copyMarked (s : State) (from' tgt n : Nat) : State := setMarks (writeMem s tgt (readMem s from' n)) tgt (marksOf s from' (n / 32))

/-- A move is counted for the slice of its object (R462). -/
def copyCounted (s : State) (sl from' tgt n : Nat) : State :=
  countMoved (countMoved (copyMarked s from' tgt n) (some sl) from' n false) (some sl) tgt n true

/-- Move one tile, or a detached object whole, to a place of its tier that its slice holds under the target map (R303). Which place,
the manual does not give (log entry 7). -/
def moveTile (s : State) (target : Bytes) (obj t : Nat) : State :=
  match findObj s obj with
  | none => s
  | some o =>
    match tileAddr o t with
    | none => s
    | some (h, _) =>
      if !mapTakes target o h then s
      else
        let s' : State := { s with setup := { s.setup with sliceMap := target } }
        let put := fun (s : State) (es : List (Nat × Nat)) =>
          { s with mem := { s.mem with objs := s.mem.objs.map fun q => if q.id = obj then { q with extents := es } else q }, drawn := s.drawn + 1 }
        if o.detached then
          match o.extents, choosePlace (places s' o.slice (tierOf h) (extentBytes o.payload o.tiles)) s.drawn with
          | (a, n) :: r, some tgt => put (copyCounted s o.slice a tgt (extentBytes o.payload n)) ((tgt, n) :: r)
          | _, _ => s
        else
          match choosePlace (places s' o.slice (tierOf h) (extentBytes o.payload 1)) s.drawn with
          | some tgt => put (copyCounted s o.slice h tgt (extentBytes o.payload 1)) (splitExtents o.payload o.extents t tgt)
          | none => s

/-- The map a running re-shard moves to. -/
def reshardTarget (s : State) : Bytes :=
  match s.setup.reshard with
  | some r => packageMap ((phasePackage s r.target).getD [])
  | none => sliceMapOf s

/-- At a boundary the tiles that MAINT steps have moved take their new extents, and their items end (R243). -/
def landMoves (s : State) : State :=
  let past := fun (i : Item) => match i.work with | .reshardMove _ _ => i.left == 0 | _ => false
  let s' := (s.bg.items.filter past).foldl (fun s i => match i.work with
    | .reshardMove o t =>
      let s := match findObj s o with | some x => checkTile s x t i.lane 0 | none => s
      count (moveTile s (reshardTarget s) o t) 0 12 (i.cls - 1) 1 1
    | _ => s) s
  { s' with bg := { s'.bg with items := s'.bg.items.filter (!past ·) } }

/-! ### A transit's copy (R216) -/

/-- A row of a shard with its state. -/
def transitRow (s : State) (d : Desc) (shard place : Nat) : Bytes :=
  let blk := shardBlock s d shard
  readAny s (rowAddr d.bytes blk place) (rowBytes d.bytes) ++ readAny s (stateAddr d.bytes blk shard place) (rowState d.bytes)

/-- Send one row to the new owner and to its partner, as far as they are other nodes. -/
def sendRow (s : State) (t : Transit) (d : Desc) (place : Nat) : State :=
  let m := fun (n : Nat) => BulkMsg.mk (BitVec.ofNat 16 (domainNumber s)) (Fin.ofNat 512 (nodeId s)) (BitVec.ofNat 16 (domainNumber s))
    (Fin.ofNat 512 n) false (.shardRow (BitVec.ofNat 16 t.table) (BitVec.ofNat 16 t.shard) (BitVec.ofNat 24 place) (transitRow s d t.shard place))
  ((withPartner s t.owner).filter (· != nodeId s)).foldl (fun s n => sendBulk s (m n)) s

/-- The copy advances its cursor by one row. -/
def transitStep (s : State) (table shard : Nat) : State :=
  match s.bg.transit, findDesc s 2 table with
  | some t, some d =>
    if t.table ≠ table ∨ t.shard ≠ shard ∨ t.submitted ∨ shardRows d.bytes shard ≤ t.cursor then s
    else
      let blk := shardBlock s d shard
      let sl := descSlice s d
      let s := countMoved (sendRow s t d t.cursor) sl (rowAddr d.bytes blk t.cursor) (rowBytes d.bytes) false
      let s := countMoved s sl (stateAddr d.bytes blk shard t.cursor) (rowState d.bytes) false
      { s with bg := { s.bg with transit := some { t with cursor := t.cursor + 1 } } }
  | _, _ => s

/-! ### MAINT steps -/

/-- Remove an item that is done (R461). -/
def endItem (s : State) (i : Item) : State :=
  count { s with bg := { s.bg with items := s.bg.items.filter fun j => j.num != i.num } } 0 12 (i.cls - 1) 1 1

/-- `n` free bytes (log entry 7). -/
def freeBytes (s : State) (n : Nat) : Bytes := (List.range n).map fun i => BitVec.ofNat 8 (Config.free (s.drawn + i))

/-- Write free bytes. -/
def writeFree (s : State) (a n : Nat) : State := { writeMem s a (freeBytes s n) with drawn := s.drawn + n }

/-- What a node unit writes in a lane's step, with the headers of the tiles it closes (R232): visible `k` steps later (R26). -/
def writeNodeIn (s : State) (k : Nat) (ws : List (Nat × Bytes)) : State :=
  let after := writeNode s ws
  let hdrs := ((ws.flatMap fun w => tilesTouched s w.1 w.2.length).eraseDups).filterMap fun x => (tileAddr x.1 x.2).map fun a => (a.1, readMem after a.1 32)
  (ws ++ hdrs).foldl (fun s w => later s k (.mem w.1 w.2 [])) s

/-- A slot can be read: it is staged, its unit is there, or its stripe rebuilds it (R251). -/
def slotThere (s : State) (e : Nat) : Bool :=
  seStaged e || !chanLost s (slotChannel e) || (rebuildSlot s (seStripe e) (seIndex e)).isSome

/-- Rewrite slots through staging, as far as they can be read (R248, R251); a copy keeps POISONED (R252). Only a reclaim serves a slice (R462). -/
def rewriteSlots (s : State) (serves : Bool) (p : Nat → Bool) : State :=
  (s.flash.slotMap.filter fun kv => seValid kv.2 && !seStaged kv.2 && p kv.2 && slotThere s kv.2).foldl (fun s kv =>
    let sl := match tileAt s (3 * 2 ^ 62 + slotBytes * kv.1) with | some (o, _) => o.slice | none => 0
    writeSlot (countSlotRead s (if serves then some sl else none) (slotChannel kv.2)) sl kv.1 (slotData s kv.1) (sePoisoned kv.2)) s

/-- Send a tile to the partner that is being loaded (R429); it is checked as a tile that moves (R233). -/
def sendTile (s : State) (obj t : Nat) : State :=
  match partner s, findObj s obj with
  | some p, some o =>
    (match readTile s o t with
     | some (h, pl) =>
       let dom := BitVec.ofNat 16 (domainNumber s)
       let m : BulkMsg := ⟨dom, Fin.ofNat 512 (nodeId s), dom, Fin.ofNat 512 p, false, .tile (BitVec.ofNat 32 obj) (BitVec.ofNat 32 t) (h ++ pl)⟩
       countTile (sendBulk s m) none o t false
     | none => s)
  | _, _ => s

/-- What an item has done when its last MAINT step is over: the live slots of a lost channel or of a reclaimed stripe are rewritten (R248,
R251), a leaf has new sketches and code rows, which are free values here (R194; log entry 7), a tile is sent (R429). -/
def finishWork (s : State) (w : Work) (lane : Nat) : State :=
  match w with
  | .parity fc => if chanLost s fc then rewriteSlots s false (fun e => slotChannel e == fc) else s
  | .reclaim st =>
    let s := rewriteSlots s true (fun e => seStripe e == st)
    { s with flash := { s.flash with erasing := s.flash.erasing ++ [(st, s.run.frame + depthNow s)] } }
  | .resketch ix leaf =>
    (match findDesc s 1 ix with
     | none => s
     | some d =>
       let b := leafBlock (leafEntry s d (nodeId s) leaf)
       let n := b.count * (sketchBits (dWidth d) / 8)
       let m := b.count * codeRow d
       let bs := freeBytes s (n + m)
       let sl := descSlice s d
       let s := countMoved (countMoved s sl (b.sketchAt d 0) n true) sl (b.codeAt d 0) m true
       writeNodeIn { s with drawn := s.drawn + n + m } 1 [(b.sketchAt d 0, bs.take n), (b.codeAt d 0, bs.drop n)])
  | .load o t => sendTile (match findObj s o with | some x => checkTile s x t lane 0 | none => s) o t
  | .rebuild _ _ => s
  | .merge _ _ _ => s
  | .spareCopy _ _ => s
  | .transitCopy _ _ => s
  | .reshardMove _ _ => s
  | .scrub _ => s

/-- The stack channel of a lane. -/
def unitChan (lane : Nat) : Chan := ⟨Fin.ofNat 6 ((lane - 0x200) / 16), Fin.ofNat 16 lane⟩

/-- What a MAINT step reads of a stack channel, 4 granules from address `a` (R95, R112, R113): corrected columns are counted, and written back as they are
held; one that cannot be corrected loses its data, takes a poison mark, and its tile is a finding. -/
def readStack (s : State) (lane a : Nat) (ecc : Ecc) : State :=
  let s := countMoved (count s (laneDomain lane) 4 (lane - 0x200) 4 (popCount 4 ecc.corrected.toNat)) none a 128 false
  (List.range 4).foldl (fun s i =>
    if !bit ecc.uncorrectable.toNat i then s
    else
      let g := a + 32 * i
      let s := later { s with drawn := s.drawn + 32 } 1 (.mem g (freeBytes s 32) [true])
      match tileAt s g with
      | some (o, t) => if s.bg.items.any (fun j => j.work == .rebuild o.id t) then s else poisonFinding s o.id t lane 1
      | none => s) s

/-- MAINT steps of a pass over a bank pair. -/
def pairSteps : Nat := copyGranules / 4

/-- The tiles whose payload ends among the 4 granules from `a`: the scrub has read them whole, and checks them (R233). -/
def checkEnds (s : State) (lane a : Nat) : State :=
  (List.range 4).foldl (fun s i => match tileAt s (a + 32 * i) with
    | some (o, t) => (match tileAddr o t with
      | some (_, p) => if p + o.payload = a + 32 * i + 32 then checkTile s o t lane 1 else s
      | none => s)
    | none => s) s

/-- One step of a scrub pass over a bank pair, 24 × channel + position, with `left` steps to go (R194). -/
def scrubStep (s : State) (lane pair left : Nat) (ecc : Ecc) : State :=
  let a := pairAddr (unitChan lane) (pair % 24) + 128 * (pairSteps - left)
  checkEnds (readStack s lane a ecc) lane a

/-- One step of the copy of a bank pair into its die's spare: 4 granules (R117). The model holds a bank pair by its place in the chain, and so what is
copied is one place with what it is copied to. -/
def copyStep (s : State) (lane stack die : Nat) (ecc : Ecc) : State :=
  match s.bg.copies.find? fun c => c.1 == stack && c.2.1 == die with
  | none => s
  | some (_, _, tgt, n) =>
    if copyGranules ≤ n then s
    else
      let s := readStack s lane (pairAddr (unitChan lane) (2 * die + tgt % 2) + 32 * n) ecc
      { s with bg := { s.bg with copies := s.bg.copies.map fun c => if c.1 = stack ∧ c.2.1 = die then (stack, die, tgt, n + 4) else c } }

/-- A tile's bytes by the stripes' parity: each slot it lies in rebuilt, or as staging still holds it (R246, R254). -/
def parityRead (s : State) (a n : Nat) : Option Bytes :=
  let got := (slotsOf (a % 2 ^ 48) n).map fun k =>
    let e := slotEntry s k
    if seStaged e then some (slotData s k) else rebuildSlot s (seStripe e) (seIndex e)
  if got.all Option.isSome then some (slice ((got.filterMap id).flatten) (a % slotBytes) n) else none

/-- Bytes of a clean copy in T3, read with parity where needed (R254). -/
def cleanRead (s : State) (a n : Nat) : Option Bytes :=
  if (slotsOf (a % 2 ^ 48) n).all fun k => slotThere s (slotEntry s k) && !sePoisoned (slotEntry s k) then some (readT3 s (a % 2 ^ 48) n)
  else parityRead s a n

/-- A rebuilt tile that R233 lets pass. -/
def soundTile (o : Obj) (b : Bytes) : Bool := b.length == 32 + o.payload && tagOk (b.take 32) (b.drop 32) && fld b 0 10 1 == 0

/-- The first source of a rebuild (R254): stripe parity for a tile in T3, else the HOME copy, which the model takes to lie as one extent of the object
would (log entry 89). -/
def ownSource (s : State) (o : Obj) (t : Nat) : Option Bytes :=
  let home := fld o.desc 0x10 0 64
  let put := fun (h p : Option Bytes) => match h, p with | some h, some p => some (h ++ p) | _, _ => none
  let here := match tileAddr o t with
    | some (h, p) => if tierOf h = 3 then put (parityRead s h 32) (parityRead s p o.payload) else none
    | none => none
  let copy := if home = 0 then none else match tileIn o.detached o.payload [(home, o.tiles)] t with
    | some (h, p) => put (cleanRead s h 32) (cleanRead s p o.payload)
    | none => none
  (here.filter (soundTile o)).or (copy.filter (soundTile o))

/-- The partner is asked for a tile that a rebuild needs (R254). -/
def askTile (s : State) (p obj t : Nat) : State :=
  sendRemote { s with bg := { s.bg with asked := s.bg.asked ++ [(obj, t)] } } p (.wantTile (BitVec.ofNat 32 obj) (BitVec.ofNat 32 t))

/-- A rebuild's MAINT step (R254): where the node's own source fails, the partner is asked. -/
def rebuildStep (s : State) (i : Item) (obj t : Nat) : State :=
  let s := { s with bg := { s.bg with items := s.bg.items.map fun j => if j.num = i.num then { j with left := 0 } else j } }
  match findObj s obj, partner s with
  | some o, some p => if (ownSource s o t).isSome then s else askTile s p obj t
  | _, _ => s

/-- The partner asks for a tile that it rebuilds: it comes by BULK, checked under R233, or the answer is that there is none (R254). -/
def answerTile (s : State) (obj t : Nat) : State :=
  match partner s with
  | none => s
  | some p =>
    let no := sendRemote s p (.noTile (BitVec.ofNat 32 obj) (BitVec.ofNat 32 t))
    match findObj s obj with
    | none => no
    | some o => if decide (t < o.tiles) && tileGood s o t then sendTile s obj t else no

/-- Give one MAINT step to an item (R195, R461). -/
def serveItem (s : State) (i : Item) (ecc : Ecc) : State :=
  let s := count s 0 12 (i.cls - 1) 4 1
  let less := fun (s : State) => { s with bg := { s.bg with items := s.bg.items.map fun j => if j.num = i.num then { j with left := j.left - 1 } else j } }
  let plain := if i.left ≤ 1 then finishWork (endItem s i) i.work i.lane else less s
  match i.work with
  | .transitCopy table shard => transitStep s table shard
  | .reshardMove _ _ => less s
  | .rebuild obj t => rebuildStep s i obj t
  | .spareCopy stack die => copyStep s i.lane stack die ecc
  | .merge _ _ _ => s
  | .scrub pair =>
    if pair < 2304 then
      let s := scrubStep s i.lane pair i.left ecc
      if i.left ≤ 1 then endItem s i else less s
    else plain
  | .parity _ => plain
  | .reclaim _ => plain
  | .resketch _ _ => plain
  | .load _ _ => plain

/-- R48, R49, R195, R398: one MAINT step. `mismatch` is the outcome of the canary where the step runs one, `ecc` that of the stack reads where it makes
some. -/
def execMaintStep (lane : BitVec 16) (found : MaintFind) (s : State) : Host.Outcome State Fault Refusal :=
  let l := lane.toNat
  match recAt s l with
  | none => .next s
  | some (r, _, _) =>
   if !laneFree s l || r.op != 1 then .next s
   else
    let k := cget 0 s.run.maint l + 1
    let fill := r.fill
    let s := countLane { s with run := { s.run with
      maint := cset 0 s.run.maint l k, busy := cset 0 s.run.busy l (s.run.now + 1) } } l 1 1
    if k % 256 = 0 then
      let s := countLane (countLane s l 0 1) l 2 1
      let arg := if 0x200 ≤ l ∧ l < 0x260 then canaryPair l (k / 256 - 1) else 0
      .next (if found.mismatch then canaryMismatch s (laneUnit s l) arg else s)
    else if fill && !s.bg.gate then .next s
    else match itemFor s l with
      | none => .next s
      | some i => .next (serveItem (countLane s l 0 1) i found.ecc)

/-! ### Merges (R188 to R191) -/

/-- One element with everything that belongs to it. -/
structure Elem where
  sketch  : Bytes
  attr    : Nat
  sn      : Nat
  erased  : Bool
  eraseSn : Nat
  code    : Bytes
  id      : Nat
  vector  : Bytes
  deriving DecidableEq, Repr

/-- Element `i` of a block. -/
def takeElem (s : State) (d : Desc) (b : Block) (i : Nat) : Elem :=
  ⟨readMem s (b.sketchAt d i) (sketchBits (dWidth d) / 8), readNat s (b.attrAt i) 4, elemSn s b i, elemErased s b i, elemEraseSn s b i,
   readMem s (b.codeAt d i) (codeRow d), elemId s b i, readT3 s (b.vecAt d i % 2 ^ 48) (vecBytes d)⟩

/-- The elements of a block that no erasure at or below the floor removes. -/
def keptElems (s : State) (d : Desc) (floor : Nat) (b : Block) : List Elem :=
  ((List.range b.count).map (takeElem s d b)).filter fun e => !(e.erased && decide (e.eraseSn ≤ floor))

/-- The elements of the tail that go into the block, `room` of them, and those that stay, both in append order. -/
def splitTail (cut : Nat) : Nat → List Elem → List Elem × List Elem
  | _, [] => ([], [])
  | 0, es => ([], es)
  | room + 1, e :: es =>
    if e.sn ≤ cut then let r := splitTail cut room es; (e :: r.1, r.2)
    else let r := splitTail cut (room + 1) es; (r.1, e :: r.2)

/-- The bitmap of an erasure map. -/
def eraseBits (cap : Nat) (es : List Elem) : Bytes :=
  leBytes (bitmapBytes cap) ((List.range es.length).foldl (fun m i => match es[i]? with | some e => if e.erased then m + 2 ^ i else m | none => m) 0)

/-- The arrays of a block in T1 and T2, as writes. -/
def elemArrays (d : Desc) (b : Block) (es : List Elem) : List (Nat × Bytes) :=
  [(b.sketchAt d 0, es.flatMap Elem.sketch), (b.attrAt 0, es.flatMap fun e => leBytes 4 e.attr), (b.snAt 0, es.flatMap fun e => leBytes 8 e.sn),
   (b.bitAt 0, eraseBits b.cap es), (b.eraseSnAt 0, es.flatMap fun e => leBytes 8 e.eraseSn), (b.codeAt d 0, es.flatMap Elem.code),
   (b.idAt 0, es.flatMap fun e => leBytes 8 e.id)]

/-- The entry of the merge area table of a bank pair (R188). -/
def mergeArea (d : Desc) (pair : Nat) : Nat := fld d.block 0x28 0 64 + 16 * pair

/-- Granules of an erasure map. -/
def eraseGranules (cap : Nat) : Nat := granulesOf (bitmapBytes cap + 8 * cap)

/-- The new block and tail in the merge area, one array after the other, and the granule of the new tail header. How they lie in the area the
manual does not give. The full vectors stay where they are. -/
def areaBlocks (s : State) (d : Desc) (e : Bytes) (pair : Nat) (vec : Nat) : Block × Block × Nat :=
  let area := mergeArea d pair
  let a := readNat s area 4
  let o := readNat s (area + 4) 4
  let t2 := readNat s (area + 8) 8
  let cap := dTailCap d
  let sk := granulesOf (2048 * (sketchBits (dWidth d) / 8))
  let o1 := o + 256
  let o2 := o1 + 512
  let h := o2 + eraseGranules 2048
  let o3 := h + 2
  let o4 := o3 + granulesOf (4 * cap)
  let o5 := o4 + granulesOf (8 * cap)
  let ids := t2 + 2048 * codeRow d
  let codes := ids + 2048 * 8
  (⟨leafChan e, leafPos e, 0, a, o, o2, o1, t2, ids, fld e 0x28 0 64, 2048⟩,
   ⟨leafChan e, leafPos e, 0, a + sk, o3, o5, o4, codes, codes + cap * codeRow d, vec, cap⟩, h)

/-- The leaf directory entry of a new block. -/
def newLeafEntry (e : Bytes) (b : Block) (count head : Nat) : Bytes :=
  let w := fld e 0 0 32
  let e := patch e 0 (leBytes 4 (w % 2 ^ 12 + 2 ^ 12 * count + w / 2 ^ 24 * 2 ^ 24))
  let e := patch e 4 (leBytes 4 b.sketch ++ leBytes 4 b.attr ++ leBytes 4 b.erase ++ leBytes 4 b.sn)
  let e := patch e 0x18 (leBytes 8 b.code ++ leBytes 8 b.ids)
  patch e 0x30 (leBytes 4 head)

/-- The tail header of a new tail (R186). -/
def newTailHead (b : Block) (count : Nat) : Bytes :=
  layoutBytes 64 [(0, 4, 0x5441494C), (4, 2, count), (8, 4, b.sketch), (12, 4, b.attr), (16, 4, b.erase), (20, 4, b.sn), (0x18, 8, b.code),
    (0x20, 8, b.ids), (0x28, 8, b.vec)]

/-- The image of a merge (R188): the new block and tail with their elements, the granule of the new tail header, and whether the block is full (R191). -/
structure Image where
  block  : Block
  tail   : Block
  first  : List Elem
  rest   : List Elem
  head   : Nat
  full   : Bool
  deriving DecidableEq, Repr

/-- The image of a merge as the leaf's structures stand now: an append, an erasure or a summary change since its start is in it (R189). -/
def imageOf (s : State) (d : Desc) (m : Merge) : Image :=
  let e := leafEntry s d m.node m.leaf
  let tail := tailBlock s d e
  let leafEls := keptElems s d m.floor (leafBlock e)
  let tailEls := match tail with | some t => keptElems s d m.floor t | none => []
  let parts := splitTail m.cut (2048 - leafEls.length) tailEls
  let (b, t, h) := areaBlocks s d e m.pair ((tail.map Block.vec).getD 0)
  ⟨b, t, leafEls ++ parts.1, parts.2, h, decide (2048 < leafEls.length + (tailEls.filter fun x => decide (x.sn ≤ m.cut)).length)⟩

/-- The writes of an image in the merge area. -/
def Image.writes (g : Image) (d : Desc) : List (Nat × Bytes) :=
  elemArrays d g.block g.first ++ elemArrays d g.tail g.rest ++ [(g.block.pa + 32 * g.head, newTailHead g.tail g.rest.length)]

/-- The full vectors of an image, as T3 address and bytes. -/
def Image.vectors (g : Image) (d : Desc) : List (Nat × Bytes) :=
  [(g.block.vecAt d 0 % 2 ^ 48, g.first.flatMap Elem.vector), (g.tail.vecAt d 0 % 2 ^ 48, g.rest.flatMap Elem.vector)]

/-- The slots that an image's full vectors are written to. -/
def Image.slots (g : Image) (d : Desc) : List Nat := (g.vectors d).flatMap fun v => slotsOf v.1 v.2.length

/-- The paces of a merge suffice for its image (R189), and staging has room for its full vectors (R247). -/
def imageDone (s : State) (d : Desc) (m : Merge) (g : Image) : Bool :=
  mergePaces d != 0 && decide (m.ready ≤ s.run.frame) && stageRoom s ((descSlice s d).getD 0) (g.slots d).length

/-- A finished image is reported to the other holder in time (R189). -/
def tellMerged (s : State) (m : Merge) : State :=
  if m.told || decide (m.start + m.span < s.run.frame + 2) then s
  else
    let s := { s with bg := { s.bg with merges := s.bg.merges.map fun x => if x = m then { m with told := true } else x } }
    match partner s with
    | some p => sendRemote s p (.merged (BitVec.ofNat 16 m.index) (Fin.ofNat 512 m.node) (BitVec.ofNat 24 m.leaf))
    | none => s

/-- What of an image the merge area does not hold yet. -/
def Image.missing (g : Image) (s : State) (d : Desc) : List (Nat × Bytes) := (g.writes d).filter fun w => readMem s w.1 w.2.length != w.2

/-- One merge at a boundary, with its descriptor: its image is finished, or follows what the leaf has taken (R189). -/
def mergeOn (s : State) (m : Merge) (d : Desc) : State :=
  let g := imageOf s d m
  if m.switched.isSome || !imageDone s d m g then s else tellMerged (writeNode s (g.missing s d)) m

/-- One merge at a boundary. -/
def mergeStep (s : State) (m : Merge) : State := ((findDesc s 1 m.index).map (mergeOn s m)).getD s

/-- Both holders apply the image (R189 to R191): the full vectors take their new order in new slots, a query planned before reads on by the old ones, and
the leaf directory names the new block. -/
def applyMerge (s : State) (d : Desc) (m : Merge) : State :=
  let e := leafEntry s d m.node m.leaf
  let g := imageOf s d m
  let old := (g.slots d).map fun k => (k, slotEntry s k)
  let sl := descSlice s d
  let read := elemArrays d (leafBlock e) (keptElems s d m.floor (leafBlock e)) ++
    (match tailBlock s d e with | some t => elemArrays d t (keptElems s d m.floor t) | none => [])
  let s := read.foldl (fun s w => countMoved s sl w.1 w.2.length false) s
  let s := (g.writes d).foldl (fun s w => countMoved s sl w.1 w.2.length true) s
  let s := writeNode s (g.writes d)
  let s := writeNode s ((g.vectors d).map fun v => (3 * 2 ^ 62 + v.1, v.2))
  let s := writeNode s [(leafDirAddr s d m.node m.leaf, newLeafEntry e g.block g.first.length g.head)]
  let key := (m.index, m.node, m.leaf)
  { s with bg := { s.bg with
      merges := s.bg.merges.map fun x => if x = m then { m with switched := some s.run.frame, entry := e, vecs := old } else x
      full := s.bg.full.filter (· != key) ++ (if g.full then [key] else []) } }

/-- R189: the switch of a merge at the boundary m + MERGE_SPAN if both holders have reported their image, otherwise it is tried again
MERGE_SPAN frames later. -/
def execMergeSwitch (index : BitVec 16) (leaf : BitVec 24) (node : Fin 512) (s : State) : Host.Outcome State Fault Refusal :=
  match s.bg.merges.find? fun m => m.index == index.toNat && m.leaf == leaf.toNat && m.node == node.val && m.switched.isNone && decide (m.start + m.span ≤ s.run.frame) with
  | none => .next s
  | some m =>
    match findDesc s 1 m.index with
    | none => .next s
    | some d =>
      if !s.run.running then .next s
      else
        let both := m.told && (m.theirs || (match partner s with | some p => !liveNode s p | none => true))
        if !both then
          .next { s with bg := { s.bg with merges := s.bg.merges.map fun x => if x = m then { m with span := m.span + mergeSpan d } else x } }
        else
          let s := applyMerge s d m
          match s.bg.items.find? fun i => m.node == nodeId s && i.work == .merge m.index m.leaf m.pair with
          | some i => .next (endItem s i)
          | none => .next s

/-- R189: QUERY_DEPTH frames after the switch the old storage becomes the bank pair's merge area. -/
def execMergeAreaRelease (index : BitVec 16) (leaf : BitVec 24) (s : State) : Host.Outcome State Fault Refusal :=
  let due := fun (m : Merge) => match m.switched with | some f => decide (f + depthNow s ≤ s.run.frame) | none => false
  match s.bg.merges.find? fun m => m.index == index.toNat && m.leaf == leaf.toNat && due m with
  | none => .next s
  | some m =>
    let b := leafBlock m.entry
    let s' : State := { s with bg := { s.bg with merges := s.bg.merges.filter (· != m) } }
    match findDesc s 1 m.index with
    | none => .next s'
    | some d => .next (writeNode s' [(mergeArea d m.pair, leBytes 4 b.sketch ++ leBytes 4 b.attr ++ leBytes 8 b.code)])

/-- R192, R211, R357: QUERY_DEPTH frames after a switch the old version's storage is freed. A node that runs no plate has no query in flight. -/
def execOldVersionRelease (kind : Bool) (id : BitVec 16) (s : State) : Host.Outcome State Fault Refusal :=
  let gone := fun (d : Desc × Nat) => d.1.kind == (if kind then 2 else 1) && d.1.id == id.toNat && (!s.run.running || decide (d.2 ≤ s.run.frame))
  .next { s with setup := { s.setup with oldDescs := s.setup.oldDescs.filter (!gone ·) } }

/-! ### Load windows (R213, R214) -/

/-- The shards of which a table's load is counted. -/
def loadShards (s : State) (table : Nat) : List Nat :=
  ((s.cnt.shardLoad.map fun kv => kv.1 / 4).filter fun k => k / 65536 == table).map (· % 65536) |>.eraseDups

/-- Load of the last completed window. -/
def lastLoad (s : State) (table shard : Nat) : Nat :=
  let k := 4 * (65536 * table + shard)
  cget 0 s.cnt.shardLoad (k + 2) + cget 0 s.cnt.shardLoad (k + 3)

/-- Close the window: the counts move to the LAST fields. -/
def closeWindow (c : Cells Nat) : Cells Nat :=
  (c.filter fun kv => kv.1 % 4 < 2).map fun kv => (kv.1 + 2, kv.2)

/-- Insert a shard by its load, highest first, ties to the lower number. -/
def byLoad (s : State) (table x : Nat) : List Nat → List Nat
  | [] => [x]
  | y :: r => if lastLoad s table y < lastLoad s table x ∨ (lastLoad s table y = lastLoad s table x ∧ x < y) then x :: y :: r
    else y :: byLoad s table x r

/-- The SKEW event of one table, for the shards this node owns. -/
def skewEvent (s : State) (d : Desc) : State :=
  let limit := fld d.bytes 0x40 0 32
  let past := (loadShards s d.id).filter fun x => shardOwner s d x == nodeId s && decide (limit < lastLoad s d.id x)
  if limit = 0 ∨ past.isEmpty then s
  else
    let top := (past.foldl (fun l x => byLoad s d.id x l) []).take 8
    let arg := leNat ((List.range 8).flatMap fun i => leBytes 2 (top.getD i 0xFFFF))
    postEvent s ((descSlice s d).getD 0) 3 d.id arg

/-- R213, R214: the end of a window of 4096 frames. -/
def execLoadWindowEnd (s : State) : Host.Outcome State Fault Refusal :=
  if !s.run.running || s.run.frame % 4096 ≠ 0 || s.cnt.windowEnd == s.run.frame then .next s
  else
    let s := { s with cnt := { s.cnt with shardLoad := closeWindow s.cnt.shardLoad, windowEnd := s.run.frame } }
    .next ((s.setup.descs.filter fun d => d.kind == 2).foldl skewEvent s)

/-! ### Transits and rebuilds -/

/-- The beat root gives a submitted shard map change the next epoch and sends it to every node of the domain (R289). -/
def giveEpoch (s : State) (table shard owner : Nat) : State :=
  let e := s.setup.epoch + 1
  let m : Remote := .shardOwner (BitVec.ofNat 16 table) (BitVec.ofNat 16 shard) (Fin.ofNat 512 owner) (BitVec.ofNat 32 e)
  acceptChange ((otherNodes s).foldl (fun s n => sendRemote s n m) s) e none [⟨.transitOwner table shard owner, none, true⟩]

/-- The old owner submits the change to the beat root (R289). -/
def submitMap (s : State) (table shard owner : Nat) : State :=
  if isRoot s then giveEpoch s table shard owner
  else sendRemote s (beatRoot s) (.mapChange (Fin.ofNat 512 (nodeId s)) (BitVec.ofNat 16 table) (BitVec.ofNat 16 shard) (Fin.ofNat 512 owner))

/-- The root takes the next submission once no change is pending (R290). -/
def submitStep (s : State) : State :=
  match s.setup.submits with
  | [] => s
  | x :: r =>
    if !isRoot s || s.setup.change.isSome || s.setup.reshard.isSome then s
    else giveEpoch { s with setup := { s.setup with submits := r } } x.2.1 x.2.2.1 x.2.2.2

/-- R217: the cursor has passed the last row: the new shard map is submitted as a composition change, on every node of the domain. One already pending is
waited for. -/
def execTransitCopyDone (s : State) : Host.Outcome State Fault Refusal :=
  match s.bg.transit with
  | none => .next s
  | some t =>
    match findDesc s 2 t.table with
    | none => .next s
    | some d =>
      if !s.run.running || t.submitted || t.cursor < shardRows d.bytes t.shard || s.setup.change.isSome || s.setup.reshard.isSome then .next s
      else
        let s := { s with bg := { s.bg with transit := some { t with submitted := true } } }
        let s := match s.bg.items.find? fun i => i.work == .transitCopy t.table t.shard with | some i => endItem s i | none => s
        .next (submitMap s t.table t.shard t.owner)

/-- A shard map that another node has submitted becomes a next copy here too (R217). -/
def takeOwner (s : State) (table shard owner epoch : Nat) : State :=
  if s.setup.change.isSome then s else acceptChange s epoch none [⟨.transitOwner table shard owner, none, true⟩]

/-- The loss of an object (R254, R256): it is reported to its slice, records that name its owner and wait complete with S_POISONED. -/
def loseObject (s : State) (o : Obj) : State :=
  let s := postEvent s o.slice 6 0 o.id
  if !o.shared || s.recs.lost.contains (ownerKey o) then s
  else
    let s := { s with recs := { s.recs with lost := s.recs.lost ++ [ownerKey o] } }
    poisonOut s fun r => namedBy r (ownerKey o)

/-- Objects lost since the last boundary (R256). -/
def reportLost (s : State) : State :=
  let new := s.mem.objs.filter fun o => o.lost && !o.told
  new.foldl loseObject { s with mem := { s.mem with objs := s.mem.objs.map fun o => { o with told := o.lost } } }

/-- A rebuild has failed: the object is lost, which is reported at the next boundary, or at once where no plate runs. -/
def markLost (s : State) (id : Nat) : State :=
  let s := { s with mem := { s.mem with objs := s.mem.objs.map fun q => if q.id = id then { q with lost := true } else q } }
  if s.run.running then s else reportLost s

/-- An object that the host has reloaded or freed is lost no more (R254). -/
def foundAgain (s : State) (o : Obj) : State :=
  let objs := s.mem.objs.map fun q => if q.id = o.id then { q with lost := false, told := false } else q
  let still := objs.any fun q => q.id != o.id && q.lost && q.shared && ownerKey q == ownerKey o
  { s with
    mem := { s.mem with objs := objs }
    recs := { s.recs with lost := if still || !o.shared then s.recs.lost else s.recs.lost.filter (· != ownerKey o) } }

/-- Slots that a rebuilt or reloaded tile lies in lose POISONED, where no other tile in them is still to be rebuilt (R252). -/
def clearSlots (s : State) (o : Obj) (t : Nat) : State :=
  match tileAddr o t with
  | none => s
  | some (h, p) =>
    if tierOf h ≠ 3 then s
    else
      let waits := fun (n : Nat) => (slotTiles s n).any fun x => x != (o.id, t) && s.bg.items.any fun i => i.work == .rebuild x.1 x.2
      (slotsOf (h % 2 ^ 48) 32 ++ slotsOf (p % 2 ^ 48) o.payload).foldl (fun s n =>
        let e := slotEntry s n
        if sePoisoned e && !waits n then setEntry s n (mkEntry (seStripe e) (seIndex e) (seStaged e) false (seValid e)) else s) s

/-- The end of a rebuild (R254, R256): the tile found is written with its header closed and POISONED 0, else the object is lost. -/
def rebuilt (s : State) (i : Item) (o : Obj) (t : Nat) (good : Option Bytes) : State :=
  let s := endItem s i
  let s := { s with bg := { s.bg with
    asked := s.bg.asked.filter (· != (o.id, t)), answers := s.bg.answers.filter fun a => !(a.1 == o.id && a.2.1 == t) } }
  match good with
  | some b => clearSlots (countTile (writeTile s o t (poisonHeader false (closeHeader (b.take 32) (b.drop 32))) (b.drop 32)) (some o.slice) o t true) o t
  | none => markLost s o.id

/-- R254, R256: a rebuild completes from its own source, unless its reads come back uncorrectable, or with the partner's tile, checked under R233;
with neither, the object is lost. One that the partner has still to answer, or that a running plate has given no MAINT step yet, goes on, and
one whose own source fails only now asks the partner. -/
def execRebuildDone (object tile : W32) (unread : Bool) (s : State) : Host.Outcome State Fault Refusal :=
  let id := object.toNat
  let t := tile.toNat
  match s.bg.items.find? fun i => i.work == .rebuild id t with
  | none => .next s
  | some i =>
    match findObj s id with
    | none => .next (endItem s i)
    | some o =>
      let own := if unread then none else ownSource s o t
      let came := s.bg.answers.find? fun a => a.1 == id && a.2.1 == t
      let asked := s.bg.asked.contains (id, t)
      if s.run.running && i.left != 0 then .next s
      else match (partner s).filter (liveNode s), own.isNone && came.isNone && (asked || s.run.running) with
        | some p, true => .next (if asked then s else askTile s p id t)
        | _, _ => .next (rebuilt s i o t (own.or ((came.bind fun a => a.2.2).filter (soundTile o))))

end Sys2Proof.Machine
end

