-- ==== Sys2Proof/Machine/Frame.lean ====
section
/-!
DEFINITION. The frame boundary (R19, R41, R42): what a node does between step N − 1 of one frame and step 0 of the next, and the envelope
(R364 to R369, R377, R378, R484, R485, R487).
-/
namespace Sys2Proof.Machine

/-! ### The end of the frame -/

/-- FRAMES, BEAT_WAIT_PS and FRAME_OVER (R461). A frame in which a cluster map change was applied is exempt from its deadline (R53). -/
def countFrame (s : State) (x : BoundaryIn) (p : Plate) : State :=
  let s := count (count s 0 1 0 0 1) 0 1 0 4 x.waitPs
  let late := decide (p.deadlineNs * 1000 < x.framePs) && !s.run.exempt
  let s := { s with run := { s.run with exempt := false } }
  if late then count s 0 1 0 5 1 else s

/-- The load signature of the frame that ends (R398). -/
def loadOf (s : State) (p : Plate) : Nat := min 15 (16 * s.run.macBusy / (128 * p.steps))

/-- One arrival before another: ascending source node, then destination granule (R268). -/
def arrivesBefore (a b : RecvMsg) : Bool := if a.src ≠ b.src then a.src < b.src else a.dest < b.dest

/-- Insert an arrival in order. -/
def insertArrival (m : RecvMsg) : List RecvMsg → List RecvMsg
  | [] => [m]
  | x :: r => if arrivesBefore m x then m :: x :: r else x :: insertArrival m r

/-- The arrival list of a slot (R268). -/
def arrivalBytes (max' : Nat) (ms : List RecvMsg) : Bytes :=
  let done := (ms.filter fun m => m.got.length == dataFlits m.length).foldl (fun l m => insertArrival m l) []
  let listed := done.take max'
  layoutBytes 32 [(0, 2, listed.length), (2, 2, ms.length - done.length), (4, 2, done.length - listed.length)] ++
    listed.flatMap fun m => layoutBytes 16 [(0, 2, m.src), (4, 3, m.dest), (8, 4, m.length)]

/-- The arrival lists of the frame; what an incomplete message leaves at its destination is undefined (R268; log entry 7). -/
def writeArrivals (s : State) (p : Plate) : State :=
  let s := (s.fab.recv.filter fun m => m.got.length != dataFlits m.length).foldl (fun s m => writeFree s (nsAddr (32 * m.dest)) m.length) s
  (List.range p.slots.length).foldl (fun s i =>
    match p.slots[i]? with
    | none => s
    | some e => writeMem s (nsAddr (32 * e.arrival)) (arrivalBytes e.arrivalMax (s.fab.recv.filter fun m => m.slot == i))) s

/-- Slots whose flits exceed their declaration on some link (R270). -/
def slotExcess (s : State) (p : Plate) : List Nat :=
  (List.range p.slots.length).filter fun i =>
    match p.slots[i]? with
    | none => false
    | some e => (List.range 32).any fun l => decide (e.linkFlits < cget 0 s.fab.slotFlits (i * 32 + l))

/-- What a node does with the frame that ends. -/
def closeFrame (s : State) (x : BoundaryIn) : State :=
  match s.run.plate with
  | none => s
  | some p =>
    let s := writeArrivals (countFrame s x p) p
    let excess := (slotExcess s p).filter (!s.fab.excess.contains ·)
    flushCounters { s with
      run := { s.run with load := loadOf s p, macBusy := 0 }
      fab := { s.fab with excess := s.fab.excess ++ excess, notes := s.fab.notes ++ excess.map FabricNote.excess } }

/-- A new frame begins: its number, the published SN of its beat, nothing sent or received yet. A message of an update record that waits for its CONFIRM
goes on waiting for its acknowledgement (R402). -/
def openFrame (s : State) (b : BeatMsg) : State :=
  let sn := b.published.toNat
  let open' := s.fab.unacked ++ (s.fab.sent.filter (!·.acked)).map fun m => (s.run.frame, m)
  let waits := fun (f : Nat) => s.recs.inflight.any fun r => isUpdate r && !r.confirmed && r.admitAt + 1 == f
  { s with
    run := { s.run with running := true, waiting := false, step := 0, frame := b.frame.toNat }
    recs := { s.recs with published := sn, pubs := (sn :: s.recs.pubs).take 256 }
    dump := { s.dump with lastFrame := b.frame.toNat, lastSn := sn }
    fab := { s.fab with sent := [], unacked := open'.filter fun m => waits m.1, recv := [], slotFlits := [], armed := false, armSent := false, combined := none, children := [], beat := none, issued := false, memberArms := 0 } }

/-! ### The envelope -/

/-- One limit with its hysteresis: left when `over`, regained once `ok` has held for 1 s; whether it is left afterwards. -/
def limitStep (s : State) (cause : Nat) (left past ok : Bool) : Bool × State :=
  let set := fun (v : Nat) => { s with power := { s.power with regain := cset 0 s.power.regain cause v } }
  if !left then (past, if past then set 0 else s)
  else if !ok then (true, set 0)
  else
    let since := cget 0 s.power.regain cause
    if since = 0 then (true, set (s.power.ms + 1))
    else if since + 1000 ≤ s.power.ms + 1 then (false, set 0)
    else (true, s)

/-- A limit that has a live flag and a fault code (R484, R489). -/
def flagStep (s : State) (flag code : Nat) (past ok : Bool) : State :=
  let was := bit s.power.live flag
  let (left, s) := limitStep s flag was past ok
  let s := if left && !was then logFault s { code := code, event := false } else s
  if left = was then s
  else { s with power := { s.power with live := if left then s.power.live + 2 ^ flag else s.power.live - 2 ^ flag } }

/-- The conditions of R368 and R484 at a boundary. -/
def envelopeStep (s : State) (x : BoundaryIn) : State :=
  let t := x.tele
  let hi : Int := if s.boot.grade = 1 then 450 else 600
  let s := flagStep s 0 0x100 (decide (hi < t.inlet)) (decide (t.inlet ≤ hi - 10))
  let s := flagStep s 1 0x101 (decide (t.inlet < 200)) (decide (210 ≤ t.inlet))
  let s := flagStep s 2 0x102 (decide (t.flow < 1200)) (decide (1250 ≤ t.flow))
  let s := flagStep s 3 0x103 (decide (2500 < t.flow)) (decide (t.flow ≤ 2450))
  let s := flagStep s 5 0x104 x.bandLeft (!x.bandLeft)
  let (sp, s) := limitStep s 16 s.power.sprintLeft (decide (450 < t.inlet)) (decide (t.inlet ≤ 440))
  let (ink, s) := limitStep s 17 s.power.inkLeft (decide (400 < t.inlet)) (decide (t.inlet ≤ 390))
  { s with power := { s.power with sprintLeft := sp, inkLeft := ink } }

/-- A point's envelope holds for a plate with an ink budget (R363, R364). -/
def envelopeHolds (s : State) (ink point : Nat) : Bool :=
  commonEnvelope s && !(point == 2 && s.power.sprintLeft) && !(ink == 2 && s.power.inkLeft)

/-- The choice of R366 among some points: the highest not above the preferred one, else the lowest above it. -/
def choosePoint (preferred : Nat) (ps : List Nat) : Option Nat :=
  match (ps.filter (· ≤ preferred)).reverse with
  | p :: _ => some p
  | [] => ps.head?

/-- The envelope is lost, or regained (R369, R484, R487). -/
def setLost (s : State) (lost : Bool) : State :=
  let was := bit s.power.live 6
  if lost = was then s
  else if lost then
    let s := logFault s { code := 0x41, event := true }
    { s with power := { s.power with live := s.power.live + 64 }, faults := { s.faults with graceFrom := some s.power.ms } }
  else { s with power := { s.power with live := s.power.live - 64 }, faults := { s.faults with graceFrom := none } }

/-- The running point at a boundary (R366 to R369); `asked` is set where a command or a new plate may have changed it. -/
def pointStep (s : State) (asked : Bool) : State :=
  match s.run.plate with
  | none => s
  | some p =>
    let set := admissibleSet s p
    match choosePoint s.setup.preferred (set.filter (envelopeHolds s p.ink)) with
    | none => setLost s true
    | some pt =>
      let s := setLost s false
      let s := if pt ≠ s.setup.running ∧ !asked then logFault s { code := 0x40, event := false, arg0 := s.setup.running, arg1 := pt } else s
      { s with setup := { s.setup with running := pt }, power := { s.power with vcoreSet := setMv pt } }

/-- The commands OPPOINT_SET and POLICY_SET that wait apply, and are retained (R354, R378). -/
def policyStep (s : State) : State :=
  let points := s.setup.newPoint
  let policies := s.setup.newPolicy
  let s := points.foldl (fun s x =>
    finish (retain { s with setup := { s.setup with preferred := x.1 } } [⟨6, 0, leBytes 1 x.1⟩]) x.2 { status := sOk })
    { s with setup := { s.setup with newPoint := [], newPolicy := [] } }
  policies.foldl (fun s x =>
    finish (retain { s with setup := { s.setup with flat := x.1, setPoint := x.2.1 } } [⟨7, 0, leBytes 4 (b2n x.1 + 65536 * x.2.1)⟩]) x.2.2
      { status := sOk }) s

/-- The boundary's work of Burin on points, policies and the envelope. -/
def burinStep (s : State) (x : BoundaryIn) (fresh : Bool) : State :=
  if !burinUp s then s
  else
    let asked := fresh || !s.setup.newPoint.isEmpty
    let s0 := s
    let s := envelopeStep (policyStep s) x
    let s := pointStep s asked
    let s := flatFlags s (if s.setup.flat then b2n x.flatFloor + 2 * b2n x.flatCeiling else 0)
    powerIbi s0 (reportPower s)

/-- The counting mode (R465, R372). -/
def countingStep (s : State) : State :=
  let want := match setting s 8 0 with | some b => bit (leNat b) 0 | none => false
  let ok := match s.run.plate with | some p => admits s p s.setup.running true | none => true
  let s := if want && !ok then count s 0 1 0 6 1 else s
  { s with cnt := { s.cnt with continuous := want && ok } }

/-! ### Update records, marks, training state -/

/-- A record that is driven again as home, with its original SN (R403, R518). -/
def redriveOne (x : List Encoding) (s : State) (i : Nat) (sn : Nat) (bytes : Bytes) : State :=
  match findDesc s 1 (recOwner bytes) with
  | none => s
  | some d =>
    let vid := recVid bytes
    let at' := dirLookup s d vid
    let r : InRec := { ring := 64, index := i, slice := 0, bytes := bytes, admitAt := s.run.frame, sn := sn, epoch := s.setup.epoch, answered := true
                       old := at'.map fun a => (entryLeaf s a, entryNode s a)
                       encoding := if recKind bytes = 2 then
                         encodeUpsert s d (((x.find? fun e => e.ring.val == 64 && e.index == i).map Encoding.values).getD []) bytes else none
                       entry := at'.or (if recKind bytes = 2 then dirFree s d vid else none) }
    notYet { s with recs := { s.recs with inflight := s.recs.inflight ++ [r] } } sn vid

/-- Insert by SN, behind records of the same SN. -/
def insertSn (x : Nat × Bytes) : List (Nat × Bytes) → List (Nat × Bytes)
  | [] => [x]
  | y :: r => if x.1 < y.1 then x :: y :: r else y :: insertSn x r

/-- Drive the journal and the partner's copies again. -/
def redrive (x : List Encoding) (s : State) : State :=
  if !s.recs.redrive then s
  else
    let l := (s.recs.journal.map (fun r => (r.sn, r.bytes)) ++ s.recs.copies).foldl (fun l x => insertSn x l) []
    let s := { s with recs := { s.recs with redrive := false, copies := [] } }
    (List.range l.length).foldl (fun s i => match l[i]? with | some y => redriveOne x s i y.1 y.2 | none => s) s

/-! ### Busy subtrees (R181) -/

/-- The TAIL indexes in use. -/
def tailIndexes (s : State) : List Desc := s.setup.descs.filter fun d => d.kind == 1 && dPolicy d == 1

/-- Tail counts of the leaves in a subtree that this node holds, or holds for its eclipsed partner (R181, R23). -/
def ownTails (s : State) (d : Desc) (ptr : Nat) : List Nat :=
  ((rankLeaves s d 0 ptr).filter fun l => actsAs s l.1).map fun l => tailCount s d l.1 l.2

/-- A subtree of an index in which one of these leaves has a tail at HARD. -/
def subtreeFull (s : State) (d : Desc) (ptr : Nat) : Bool := (ownTails s d ptr).any (dHard d ≤ ·)

/-- Child pointers of a branch node of the replicated levels. -/
def childPtrs (s : State) (d : Desc) (off : Nat) : List Nat :=
  let node := dTop d + 32 * off
  if !addrOk node (nodeLen (dWidth d)) then []
  else (slotsWith s d node fun _ => true).map fun i => readNat s (node + 64 + i * (sketchBits (dWidth d) / 8 + 32) + sketchBits (dWidth d) / 8) 8

/-- The subtree pointers of an index. -/
def subtreePtrs (s : State) (d : Desc) : List Nat :=
  ((childPtrs s d 0).flatMap fun p => childPtrs s d (ptrOffset p)).flatMap fun p => childPtrs s d (ptrOffset p)

/-- The subtrees of the TAIL indexes that this holder has to mark: index, pointer. -/
def fullSubtrees (s : State) : List (Nat × Nat) :=
  ((tailIndexes s).flatMap fun d => ((subtreePtrs s d).filter (subtreeFull s d)).map fun p => (d.id, p)).eraseDups

/-- A mark that this holder still needs. -/
def markNeeded (s : State) (m : Nat × Nat) : Bool := match findDesc s 1 m.1 with | some d => subtreeFull s d m.2 | none => false

/-- The marks at a boundary: those this holder set and no longer needs are cleared; at a new view a LIVE node sends those it holds again; a node that
starts marks again what its tails ask for. -/
def busyStep (s : State) (newView fresh : Bool) : State :=
  let s := (s.recs.mine.filter (!markNeeded s ·)).foldl (fun s m => markBusy s m.1 m.2 false) s
  let again := if fresh then fullSubtrees s else if newView && statusOf s (nodeId s) == 1 then s.recs.mine else []
  again.foldl (fun s m => markBusy s m.1 m.2 true) s

/-! ### Background work at a boundary (R188, R189, R194 to R196, R248) -/

/-- A merge of a leaf is queued or running; one that has switched no longer is (R194). -/
def mergeOf (s : State) (ix leaf : Nat) : Bool :=
  (s.bg.items.any fun i => match i.work with | .merge x l _ => x == ix && l == leaf | _ => false) ||
    s.bg.merges.any fun m => m.index == ix && m.leaf == leaf && m.node == nodeId s && m.switched.isNone

/-- Queue the merges of an index. -/
def queueMerges (s : State) (d : Desc) : State :=
  (List.range (dirLeaves s d (nodeId s))).foldl (fun s l =>
    let e := leafEntry s d (nodeId s) l
    let n := tailCount s d (nodeId s) l
    if e.all (· == 0) || n < dSoft d || mergeOf s d.id l then s
    else addItem s 2 (.merge d.id l (pairNumber e)) (chLane (leafChan e)) (decide (dHard d ≤ n)) 1) s

/-- The class deadlines of R194 in frames. -/
def deadlineOf (cls : Nat) : Nat := [0, 25000, 2500, 12500, 250000, 2500000].getD cls 2500000

/-- A queued merge whose tail has reached HARD. -/
def mergeHard (s : State) (i : Item) : Bool :=
  match i.work with
  | .merge ix l _ => (match findDesc s 1 ix with | some d => decide (dHard d ≤ tailCount s d (nodeId s) l) | none => false)
  | _ => false

/-- Age one item. An overrun is reported to Burin, and enters the health score (R196, R412). -/
def ageItem (s : State) (i : Item) : State :=
  let age := s.run.frame - i.enq
  let urgent := i.urgent || decide (deadlineOf i.cls ≤ age) || mergeHard s i
  let past := i.overrun || decide (4 * deadlineOf i.cls ≤ age)
  let s := if urgent && !i.urgent then count s 0 12 (i.cls - 1) 2 1 else s
  let s := if past && !i.overrun then
      let s := postEvent (count s 0 12 (i.cls - 1) 3 1) 0 0xA 0 i.cls
      match s.orr.view with | some v => orrSend s 1 v.coord (nodeId s) 0xA 4 | none => s
    else s
  { s with bg := { s.bg with items := s.bg.items.map fun j => if j.num = i.num then { j with urgent := urgent, overrun := past } else j } }

/-- One scrub pass is always queued, the next one in the cursor's order: the bank pairs, then the flash channels. -/
def queueScrub (s : State) : State :=
  if s.bg.items.any fun i => i.cls == 5 then s
  else
    let c := s.bg.scrub
    let lane := if c < 2304 then 0x200 + c / 24 else fcLane (c - 2304)
    let s := addItem s 5 (.scrub c) lane false (if c < 2304 then pairSteps else 1)
    { s with bg := { s.bg with scrub := (c + 1) % 2328 } }

/-- Valid slots of a stripe. -/
def validSlots (s : State) (st : Nat) : Nat := (s.flash.slotMap.filter fun kv => seValid kv.2 && seStripe kv.2 == st).length

/-- The stripes in NAND: programmed whole, and not erased. -/
def fullStripes (s : State) : List Nat :=
  ((s.flash.nand.map fun kv => kv.1 / stripeSlots).eraseDups).filter fun st =>
    !(s.flash.programs.any fun p => p.1 == st) && !(s.flash.openS.any fun o => o.stripe == st) && !(s.flash.erasing.any fun e => e.1 == st)

/-- The stripe with the fewest valid slots. -/
def fewest (s : State) (l : List Nat) : Option Nat :=
  l.foldl (fun acc st => match acc with | none => some st | some a => if validSlots s st < validSlots s a then some st else some a) none

/-- Space of a slice is reclaimed (R248): its stripe with the fewest valid slots. When the node queues the item, the manual does not give: a free value
decides it (log entry 7). -/
def reclaimSlice (s : State) (sl : Nat) : State :=
  let mine := fun (st : Nat) => stripeSlice s st == sl
  match fewest s ((fullStripes s).filter mine) with
  | none => s
  | some st =>
    if s.bg.items.any fun i => match i.work with | .reclaim k => mine k | _ => false then s
    else
      let (x, s) := draw s
      if x % 2 = 1 then addItem s 3 (.reclaim st) 0x600 false 1 else s

/-- Space of every slice is reclaimed. -/
def queueReclaim (s : State) : State := (List.range 16).foldl reclaimSlice s

/-- The blocks of a reclaimed stripe are erased once nothing can read them any more. -/
def startErases (s : State) : State :=
  let now := s.flash.erasing.filter fun e => decide (e.2 ≤ s.run.frame) && validSlots s e.1 == 0
  let cs := (List.range 24).filter fun c => !chanLost s c
  { s with flash := { s.flash with
      erasing := s.flash.erasing.filter fun e => !now.contains e
      eraseQ := now.foldl (fun q e => cs.foldl (fun q c => cset [] q c (cget [] q c ++ [e.1])) q) s.flash.eraseQ } }

/-- A lane has a MAINT step in the frame that queued work may use (R48, R195). -/
def hasMaint (s : State) (lane : Nat) : Bool :=
  match s.run.plate with
  | none => false
  | some p => match p.lanes.find? fun l => l.id == lane with
    | none => false
    | some l => l.recs.any fun r => r.op == 1 && (!r.fill || s.bg.gate)

/-- The published SN carried by the beat that began frame `f`, at most 255 frames back (R171). -/
def pubAt (s : State) (f : Nat) : Nat := s.recs.pubs.getD (s.run.frame - f) 0

/-- The scheduler selects a merge: it starts, and the partner learns of it (R188). -/
def startMerge (s : State) (lane : Nat) : State :=
  match itemFor s lane with
  | none => s
  | some i =>
    match i.work with
    | .merge ix leaf pair =>
      (match findDesc s 1 ix with
       | none => s
       | some d =>
         if !hasMaint s lane || s.bg.merges.any fun m => m.pair == pair then s
         else
           let floor := pubAt s (s.run.frame + 1 - depthNow s)
           let cut := s.recs.published
           let m : Merge := { index := ix, node := nodeId s, leaf := leaf, start := s.run.frame, floor := floor, cut := cut, span := mergeSpan d, switched := none
                              entry := [], pair := pair, ready := readyAt s d (leafEntry s d (nodeId s) leaf) s.run.frame }
           let s := { s with bg := { s.bg with merges := s.bg.merges ++ [m] } }
           match partner s with
           | some p => sendRemote s p (.merge (BitVec.ofNat 16 ix) (BitVec.ofNat 24 leaf) (BitVec.ofNat 64 s.run.frame) (BitVec.ofNat 48 floor)
               (BitVec.ofNat 48 cut))
           | none => s)
    | _ => s

/-- The maintenance scheduler at a boundary (R195). -/
def maintStep (s : State) : State :=
  let s := landMoves s
  let s := (tailIndexes s).foldl queueMerges s
  let s := startErases (queueReclaim (queueScrub s))
  let s := s.bg.items.foldl ageItem s
  let s := { s with bg := { s.bg with gate := s.setup.flat || s.bg.items.any Item.urgent, cut := s.bg.nextItem } }
  let s := ((s.bg.items.map Item.lane).eraseDups).foldl startMerge s
  s.bg.merges.foldl mergeStep s

/-! ### The partner's load (R429, R431) -/

/-- Tiles in T1 to T3 of every object. -/
def allTiles (s : State) : List (Nat × Nat) := s.mem.objs.flatMap fun o => (List.range o.tiles).map fun t => (o.id, t)

/-- Queue the tiles of some addresses. -/
def queueTiles (s : State) (ts : List (Nat × Nat)) : State :=
  ts.foldl (fun s x => addItem s 3 (.load x.1 x.2) (moveLaneOf s x.1 x.2) true 1) s

/-- The tiles of some addresses. -/
def tilesOf (s : State) (l : List Nat) : List (Nat × Nat) := (l.filterMap fun a => (tileAt s a).map fun ot => (ot.1.id, ot.2)).eraseDups

/-- While the partner is LOADING this node sends it its data: the delta alone, or everything where the partner's memories did not keep their
contents, which the partner's report decides (a free value here, log entry 7); then every tile written meanwhile. -/
def loadStep (s : State) (begins : Bool) : State :=
  match partner s with
  | none => s
  | some p =>
    if statusOf s p ≠ 2 then
      { s with bg := { s.bg with items := s.bg.items.filter fun i => match i.work with | .load _ _ => false | _ => true } }
    else
      let n := s.orr.delta.length
      let s' := { s with orr := { s.orr with cursor := some n } }
      if begins then
        let (x, s') := draw (sendRemote s' p (.mapInForce (mapPackage s')))
        queueTiles s' (if x % 2 = 1 then tilesOf s s.orr.delta else allTiles s)
      else queueTiles s' (tilesOf s (s.orr.delta.drop (s.orr.cursor.getD 0)))

/-! ### Flash windows (R141, R142, R144, R247, R251) -/

/-- Issue reads in order while the limit lasts. -/
def issueReads : Nat → List FRead → List FRead
  | _, [] => []
  | n, r :: l =>
    if r.stage ≠ 0 then r :: issueReads n l
    else if r.cost ≤ n then { r with stage := 4 } :: issueReads (n - r.cost) l
    else r :: issueReads 0 l

/-- CAUSE of a late read: 0 where it was not handed to its channel (R238), 1 not returned, 2 uncorrectable; none where it came in time. -/
def lateCause (r : FRead) : Option Nat :=
  if r.stage = 2 then none else if r.stage = 0 ∨ r.stage = 4 then some 0 else if r.stage = 3 then some 2 else some 1

/-- Log one late read. -/
def logLate (s : State) (r : FRead) (cause : Nat) : State :=
  let e := layoutBytes 32 [(0, 8, s.run.frame - 1), (8, 8, r.req), (16, 8, r.vid), (24, 4, packBits [(0, 2, cause), (2, 5, r.channel)])]
  let s := if s.recs.lateLog.length < 65536 then { s with recs := { s.recs with lateLog := s.recs.lateLog ++ [e] } }
    else { s with recs := { s.recs with lateMore := satAdd 32 s.recs.lateMore 1 } }
  let sl := match tileAt s (3 * 2 ^ 62 + slotBytes * r.slot) with | some (o, _) => o.slice | none => 0
  countRec (countFc s r.channel 3 1) sl 8 1

/-- Staged data that is programmed, or is no slot's any more and will not be, is freed, unless a window still needs it (R247). -/
def freeStaging (s : State) : State :=
  let keep := fun (k : Nat) =>
    (s.flash.openS.any fun o => o.stripe == k / stripeSlots) || (s.flash.programs.any fun p => p.1 == k / stripeSlots) ||
      (s.flash.slotMap.any fun kv => seStaged kv.2 && sePlace kv.2 == k) || s.flash.reads.any fun r => r.place == k && r.cost == 0
  { s with flash := { s.flash with staged := cdrop (!keep ·) s.flash.staged } }

/-- Places of the receive area whose query or look-up is over are free again. -/
def freeReceived (s : State) : State :=
  let keep := fun (n : Nat) => (s.flash.reads.any fun r => r.slot == n) || (s.recs.shares.any fun q => q.data.any fun x => x.1 == n) ||
    s.recs.tables.reads.any fun r => match r.2.2 with | some x => x.1 == n | none => false
  { s with flash := { s.flash with received := cdrop (!keep ·) s.flash.received } }

/-- Shares of queries that have been answered are over. -/
def endShares (s : State) : State :=
  { s with recs := { s.recs with shares := s.recs.shares.filter fun q => decide (s.run.frame < q.admitAt + depthNow s) } }

/-- STAGED is cleared for the stripes whose programs are done. -/
def clearStaged (s : State) : State :=
  let s' := (s.flash.slotMap.filter fun kv => seStaged kv.2 && s.flash.clearing.contains (seStripe kv.2)).foldl (fun s kv =>
    setEntry s kv.1 (mkEntry (seStripe kv.2) (seIndex kv.2) false (sePoisoned kv.2) (seValid kv.2))) s
  { s' with flash := { s'.flash with clearing := [] } }

/-- A window that ends: a read that is late is logged, and what came is kept for stage 3 or for a gather (R142, R144, R210). -/
def closeRead (s : State) (r : FRead) : State :=
  match lateCause r with
  | some c => endRead (logLate s r c) r true
  | none => endRead s r false

/-- The windows that end at a boundary. -/
def closeWindows (s : State) : State :=
  let s' := (s.flash.reads.filter fun r => decide (r.until_ ≤ s.run.frame)).foldl closeRead s
  { s' with flash := { s'.flash with reads := s'.flash.reads.filter fun r => !decide (r.until_ ≤ s.run.frame) } }

/-- The reads of the windows go out as their limit allows; one that no channel can serve is a finding (R141, R251, R252). -/
def flashStep (s : State) : State :=
  match s.run.plate with
  | none => s
  | some p =>
    let lost := s.flash.reads.filter fun r => r.stage == 3 && r.data.isEmpty && r.until_ == s.run.frame + p.flashWindow
    let s := lost.foldl (fun s r => match slotAt s r.place with | some n => poisonSlot s r.channel n | none => s) s
    freeReceived (freeStaging (clearStaged { s with flash := { s.flash with reads := issueReads p.flashPF s.flash.reads } }))

/-! ### Transits (R216 to R218) -/

/-- A transit that cannot go on is cancelled; a partial copy whose transit has ended with its giver, or before this node started anew, is freed. -/
def transitStep' (s : State) (fresh : Bool) : State :=
  let s := match s.bg.transit with
    | none => s
    | some t =>
      let lost := fun (n : Nat) => n != nodeId s && statusOf s n != 1
      if lost t.owner || (match partnerOf s t.owner with | some p => lost p | none => false) then cancelTransit s else s
  (s.recs.tables.arriving.filter fun x => fresh || statusOf s x.2.2 != 1).foldl (fun s x => dropArrival s x.1 x.2.1) s

/-! ### Transitions (R346) -/

/-- SERVE and DRAIN apply at the next boundary. -/
def transitionStep (s : State) : State :=
  match s.node.trans with
  | some (0x19, _) => abortIllegal (finishTrans (enterState s stServing) { status := sOk })
  | some (0x1A, _) => abortIllegal (finishTrans (enterState s stDraining) { status := sOk })
  | _ => s

/-! ### The boundary -/

/-- Space freed by OBJ_FREE returns to its quota (R355). -/
def returnSpace (s : State) : State :=
  { s with mem := { s.mem with freeing := s.mem.freeing.filter fun f => decide (s.run.frame < f.2.2.2) } }

/-- The quiesce of a change begins at the first boundary after it was accepted (R292). -/
def quiesceStep (s : State) : State :=
  { s with setup := { s.setup with change := s.setup.change.map fun c => { c with quiesced := c.quiesced || decide (c.frame < s.run.frame) } } }

/-- The composition that a COMPOSE in RESTORED left applies at START (R346, R351). What breaks its rule is refused, and nothing of it applies. -/
def startComposition (s : State) : State :=
  match s.setup.composed with
  | none => s
  | some b =>
    let e := fld b 4 0 32
    let s := acceptChange { s with setup := { s.setup with composed := none } } e none (packageNext b e)
    let s := refuseBad s.setup.next.length s
    if s.setup.change.isSome then applyNext s else s

/-- The view that the beat carries comes into force (R421). -/
def viewStep (s : State) (num : Nat) : State × Bool :=
  match s.orr.pending with
  | some v => if v.num = num then (adoptView s v s.run.frame, true) else (s, false)
  | none => (s, false)

/-- Rings under RING_CLOSE stop admitting (R358): OPEN reads 0, and records not admitted never are. -/
def stopClosing (s : State) : State :=
  { s with host := { s.host with rings := s.host.rings.map fun r => if r.closing && r.isOpen then { r with isOpen := false, records := [] } else r } }

/-- The primary role moves to position 1 (R280), and CONJ_PROMOTE completes. -/
def promoteStep (s : State) : State :=
  if s.conj.promote.isEmpty then s
  else s.conj.promote.foldl (fun s m => finish s m { status := sOk }) { s with conj := { s.conj with primary := 1, promote := [] } }

/-- Take one message that came in the frame. -/
def takeRemote (s : State) (m : Remote) : State :=
  match (takeQuery s m).or (takeMember s m), (takeUpdate s m).or (takeRun s m), takeTable s m with
  | some t, _, _ => t
  | none, some t, _ => t
  | none, none, some t => t
  | none, none, none =>
    match m with
    | .mapChange node table shard owner =>
      { s with setup := { s.setup with submits := s.setup.submits ++ [(node.val, table.toNat, shard.toNat, owner.val)] } }
    | .mapInForce b => takeMap s b
    | .shardOwner table shard owner epoch => takeOwner s table.toNat shard.toNat owner epoch.toNat
    | .transitCancel table shard => dropArrival s table.toNat shard.toNat
    | .wantTile object index => answerTile s object.toNat index.toNat
    | .noTile object index =>
      if s.bg.asked.contains (object.toNat, index.toNat) then
        { s with bg := { s.bg with answers := s.bg.answers ++ [(object.toNat, index.toNat, none)] } }
      else s
    | _ => s

/-- The check of a learned scale that the frame's strokes have updated (R80). -/
def checkScale (s : State) (a : Nat) : State :=
  let (v, replaced) := learnedScale (readNat s a 2)
  if replaced then
    let sl := match tileAt s a with | some (o, _) => o.slice | none => 0
    count (setConstant (writeNat s a 2 v) a true) 0 10 sl 6 1
  else s

/-- A word that the copy of a cluster map change could not read has lost its data, takes a poison mark, and its tile is a finding (R53, R405). -/
def loseWord (s : State) (a : Nat) : State :=
  let g := a / 32 * 32
  let s := setMarks (writeFree s g 32) g [true]
  match tileAt s g with
  | some (o, t) => poisonFinding s o.id t (clLane (g / 2 ^ 56 % 32) 6) 0
  | none => s

/-- What follows at a boundary once the maps, the plate and the view are in force and the node goes on. -/
def boundaryWork (s : State) (x : BoundaryIn) (newView fresh begins : Bool) : State :=
  let s := promoteStep (stopClosing (transitionStep s))
  let s := submitStep (reportLost (withdraw (x.remote.foldl takeRemote s)))
  let s := closeWindows (forgetWrites (applyMarks s))
  let s := x.strokes.foldl takeStroke (tablesStep s)
  let s := x.scales.foldl (fun s a => checkScale s a.toNat) s
  let s := if s.run.exempt then x.unread.foldl (fun s a => loseWord s a.toNat) s else s
  let s := transitStep' (claimCustody (resultsDue (redrive x.encoded (homeFrames s)))) fresh
  let s := resultsDue (admission x.encoded (quiesceStep s))
  let s := busyStep s newView fresh
  let s := maintStep (loadStep s begins)
  let s := flashStep (endShares s)
  raiseEvents (returnSpace (sendReports s))

/-- The new frame, from the beat that begins it. -/
def newFrame (s : State) (x : BoundaryIn) (b : BeatMsg) (fresh : Bool) : State :=
  let image := s.run.image
  let s := openFrame { s with power := { s.power with tele := x.tele } } b
  let s := if fresh then startComposition { s with setup := { s.setup with epoch := b.epoch.toNat } } else s
  let s := dropAbandoned s
  let s := if s.setup.complete && (b.apply || (fresh && alone s)) then applyNext s else s
  let loading := match partner s with | some p => statusOf s p == 2 | none => false
  let (s, newView) := viewStep s b.view.toNat
  if !s.run.running then s
  else if s.run.plate.isNone then { s with run := { s.run with running := false } }
  else
    let s := quarantineStep s
    if s.node.faultAt then enterFault s
    else
      let begins := !loading && (match partner s with | some p => statusOf s p == 2 | none => false)
      let s := countingStep (burinStep s x (fresh || image != s.run.image))
      boundaryWork s x newView fresh begins

/-- A node that stops at the end of its frame (R44, R369, R385, R388). -/
def stopNode (s : State) (st : Nat) : State :=
  if st = stFault then enterFault s else moveTo (haltPlate s) st

/-- R41: step 0 of the next frame begins once step N − 1 has completed and the beat has arrived. A node that was to stop at the end of its frame
stops; an admitted node that waits for its first beat starts. -/
def execFrameBegin (x : BoundaryIn) (s : State) : Host.Outcome State Fault Refusal :=
  if s.run.running then
    if !s.run.waiting then .next s
    else match s.run.stopAt, s.fab.beat with
      | some st, _ => .next (stopNode (closeFrame s x) st)
      | none, none => .next s
      | none, some b => .next (newFrame (closeFrame s x) x b false)
  else match s.fab.beat with
    | none => .next s
    | some b =>
      if awaitsStart s && admittedBy s b.view.toNat && (s.run.plate.isSome || s.setup.composed.isSome) then .next (newFrame s x b true)
      else .next s

/-! ### The envelope's events -/

/-- R369: the envelope has not been regained within 10 s. -/
def execEnvelopeGraceExpire (s : State) : Host.Outcome State Fault Refusal :=
  match s.faults.graceFrom with
  | none => .next s
  | some t =>
    if !s.run.running || s.power.ms < t + 10000 then .next s
    else .next { s with run := { s.run with stopAt := some stFault }, faults := { s.faults with holdStart := true, heldFrom := none, graceFrom := none } }

/-- The flags of the grade's envelope go: INLET_HIGH, INLET_LOW, FLOW_LOW, VCORE_BAND and ENVELOPE_LOST. -/
def clearEnvelope (live : Nat) : Nat := [0, 1, 2, 5, 6].foldl (fun v b => if bit v b then v - 2 ^ b else v) live

/-- R487: the grade's envelope has held for 60 s, counted after a TJ_HIGH only from its end (R485): the START of R387 follows. -/
def execEnvelopeHoldStart (s : State) : Host.Outcome State Fault Refusal :=
  let early := match s.faults.heldFrom with | some t => decide (s.power.ms < t + 60000) | none => false
  if s.node.state = stRestored ∧ s.faults.holdStart ∧ s.faults.autoStart ∧ !bit s.power.live 4 ∧ !early then
    let s' := { s with faults := { s.faults with holdStart := false, heldFrom := none }, power := { s.power with live := clearEnvelope s.power.live } }
    .next (powerIbi s (beginSoak s'))
  else .next s

end Sys2Proof.Machine
end

