-- ==== Sys2Proof/Machine/Take.lean ====
section
/-!
DEFINITION. How Burin takes a command (R313 to R316, R327 to R331, R336, R443, R516): the checks in their order, the replay, the
answer, and the DMA of a command's buffer.
-/
namespace Sys2Proof.Machine

/-- A command as it stands in its mailbox frame (R310): the command block, the payload, the SEQ of the seal. -/
structure Cmd where
  m     : Nat
  block : Bytes
  pay   : Bytes
  seq   : Nat
  deriving DecidableEq, Repr

def Cmd.code (c : Cmd) : Nat := fld c.block 0 0 16
def Cmd.len (c : Cmd) : Nat := fld c.block 4 0 32
def Cmd.req (c : Cmd) : Nat := fld c.block 8 0 64
/-- A field of the command block. -/
def Cmd.arg (c : Cmd) (off lo len : Nat) : Nat := fld c.block off lo len
def Cmd.port (c : Cmd) : Nat := boxPort c.m

/-- Read the frame of a mailbox. -/
def readCmd (s : State) (m : Nat) : Cmd :=
  let block := frameBytes s m 0 64
  ⟨m, block, frameBytes s m 0x100 (min 3584 (fld block 4 0 32)), leNat (frameBytes s m 0xFF8 4)⟩

/-- Check 1 of R314: SEQ and CHECK of the seal, LENGTH (R312). -/
def sealOk (s : State) (c : Cmd) : Bool :=
  let sl := frameBytes s c.m 0xFF8 8
  c.seq != 0 && c.seq != leNat (frameBytes s c.m 0x40 4) && decide (c.len ≤ 3584) &&
    fld sl 4 0 16 == sealCheck (c.block ++ c.pay)

/-- Answer a command at once. -/
def reply (s : State) (c : Cmd) (r : Reply) : State := answer s c.m c.code c.req c.seq r

/-- A status alone, and one with DETAIL. -/
def replyS (s : State) (c : Cmd) (status : Nat) : State := reply s c { status := status }
def replyD (s : State) (c : Cmd) (status detail : Nat) : State := reply s c { status := status, detail := detail }

/-- S_BAD_STATE with its condition (R336). -/
def badState (s : State) (c : Cmd) (detail : Nat) : State := reply s c { status := sBadState, detail := detail, allowed := allowedMask c.code }

/-- A command that completes later (R317). -/
def hold (s : State) (c : Cmd) (arg : Nat) : State :=
  { s with host := { s.host with inProg := s.host.inProg ++ [⟨c.m, c.code, c.req, c.seq, arg, 0⟩] } }

/-- Who takes commands: the firmware, or in ROM recovery the ROM (R315, R443). -/
def takerUp (s : State) : Bool := burinUp s || (s.boot.romRecovery && !s.faults.inReset.contains 1)

/-- A mailbox whose command is the next to take (R313, R315). -/
def canTake (s : State) (m : Nat) : Bool := takerUp s && s.host.order.head? == some m && cget 0 s.host.mstate m == 1

/-- The take: the seal leaves the order, and the response seal is 0 (R313). -/
def taken (s : State) (m : Nat) : State :=
  setFrame { s with host := { s.host with order := s.host.order.drop 1 } } m 0xFF0 (List.replicate 8 0#8)

/-- The stored response of the same command (R316). -/
def replayOf (s : State) (c : Cmd) : Option LastResp :=
  s.host.last.find? fun l => l.mailbox == c.m && l.code == c.code && l.reqId == c.req

/-- Write a stored response once more. -/
def replay (s : State) (c : Cmd) (l : LastResp) : State :=
  respond s c.m c.seq l.status (patch (patch l.block 0 (leBytes 4 c.seq)) 6 [BitVec.ofNat 8 (fld l.block 6 0 8 ||| 16)]) l.resp

/-- The commands that a mailbox in no valid slice may issue. -/
def anyBox (code : Nat) : Bool := code == 1 || code == 2

/-- Counter groups and logs that need ADMIN privilege (R342, R463). -/
def adminRead (c : Cmd) : Bool :=
  (c.code == 4 && [1, 3, 4, 5, 6, 7, 8, 12].contains (c.arg 0x10 0 16)) || (c.code == 5 && [1, 3].contains (c.arg 0x10 0 8))

/-- Check 3 of R314. -/
def denied (s : State) (c : Cmd) : Bool :=
  ((boxSlice s c.m).isNone && !anyBox c.code) || ((needsAdmin c.code || adminRead c) && !boxAdmin s c.m)

/-- What ROM recovery answers instead of executing (R443). -/
def romRefusal (s : State) (c : Cmd) : Option Nat :=
  if !s.boot.romRecovery then none
  else if c.m ≠ 0 ∧ c.m ≠ 32 then some sDenied
  else if c.code ∈ [1, 2, 0x21, 0x22] ∨ (c.code = 0x10 ∧ c.arg 0x10 0 5 = 0) then none
  else some sBusy

/-- Is a command a state transition (R346). -/
def isTransition (code : Nat) : Bool := decide (0x18 ≤ code) && decide (code ≤ 0x1D)

/-- Check 4 of R314: the condition that refuses the command, with the code of R336. -/
def stateRefusal (s : State) (c : Cmd) : Option Nat :=
  if !((legalStates c.code).getD []).contains s.node.state then some 0
  else if conjSecondary s && c.code != 0x78 then some 9
  else if isTransition c.code && s.node.trans.isSome then some 1
  else none

/-- The Reserved part of the command seal, at bytes 0xFFE and 0xFFF of the frame (R9, R312, check 5 of R314). -/
def sealParam (s : State) (c : Cmd) : Option Nat := lowestBad [rsvFld 4 16 16] (frameBytes s c.m 0xFF8 8) |>.map (· + 0xFF8)

/-- The lowest offending byte of a command: of its parameters, and of its seal (R314, check 5). -/
def firstOffence (params : State → Cmd → Option Nat) (s : State) (c : Cmd) : Option Nat := minOpt (params s c) (sealParam s c)

/-- Checks 2 to 5 of R314: what the command is answered with instead of its effect; `params` gives its lowest offending byte. -/
def refusal (s : State) (c : Cmd) (params : Option Nat) : Option Reply :=
  if (legalStates c.code).isNone then some { status := sBadCommand }
  else match romRefusal s c with
    | some st => some { status := st }
    | none =>
      if denied s c then some { status := sDenied }
      else match stateRefusal s c with
        | some d => some { status := sBadState, detail := d, allowed := allowedMask c.code }
        | none => params.map fun d => { status := sBadParam, detail := d }

/-- Check 1 fails: S_BAD_SEAL, counted on the mailbox's port (R309, R314). -/
def badSeal (s : State) (c : Cmd) : State :=
  reply { s with host := { s.host with badSeals := cmod 0 s.host.badSeals c.port (satAdd 32 · 1) } } c { status := sBadSeal }

/-- Burin takes the command of a mailbox, where it is one with code `code`: the checks of R314 in their order, then its effect. A seal
that fails, a replay and an undefined code are answered by whichever command's take it is. -/
def take (code : Nat) (params : State → Cmd → Option Nat) (effect : State → Cmd → State) (m : Fin 64) (s : State) :
    Host.Outcome State Fault Refusal :=
  if !canTake s m.val then .next s
  else
    let c := readCmd s m.val
    let s' := taken s m.val
    if !sealOk s c then .next (badSeal s' c)
    else if c.code ≠ code ∧ (legalStates c.code).isSome then .next s
    else match replayOf s c with
      | some l => .next (replay s' c l)
      | none => match refusal s' c (firstOffence params s' c) with
        | some r => .next (reply s' c r)
        | none => .next (effect s' c)

/-! ### Parameters (R330, R516) -/

/-- The lowest offending byte of the command block and payload: the Reserved part of the head, LENGTH, the ARGS fields, and the
payload's own offence. -/
def offends (c : Cmd) (len : Nat) (args : List Fld) (pay : Option Nat) : Option Nat :=
  minOpt (lowestBad ([rsvFld 0 16 16, okFld 4 0 32 (· == len)] ++ args) c.block) (pay.map (· + 0x100))

/-- A command without ARGS or payload. -/
def noArgs (_ : State) (c : Cmd) : Option Nat := offends c 0 (rsvBytes 0x10 0x3F) none

/-- A buffer reference at an offset of the command block (R331). -/
def bufFlds (o : Nat) : List Fld :=
  [okFld o 0 64 (· % 64 == 0), okFld (o + 8) 0 32 (fun v => decide (64 ≤ v) && v % 64 == 0), rsvFld (o + 12) 0 32]

/-- A mailbox may act on a slice (R287): its own, or any for ADMIN. -/
def mayUse (s : State) (c : Cmd) (slice : Nat) : Bool := boxAdmin s c.m || boxSlice s c.m == some slice

/-! ### DMA (R331, R332) -/

def Cmd.bufAddr (c : Cmd) (o : Nat) : Nat := c.arg o 0 64
def Cmd.bufSize (c : Cmd) (o : Nat) : Nat := c.arg (o + 8) 0 32

/-- Where in its first `n` bytes a buffer access fails. -/
def dmaFails (s : State) (c : Cmd) (d : Dma) (n : Nat) : Option Nat :=
  if n = 0 then none else if !dmaOk s c.port then some 0 else match d.failAt with | some k => if k < n then some k else none | none => none

/-- DMA_RD and DMA_FAIL (R461). -/
def countDmaRead (s : State) (c : Cmd) (n : Nat) : State := count s (2 + c.port) 6 c.port 0 n
def countDmaFail (s : State) (c : Cmd) : State := count s (2 + c.port) 6 c.port 4 1

/-- End a command with S_HOST_DMA: the offset of the access that failed, and the bytes moved. -/
def hostDma (s : State) (c : Cmd) (k moved : Nat) : State :=
  reply (countDmaFail s c) c { status := sHostDma, detail := k, progress := moved }

/-- Read `n` bytes of a command's buffer, then go on. -/
def withBuffer (s : State) (c : Cmd) (d : Dma) (n : Nat) (go : State → Bytes → State) : State :=
  match dmaFails s c d n with
  | some k => hostDma (countDmaRead s c k) c k 0
  | none => go (countDmaRead s c n) (d.data.take n)

/-- Write bytes to a command's buffer, then go on. -/
def toBuffer (s : State) (c : Cmd) (o : Nat) (d : Dma) (bs : Bytes) (go : State → State) : State :=
  if c.bufSize o < bs.length then reply s c { status := sBadParam, detail := o + 8, resp := leBytes 8 bs.length }
  else match dmaFails s c d bs.length with
    | some k => hostDma (hostWrite s c.port (c.bufAddr o) (bs.take k)) c k k
    | none => go (hostWrite s c.port (c.bufAddr o) bs)

end Sys2Proof.Machine
end

