-- ==== Sys2Proof/Machine/Information.lean ====
section
/-!
DEFINITION. The commands that read: NODE_INFO, NODE_STATUS, ATTEST, COUNTER_READ, LOG_READ (R338 to R342, R448, R459 to R463).
-/
namespace Sys2Proof.Machine

/-! ### NODE_INFO and NODE_STATUS (R338, R339) -/

/-- The size and arrangement of the node's conjunction: as formed, else as retained. -/
def conjShape (s : State) : Nat × Nat := if s.conj.formed then (s.conj.size, s.conj.arrangement) else conjSetting s

/-- The response of NODE_INFO. -/
def infoBytes (s : State) : Bytes :=
  let d := domainSetting s
  layoutBytes 64 [(0, 4, s.boot.grade % 2 + 2 * s.boot.activeSlot), (4, 4, s.boot.fwVersion), (8, 8, s.boot.serial),
    (0x10, 4, packBits [(0, 9, nodeId s), (9, 3, s.boot.conjId), (12, 6, s.boot.slotId), (18, 4, (conjShape s).1), (22, 2, (conjShape s).2)]),
    (0x14, 4, packBits [(0, 16, bits d 0 16), (16, 3, bits d 16 3), (19, 3, bits d 19 3), (22, 3, bits d 22 3)]), (0x20, 32, s.boot.fwDigest)]

/-- R338. -/
def execNodeInfo (m : Fin 64) (s : State) : Host.Outcome State Fault Refusal :=
  take 1 noArgs (fun s c => reply s c { status := sOk, resp := infoBytes s }) m s

/-- The view number in force; 0 outside a beat domain. -/
def viewNow (s : State) : Nat := match s.orr.view with | some v => v.num | none => 0

/-- The response of NODE_STATUS. -/
def statusBytes (s : State) : Bytes :=
  let t := s.power.tele
  let degraded := match s.orr.view with | some v => v.hold | none => false
  layoutBytes 64 [(0, 4, packBits [(0, 4, s.node.state), (4, 2, s.setup.running), (6, 1, b2n s.setup.flat), (7, 1, b2n degraded),
      (8, 1, b2n s.cnt.continuous), (9, 2, s.setup.phase)]),
    (4, 2, s.setup.setPoint), (6, 2, t.pin1ms / 10), (8, 4, s.setup.epoch), (12, 4, viewNow s), (0x10, 8, s.run.frame),
    (0x18, 6, s.recs.published), (0x20, 2, codeOf 16 (tjMax s)), (0x22, 2, t.vcore), (0x24, 2, codeOf 16 t.inlet),
    (0x26, 2, codeOf 16 t.outlet), (0x28, 1, s.orr.score)]

/-- R339: the telemetry is sampled at take. -/
def execNodeStatus (m : Fin 64) (t : Telemetry) (s : State) : Host.Outcome State Fault Refusal :=
  take 2 noArgs (fun s c =>
    let s := { s with power := { s.power with tele := t } }
    reply s c { status := sOk, resp := statusBytes s }) m s

/-! ### ATTEST (R340, R448) -/

/-- The plate held as a next copy. -/
def nextPlate (s : State) : Option Bytes :=
  ((s.setup.next ++ s.setup.later).findSome? fun n => match n.obj with | .plate b => some b | _ => none).or (s.setup.composed.map packagePlate)

/-- DIGEST and PLATE_ID of a plate image; 0 where there is none. -/
def plateMark (b : Option Bytes) : Nat × Nat := match b with | some b => (fld b 0x20 0 256, fld b 0x10 0 64) | none => (0, 0)

/-- The 576 bytes that are signed. -/
def attestBody (s : State) (nonce sigLen : Nat) (seed : Nat) : Bytes :=
  let cur := plateMark (if s.run.plate.isSome then some s.run.image else none)
  let nxt := plateMark (nextPlate s)
  let other := 1 - s.boot.activeSlot
  let fwOther := if slotValid (bootDirOf s.nor) other then imageDigest (slotImage s.nor other) else 0
  let view := match s.orr.view with | some v => viewBytes v | none => List.replicate 224 0#8
  layoutBytes 0x120 [(0, 4, 0x41545354), (4, 2, 1), (6, 2, sigLen), (8, 8, s.boot.serial),
    (0x10, 4, packBits [(0, 1, s.boot.grade), (1, 4, s.node.state), (5, 1, s.boot.activeSlot), (6, 8, s.boot.flags)]), (0x14, 4, nodeId s),
    (0x18, 4, s.setup.epoch), (0x20, 8, s.run.frame), (0x28, 8, s.boot.proofSeq), (0x30, 32, nonce), (0x50, 32, Config.rootDigest),
    (0x70, 32, s.boot.fwDigest), (0x90, 32, fwOther), (0xB0, 32, s.boot.proofCheck), (0xD0, 32, cur.1), (0xF0, 32, nxt.1), (0x110, 8, cur.2),
    (0x118, 8, nxt.2)] ++ view ++ layoutBytes 64 [(0, 32, shake256 (slice (Config.falconPublic seed) 0 1793))]

/-- The report: body, signature slot, certificate. The length of the signature is free (log entry 7). -/
def attestReport (s : State) (nonce seed : Nat) : Bytes :=
  let sigLen := 1 + Config.free s.drawn % 1280
  let body := attestBody s nonce sigLen seed
  body ++ slice (slice (Config.falconSign seed (shake256 body)) 0 sigLen) 0 1280 ++ slice s.nor.cert 0 5248

def attestParams (_ : State) (c : Cmd) : Option Nat := offends c 0 (bufFlds 0x30) none

/-- R340, R445, R448. -/
def execAttest (m : Fin 64) (d : Dma) (s : State) : Host.Outcome State Fault Refusal :=
  take 3 attestParams (fun s c =>
    match s.boot.seed with
    | none => replyS s c sAborted
    | some seed =>
      let r := attestReport s (c.arg 0x10 0 256) seed
      toBuffer { s with drawn := s.drawn + 1 } c 0x30 d r fun s => replyD s c sOk r.length) m s

/-! ### COUNTER_READ (R341, R459 to R463) -/

/-- Items of a group, their bytes, and whether the group is of a slice (R461, R341). -/
def groupShape (g : Nat) : Option (Nat × Nat × Bool) :=
  match g with
  | 1 => some (1, 64, false)
  | 2 => some (1, 80, true)
  | 3 => some (1, 80, false)
  | 4 => some (96, 40, false)
  | 5 => some (32, 64, false)
  | 6 => some (2, 40, false)
  | 7 => some (24, 64, false)
  | 8 => some (1537, 64, false)
  | 9 => some (1, 64, true)
  | 10 => some (1, 80, true)
  | 11 => some (1, 96, true)
  | 12 => some (5, 40, false)
  | 0x10 => some (65536, 32, true)
  | 0x11 => some (65536, 16, true)
  | _ => none

/-- The slice a COUNTER_READ of group 0x11 names through its table. -/
def tableSlice (s : State) (id : Nat) : Option Nat := (findDesc s 2 id).bind (descSlice s)

def counterParams (s : State) (c : Cmd) : Option Nat :=
  let g := c.arg 0x10 0 16
  let sl := c.arg 0x10 16 4
  let first := c.arg 0x14 0 32
  let n := c.arg 0x18 0 32
  let shape := groupShape g
  let start := if g = 0x11 then first / 65536 else first
  let items := match shape with | some x => x.1 | none => 0
  let sliced := match shape with | some x => x.2.2 | none => false
  let own := !sliced || mayUse s c sl
  -- R463 names ARGS 0x10 for a slice of another
  let foreign := if own then none else some 0x10
  let table := if g = 0x11 ∧ !boxAdmin s c.m ∧ (tableSlice s (first % 65536)).isSome ∧ tableSlice s (first % 65536) ≠ boxSlice s c.m then some 0x14 else none
  minOpt (minOpt foreign table) (offends c 0
    ([okFld 0x10 0 16 (fun v => (groupShape v).isSome), rsvFld 0x10 20 12, okFld 0x14 0 32 (fun _ => shape.isNone || decide (start < items)),
      okFld 0x18 0 32 (fun _ => shape.isNone || (1 ≤ n && (decide (start + n ≤ items) || decide (items ≤ start)) && (g != 0x10 || n == 1))),
      rsvFld 0x1C 0 32] ++ bufFlds 0x20 ++ rsvBytes 0x30 0x3F) none)

/-- One item of a group. -/
def counterItem (s : State) (g sl first i : Nat) : Bytes :=
  let cells := fun (n : Nat) (f : Nat → Nat) => (List.range n).flatMap fun k => leBytes 8 (f k)
  if g = 0x10 then cells 4 fun k => if k < 3 then cget 0 s.cnt.drops (4 * (sl * 65536 + first + i) + k) else 0
  else if g = 0x11 then
    let table := first % 65536
    let shard := first / 65536 + i
    let owned := match findDesc s 2 table with | some d => bit (shardFlags s d shard) 0 | none => false
    if owned then (List.range 4).flatMap fun k => leBytes 4 (cget 0 s.cnt.shardLoad (4 * (65536 * table + shard) + k)) else List.replicate 16 0#8
  else
    match groupShape g with
    | none => []
    | some (_, bytes, sliced) => cells (bytes / 8) fun k => cget 0 s.cnt.bank (ckey g (if sliced then sl else first + i) k)

/-- The head and the items of a read (R460). -/
def counterBytes (s : State) (g sl first n : Nat) : Bytes :=
  match groupShape g with
  | none => []
  | some (_, bytes, sliced) =>
    layoutBytes 64 [(0, 4, packBits [(0, 16, g), (16, 4, if sliced then sl else 0), (20, 1, b2n s.cnt.continuous)]), (4, 4, n),
      (8, 8, if s.run.running then s.run.frame else 0), (16, 4, s.setup.epoch), (20, 2, bytes), (24, 8, s.cnt.sampledSteps)] ++
    (List.range n).flatMap (counterItem s g sl first)

/-- R341, R457, R459: the bank as it stood at the last boundary; with no plate running the sentinels add their increments first. -/
def execCounterRead (m : Fin 64) (d : Dma) (s : State) : Host.Outcome State Fault Refusal :=
  take 4 counterParams (fun s c =>
    let s := if s.run.running then s else flushCounters s
    let bs := counterBytes s (c.arg 0x10 0 16) (c.arg 0x10 16 4) (c.arg 0x14 0 32) (c.arg 0x18 0 32)
    toBuffer s c 0x20 d bs fun s => replyS s c sOk) m s

/-! ### LOG_READ (R342) -/

def logParams (s : State) (c : Cmd) : Option Nat :=
  let log := c.arg 0x10 0 8
  offends c 0 ([okFld 0x10 0 8 (inRange 1 3), okFld 0x10 9 4 (fun v => log != 2 || mayUse s c v), rsvFld 0x10 13 19] ++ rsvBytes 0x14 0x1F ++
    bufFlds 0x20 ++ rsvBytes 0x30 0x3F) none

/-- The entries of a log, oldest first, and its count of entries not logged. -/
def logOf (s : State) (log sl : Nat) : List Bytes × Nat :=
  if log = 1 then (s.recs.lateLog, s.recs.lateMore)
  else if log = 2 then ((s.recs.redirects.filter fun x => x.1 == sl).map Prod.snd, cget 0 s.recs.redirMore sl)
  else (s.dump.log, s.dump.notLogged)

/-- Drop the first `n` redirect hints of a slice. -/
def dropHints (sl : Nat) : Nat → List (Nat × Bytes) → List (Nat × Bytes)
  | 0, l => l
  | _, [] => []
  | n + 1, x :: r => if x.1 = sl then dropHints sl n r else x :: dropHints sl (n + 1) r

/-- Remove the first `n` entries of a log; where that empties it the not-logged count goes to 0. -/
def clearLog (s : State) (log sl n : Nat) : State :=
  let empty := decide ((logOf s log sl).1.length ≤ n)
  if log = 1 then
    { s with recs := { s.recs with lateLog := s.recs.lateLog.drop n, lateMore := if empty then 0 else s.recs.lateMore } }
  else if log = 2 then
    { s with recs := { s.recs with redirects := dropHints sl n s.recs.redirects
                                   redirMore := if empty then cset 0 s.recs.redirMore sl 0 else s.recs.redirMore } }
  else { s with dump := { s.dump with log := s.dump.log.drop n, notLogged := if empty then 0 else s.dump.notLogged } }

/-- R342. -/
def execLogRead (m : Fin 64) (d : Dma) (s : State) : Host.Outcome State Fault Refusal :=
  take 5 logParams (fun s c =>
    let log := c.arg 0x10 0 8
    let sl := c.arg 0x10 9 4
    let (es, more) := logOf s log sl
    let n := min es.length (c.bufSize 0x20 / (if log = 3 then 64 else 32))
    toBuffer s c 0x20 d (es.take n).flatten fun s =>
      let s := if c.arg 0x10 8 1 = 1 then clearLog s log sl n else s
      reply s c { status := sOk, resp := layoutBytes 32 [(0, 4, n), (4, 4, (logOf s log sl).1.length), (8, 4, more)] }) m s

end Sys2Proof.Machine
end

