-- ==== Sys2Proof/Machine/Composition.lean ====
section
/-!
DEFINITION. The commands that change maps, compositions, quotas and points: CLUSTER_MAP, BPMAP, COMPOSE, PHASE_LOAD, PHASE, QUOTA_SET,
OPPOINT_SET, POLICY_SET (R349 to R354, R367).
-/
namespace Sys2Proof.Machine

/-- A set-up object is written: the command completes when it applies (R19, R333). -/
def writeNext (s : State) (c : Cmd) (o : NextObj) : State := hold (addNext s ⟨o, some c.m, false⟩) c 0

/-! ### CLUSTER_MAP and BPMAP (R349) -/

def clusterParams (_ : State) (c : Cmd) : Option Nat := offends c 0 (rsvFld 0x10 2 30 :: rsvBytes 0x18 0x3F) none

/-- R349. -/
def execClusterMap (m : Fin 64) (s : State) : Host.Outcome State Fault Refusal :=
  take 0x30 clusterParams (fun s c => writeNext s c (.clmap (c.arg 0x10 0 2) (c.arg 0x14 0 32))) m s

def bpmapParams (_ : State) (c : Cmd) : Option Nat :=
  offends c 0 ([okFld 0x10 0 3 (· ≤ 5), okFld 0x10 3 4 (· ≤ 11), rsvFld 0x10 7 25, rsvFld 0x14 6 26] ++ rsvBytes 0x18 0x3F) none

/-- R349, R117: enabling a spare starts the copy that the map waits for. -/
def execBpmap (m : Fin 64) (s : State) : Host.Outcome State Fault Refusal :=
  take 0x31 bpmapParams (fun s c =>
    let st := c.arg 0x10 0 3
    let die := c.arg 0x10 3 4
    let v := c.arg 0x14 0 32
    let s := writeNext s c (.bpmap st die v)
    if bit v 5 && !bit (bpmapOf s st die) 5 then startSpareCopy s st die (bits v 0 5) else s) m s

/-! ### Packages (R350) -/

/-- The lowest offending byte of a composition package of `size` bytes: header, EPOCH of the slice map, Reserved bits of the quota
records and shard entries. What R285 says of the slice map is judged later. -/
def packageBad (b : Bytes) (size epoch : Nat) : Option Nat :=
  let map := fld b 8 0 32
  let q := fld b 12 0 32
  let len := fld b 0x14 0 32
  let sh := fld b 0x18 0 32
  let n := fld b 0x1C 0 16
  lowestBad ([okFld 0 0 32 (· == 0x434D5053), okFld 4 0 32 (· == epoch), okFld 8 0 32 (fun v => decide (v + 1088 ≤ size)),
      okFld 12 0 32 (fun v => v == 0 || decide (v + 512 ≤ size)), okFld 0x10 0 32 (fun v => decide (v + len ≤ size)), okFld 0x14 0 32 (fun v => decide (v ≤ size)),
      okFld 0x18 0 32 (fun v => n == 0 || decide (256 < n) || decide (v + 16 * n ≤ size)), okFld 0x1C 0 16 (· ≤ 256), rsvFld 0x1C 16 16] ++ rsvBytes 0x20 0x3F ++
    (if map + 1088 ≤ size then [okFld (map + 4) 0 32 (· == epoch)] else []) ++
    (if q = 0 ∨ size < q + 512 then [] else (List.range 16).flatMap fun i => rsvFld (q + 32 * i + 0x14) 16 16 :: rsvBytes (q + 32 * i + 0x18) (q + 32 * i + 0x1F)) ++
    (if n ≤ 256 ∧ sh + 16 * n ≤ size then (List.range n).map fun i => rsvFld (sh + 16 * i) 17 47 else [])) b

/-- The answer for a faulty structure in the buffer at ARGS 0x20 (R516); `s` is the state before its bytes were counted (R314). -/
def badBuffer (s : State) (c : Cmd) (off : Nat) : State := reply s c { status := sBadParam, detail := 0x20, bufOff := off }

/-- What a pending change or a running re-shard answers (R336). -/
def pendingDetail (s : State) : Option Nat := if s.setup.reshard.isSome then some 3 else if s.setup.change.isSome then some 2 else none

/-! ### COMPOSE (R351) -/

def composeParams (_ : State) (c : Cmd) : Option Nat := offends c 0 (rsvBytes 0x14 0x1F ++ bufFlds 0x20 ++ rsvBytes 0x30 0x3F) none

/-- The state in which a package's parts stand as next copies. -/
def withParts (s : State) (b : Bytes) (epoch : Nat) : State :=
  { s with setup := { s.setup with next := s.setup.next ++ packageNext b epoch } }

/-- The first part of a package that Burin does not mark complete. -/
def partRefused (s : State) (b : Bytes) (epoch : Nat) : Option (NextObj × Nat) :=
  (packageNext b epoch).findSome? fun n => (objReason (withParts s b epoch) n).map fun r => (n.obj, r)

/-- Refuse a command at take with a reason of R337. -/
def refuseNow (s : State) (c : Cmd) (o : NextObj) (reason : Nat) (data : Bytes) : State :=
  reply (postRefused s c.m o reason) c { status := sRefused, detail := reason, resp := data }

/-- A COMPOSE in RESTORED: checked and answered at take; it applies at START. A refusal leaves the counters as they were in `s0` (R314). -/
def composeNow (s0 s : State) (c : Cmd) (b : Bytes) (epoch : Nat) : State :=
  match partRefused s b epoch with
  | some (o, r) => refuseNow s0 c o r (refusedData (withParts s b epoch) o)
  | none => replyS { s with setup := { s.setup with composed := some b } } c sOk

/-- R351. -/
def execCompose (m : Fin 64) (d : Dma) (s : State) : Host.Outcome State Fault Refusal :=
  take 0x40 composeParams (fun s c =>
    let s0 := s
    let epoch := c.arg 0x10 0 32
    let size := c.bufSize 0x20
    withBuffer s c d size fun s b =>
      match packageBad b size epoch with
      | some off => badBuffer s0 c off
      | none =>
        if epoch ≠ (s.setup.epoch + 1) % 2 ^ 32 then replyS s0 c sStaleEpoch
        else if s.node.state = stRestored then composeNow s0 s c b epoch
        else match pendingDetail s with
          | some x => badState s0 c x
          | none => acceptChange (hold s c 0) epoch (some c.m) (packageNext b epoch)) m s

/-! ### PHASE_LOAD and PHASE (R352, R302, R303) -/

def phaseLoadParams (_ : State) (c : Cmd) : Option Nat :=
  offends c 0 ([okFld 0x10 0 2 (· != 3), rsvFld 0x10 2 30] ++ rsvBytes 0x14 0x1F ++ bufFlds 0x20 ++ rsvBytes 0x30 0x3F) none

/-- The slice map of a package, judged as R285 judges it when a phase map is loaded: objects have not moved yet. -/
def phaseMapOk (s : State) (b : Bytes) : Bool :=
  let q := fld b 12 0 32
  sliceMapOk { s with mem := { s.mem with objs := [] } } (packageMap b) fun i => if q = 0 then quotaOf s i else slice b (q + 32 * i) 32

/-- R352, R302. -/
def execPhaseLoad (m : Fin 64) (d : Dma) (s : State) : Host.Outcome State Fault Refusal :=
  take 0x41 phaseLoadParams (fun s c =>
    let s0 := s
    let ph := c.arg 0x10 0 2
    let size := c.bufSize 0x20
    if (match s.setup.reshard with | some r => r.target == ph | none => false) then badState s c 3
    else withBuffer s c d size fun s b =>
      let job := if fld b (fld b 8 0 32 + 0x10) 0 64 = s.setup.job then none else some (fld b 8 0 32 + 0x10)
      match minOpt (packageBad b size 0) (if fld b 8 0 32 + 1088 ≤ size then job else none) with
      | some off => badBuffer s0 c off
      | none =>
        if !phaseMapOk s b then refuseNow s0 c (.sliceMap (packageMap b)) 4 []
        else replyS { s with setup := { s.setup with phaseMaps := s.setup.phaseMaps.filter (fun p => p.1 != ph) ++ [(ph, b)] } } c sOk) m s

def phaseParams (s : State) (c : Cmd) : Option Nat :=
  offends c 0 ([okFld 0x10 0 2 (fun v => (phasePackage s v).isSome && v != s.setup.phase), rsvFld 0x10 2 30] ++ rsvBytes 0x14 0x1F ++ bufFlds 0x20 ++
    rsvBytes 0x30 0x3F) none

/-- The plate image in a buffer, by its own LENGTH. -/
def bufferPlate (b : Bytes) (size : Nat) : Bytes := slice b 0 (min (fld b 8 0 32) size)

/-- R352, R303: the re-shard begins with a change of epoch E + 1 that brings the re-shard plate. -/
def execPhase (m : Fin 64) (d : Dma) (s : State) : Host.Outcome State Fault Refusal :=
  take 0x42 phaseParams (fun s c =>
    match pendingDetail s with
    | some x => badState s c x
    | none =>
      let target := c.arg 0x10 0 2
      let size := c.bufSize 0x20
      withBuffer s c d size fun s b =>
        let e := (s.setup.epoch + 1) % 2 ^ 32
        let ns := [Next.mk (.plate (bufferPlate b size)) none true]
        let both := changedMask s ns ||| changedMask s (packageNext ((phasePackage s target).getD []) (e + 1))
        let s := acceptChange (hold s c 0) e (some c.m) ns
        { s with setup := { s.setup with reshard := some ⟨target, c.m, false, both⟩ } }) m s

/-! ### QUOTA_SET (R353) -/

def quotaParams (s : State) (c : Cmd) : Option Nat :=
  offends c 32 (rsvFld 0x10 4 28 :: rsvBytes 0x14 0x3F) (quotaBad s (sliceMapOf s) (c.arg 0x10 0 4) c.pay)

/-- R353: at once in RESTORED; staged otherwise. -/
def execQuotaSet (m : Fin 64) (s : State) : Host.Outcome State Fault Refusal :=
  take 0x48 quotaParams (fun s c =>
    let i := c.arg 0x10 0 4
    let staged := s.setup.staged.filter fun q => q.1 != i
    if s.node.state = stRestored then
      let s := retain { s with setup := { s.setup with quota := cset [] s.setup.quota i c.pay, staged := staged } } [⟨0x21, i, c.pay⟩]
      reply s c { status := sOk, resp := leBytes 8 0 }
    else reply { s with setup := { s.setup with staged := staged ++ [(i, c.pay)] } } c { status := sOk, resp := leBytes 8 1 }) m s

/-! ### OPPOINT_SET and POLICY_SET (R354, R367) -/

def oppointParams (_ : State) (c : Cmd) : Option Nat := offends c 0 ([okFld 0x10 0 2 (· != 3), rsvFld 0x10 2 30] ++ rsvBytes 0x14 0x3F) none

/-- The plate in force, and a plate that waits, with the slice map each is judged under. -/
def platesNow (s : State) : List (Bytes × Bytes) :=
  (if s.run.plate.isSome then [(s.run.image, sliceMapOf s)] else []) ++ (match nextPlate s with | some b => [(b, nextMap s)] | none => [])

/-- A plate that is not admissible at a point (R367). -/
def refusesPoint (s : State) (point : Nat) : Option (Bytes × Bytes) :=
  (platesNow s).find? fun p => !(plateParses p.1 && admissibleAt s (plateOf p.1) point)

/-- With no plate running no boundary comes: a point or a policy applies at once (log entry 45). -/
def applyIdle (s : State) : State := if s.run.running then s else idlePower (policyStep s)

/-- R354, R367. -/
def execOppointSet (m : Fin 64) (s : State) : Host.Outcome State Fault Refusal :=
  take 0x49 oppointParams (fun s c =>
    let p := c.arg 0x10 0 2
    match refusesPoint s p with
    | some x => reply s c { status := sRefused, detail := 1, resp := refusalReport s x.1 x.2 p }
    | none =>
      let s := hold s c 0
      applyIdle { s with setup := { s.setup with newPoint := s.setup.newPoint ++ [(p, c.m)] } }) m s

def policyParams (_ : State) (c : Cmd) : Option Nat :=
  offends c 0 ([rsvFld 0x10 1 31, okFld 0x14 0 16 (inRange 300 860), rsvFld 0x14 16 16] ++ rsvBytes 0x18 0x3F) none

/-- R354. -/
def execPolicySet (m : Fin 64) (s : State) : Host.Outcome State Fault Refusal :=
  take 0x4A policyParams (fun s c =>
    let s := hold s c 0
    applyIdle { s with setup := { s.setup with newPolicy := s.setup.newPolicy ++ [(c.arg 0x10 0 1 == 1, c.arg 0x14 0 16, c.m)] } }) m s

end Sys2Proof.Machine
end

