-- ==== Sys2Proof/Machine/Content.lean ====
section
/-!
DEFINITION. The commands on objects, descriptors, rings, versions, transits, bridge transfers and the conjunction's primary role
(R355 to R362).
-/
namespace Sys2Proof.Machine

/-! ### OBJ_ALLOC and OBJ_FREE (R355, R239 to R242) -/

/-- The fields of an object descriptor (R239); `mine` tells the slices the mailbox may name. -/
def objectFields (s : State) (mine : Nat → Bool) (b : Bytes) : List Fld :=
  let raw := fld b 4 1 1 == 1
  [okFld 0 0 32 (fun v => v != 0 && v != 0xFFFFFFFF && (findObj s v).isNone), okFld 4 1 1 (fun v => v == 0 || fld b 4 0 1 == 1), rsvFld 4 6 2,
   okFld 4 8 8 (fun v => if raw then v == 0 else fmtOk v), okFld 4 16 4 mine, rsvFld 4 20 12, rsvFld 8 17 15, okFld 12 0 32 (1 ≤ ·)] ++
  [okFld 0x10 0 64 (fun v => v == 0 || addrIn 3 v), rsvFld 0x18 8 24] ++ rsvBytes 0x1C 0x3F

def objAllocParams (s : State) (c : Cmd) : Option Nat :=
  offends c 64 (rsvBytes 0x10 0x3F) (lowestBad (objectFields s (mayUse s c) c.pay) c.pay)

/-- The extents of an allocation response (R239). -/
def extentList (es : List (Nat × Nat)) : Bytes := es.flatMap fun e => leBytes 8 e.1 ++ leBytes 4 e.2 ++ leBytes 4 0

/-- R355, R241: the object takes its extents, or nothing is allocated. -/
def execObjAlloc (m : Fin 64) (s : State) : Host.Outcome State Fault Refusal :=
  take 0x50 objAllocParams (fun s c =>
    let o : Obj := { id := fld c.pay 0 0 32, desc := c.pay, extents := [] }
    match allocate s o with
    | none => replyS { s with drawn := s.drawn + 130 } c sNoSpace
    | some es =>
      let d := patch c.pay 0x18 (leBytes 1 es.length)
      let s := { s with mem := { s.mem with objs := s.mem.objs ++ [{ o with desc := d, extents := es }] }, drawn := s.drawn + 130 }
      reply s c { status := sOk, resp := d ++ extentList es }) m s

/-- An object that the mailbox may name. -/
def knownObj (s : State) (c : Cmd) (id : Nat) : Bool := match findObj s id with | some o => mayUse s c o.slice | none => false

def objFreeParams (s : State) (c : Cmd) : Option Nat := offends c 0 (okFld 0x10 0 32 (knownObj s c) :: rsvBytes 0x14 0x3F) none

/-- Free an object; while a plate runs its space returns to the quota QUERY_DEPTH frames later (R355). -/
def freeObj (s : State) (o : Obj) : State :=
  let gone := (o.extents.filter fun e => tierOf e.1 != 0 || bit e.1 61).map fun e => (tierOf e.1, o.slice, extentBytes o.payload e.2, s.run.frame + depthNow s)
  let s := foundAgain s o
  { s with mem := { s.mem with
      objs := s.mem.objs.filter fun q => q.id != o.id
      grads := cdrop (fun k => k / 2 ^ 32 == o.id) s.mem.grads
      freeing := if s.run.running then s.mem.freeing ++ gone else s.mem.freeing } }

/-- R355. -/
def execObjFree (m : Fin 64) (s : State) : Host.Outcome State Fault Refusal :=
  take 0x51 objFreeParams (fun s c =>
    match findObj s (c.arg 0x10 0 32) with
    | none => replyD s c sBadParam 0x10
    | some o => if objHeld s o then replyS s c sBusy else replyS (freeObj s o) c sOk) m s

/-! ### OBJ_WRITE and OBJ_READ (R356) -/

/-- The tiles a command names: OBJECT_ID, FIRST, COUNT. -/
def tileArgs (s : State) (c : Cmd) : List Fld :=
  let n := ((findObj s (c.arg 0x10 0 32)).map Obj.tiles).getD (2 ^ 33)
  [okFld 0x10 0 32 (knownObj s c), okFld 0x14 0 32 (fun v => decide (v < n)), okFld 0x18 0 32 (fun v => decide (c.arg 0x14 0 32 + v ≤ n))]

/-- Bytes of the tiles a command names. -/
def tileBytesOf (s : State) (c : Cmd) : Nat := c.arg 0x18 0 32 * ((findObj s (c.arg 0x10 0 32)).map Obj.tileBytes).getD 0

def objReadParams (s : State) (c : Cmd) : Option Nat := offends c 0 (tileArgs s c ++ rsvBytes 0x1C 0x1F ++ bufFlds 0x20 ++ rsvBytes 0x30 0x3F) none

/-- A buffer that does not hold the tiles is an invalid SIZE. -/
def objWriteParams (s : State) (c : Cmd) : Option Nat :=
  offends c 0 (tileArgs s c ++ rsvBytes 0x1C 0x1F ++ bufFlds 0x20 ++ [okFld 0x28 0 32 (fun v => decide (tileBytesOf s c ≤ v))] ++ rsvBytes 0x30 0x3F) none

/-- How many bytes of the buffer arrive: all, or those before the access that fails. -/
def arrives (s : State) (c : Cmd) (d : Dma) (n : Nat) : Nat := (dmaFails s c d n).getD n

/-- The lowest byte with a Reserved bit set in the headers of the first `n` tiles of a buffer, of which `len` bytes arrive (R9, R231). -/
def tilesBad (o : Obj) (bs : Bytes) (len : Nat) (n : Nat) : Option Nat :=
  (List.range n).findSome? fun i =>
    if len < (i + 1) * o.tileBytes then none
    else (headerBad (slice bs (i * o.tileBytes) 32)).map (· + i * o.tileBytes)

/-- Write the tiles one after the other; `i` have been written. The first one that does not arrive, fails its TAG, or finds staging full
ends the command. -/
def writeTiles (c : Cmd) (d : Dma) (o : Obj) (first count : Nat) : Nat → State → State
  | 0, s => reply (foundAgain s o) c { status := sOk, progress := count * o.tileBytes }
  | k + 1, s =>
    let i := count - (k + 1)
    let n := count * o.tileBytes
    let bs := slice d.data (i * o.tileBytes) o.tileBytes
    if arrives s c d n < (i + 1) * o.tileBytes then hostDma s c (arrives s c d n) (i * o.tileBytes)
    else if !tagOk (bs.take 32) (bs.drop 32) then reply s c { status := sBadData, detail := i, progress := i * o.tileBytes }
    else if !tileRoom s o (first + i) then reply s c { status := sBusy, progress := i * o.tileBytes }
    else writeTiles c d o first count k (clearSlots (countTile (writeTile s o (first + i) (bs.take 32) (bs.drop 32)) (some o.slice) o (first + i) true) o (first + i))

/-- R356, R331, R232, R254. A Reserved bit in the header of a tile refuses the command before any tile is written (R9, R516). Its writes are complete when it is taken (log entry 36). -/
def execObjWrite (m : Fin 64) (d : Dma) (s : State) : Host.Outcome State Fault Refusal :=
  take 0x52 objWriteParams (fun s c =>
    match findObj s (c.arg 0x10 0 32) with
    | none => replyD s c sBadParam 0x10
    | some o =>
      if namedInUse s o then replyS s c sBusy
      else
        let count := c.arg 0x18 0 32
        let len := arrives s c d (count * o.tileBytes)
        match tilesBad o d.data len count with
        | some off => badBuffer s c off
        | none => writeTiles c d o (c.arg 0x14 0 32) count count (countDmaRead s c len)) m s

/-- A tile as OBJ_READ returns it, and whether it is poisoned. -/
def tileOut (s : State) (o : Obj) (t : Nat) : Bytes × Bool :=
  match tileAddr o t, readTile s o t with
  | some (h, p), some (hdr, pl) =>
    if fld hdr 0 10 1 == 1 || poisonedAt s h 32 || poisonedAt s p o.payload then (poisonHeader true hdr ++ List.replicate o.payload 0#8, true)
    else (hdr ++ pl, false)
  | _, _ => (List.replicate o.tileBytes 0#8, false)

/-- R356, R332. -/
def execObjRead (m : Fin 64) (d : Dma) (s : State) : Host.Outcome State Fault Refusal :=
  take 0x53 objReadParams (fun s c =>
    match findObj s (c.arg 0x10 0 32) with
    | none => replyD s c sBadParam 0x10
    | some o =>
      let ts := (List.range (c.arg 0x18 0 32)).map fun i => tileOut s o (c.arg 0x14 0 32 + i)
      let bs := ts.flatMap Prod.fst
      toBuffer s c 0x20 d bs fun s =>
        let s := (List.range (c.arg 0x18 0 32)).foldl (fun s i => countTile s (some o.slice) o (c.arg 0x14 0 32 + i) false) s
        reply s c { status := sOk, detail := (ts.filter Prod.snd).length, progress := bs.length }) m s

/-! ### DESC_LOAD (R357) -/

/-- A descriptor of a KIND and ID waits as a next copy. -/
def descWaits (s : State) (kind id : Nat) : Bool :=
  (s.setup.next ++ s.setup.later).any fun n => match n.obj with | .desc k b _ => k == kind && fld b 0 0 16 == id | _ => false

/-- A mailbox may name a descriptor: it is ADMIN, or its slice holds what the descriptor names. -/
def mayDescribe (s : State) (c : Cmd) (d : Desc) : Bool := boxAdmin s c.m || (descSlice s d).any fun x => mayUse s c x

/-- The offset of the field that says whose a descriptor is. -/
def baseOff (kind : Nat) : Nat := if kind = 1 then 0x18 else if kind = 2 then 0x10 else 2

/-- What a descriptor in a payload offends: its fields, an ID in use, another slice's resource. -/
def descPayBad (s : State) (c : Cmd) (kind : Nat) (idOk : Nat → Bool) : Option Nat :=
  let own := mayDescribe s c ⟨kind, 0, c.pay, [], 0⟩
  let obj := okFld 4 0 32 fun v => kind != 3 || boxAdmin s c.m || (findObj s v).isNone || knownObj s c v
  minOpt (lowestBad (okFld 0 0 16 idOk :: obj :: descFields kind c.pay) c.pay) (if own then none else some (baseOff kind))

def descLoadParams (s : State) (c : Cmd) : Option Nat :=
  let kind := c.arg 0x10 0 8
  let remove := c.arg 0x10 8 1 == 1
  let known := fun v => match findDesc s kind v with | some d => mayDescribe s c d | none => false
  let args := [okFld 0x10 0 8 (inRange 1 3), rsvFld 0x10 9 23, okFld 0x14 0 16 (fun v => !remove || known v), rsvFld 0x14 16 16] ++ rsvBytes 0x18 0x3F
  if kind < 1 ∨ 3 < kind then offends c c.len args none
  else if remove then offends c 0 args none
  else offends c (descLen kind) args (descPayBad s c kind fun v => (findDesc s kind v).isNone && !descWaits s kind v)

/-- The update block that an index descriptor names (R167). -/
def blockOf (s : State) (kind : Nat) (b : Bytes) : Bytes := if kind = 1 then readAny s (fld b 0x40 0 64) 64 else []

/-- R357. -/
def execDescLoad (m : Fin 64) (s : State) : Host.Outcome State Fault Refusal :=
  take 0x54 descLoadParams (fun s c =>
    let kind := c.arg 0x10 0 8
    writeNext s c (if c.arg 0x10 8 1 = 1 then .remove kind (c.arg 0x14 0 16) else .desc kind c.pay (blockOf s kind c.pay))) m s

/-! ### RING_SETUP and RING_CLOSE (R358, R321) -/

/-- A ring number is taken: by a ring that is open or closing, or by one that waits. -/
def ringTaken (s : State) (num : Nat) : Bool :=
  s.host.rings.any (fun r => r.num == num) ||
    (s.setup.next ++ s.setup.later).any fun n => match n.obj with | .ring b _ => fld b 0 0 6 == num | _ => false

def ringSetupParams (s : State) (c : Cmd) : Option Nat :=
  offends c 64 (rsvBytes 0x10 0x3F) (lowestBad (okFld 0 0 6 (fun v => !ringTaken s v) :: ringFields c.pay c.port) c.pay)

/-- R358, R321: the ring is bound to the slice of the mailbox. -/
def execRingSetup (m : Fin 64) (s : State) : Host.Outcome State Fault Refusal :=
  take 0x58 ringSetupParams (fun s c => writeNext s c (.ring c.pay ((boxSlice s c.m).getD 0))) m s

/-- A ring that RING_CLOSE may name. -/
def closable (s : State) (c : Cmd) (num : Nat) : Bool :=
  s.host.rings.any fun r => r.num == num && (r.isOpen || r.badProducer) && !r.closing && mayUse s c r.slice

def ringCloseParams (s : State) (c : Cmd) : Option Nat := offends c 0 ([okFld 0x10 0 6 (closable s c), rsvFld 0x10 6 26] ++ rsvBytes 0x14 0x3F) none

/-- R358: the ring is closing; with no plate running it stops and is freed at once (log entry 45). -/
def execRingClose (m : Fin 64) (s : State) : Host.Outcome State Fault Refusal :=
  take 0x59 ringCloseParams (fun s c =>
    let num := c.arg 0x10 0 6
    let s := hold s c num
    let s := { s with host := { s.host with rings := s.host.rings.map fun r => if r.num = num then { r with closing := true } else r } }
    if s.run.running then s else closeRings (stopClosing s)) m s

/-! ### VERSION_SWITCH (R359, R192, R193, R211, R212) -/

/-- The re-shard that runs moves an object that a descriptor names (R304). -/
def reshardTouches (s : State) (d : Desc) : Bool :=
  s.setup.reshard.isSome &&
    ((reshardMoves s (reshardTarget s)).map Prod.fst ++ (reshardMoves s (sliceMapOf s)).map Prod.fst ++
      s.bg.items.filterMap fun i => match i.work with | .reshardMove o _ => some o | _ => none).any fun id =>
        match findObj s id with | some o => descNames d.kind d.bytes d.block o || ownerKey o == (d.kind, d.id) | none => false

/-- A transit of a table runs in the domain: this node's own, one that another node has told of, or one that brings a shard here (R212). -/
def transitRuns (s : State) (d : Desc) : Bool :=
  (match s.bg.transit with | some t => t.table == d.id | none => false) || (s.recs.tables.transits.any fun x => x.2 == d.id) ||
    s.recs.tables.arriving.any fun x => x.1 == d.id

/-- The condition of R193, R212 or R304 that refuses a version switch. -/
def switchRefusal (s : State) (d : Desc) (block : Bytes) : Option Nat :=
  if reshardTouches s d then some 3
  else if d.kind = 1 then
    (if dPolicy d == 1 && beyondCut s d.id (fld block 0x30 0 48) then some 4 else none)
  else if transitRuns s d then some 5
  else if s.recs.training.any (fun t => t.table == d.id && t.version == fld d.bytes 0 16 16) || s.recs.tables.own.any (fun t => t.table == d.id) then some 6
  else none

def versionParams (s : State) (c : Cmd) : Option Nat :=
  let kind := 1 + c.arg 0x10 0 1
  let cur := findDesc s kind (fld c.pay 0 0 16)
  let args := rsvFld 0x10 1 31 :: rsvBytes 0x14 0x3F
  let ver := match cur with | some d => decide (fld c.pay 0 16 16 = (fld d.bytes 0 16 16 + 1) % 65536) | none => true
  offends c 128 args (minOpt (descPayBad s c kind fun v => match findDesc s kind v with | some d => mayDescribe s c d | none => false)
    (if ver then none else some 2))

/-- R359. -/
def execVersionSwitch (m : Fin 64) (s : State) : Host.Outcome State Fault Refusal :=
  take 0x60 versionParams (fun s c =>
    let kind := 1 + c.arg 0x10 0 1
    let block := blockOf s kind c.pay
    match findDesc s kind (fld c.pay 0 0 16) with
    | none => replyD s c sBadParam 0x100
    | some d =>
      match switchRefusal s d block with
      | some x => badState s c x
      | none => writeNext s c (.version kind c.pay block)) m s

/-! ### TRANSIT (R360, R215) -/

/-- The table a TRANSIT names, where its mailbox may name it. -/
def transitTable (s : State) (c : Cmd) : Option Desc := (findDesc s 2 (c.arg 0x10 0 16)).filter (mayDescribe s c)

def transitParams (s : State) (c : Cmd) : Option Nat :=
  let shard := c.arg 0x10 16 16
  let known := match transitTable s c with
    | none => [okFld 0x10 0 16 fun _ => false]
    | some d => [okFld 0x10 16 16 (fun v => decide (v < tbShards d.bytes)), okFld 0x14 0 9 (fun v => inDomain s v && statusOf s v != 0 && v != shardOwner s d shard)]
  offends c 0 (known ++ [rsvFld 0x14 9 23] ++ rsvBytes 0x18 0x3F) none

/-- A version switch of a table waits. -/
def switchWaits (s : State) (table : Nat) : Bool :=
  (s.setup.next ++ s.setup.later).any fun n => match n.obj with | .version k b _ => k == 2 && fld b 0 0 16 == table | _ => false

/-- The condition of R215 or R304 that refuses a transit. -/
def transitRefusal (s : State) (d : Desc) (owner : Nat) : Option Nat :=
  if reshardTouches s d then some 3
  else if s.bg.transit.isSome then some 5
  else if switchWaits s d.id then some 7
  else if statusOf s owner ≠ 1 then some 8
  else none

/-- The redirect hint of a refused TRANSIT (R215, R297): it names the owner. RECORD_EPOCH and KIND, which a command does not have, are
free values (log entry 7). -/
def transitHint (s : State) (c : Cmd) (d : Desc) (owner : Nat) : State :=
  let sl := descSlice s d
  let e := layoutBytes 32 [(0, 8, c.req), (8, 4, s.setup.epoch), (12, 4, Config.free s.drawn % 2 ^ 32),
    (16, 4, packBits [(0, 8, Config.free (s.drawn + 1) % 256), (8, 4, sl.getD 0), (12, 1, b2n sl.isSome), (13, 9, owner), (22, 1, 1)]), (24, 8, s.run.frame)]
  addHint { s with drawn := s.drawn + 2 } ((boxSlice s c.m).getD 0) e

/-- The lane in whose MAINT steps a shard block is copied. -/
def blockLane (a : Nat) : Nat := match channelOf a with | some ch => 0x200 + ch | none => edgeLane

/-- A transit is accepted: custody of its state, and its copy as a migration item (R216, R298). -/
def startTransit (s : State) (c : Cmd) (d : Desc) (shard owner : Nat) : State :=
  let s := hold (addCustody s c.req ((descSlice s d).getD 0) 3 d.id) c 0
  let s := tellTransit { s with bg := { s.bg with transit := some ⟨d.id, shard, owner, c.m, 0, false⟩ } } d.id true
  addItem s 3 (.transitCopy d.id shard) (blockLane (shardBlock s d shard)) false 1

/-- The new owner or its partner has no quota for the block: for this node the allocation decides, for another node a free value, since the manual gives no
way to learn it (R215; log entry 7). -/
def lacksQuota (s : State) (d : Desc) (shard owner : Nat) : Bool :=
  (withPartner s owner).any fun n => if n = nodeId s then shardBlock s d shard == 0 && (blockObject s d shard).isNone else Config.free s.drawn % 2 == 1

/-- R360, R215. -/
def execTransit (m : Fin 64) (s : State) : Host.Outcome State Fault Refusal :=
  take 0x61 transitParams (fun s c =>
    let shard := c.arg 0x10 16 16
    let owner := c.arg 0x14 0 9
    match transitTable s c with
    | none => replyD s c sBadParam 0x10
    | some d =>
      if shardOwner s d shard ≠ nodeId s then replyS (transitHint s c d (shardOwner s d shard)) c sStaleEpoch
      else match transitRefusal s d owner with
        | some x => badState s c x
        | none =>
          let lacks := lacksQuota s d shard owner
          let s := { s with drawn := s.drawn + 1 }
          if lacks then replyS s c sNoSpace
          else if !custodyFree s then replyS s c sBusy
          else startTransit s c d shard owner) m s

/-! ### BRIDGE_XFER (R361) -/

def bridgeParams (s : State) (c : Cmd) : Option Nat := offends c 0 (tileArgs s c ++ [rsvFld 0x20 25 7] ++ rsvBytes 0x24 0x3F) none

/-- The BULK message of one tile to the destination. -/
def bridgeMsg (s : State) (c : Cmd) (o : Obj) (t : Nat) : BulkMsg :=
  let body := match readTile s o t with | some (h, p) => h ++ p | none => []
  ⟨BitVec.ofNat 16 (domainNumber s), Fin.ofNat 512 (nodeId s), BitVec.ofNat 16 (c.arg 0x20 0 16), Fin.ofNat 512 (c.arg 0x20 16 9), false,
   .tile (BitVec.ofNat 32 (c.arg 0x1C 0 32)) (BitVec.ofNat 32 t) body⟩

/-- R361, R277: every tile goes out as a BULK message, and waits for its acknowledgement. -/
def execBridgeXfer (m : Fin 64) (s : State) : Host.Outcome State Fault Refusal :=
  take 0x70 bridgeParams (fun s c =>
    match findObj s (c.arg 0x10 0 32) with
    | none => replyD s c sBadParam 0x10
    | some o =>
      let ts := (List.range (c.arg 0x18 0 32)).map (c.arg 0x14 0 32 + ·)
      if ts.isEmpty then replyS s c sOk
      else
        let s := hold s c o.tileBytes
        let s := ts.foldl (fun s t => countTile (sendBulk s (bridgeMsg s c o t)) (some o.slice) o t false) s
        { s with fab := { s.fab with bridge := s.fab.bridge ++ ts.map fun t => (c.arg 0x1C 0 32, t, c.m) } }) m s

/-! ### CONJ_PROMOTE (R362, R280) -/

/-- The condition that refuses a promotion. -/
def promoteRefusal (s : State) : Option Nat :=
  if !s.conj.formed || decide (s.conj.size < 2) then some 11
  else if conjPrimary s then none
  else if conjPos s = 1 ∧ 10 ≤ s.conj.unlinked then none
  else some 10

/-- R362, R280: the role moves at a frame boundary; with no plate running, at once (log entry 45). -/
def execConjPromote (m : Fin 64) (s : State) : Host.Outcome State Fault Refusal :=
  take 0x78 noArgs (fun s c =>
    match promoteRefusal s with
    | some x => badState s c x
    | none =>
      let s := hold s c 0
      let s := { s with conj := { s.conj with promote := s.conj.promote ++ [c.m] } }
      if s.run.running then s else promoteStep s) m s

end Sys2Proof.Machine
end

