-- ==== Sys2Proof/Machine/Control.lean ====
section
/-!
DEFINITION. Resets, tests, state transitions, retained settings and firmware: RESET_DOMAIN, SELFTEST, START to STOP, PROOF_WRITE,
FW_UPDATE, FW_ACTIVATE (R343 to R348, R438 to R440, R451, R455).
-/
namespace Sys2Proof.Machine

/-! ### RESET_DOMAIN (R343, R344, R385, R388) -/

def resetParams (_ : State) (c : Cmd) : Option Nat := offends c 0 ([okFld 0x10 0 5 (· ≤ 16), rsvFld 0x10 5 27] ++ rsvBytes 0x14 0x3F) none

/-- A DOM_NODE reset by command: the response first; a frame that runs is lost; the escalation history is cleared. -/
def resetNode (s : State) (c : Cmd) : State :=
  let s := replyS s c sOk
  let s := if s.run.running then loseFrame s 0 else s
  nodeReset { s with dump := { s.dump with dr1 := none, dr2 := none, nr1 := none, escalated := false } } false

/-- A reset of a domain by command. -/
def resetDomain (s : State) (c : Cmd) : State :=
  let d := c.arg 0x10 0 5
  if d = 0 then resetNode s c
  else if s.faults.inReset.contains d then hold s c d
  else if d = 1 ∨ d = 2 + c.port then startReset (replyS s c sOk) d
  else
    let s := hold s c d
    startReset (if s.run.running && frameDomain d then loseFrame s d else s) d

/-- R343, R344. -/
def execResetDomain (m : Fin 64) (s : State) : Host.Outcome State Fault Refusal := take 0x10 resetParams resetDomain m s

/-! ### SELFTEST (R345) -/

def selftestParams (_ : State) (c : Cmd) : Option Nat := offends c 0 (rsvFld 0x10 1 31 :: rsvBytes 0x14 0x3F) none

/-- R345: the test runs in state SELFTEST and returns; in FAULT no state changes. -/
def execSelftest (m : Fin 64) (s : State) : Host.Outcome State Fault Refusal :=
  take 0x11 selftestParams (fun s c =>
    if s.faults.test.isSome then replyS s c sBusy
    else
      let back := s.node.state
      let s := if back = stFault then s else moveTo s stSelftest
      hold { s with faults := { s.faults with test := some (c.arg 0x10 0 1 == 1, back, some c.m) } } c 0) m s

/-! ### Transitions (R346) -/

/-- A transition begins: it is answered when it applies. -/
def beginTrans (s : State) (c : Cmd) : State := hold { s with node := { s.node with trans := some (c.code, c.m), accepted := false } } c 0

/-- START and RESUME: the admission test runs (R426, R427). -/
def startUp (s : State) (c : Cmd) : State := beginSoak (beginTrans s c)

/-- SERVE and DRAIN apply at the next boundary; at once where no plate runs. -/
def atBoundary (s : State) (c : Cmd) : State :=
  let s := beginTrans s c
  if s.run.running then s else transitionStep s

/-- MAINT and STOP: the coordinator is asked to let the node depart (R425, R433). -/
def askDepart (s : State) (c : Cmd) : State :=
  let s := beginTrans s c
  let me := nodeId s
  match s.orr.view with
  | none => finishTrans s { status := sBusy }
  | some v =>
    if v.coord ≠ me then orrSend s 8 v.coord me 0 0
    else if mayDepart s v me then { s with orr := { s.orr with departs := s.orr.departs.filter (· != me) ++ [me] } }
    else finishTrans s { status := sBusy }

/-- R346, R427. -/
def execStart (m : Fin 64) (s : State) : Host.Outcome State Fault Refusal := take 0x18 noArgs startUp m s

/-- R346. -/
def execServe (m : Fin 64) (s : State) : Host.Outcome State Fault Refusal := take 0x19 noArgs atBoundary m s

/-- R346. -/
def execDrain (m : Fin 64) (s : State) : Host.Outcome State Fault Refusal := take 0x1A noArgs atBoundary m s

/-- R346, R425. -/
def execMaint (m : Fin 64) (s : State) : Host.Outcome State Fault Refusal := take 0x1B noArgs askDepart m s

/-- R346, R328. -/
def execResume (m : Fin 64) (s : State) : Host.Outcome State Fault Refusal := take 0x1C noArgs startUp m s

/-- R346, R425. -/
def execStop (m : Fin 64) (s : State) : Host.Outcome State Fault Refusal := take 0x1D noArgs askDepart m s

/-! ### PROOF_WRITE (R347, R451, R452, R455) -/

/-- INDEX of a type is in the table of R450. -/
def tlvIndexOk (ty ix : Nat) : Bool :=
  if ty = 0x10 ∨ ty = 0x31 then decide (ix < 4)
  else if ty = 0x11 then decide (ix < 72)
  else if ty = 0x21 then decide (ix < 16)
  else ix == 0

/-- LEN fits a type; 0 removes the setting. -/
def tlvLenOk (ty len : Nat) : Bool :=
  if len = 0 then true
  else if ty = 0x10 ∨ ty = 0x11 ∨ ty = 0x32 then len == 4
  else if ty = 0x12 then len % 16 == 0 && decide (len ≤ 2048)
  else if ty = 0x20 then len == 1088
  else if ty = 0x21 then len == 32
  else if ty = 0x31 then len == 1793
  else decide (([(1, 5), (2, 2), (3, 2), (4, 3), (5, 1), (6, 1), (7, 4), (8, 1), (0x30, 1)].lookup ty).getD 9 ≤ len) && decide (len ≤ 8)

/-- The lowest offending byte of a run of TLV entries at offset `off` (R451); `prev` is TYPE and INDEX of the entry before. -/
def tlvBad (s : State) : Nat → Bytes → Nat → Option (Nat × Nat) → Option Nat
  | 0, _, _, _ => none
  | fuel + 1, bs, off, prev =>
    if bs.isEmpty then none
    else
      let ty := fld bs 0 0 16
      let ix := fld bs 2 0 16
      let len := fld bs 4 0 32
      let tot := 8 + roundUp 8 len
      let early : Bool := match prev with | none => false | some p => decide (ty < p.1)
      let again : Bool := match prev with | none => false | some p => decide (ty = p.1 ∧ ix ≤ p.2)
      let v := slice bs 8 len
      if bs.length < 8 ∨ !knownType ty ∨ early then some off
      else if !tlvIndexOk ty ix ∨ again then some (off + 2)
      else if !tlvLenOk ty len ∨ bs.length < tot then some (off + 4)
      else if len ≠ 0 ∧ !settingOk s ⟨ty, ix, v⟩ then some (off + 8)
      else match (List.range (tot - 8 - len)).find? fun i => bs.getD (8 + len + i) 0#8 != 0#8 with
        | some i => some (off + 8 + len + i)
        | none => tlvBad s fuel (bs.drop tot) (off + tot) (some (ty, ix))

/-- The TLV entries of a payload; empty values remove settings. -/
def tlvsOf : Nat → Bytes → List Tlv
  | 0, _ => []
  | fuel + 1, bs =>
    if bs.isEmpty then []
    else
      let len := fld bs 4 0 32
      ⟨fld bs 0 0 16, fld bs 2 0 16, slice bs 8 len⟩ :: tlvsOf fuel (bs.drop (8 + roundUp 8 len))

/-- The record that a payload gives: that of the record before, changed (R452). -/
def changedRecord (s : State) (pay : Bytes) : List Tlv := (tlvsOf (pay.length / 8 + 1) pay).foldl putTlv s.boot.record

/-- Where the payload sets SIGNED_ONLY. -/
def signedAt : Nat → Bytes → Nat → Option Nat
  | 0, _, _ => none
  | fuel + 1, bs, off =>
    if bs.isEmpty then none
    else
      let tot := 8 + roundUp 8 (fld bs 4 0 32)
      if fld bs 0 0 16 = 0x30 ∧ fld bs 4 0 32 ≠ 0 ∧ fld bs 8 0 1 = 1 then some (off + 8) else signedAt fuel (bs.drop tot) (off + tot)

/-- SIGNED_ONLY without a customer key in the record (R451). -/
def keyless (s : State) (pay : Bytes) : Option Nat :=
  if (changedRecord s pay).any fun t => t.type == 0x31 then none else signedAt (pay.length / 8 + 1) pay 0

def proofParams (s : State) (c : Cmd) : Option Nat :=
  let factory := c.arg 0x10 0 1 == 1
  let pay := if factory then none else minOpt (tlvBad s (c.pay.length / 8 + 1) c.pay 0 none) (keyless s c.pay)
  offends c (if factory then 0 else c.len) (rsvFld 0x10 1 31 :: rsvBytes 0x14 0x3F) pay

/-- The bank the next write goes to: is it B (R452). -/
def nextBank (s : State) : Bool := decide (s.boot.proofSeq ≠ 0) && !s.boot.proofInB

/-- A record that fails its read-back: the bank written holds no valid record (its bytes are free, log entry 7), the other is as it was. -/
def failedWrite (s : State) : State :=
  let junk := [BitVec.ofNat 8 (Config.free s.drawn)]
  { s with
    drawn := s.drawn + 1
    nor := if nextBank s then { s.nor with bankB := junk } else { s.nor with bankA := junk }
    boot := { s.boot with flags := if nextBank s then s.boot.flags &&& (255 - 8) else s.boot.flags &&& (255 - 4) } }

/-- R347. -/
def execProofWrite (m : Fin 64) (readBack : Bool) (s : State) : Host.Outcome State Fault Refusal :=
  take 0x20 proofParams (fun s c =>
    if !readBack then replyS (failedWrite s) c sAborted
    else
      let s := if c.arg 0x10 0 1 = 1 then writeBank s [] true else writeRecord s (changedRecord s c.pay) true
      reply s c { status := sOk, resp := layoutBytes 16 [(0, 8, s.boot.proofSeq), (8, 1, b2n s.boot.proofInB)] }) m s

/-! ### Firmware (R348, R438 to R440) -/

/-- The slot that FW_UPDATE writes. -/
def otherSlot (s : State) : Nat := 1 - s.boot.activeSlot

/-- Set VALID of a slot in the boot directory. -/
def setValid (s : State) (slot : Nat) (v : Bool) : State :=
  let d := bootDirOf s.nor
  { s with nor := writeBootDir s.nor (if slot = 0 then { d with valid0 := v } else { d with valid1 := v }) }

/-- The bytes of a firmware slot. -/
def setSlot (s : State) (slot : Nat) (b : Bytes) : State :=
  { s with nor := if slot = 0 then { s.nor with slot0 := b } else { s.nor with slot1 := b } }

def updateParams (_ : State) (c : Cmd) : Option Nat := offends c 0 (rsvBytes 0x10 0x1F ++ bufFlds 0x20 ++ rsvBytes 0x30 0x3F) none

/-- R348, R439: VALID is cleared, the image written, verified from the NOR, and VALID set. -/
def execFwUpdate (m : Fin 64) (d : Dma) (s : State) : Host.Outcome State Fault Refusal :=
  take 0x21 updateParams (fun s c =>
    let slot := otherSlot s
    let n := min (c.bufSize 0x20) 8388608
    let s := setValid s slot false
    match dmaFails s c d n with
    | some k => hostDma (countDmaRead (setSlot s slot (patch (slotImage s.nor slot) 0 (d.data.take k))) c k) c k k
    | none =>
      let s := countDmaRead (setSlot s slot (d.data.take n)) c n
      let img := slotImage s.nor slot
      if imageVerifies img then
        reply (setValid s slot true) c { status := sOk, resp := layoutBytes 40 [(0, 8, slot), (8, 32, imageDigest img)] }
      else replyS s c sBadSignature) m s

/-- MIN_FW_VERSION (R440). -/
def minVersion (s : State) : Nat := match setting s 0x32 0 with | some b => leNat b | none => 0

def activateParams (_ : State) (c : Cmd) : Option Nat := offends c 0 (rsvFld 0x10 1 31 :: rsvBytes 0x14 0x3F) none

/-- R348, R438 to R440: the slot is marked to boot; the booted slot changes nothing. -/
def execFwActivate (m : Fin 64) (s : State) : Host.Outcome State Fault Refusal :=
  take 0x22 activateParams (fun s c =>
    let slot := c.arg 0x10 0 1
    if s.boot.firmware && slot == s.boot.activeSlot then replyS s c sOk
    else if !bootable s.nor slot || decide (imageVersion (slotImage s.nor slot) < minVersion s) then replyS s c sBadSignature
    else replyS { s with nor := writeBootDir s.nor { bootDirOf s.nor with active := slot } } c sOk) m s

end Sys2Proof.Machine
end

