-- ==== Sys2Proof/Machine/Ports.lean ====
section
/-!
DEFINITION. The PCIe ports (R305 to R310, R507): resets, configuration requests, link training, host writes to BAR0 and BAR2, and the
write watch of the mailboxes (R313).
-/
namespace Sys2Proof.Machine

/-! ### Resets and the link (R305, R306, R507) -/

/-- The power is on. -/
def nodeOn (s : State) : Bool := s.node.state != stOff

/-- R305: PERST_N, hot reset, link down and FLR each reset the port's domain and nothing else. -/
def execPortReset (port : Fin 2) (_cause : PortReset) (s : State) : Host.Outcome State Fault Refusal :=
  if nodeOn s then .next (startReset s (2 + port.val)) else .next s

/-- R306: the port's domain leaves reset with Memory Space Enable 0. -/
def execPortResetRelease (port : Fin 2) (s : State) : Host.Outcome State Fault Refusal :=
  if portDown s port.val then .next (leaveReset s (2 + port.val)) else .next s

/-- R507: the reference clock has stopped for 10 µs; the port's domain follows. -/
def execRefclkLost (port : Fin 2) (s : State) : Host.Outcome State Fault Refusal :=
  if nodeOn s then
    .next (startReset (logFault s { code := 0x212, event := true, dom := 2 + port.val, unit := 0x502 + port.val, arg0 := port.val }) (2 + port.val))
  else .next s

/-- R305, R507: link training has ended at `lanes` lanes and a rate: 1 to 6 for 2.5, 5, 8, 16, 32 and 64 GT/s. Other values are no
training result (log entry 43). -/
def execPortLinkTrained (port : Fin 2) (lanes : Fin 17) (rate : Fin 7) (s : State) : Host.Outcome State Fault Refusal :=
  let p := port.val
  if !nodeOn s || portDown s p || !([1, 2, 4, 8].contains lanes.val) || rate.val == 0 then .next s
  else
    let f := fun (code : Nat) =>
      (FaultInfo.mk code false (2 + p) (0x502 + p) 0xFFFF p (lanes.val + 256 * rate.val) false false)
    let s := { s with host := { s.host with linkUp := cset false s.host.linkUp p true } }
    let s := if lanes.val < 8 then logFault s (f 0x210) else s
    .next (if rate.val < 6 then logFault s (f 0x211) else s)

/-- The port receives requests: its link is up and its domain is not in reset (R306). -/
def portReceives (s : State) (p : Nat) : Bool := nodeOn s && !portDown s p && cget false s.host.linkUp p

/-- Pending vectors that are masked no longer go out. -/
def flushPending (s : State) (p : Nat) : State :=
  if !vectorsOn s p then s
  else (List.range 64).foldl (fun s v =>
    if cget false s.host.pending (p * 64 + v) && !msixMasked s p v then
      sendVector { s with host := { s.host with pending := cset false s.host.pending (p * 64 + v) false } } p v
    else s) s

/-- R305: until the node leaves BOOT a configuration request is answered with RRS; then it sets the enables. -/
def execConfigurationRequest (port : Fin 2) (w : CfgWrite) (s : State) : Host.Outcome State Fault Refusal :=
  let p := port.val
  if !portReceives s p || s.node.state == stBoot then .next s
  else
    let set := fun (c : Cells Bool) (v : Option Bool) => match v with | some b => cset false c p b | none => c
    .next (flushPending { s with host := { s.host with
      memEn := set s.host.memEn w.memEnable, busMaster := set s.host.busMaster w.busMaster, msixEn := set s.host.msixEn w.msixEnable } } p)

/-! ### Writes to BAR0 and BAR2 (R306 to R310, R313, R318, R322) -/

/-- The port takes memory writes: else they are Unsupported Requests and are discarded. -/
def takesWrites (s : State) (p : Nat) : Bool := portReceives s p && cget false s.host.memEn p

/-- The host writes this byte of a frame: command block, payload, command seal (R310). -/
def frameRw (off : Nat) : Bool := decide (off < 0x40) || (decide (0x100 ≤ off) && decide (off < 0xF00)) || (decide (0xFF8 ≤ off) && decide (off < 0x1000))

/-- Offsets with the bytes written there. -/
def placed (off : Nat) (bs : Bytes) : List (Nat × Byte) := (List.range bs.length).map fun i => (off + i, bs.getD i 0#8)

/-- A host write to a mailbox frame (R309, R313). -/
def frameWrite (s : State) (p m off : Nat) (bs : Bytes) : State :=
  if boxPort m ≠ p then { s with host := { s.host with foreign := cmod 0 s.host.foreign p (satAdd 32 · 1) } }
  else if cget 0 s.host.mstate m = 1 then { s with host := { s.host with busyW := cmod 0 s.host.busyW p (satAdd 32 · 1) } }
  else
    let frames := ((placed off bs).filter fun x => frameRw x.1).foldl (fun f x => cset 0#8 f (4096 * m + x.1) x.2) s.host.frames
    if off ≤ 0xFFF ∧ 0xFFF < off + bs.length then
      { s with host := { s.host with frames := frames, mstate := cset 0 s.host.mstate m 1, order := s.host.order ++ [m] } }
    else { s with host := { s.host with frames := frames } }

/-- A host write to an event queue: CONSUMER alone is written (R318). -/
def queueWrite (s : State) (p slice off : Nat) (bs : Bytes) : State :=
  let k := 16 * p + slice
  let q := cget {} s.host.queues k
  let c := ((placed off bs).filter fun x => decide (4 ≤ x.1) && decide (x.1 < 8)).foldl (fun c x => patch c (x.1 - 4) [x.2]) (leBytes 4 q.consumer)
  { s with host := { s.host with queues := cset {} s.host.queues k { q with consumer := leNat c } } }

/-- A host write to the MSI-X table. -/
def msixWrite (s : State) (p off : Nat) (bs : Bytes) : State :=
  let m := (placed off bs).foldl (fun m x => cset 0#8 m (p * 2048 + x.1) (x.2 ^^^ (if x.1 % 16 = 12 then 1#8 else 0#8))) s.host.msix
  flushPending { s with host := { s.host with msix := m } } p

/-- The bytes of a write that lie below an end. -/
def clip (off upto : Nat) (bs : Bytes) : Bytes := bs.take (upto - off)

/-- A host write to BAR0 (R308). A write that passes the end of the structure it begins in ends there (log entry 44). -/
def bar0Write (s : State) (p off : Nat) (bs : Bytes) : State :=
  if off < 0x40000 then frameWrite s p (off / 4096) (off % 4096) (clip (off % 4096) 4096 bs)
  else if off < 0x60000 then queueWrite s p (off / 0x2000 % 16) (off % 0x2000) (clip (off % 0x2000) 0x2000 bs)
  else if 0x70000 ≤ off ∧ off < 0x70400 then msixWrite s p (off - 0x70000) (clip (off - 0x70000) 0x400 bs)
  else s

/-- The host writes this byte of BAR2: in the aperture of a ring of the port, and not in the read-only part of its control block
(R322). -/
def bar2Rw (s : State) (p off : Nat) : Bool :=
  s.host.rings.any fun r => decide (r.port = p) && decide (r.aperture ≤ off) && decide (off < r.aperture + apertureBytes r.desc) &&
    !(decide (8 ≤ off - r.aperture) && decide (off - r.aperture < 0x40))

/-- A host write to BAR2. -/
def bar2Write (s : State) (p off : Nat) (bs : Bytes) : State :=
  { s with host := { s.host with
      bar2 := ((placed off bs).filter fun x => decide (x.1 < 2 ^ 28) && bar2Rw s p x.1).foldl (fun b x => cset 0#8 b (p * 2 ^ 28 + x.1) x.2) s.host.bar2 } }

/-- BAR_WR (R461): the bytes of the writes a port takes. -/
def countBar (s : State) (p n : Nat) : State := count s (2 + p) 6 p 2 n

/-- R313: the write that covers byte 0xFFF of a frame; `bytes` end there. -/
def execCommandSealWrite (port : Fin 2) (m : Fin 64) (bytes : Bytes) (s : State) : Host.Outcome State Fault Refusal :=
  if !takesWrites s port.val || bytes.isEmpty || decide (4096 < bytes.length) then .next s
  else .next (frameWrite (countBar s port.val bytes.length) port.val m.val (4096 - bytes.length) bytes)

/-- R308, R306, R309, R313, R318, R322: any other host write to a BAR. -/
def execRegisterWrite (at_ : BarAddr) (bytes : Bytes) (s : State) : Host.Outcome State Fault Refusal :=
  let p := at_.port.val
  let off := at_.offset.toNat
  if !takesWrites s p then .next s
  else if at_.bar2 then .next (bar2Write (countBar s p bytes.length) p off bytes)
  else if off < 2 ^ 20 then .next (bar0Write (countBar s p bytes.length) p off bytes)
  else .next s

/-! ### What the host reads (R308, R309, R318, R322) -/

/-- The port information block (R309). -/
def portInfo (s : State) (p : Nat) : Bytes :=
  layoutBytes 0x24 [(0, 4, packBits [(0, 1, p), (1, 4, s.node.state), (5, 1, b2n (conjSecondary s)), (6, 3, s.boot.conjId)]), (4, 4, nodeId s),
    (8, 4, s.setup.epoch), (0x10, 8, s.run.frame), (0x18, 4, cget 0 s.host.foreign p), (0x1C, 4, cget 0 s.host.busyW p),
    (0x20, 4, cget 0 s.host.badSeals p)]

/-- A byte of an event queue (R318). -/
def queueByte (s : State) (p slice off : Nat) : Byte :=
  let q := cget {} s.host.queues (16 * p + slice)
  if off < 32 then (layoutBytes 32 [(0, 4, q.producer), (4, 4, q.consumer), (8, 4, q.lost)]).getD off 0#8
  else (cget [] q.entries ((off - 32) / 32)).getD ((off - 32) % 32) 0#8

/-- A byte of BAR0 as the host reads it (R308). -/
def bar0Byte (s : State) (p off : Nat) : Byte :=
  if off < 0x40000 then (if boxPort (off / 4096) = p then cget 0#8 s.host.frames off else 0#8)
  else if off < 0x60000 then queueByte s p (off / 0x2000 % 16) (off % 0x2000)
  else if off < 0x61000 then (portInfo s p).getD (off - 0x60000) 0#8
  else if 0x70000 ≤ off ∧ off < 0x70400 then msixByte s p (off - 0x70000)
  else if 0x71000 ≤ off ∧ off < 0x71008 then
    BitVec.ofNat 8 ((List.range 8).foldl (fun n i => n + 2 ^ i * b2n (cget false s.host.pending (p * 64 + 8 * (off - 0x71000) + i))) 0)
  else 0#8

/-- The control block of a ring (R322). -/
def ringBlock (s : State) (r : Ring) : Bytes :=
  bar2Bytes s r.port r.aperture 8 ++
    layoutBytes 56 [(0, 8, r.consumer), (8, 4, packBits [(0, 1, b2n r.isOpen), (1, 1, b2n r.paused), (2, 1, b2n r.badProducer)]), (12, 4, r.lost)]

end Sys2Proof.Machine
end

