-- ==== Sys2Proof/Machine/Dispatch.lean ====
section
/-!
DEFINITION. One arm for each command: its meaning (R25 to R518, by family).
-/
namespace Sys2Proof.Machine

/-- The effect of one command on everything but the queue. -/
def exec (i : Instr) (s : State) : Host.Outcome State Fault Refusal :=
  match i with
  | .stepAdvance t => Sys2Proof.Machine.execStepAdvance t s
  | .frameBegin x => Sys2Proof.Machine.execFrameBegin x s
  | .trainingStateExpire => Sys2Proof.Machine.execTrainingStateExpire s
  | .armForwardTimeout => Sys2Proof.Machine.execArmForwardTimeout s
  | .beatIssue => Sys2Proof.Machine.execBeatIssue s
  | .beatDeadlineExpire => Sys2Proof.Machine.execBeatDeadlineExpire s
  | .beatLost => Sys2Proof.Machine.execBeatLost s
  | .beat p => Sys2Proof.Machine.execBeat p s
  | .arm src p => Sys2Proof.Machine.execArm src p s
  | .linkFlitReceive link flit fecOk => Sys2Proof.Machine.execLinkFlitReceive link flit fecOk s
  | .replayTimeout link => Sys2Proof.Machine.execReplayTimeout link s
  | .data p => Sys2Proof.Machine.execData p s
  | .delivered src slot dest => Sys2Proof.Machine.execDelivered src slot dest s
  | .confirm home sn vid => Sys2Proof.Machine.execConfirm home sn vid s
  | .bulk p => Sys2Proof.Machine.execBulk p s
  | .train rx latencyNs p => Sys2Proof.Machine.execTrain rx latencyNs p s
  | .lightDetected lane => Sys2Proof.Machine.execLightDetected lane s
  | .pairSwapToggle lane => Sys2Proof.Machine.execPairSwapToggle lane s
  | .laneTrainingTimeout lane => Sys2Proof.Machine.execLaneTrainingTimeout lane s
  | .fabricTrainingComplete => Sys2Proof.Machine.execFabricTrainingComplete s
  | .laserFail lost => Sys2Proof.Machine.execLaserFail lost s
  | .fabricLatency hops ns => Sys2Proof.Machine.execFabricLatency hops ns s
  | .conjJoin position serial digest => Sys2Proof.Machine.execConjJoin position serial digest s
  | .accept size arrangement node epoch => Sys2Proof.Machine.execAccept size arrangement node epoch s
  | .conjFormTimeout => Sys2Proof.Machine.execConjFormTimeout s
  | .conjMemberLost position => Sys2Proof.Machine.execConjMemberLost position s
  | .report m => Sys2Proof.Machine.execReport m s
  | .score m => Sys2Proof.Machine.execScore m s
  | .propose m view => Sys2Proof.Machine.execPropose m view s
  | .ack m => Sys2Proof.Machine.execAck m s
  | .takeover m view => Sys2Proof.Machine.execTakeover m view s
  | .notice m => Sys2Proof.Machine.execNotice m s
  | .join m b => Sys2Proof.Machine.execJoin m b s
  | .depart m => Sys2Proof.Machine.execDepart m s
  | .refuse m => Sys2Proof.Machine.execRefuse m s
  | .loaded m => Sys2Proof.Machine.execLoaded m s
  | .form m b => Sys2Proof.Machine.execForm m b s
  | .viewForm => Sys2Proof.Machine.execViewForm s
  | .deputyTakeover => Sys2Proof.Machine.execDeputyTakeover s
  | .scoreRecovery node => Sys2Proof.Machine.execScoreRecovery node s
  | .holdClear => Sys2Proof.Machine.execHoldClear s
  | .admissionTestEnd mismatches mapped => Sys2Proof.Machine.execAdmissionTestEnd mismatches mapped s
  | .probationRetest => Sys2Proof.Machine.execProbationRetest s
  | .formerTimeout => Sys2Proof.Machine.execFormerTimeout s
  | .formationWindowEnd => Sys2Proof.Machine.execFormationWindowEnd s
  | .partnerLoadDone => Sys2Proof.Machine.execPartnerLoadDone s
  | .nbuTaskEnd c pos => Sys2Proof.Machine.execNbuTaskEnd c pos s
  | .standaloneRefresh stack temp => Sys2Proof.Machine.execStandaloneRefresh stack temp s
  | .idle lane => Sys2Proof.Machine.execIdle lane s
  | .maintStep lane found => Sys2Proof.Machine.execMaintStep lane found s
  | .refresh c hot temp => Sys2Proof.Machine.execRefresh c hot temp s
  | .mload u o => Sys2Proof.Machine.execMload u o s
  | .mmac u o => Sys2Proof.Machine.execMmac u o s
  | .mdrain u o => Sys2Proof.Machine.execMdrain u o s
  | .vload cl o => Sys2Proof.Machine.execVload cl o s
  | .vstore cl o => Sys2Proof.Machine.execVstore cl o s
  | .mov v => Sys2Proof.Machine.execMov v s
  | .add v => Sys2Proof.Machine.execAdd v s
  | .sub v => Sys2Proof.Machine.execSub v s
  | .mul v => Sys2Proof.Machine.execMul v s
  | .fma v => Sys2Proof.Machine.execFma v s
  | .div v => Sys2Proof.Machine.execDiv v s
  | .sqrt v => Sys2Proof.Machine.execSqrt v s
  | .min v => Sys2Proof.Machine.execMin v s
  | .max v => Sys2Proof.Machine.execMax v s
  | .abs v => Sys2Proof.Machine.execAbs v s
  | .neg v => Sys2Proof.Machine.execNeg v s
  | .cmplt v => Sys2Proof.Machine.execCmplt v s
  | .sel v => Sys2Proof.Machine.execSel v s
  | .rcp v => Sys2Proof.Machine.execRcp v s
  | .rsqrt v => Sys2Proof.Machine.execRsqrt v s
  | .exp v => Sys2Proof.Machine.execExp v s
  | .log v => Sys2Proof.Machine.execLog v s
  | .sigmoid v => Sys2Proof.Machine.execSigmoid v s
  | .tanh v => Sys2Proof.Machine.execTanh v s
  | .gelu v => Sys2Proof.Machine.execGelu v s
  | .silu v => Sys2Proof.Machine.execSilu v s
  | .cvti v => Sys2Proof.Machine.execCvti v s
  | .roundi v => Sys2Proof.Machine.execRoundi v s
  | .sumreduce v => Sys2Proof.Machine.execSumreduce v s
  | .maxreduce v => Sys2Proof.Machine.execMaxreduce v s
  | .addi v => Sys2Proof.Machine.execAddi v s
  | .muli v => Sys2Proof.Machine.execMuli v s
  | .setx v => Sys2Proof.Machine.execSetx v s
  | .deq v => Sys2Proof.Machine.execDeq v s
  | .quant v => Sys2Proof.Machine.execQuant v s
  | .lsqgrad v => Sys2Proof.Machine.execLsqgrad v s
  | .srd c o ecc => Sys2Proof.Machine.execSrd c o ecc s
  | .swr c o => Sys2Proof.Machine.execSwr c o s
  | .nseg c o steps ue corrected => Sys2Proof.Machine.execNseg c o steps ue corrected s
  | .twalk quad o steps => Sys2Proof.Machine.execTwalk quad o steps s
  | .tplan quad o steps => Sys2Proof.Machine.execTplan quad o steps s
  | .tplanWiden quad o steps => Sys2Proof.Machine.execTplanWiden quad o steps s
  | .tsketch quad o steps => Sys2Proof.Machine.execTsketch quad o steps s
  | .sopen cl o => Sys2Proof.Machine.execSopen cl o s
  | .sfeed cl o => Sys2Proof.Machine.execSfeed cl o s
  | .schain cl o => Sys2Proof.Machine.execSchain cl o s
  | .ssumin cl o => Sys2Proof.Machine.execSsumin cl o s
  | .semit cl o steps => Sys2Proof.Machine.execSemit cl o steps s
  | .ssave cl o steps => Sys2Proof.Machine.execSsave cl o steps s
  | .srestore cl o steps => Sys2Proof.Machine.execSrestore cl o steps s
  | .mcopy cl o => Sys2Proof.Machine.execMcopy cl o s
  | .mxbuf cl o => Sys2Proof.Machine.execMxbuf cl o s
  | .mclose cl o steps => Sys2Proof.Machine.execMclose cl o steps s
  | .mcheck cl o steps => Sys2Proof.Machine.execMcheck cl o steps s
  | .brd o => Sys2Proof.Machine.execBrd o s
  | .bwr o => Sys2Proof.Machine.execBwr o s
  | .bgather o steps => Sys2Proof.Machine.execBgather o steps s
  | .fissue fc => Sys2Proof.Machine.execFissue fc s
  | .fprog fc => Sys2Proof.Machine.execFprog fc s
  | .ferase fc => Sys2Proof.Machine.execFerase fc s
  | .fsend port o => Sys2Proof.Machine.execFsend port o s
  | .sadmit port o steps => Sys2Proof.Machine.execSadmit port o steps s
  | .flashReadDone fc r => Sys2Proof.Machine.execFlashReadDone fc r s
  | .flashProgramDone fc => Sys2Proof.Machine.execFlashProgramDone fc s
  | .flashEraseDone fc => Sys2Proof.Machine.execFlashEraseDone fc s
  | .stripeAgeFlush slice => Sys2Proof.Machine.execStripeAgeFlush slice s
  | .flashLineFault fc line => Sys2Proof.Machine.execFlashLineFault fc line s
  | .nandSenseLost group => Sys2Proof.Machine.execNandSenseLost group s
  | .nandSenseRestored group => Sys2Proof.Machine.execNandSenseRestored group s
  | .flashTrainingDone results => Sys2Proof.Machine.execFlashTrainingDone results s
  | .mergeSwitch index leaf node => Sys2Proof.Machine.execMergeSwitch index leaf node s
  | .mergeAreaRelease index leaf => Sys2Proof.Machine.execMergeAreaRelease index leaf s
  | .oldVersionRelease kind id => Sys2Proof.Machine.execOldVersionRelease kind id s
  | .loadWindowEnd => Sys2Proof.Machine.execLoadWindowEnd s
  | .transitCopyDone => Sys2Proof.Machine.execTransitCopyDone s
  | .rebuildDone object tile unread => Sys2Proof.Machine.execRebuildDone object tile unread s
  | .poisonSlackExpire => Sys2Proof.Machine.execPoisonSlackExpire s
  | .bankPairCopyDone stack die => Sys2Proof.Machine.execBankPairCopyDone stack die s
  | .setupMarkComplete => Sys2Proof.Machine.execSetupMarkComplete s
  | .sliceQuiet => Sys2Proof.Machine.execSliceQuiet s
  | .composeAbandon => Sys2Proof.Machine.execComposeAbandon s
  | .custodyOrphan => Sys2Proof.Machine.execCustodyOrphan s
  | .reshardMovesDone => Sys2Proof.Machine.execReshardMovesDone s
  | .drainComplete => Sys2Proof.Machine.execDrainComplete s
  | .ringCloseDone ring => Sys2Proof.Machine.execRingCloseDone ring s
  | .resultsWritten ring => Sys2Proof.Machine.execResultsWritten ring s
  | .hangAck unit peer => Sys2Proof.Machine.execHangAck unit peer s
  | .hangOwn unit => Sys2Proof.Machine.execHangOwn unit s
  | .hangWait unit peer => Sys2Proof.Machine.execHangWait unit peer s
  | .watchdog => Sys2Proof.Machine.execWatchdog s
  | .dumpComplete us unread => Sys2Proof.Machine.execDumpComplete us unread s
  | .autoNodeReset => Sys2Proof.Machine.execAutoNodeReset s
  | .domainResetDone dom => Sys2Proof.Machine.execDomainResetDone dom s
  | .burinRestart => Sys2Proof.Machine.execBurinRestart s
  | .quarantineLift unit => Sys2Proof.Machine.execQuarantineLift unit s
  | .faultMapWrite => Sys2Proof.Machine.execFaultMapWrite s
  | .envelopeGraceExpire => Sys2Proof.Machine.execEnvelopeGraceExpire s
  | .envelopeHoldStart => Sys2Proof.Machine.execEnvelopeHoldStart s
  | .tjLimit tj => Sys2Proof.Machine.execTjLimit tj s
  | .tjHighClear => Sys2Proof.Machine.execTjHighClear s
  | .thermtrip => Sys2Proof.Machine.execThermtrip s
  | .inputContact => Sys2Proof.Machine.execInputContact s
  | .inputValid => Sys2Proof.Machine.execInputValid s
  | .railSequenceStep sense => Sys2Proof.Machine.execRailSequenceStep sense s
  | .boot x => Sys2Proof.Machine.execBoot x s
  | .bootComplete stacksOk boardOk => Sys2Proof.Machine.execBootComplete stacksOk boardOk s
  | .selftestDone fails => Sys2Proof.Machine.execSelftestDone fails s
  | .inputUv => Sys2Proof.Machine.execInputUv s
  | .inputOv => Sys2Proof.Machine.execInputOv s
  | .inputReturn => Sys2Proof.Machine.execInputReturn s
  | .breaker => Sys2Proof.Machine.execBreaker s
  | .reverse => Sys2Proof.Machine.execReverse s
  | .railFault rail => Sys2Proof.Machine.execRailFault rail s
  | .controlOff => Sys2Proof.Machine.execControlOff s
  | .controlOn => Sys2Proof.Machine.execControlOn s
  | .controlRetry => Sys2Proof.Machine.execControlRetry s
  | .seenFlagClear mask => Sys2Proof.Machine.execSeenFlagClear mask s
  | .dumpClear value => Sys2Proof.Machine.execDumpClear value s
  | .dumpWindowSet value => Sys2Proof.Machine.execDumpWindowSet value s
  | .dumpDataRead => Sys2Proof.Machine.execDumpDataRead s
  | .entdaa target address => Sys2Proof.Machine.execEntdaa target address s
  | .setdasa target address => Sys2Proof.Machine.execSetdasa target address s
  | .portReset port cause => Sys2Proof.Machine.execPortReset port cause s
  | .portResetRelease port => Sys2Proof.Machine.execPortResetRelease port s
  | .refclkLost port => Sys2Proof.Machine.execRefclkLost port s
  | .commandSealWrite port m bytes => Sys2Proof.Machine.execCommandSealWrite port m bytes s
  | .registerWrite at_ bytes => Sys2Proof.Machine.execRegisterWrite at_ bytes s
  | .nodeInfo m => Sys2Proof.Machine.execNodeInfo m s
  | .nodeStatus m t => Sys2Proof.Machine.execNodeStatus m t s
  | .attest m d => Sys2Proof.Machine.execAttest m d s
  | .counterRead m d => Sys2Proof.Machine.execCounterRead m d s
  | .logRead m d => Sys2Proof.Machine.execLogRead m d s
  | .resetDomain m => Sys2Proof.Machine.execResetDomain m s
  | .selftest m => Sys2Proof.Machine.execSelftest m s
  | .start m => Sys2Proof.Machine.execStart m s
  | .serve m => Sys2Proof.Machine.execServe m s
  | .drain m => Sys2Proof.Machine.execDrain m s
  | .maint m => Sys2Proof.Machine.execMaint m s
  | .resume m => Sys2Proof.Machine.execResume m s
  | .stop m => Sys2Proof.Machine.execStop m s
  | .proofWrite m readBack => Sys2Proof.Machine.execProofWrite m readBack s
  | .fwUpdate m d => Sys2Proof.Machine.execFwUpdate m d s
  | .fwActivate m => Sys2Proof.Machine.execFwActivate m s
  | .clusterMap m => Sys2Proof.Machine.execClusterMap m s
  | .bpmap m => Sys2Proof.Machine.execBpmap m s
  | .compose m d => Sys2Proof.Machine.execCompose m d s
  | .phaseLoad m d => Sys2Proof.Machine.execPhaseLoad m d s
  | .phase m d => Sys2Proof.Machine.execPhase m d s
  | .quotaSet m => Sys2Proof.Machine.execQuotaSet m s
  | .oppointSet m => Sys2Proof.Machine.execOppointSet m s
  | .policySet m => Sys2Proof.Machine.execPolicySet m s
  | .objAlloc m => Sys2Proof.Machine.execObjAlloc m s
  | .objFree m => Sys2Proof.Machine.execObjFree m s
  | .objWrite m d => Sys2Proof.Machine.execObjWrite m d s
  | .objRead m d => Sys2Proof.Machine.execObjRead m d s
  | .descLoad m => Sys2Proof.Machine.execDescLoad m s
  | .ringSetup m => Sys2Proof.Machine.execRingSetup m s
  | .ringClose m => Sys2Proof.Machine.execRingClose m s
  | .versionSwitch m => Sys2Proof.Machine.execVersionSwitch m s
  | .transit m => Sys2Proof.Machine.execTransit m s
  | .bridgeXfer m => Sys2Proof.Machine.execBridgeXfer m s
  | .conjPromote m => Sys2Proof.Machine.execConjPromote m s
  | .inputLoss => Sys2Proof.Machine.execInputLoss s
  | .powerDownComplete => Sys2Proof.Machine.execPowerDownComplete s
  | .configurationRequest port w => Sys2Proof.Machine.execConfigurationRequest port w s
  | .portLinkTrained port lanes rate => Sys2Proof.Machine.execPortLinkTrained port lanes rate s
  | .bridgeTileTimeout => Sys2Proof.Machine.execBridgeTileTimeout s

end Sys2Proof.Machine
end

