-- ==== Sys2Proof/Safety.lean ====
section
/-!
DEFINITION. What counts as a sound state of the node: the invariants that every command keeps, in the terms the statements use.
-/
namespace Sys2Proof.Machine

/-- Every memory is in its canonical form: addresses strictly rising, nothing listed that an unlisted address reads as. -/
def Memory.wf (m : Memory) : Bool :=
  cwf 0#8 m.bytes && cwf none m.sram && cwf 0 m.sramGen && cwf false m.poison && cwf 0#8 m.host

/-- The vector registers are in canonical form. -/
def Units.wf (u : Units) : Bool := cwf 0#32 u.vreg

/-- The mailbox frames and mailbox states are in canonical form. -/
def HostIf.wf (h : HostIf) : Bool := cwf 0#8 h.frames && cwf 0 h.mstate

/-- The node state is one of the ten of R326, and so is each state it is to enter or return to. -/
def State.nodeLegal (s : State) : Bool :=
  decide (s.node.state ≤ 9) && s.run.stopAt.all (fun st => decide (st ≤ 9)) && s.faults.test.all (fun t => decide (t.2.1 ≤ 9))

/-- POWER_STATE is one of the seven of R489, and so is the one a power-down ends in. -/
def State.powerLegal (s : State) : Bool := decide (s.power.state ≤ 6) && decide (s.power.fallTo ≤ 6)

/-- Each mailbox is IDLE, BUSY or DONE (R313). -/
def State.boxesLegal (s : State) : Bool := s.host.mstate.all fun kv => decide (kv.2 ≤ 2)

/-- Everything sparse is in canonical form. -/
def State.canonical (s : State) : Bool := s.mem.wf && s.units.wf && s.host.wf

/-- A sound state. -/
def State.sound (s : State) : Bool := s.nodeLegal && s.powerLegal && s.boxesLegal && s.canonical

/-! ### The words of the statements -/

/-- The lane whose unit a lane command uses; none for a command of another kind, and for IDLE, which uses none. -/
def commandLane : Instr → Option Nat
  | .maintStep l .. => some l.toNat
  | .refresh c _ _ => some (chLane c)
  | .mload u _ => some (macLane u)
  | .mmac u _ => some (macLane u)
  | .mdrain u _ => some (macLane u)
  | .vload cl _ => some (vecLane cl)
  | .vstore cl _ => some (vecLane cl)
  | .mov v => some (vecLane v.cl)
  | .add v => some (vecLane v.cl)
  | .sub v => some (vecLane v.cl)
  | .mul v => some (vecLane v.cl)
  | .fma v => some (vecLane v.cl)
  | .div v => some (vecLane v.cl)
  | .sqrt v => some (vecLane v.cl)
  | .min v => some (vecLane v.cl)
  | .max v => some (vecLane v.cl)
  | .abs v => some (vecLane v.cl)
  | .neg v => some (vecLane v.cl)
  | .cmplt v => some (vecLane v.cl)
  | .sel v => some (vecLane v.cl)
  | .rcp v => some (vecLane v.cl)
  | .rsqrt v => some (vecLane v.cl)
  | .exp v => some (vecLane v.cl)
  | .log v => some (vecLane v.cl)
  | .sigmoid v => some (vecLane v.cl)
  | .tanh v => some (vecLane v.cl)
  | .gelu v => some (vecLane v.cl)
  | .silu v => some (vecLane v.cl)
  | .cvti v => some (vecLane v.cl)
  | .roundi v => some (vecLane v.cl)
  | .sumreduce v => some (vecLane v.cl)
  | .maxreduce v => some (vecLane v.cl)
  | .addi v => some (vecLane v.cl)
  | .muli v => some (vecLane v.cl)
  | .setx v => some (vecLane v.cl)
  | .deq v => some (vecLane v.cl)
  | .quant v => some (vecLane v.cl)
  | .lsqgrad v => some (vecLane v.cl)
  | .srd c _ _ => some (chLane c)
  | .swr c _ => some (chLane c)
  | .nseg c _ _ _ _ => some (chLane c)
  | .twalk q _ _ => some (walkLane q)
  | .tplan q _ _ => some (walkLane q)
  | .tplanWiden q _ _ => some (walkLane q)
  | .tsketch q _ _ => some (walkLane q)
  | .sopen cl _ => some (selLane cl)
  | .sfeed cl _ => some (selLane cl)
  | .schain cl _ => some (selLane cl)
  | .ssumin cl _ => some (selLane cl)
  | .semit cl _ _ => some (selLane cl)
  | .ssave cl _ _ => some (selLane cl)
  | .srestore cl _ _ => some (selLane cl)
  | .mcopy cl _ => some (moveLane cl)
  | .mxbuf cl _ => some (moveLane cl)
  | .mclose cl _ _ => some (moveLane cl)
  | .mcheck cl _ _ => some (moveLane cl)
  | .brd _ => some edgeLane
  | .bwr _ => some edgeLane
  | .bgather _ _ => some edgeLane
  | .fissue fc => some (fcLane fc)
  | .fprog fc => some (fcLane fc)
  | .ferase fc => some (fcLane fc)
  | .fsend p _ => some (portLane p)
  | .sadmit p _ _ => some (0x500 + p.val)
  | .stepAdvance .. | .frameBegin .. | .trainingStateExpire | .armForwardTimeout | .beatIssue | .beatDeadlineExpire | .beatLost | .beat ..
  | .arm .. | .linkFlitReceive .. | .replayTimeout .. | .data .. | .delivered .. | .confirm .. | .bulk .. | .train .. | .lightDetected ..
  | .pairSwapToggle .. | .laneTrainingTimeout .. | .fabricTrainingComplete | .laserFail .. | .fabricLatency .. | .conjJoin .. | .accept ..
  | .conjFormTimeout | .conjMemberLost .. | .report .. | .score .. | .propose .. | .ack .. | .takeover .. | .notice .. | .join ..
  | .depart .. | .refuse .. | .loaded .. | .form .. | .viewForm | .deputyTakeover | .scoreRecovery .. | .holdClear | .admissionTestEnd ..
  | .probationRetest | .formerTimeout | .formationWindowEnd | .partnerLoadDone | .nbuTaskEnd .. | .standaloneRefresh .. | .idle ..
  | .flashReadDone .. | .flashProgramDone .. | .flashEraseDone .. | .stripeAgeFlush .. | .flashLineFault .. | .nandSenseLost ..
  | .nandSenseRestored .. | .flashTrainingDone .. | .mergeSwitch .. | .mergeAreaRelease .. | .oldVersionRelease .. | .loadWindowEnd
  | .transitCopyDone | .rebuildDone .. | .poisonSlackExpire | .bankPairCopyDone .. | .setupMarkComplete | .sliceQuiet | .composeAbandon
  | .custodyOrphan | .reshardMovesDone | .drainComplete | .ringCloseDone .. | .resultsWritten .. | .hangAck .. | .hangOwn ..
  | .hangWait .. | .watchdog | .dumpComplete .. | .autoNodeReset | .domainResetDone .. | .burinRestart | .quarantineLift ..
  | .faultMapWrite | .envelopeGraceExpire | .envelopeHoldStart | .tjLimit .. | .tjHighClear | .thermtrip | .inputContact | .inputValid
  | .railSequenceStep .. | .boot .. | .bootComplete .. | .selftestDone .. | .inputUv | .inputOv | .inputReturn | .breaker | .reverse
  | .railFault .. | .controlOff | .controlOn | .controlRetry | .seenFlagClear .. | .dumpClear .. | .dumpWindowSet .. | .dumpDataRead
  | .entdaa .. | .setdasa .. | .portReset .. | .portResetRelease .. | .refclkLost .. | .commandSealWrite .. | .registerWrite ..
  | .nodeInfo .. | .nodeStatus .. | .attest .. | .counterRead .. | .logRead .. | .resetDomain .. | .selftest .. | .start .. | .serve ..
  | .drain .. | .maint .. | .resume .. | .stop .. | .proofWrite .. | .fwUpdate .. | .fwActivate .. | .clusterMap .. | .bpmap ..
  | .compose .. | .phaseLoad .. | .phase .. | .quotaSet .. | .oppointSet .. | .policySet .. | .objAlloc .. | .objFree .. | .objWrite ..
  | .objRead .. | .descLoad .. | .ringSetup .. | .ringClose .. | .versionSwitch .. | .transit .. | .bridgeXfer .. | .conjPromote ..
  | .inputLoss | .powerDownComplete | .configurationRequest .. | .portLinkTrained .. | .bridgeTileTimeout => none

/-- Command `i` at `s` answers a next state, of which `p` holds. -/
def Runs (i : Instr) (s : State) (p : State → Prop) : Prop := ∃ t, exec i s = .next t ∧ p t

/-- From `s` to `t` nothing changes but what every lane command of a unit touches: the times until which units work, the writes
on their way, and the increments held by the sentinels. -/
def LaneOnly (s t : State) : Prop :=
  t = { s with run := { s.run with busy := t.run.busy, delayed := t.run.delayed }, cnt := { s.cnt with inc := t.cnt.inc } }

/-- The unit of lane `lane` works for `n` steps. -/
def Works (lane n : Nat) (s t : State) : Prop := t.run.busy = cset 0 s.run.busy lane (s.run.now + n)

/-- The writes `ws` are on their way and land `k` steps from now, behind those that were. -/
def Sends (k : Nat) (ws : List Landing) (s t : State) : Prop :=
  t.run.delayed = s.run.delayed ++ ws.map fun w => ⟨s.run.now + k, w⟩

/-- A lane command of `n` steps whose whole effect is the writes `ws`, `k` steps from now. -/
def Lands (lane n k : Nat) (ws : List Landing) (s t : State) : Prop := Works lane n s t ∧ Sends k ws s t ∧ LaneOnly s t

/-- A mailbox command's code (R327) and its mailbox; none for a command of another kind. -/
def mailboxCode : Instr → Option (Nat × Fin 64)
  | .nodeInfo m => some (0x01, m)
  | .nodeStatus m _ => some (0x02, m)
  | .attest m _ => some (0x03, m)
  | .counterRead m _ => some (0x04, m)
  | .logRead m _ => some (0x05, m)
  | .resetDomain m => some (0x10, m)
  | .selftest m => some (0x11, m)
  | .start m => some (0x18, m)
  | .serve m => some (0x19, m)
  | .drain m => some (0x1A, m)
  | .maint m => some (0x1B, m)
  | .resume m => some (0x1C, m)
  | .stop m => some (0x1D, m)
  | .proofWrite m _ => some (0x20, m)
  | .fwUpdate m _ => some (0x21, m)
  | .fwActivate m => some (0x22, m)
  | .clusterMap m => some (0x30, m)
  | .bpmap m => some (0x31, m)
  | .compose m _ => some (0x40, m)
  | .phaseLoad m _ => some (0x41, m)
  | .phase m _ => some (0x42, m)
  | .quotaSet m => some (0x48, m)
  | .oppointSet m => some (0x49, m)
  | .policySet m => some (0x4A, m)
  | .objAlloc m => some (0x50, m)
  | .objFree m => some (0x51, m)
  | .objWrite m _ => some (0x52, m)
  | .objRead m _ => some (0x53, m)
  | .descLoad m => some (0x54, m)
  | .ringSetup m => some (0x58, m)
  | .ringClose m => some (0x59, m)
  | .versionSwitch m => some (0x60, m)
  | .transit m => some (0x61, m)
  | .bridgeXfer m => some (0x70, m)
  | .conjPromote m => some (0x78, m)
  | _ => none

/-- The command of mailbox `m` is the next to take, its seal holds, it has code `code` and is no repetition (R313, R314, R316). -/
def Offered (code : Nat) (m : Fin 64) (s : State) : Prop :=
  canTake s m = true ∧ sealOk s (readCmd s m) = true ∧ (readCmd s m).code = code ∧ replayOf s (readCmd s m) = none

/-- Such a command that no check of R314 refuses; `params` gives its lowest offending byte. -/
def Accepts (code : Nat) (params : State → Cmd → Option Nat) (m : Fin 64) (s : State) : Prop :=
  Offered code m s ∧ refusal (taken s m) (readCmd s m) (firstOffence params (taken s m) (readCmd s m)) = none

/-- The mailbox is answered and nothing else of the node changes: DONE (R313), with its command out of the order of those that wait. -/
def AnswersOnly (m : Fin 64) (s t : State) : Prop :=
  cget 0 t.host.mstate m = 2 ∧ t.host.order = s.host.order.drop 1 ∧ t.node = s.node ∧ t.run = s.run ∧ t.setup = s.setup ∧ t.recs = s.recs ∧
  t.boot = s.boot ∧ t.nor = s.nor ∧ t.faults = s.faults ∧ t.mem.bytes = s.mem.bytes ∧ t.mem.sram = s.mem.sram ∧ t.mem.objs = s.mem.objs ∧
  t.host.rings = s.host.rings ∧ t.host.inProg = s.host.inProg ∧ t.bg = s.bg ∧ t.flash = s.flash ∧ t.fab = s.fab ∧ t.orr = s.orr

end Sys2Proof.Machine
end

