-- ==== Sys2Proof/Certificates/Slice0/Obligations.lean ====
section
/-!
DEFINITION. The statements for the provers.
-/
section Slice0
open Sys2Proof Sys2Proof.Machine

/-! ### The block as a whole -/

/-- A step takes the command at the front of the queue and runs it on the state with the queue's rest. With nothing waiting a
millisecond passes, which is the model's choice (log entry 4). -/
def Obligations.StepRunsFrontCommand : Prop :=
  (∀ (c : Instr) (r : List Instr) (s : State), s.pending = c :: r → step s = exec c { s with pending := r }) ∧
  ∀ s : State, s.pending = [] → step s = .next (tick s)

/-- The queue is first in, first out: a step takes away the command at its front and nothing else, and no command's effect touches it. -/
def Obligations.QueueIsFirstInFirstOut : Prop :=
  (∀ (c : Instr) (s t : State), exec c s = .next t → t.pending = s.pending) ∧
  ∀ s t : State, step s = .next t → t.pending = s.pending.drop 1

/-- The module before any input: no power and OFF (R326, R489), no mailbox in use (R313), the preferred point, policy, epoch and phase of the
factory settings (R366, R450 and the factory slice map), and every MSI-X vector masked. That the factory settings stand before the first boot, and the
masks, are the model's choice (log entries 1 to 3 and 42). -/
def Obligations.ResetState : Prop :=
  State.reset.power.vmgt = false ∧ State.reset.power.state = 0 ∧ State.reset.power.failedRail = 15 ∧ State.reset.node.state = stOff ∧
  State.reset.run.running = false ∧ State.reset.run.plate = none ∧ State.reset.boot.firmware = false ∧
  State.reset.setup.epoch = 1 ∧ State.reset.setup.phase = 1 ∧ State.reset.setup.preferred = 1 ∧ State.reset.setup.setPoint = 640 ∧
  State.reset.setup.flat = false ∧ State.reset.host.mstate = [] ∧ State.reset.host.rings = [] ∧ State.reset.orr.view = none ∧ State.reset.pending = [] ∧
  (∀ m : Nat, msixMasked State.reset (m / 64) (m % 64) = true) ∧ State.reset.sound = true

/-- Every step keeps a sound state sound, part by part: the node state is one of the ten of R326, POWER_STATE one of the seven of
R489, every mailbox IDLE, BUSY or DONE, and memory, vector registers and mailbox frames stay in canonical form. -/
def Obligations.StepKeepsSound : Prop :=
  ∀ s t : State, step s = .next t →
    (s.nodeLegal = true → t.nodeLegal = true) ∧ (s.powerLegal = true → t.powerLegal = true) ∧
    (s.boxesLegal = true → t.boxesLegal = true) ∧ (s.canonical = true → t.canonical = true) ∧ (s.sound = true → t.sound = true)

/-! ### Steps, frames and beats -/

/-- R25, R26, R40, R41: while some unit has not completed, the step does not end. Once all have, all advance together: one step has
passed, the writes that are due land in order, and no other does. Step N − L begins with the node's arm; after step N − 1 the node waits. -/
def Obligations.StepsAdvanceTogether : Prop :=
  ∀ (x : StepTime) (s : State) (p : Plate), s.run.plate = some p → s.run.running = true → s.run.waiting = false →
    let due := dueWrites { s with run := { s.run with now := s.run.now + 1 } }
    (strokeDone s = false → exec (.stepAdvance x) s = .next s) ∧
    (strokeDone s = true → Runs (.stepAdvance x) s fun t =>
      t.run.now = s.run.now + 1 ∧ t.run.stepPs = x.ps ∧ t.run.frame = s.run.frame ∧ t.run.plate = some p ∧ t.run.busy = s.run.busy ∧
      t.run.delayed = s.run.delayed.filter (fun d => !decide (d.due ≤ s.run.now + 1)) ∧
      t.units = (due.foldl (fun s d => landOne s d.what) s).units ∧
      t.mem.bytes = (due.foldl (fun s d => landOne s d.what) s).mem.bytes ∧
      t.mem.sram = (due.foldl (fun s d => landOne s d.what) s).mem.sram ∧
      t.mem.poison = (due.foldl (fun s d => landOne s d.what) s).mem.poison ∧
      t.node = s.node ∧ t.setup = s.setup ∧ t.recs = s.recs ∧ t.power = s.power ∧
      (s.run.step + 1 < p.steps → t.run.step = s.run.step + 1 ∧ t.run.waiting = false) ∧
      (s.run.step + 1 < p.steps → s.run.step + 1 + p.lead = p.steps → t.fab.armed = true) ∧
      (s.run.step + 1 < p.steps → s.run.step + 1 + p.lead ≠ p.steps → t.fab = s.fab ∧ t.host = s.host) ∧
      (p.steps ≤ s.run.step + 1 → t.run.step = s.run.step ∧ t.run.waiting = true ∧ t.fab = s.fab ∧ t.host = s.host))

/-- R41: step 0 of frame F + 1 begins when step N − 1 of frame F has completed and the beat for frame F has arrived. With one of them
missing nothing happens; with both the frame that ends is closed and a frame opened at step 0, with the number and the published SN of the
beat. A node that was to stop at the end of its frame stops there; an admitted node that waits for its first beat begins with it. -/
def Obligations.FramesBeginWithBeat : Prop :=
  (∀ (x : BoundaryIn) (s : State), s.run.running = true →
    (s.run.waiting = false → exec (.frameBegin x) s = .next s) ∧
    (s.run.waiting = true → s.run.stopAt = none → s.fab.beat = none → exec (.frameBegin x) s = .next s) ∧
    (∀ b, s.run.waiting = true → s.run.stopAt = none → s.fab.beat = some b →
      exec (.frameBegin x) s = .next (newFrame (closeFrame s x) x b false)) ∧
    (∀ st, s.run.waiting = true → s.run.stopAt = some st → exec (.frameBegin x) s = .next (stopNode (closeFrame s x) st))) ∧
  (∀ (x : BoundaryIn) (s : State) (b : BeatMsg), s.run.running = false → s.fab.beat = some b → s.run.plate.isSome = true →
    awaitsStart s = true → admittedBy s b.view.toNat = true → exec (.frameBegin x) s = .next (newFrame s x b true)) ∧
  (∀ (s : State) (b : BeatMsg), let t := openFrame s b
    t.run.running = true ∧ t.run.waiting = false ∧ t.run.step = 0 ∧ t.run.frame = b.frame.toNat ∧ t.recs.published = b.published.toNat ∧
    t.recs.pubs.head? = some b.published.toNat ∧ t.fab.beat = none ∧ t.fab.sent = [] ∧ t.fab.recv = [] ∧ t.fab.armed = false ∧ t.mem = s.mem ∧
    t.units = s.units ∧ t.node = s.node) ∧
  ∀ (s : State) (x : BoundaryIn) (p : Plate), s.run.plate = some p → (closeFrame s x).run.load = loadOf s p ∧ (closeFrame s x).run.macBusy = 0 ∧
    (closeFrame s x).cnt.inc = [] ∧ (closeFrame s x).run.frame = s.run.frame

/-- R40, R44, R169, R276, R279: the root issues the beat once every arm it waits for is there, alone once its own frame is done, and after the
deadline with the missing nodes listed; in a conjunction it waits for the other members' arms too. A beat that fits the node's frame, epoch and view is taken, and a node listed in it stops at the end of its
frame; any other is a fault. Twice the deadline without a beat is a loss. The published SN never falls and never passes frame F − 3 or READY. -/
def Obligations.BeatsAreIssuedAndTaken : Prop :=
  (∀ s : State, s.run.running = true → isRoot s = true → s.fab.issued = false → s.fab.beat = none →
    let issues := fun (i : Instr) (gone : List Nat) => Runs i s fun t =>
      t.fab.beat = some (beatNow s gone) ∧ t.fab.issued = true ∧ t.recs = s.recs ∧ t.mem = s.mem ∧ t.setup = s.setup ∧ t.node = s.node
    (membersHeld s = false → exec .beatIssue s = .next s) ∧
    (membersHeld s = true → alone s = true → s.run.waiting = true → issues .beatIssue []) ∧
    (membersHeld s = true → alone s = false → s.fab.armed = true → missingArms s = [] → issues .beatIssue []) ∧
    (alone s = false → missingArms s ≠ [] → exec .beatIssue s = .next s) ∧
    (alone s = false → missingArms s ≠ [] → issues .beatDeadlineExpire (missingArms s)) ∧
    (alone s = true → membersHeld s = false → issues .beatDeadlineExpire []) ∧
    (alone s = true → membersHeld s = true → exec .beatDeadlineExpire s = .next s)) ∧
  (∀ (s : State) (v : View) (f : Nat), s.run.running = false → s.orr.pending = some v → s.orr.firstFrame = some f →
    s.orr.proposed = true → s.orr.awaiting = [] → isRoot s = true → s.fab.beat = none → Runs .beatIssue s fun t =>
      t.fab.issued = true ∧ ∃ b, t.fab.beat = some b ∧ b.frame = BitVec.ofNat 64 f ∧ b.view = BitVec.ofNat 32 v.num ∧ b.apply = false ∧ b.missing = []) ∧
  (∀ (s : State) (b : BeatMsg), s.faults.inReset.contains 4 = false → s.run.running = true → s.fab.beat = none →
    (b.frame.toNat = s.run.frame + 1 → b.epoch.toNat = s.setup.epoch → viewExpected s b.view.toNat = true →
      Runs (.beat b) s fun t => t.fab.beat = some b ∧ t.node = s.node ∧ t.run.running = true ∧
        t.run.stopAt = if b.missing.contains (nodeId s) then some stFault else s.run.stopAt) ∧
    (b.frame.toNat ≠ s.run.frame + 1 ∨ b.epoch.toNat ≠ s.setup.epoch ∨ viewExpected s b.view.toNat = false →
      Runs (.beat b) s fun t => t.node.state = stFault ∧ (s.node.state ≠ stFault → t.run.running = false))) ∧
  (∀ s : State, s.run.running = true → s.run.waiting = true → s.fab.beat = none →
    exec .beatLost s = .next (enterFault (logFault s { code := 0x31, event := true, dom := 4, unit := 0x812 }))) ∧
  ∀ s : State, s.recs.published ≤ publishSn s ∧ (publishSn s ≠ s.recs.published → publishSn s ≤ s.run.frame - 3 ∧
    ∃ m, s.fab.combined = some m ∧ publishSn s ≤ m.ready.toNat)

/-- R275, R219, R279: a child's arm is combined until the node has sent its own, and passed on after that; that of another member of the node's conjunction is
combined and counted; after BEAT_TREE_NS what has been combined goes, from a member of a conjunction to the primary. The smallest READY stands, and COMPLETE only where both are complete for one epoch. Training state goes at the end of its hold, at the home, at the
owners and in the partner's copies. -/
def Obligations.ArmsCombine : Prop :=
  (∀ (src : Fin 512) (m : ArmMsg) (s : State), s.run.running = true → m.frame.toNat = s.run.frame → s.faults.inReset.contains 4 = false →
    (src.val = nodeId s → exec (.arm src m) s = .next (armStep (addArm { s with fab := { s.fab with memberArms := s.fab.memberArms + 1 } } m))) ∧
    (src.val ≠ nodeId s → s.fab.armSent = true → exec (.arm src m) s = .next (sendArm s m)) ∧
    (src.val ≠ nodeId s → s.fab.armSent = false → exec (.arm src m) s = .next (armStep (addArm s m)))) ∧
  (∀ (m : ArmMsg) (s : State), s.run.running = true → s.fab.armed = true → s.fab.armSent = false → isRoot s = false →
    s.fab.combined = some m → Runs .armForwardTimeout s fun t =>
      t.fab.armSent = true ∧ t.fab.out = s.fab.out ++ [if conjMember s then .conjArm m else .arm (firstHop (nodeId s) (beatRoot s)) m] ∧ t.mem = s.mem ∧ t.node = s.node ∧ t.run = s.run) ∧
  (∀ a b : ArmMsg, (combineArms a b).ready.toNat = min a.ready.toNat b.ready.toNat ∧
    ((combineArms a b).complete = true ↔ a.complete = true ∧ b.complete = true ∧ a.epoch = b.epoch) ∧
    ∀ n, n ∈ (combineArms a b).present ↔ n ∈ a.present ∨ n ∈ b.present) ∧
  ∀ s : State, s.run.running = true → Runs .trainingStateExpire s fun t =>
    let held := fun (x : TrainState) => !decide (x.admitAt + holdOf s x.table ≤ s.run.frame)
    t.recs.training = s.recs.training.filter held ∧
    t.recs.tables.own = s.recs.tables.own.filter (fun x => !decide (x.admitAt + holdOf s x.table ≤ s.run.frame)) ∧
    t.recs.tables.copies = s.recs.tables.copies.filter (fun x => !decide (x.admitAt + holdOf s x.table ≤ s.run.frame)) ∧
    (∀ c ∈ s.recs.custody, c.kind ≠ 0 → c ∈ t.recs.custody) ∧ t.mem = s.mem ∧ t.node = s.node ∧ t.run = s.run

/-! ### The vector units -/

/-- R84, R85, R26: the VOP functions with no immediate value, and ADDI and MULI, which take
their second operand from IMM. The vector unit is free, and the function is the one its record holds for this step; in the next step the
destination holds the function of the source lanes, lane by lane, and nothing else changes. -/
def Obligations.VopArithmeticResults : Prop :=
  ∀ (v : Vop) (s : State),
    let a := getVreg s v.cl v.src1
    let b := getVreg s v.cl v.src2
    let c := getVreg s v.cl v.src3
    let gives := fun (i : Instr) (fn : Nat) (r : List W32) =>
      laneReady s (vecLane v.cl) 0x22 (vopOp v fn) 1 = true → Runs i s (Lands (vecLane v.cl) 1 1 [.vreg v.cl v.dst r] s)
    gives (.addi v) 0x38 (a.map (add32 · v.imm)) ∧ gives (.muli v) 0x39 (a.map (mul32 · v.imm)) ∧
    (v.imm = 0#32 → gives (.mov v) 0x00 a ∧ gives (.add v) 0x01 (List.zipWith add32 a b) ∧ gives (.sub v) 0x02 (List.zipWith sub32 a b) ∧
    gives (.mul v) 0x03 (List.zipWith mul32 a b) ∧ gives (.fma v) 0x04 (zip3 fma32 a b c) ∧ gives (.div v) 0x05 (List.zipWith div32 a b) ∧
    gives (.sqrt v) 0x06 (a.map sqrt32) ∧ gives (.min v) 0x07 (List.zipWith (pick32 false) a b) ∧
    gives (.max v) 0x08 (List.zipWith (pick32 true) a b) ∧ gives (.abs v) 0x09 (a.map abs32) ∧ gives (.neg v) 0x0A (a.map neg32) ∧
    gives (.cmplt v) 0x0B (List.zipWith (fun x y => if flt (dec32 x) (dec32 y) then 1#32 else 0#32) a b) ∧
    gives (.sel v) 0x0C (zip3 (fun x y z => if x = 0#32 then z else y) a b c) ∧ gives (.rcp v) 0x10 (a.map (div32 (ofInt32 1))) ∧
    gives (.cvti v) 0x20 (a.map fun x => ofInt32 x.toInt) ∧
    gives (.sumreduce v) 0x30 (List.replicate 64 (reduce64 add32 a)) ∧
    gives (.maxreduce v) 0x31 (List.replicate 64 (reduce64 (pick32 true) a)) ∧
    gives (.deq v) 0x41 (List.zipWith (fun (y : W32) (i : Bool) => if i then nan32 else y) (zip3 (deqLane s v.cl) a b c)
      (getVinv s v.cl v.src1)))

/-- R85, R86: the functions with a stated error bound. Each lane is one of the binary32 values within the bound of the exact
value; which one is free (log entry 11), and so is what GELU and SiLU give at −∞, where the manual states no result. -/
def Obligations.VopBoundedResults : Prop :=
  ∀ (v : Vop) (s : State), v.imm = 0#32 →
    let a := getVreg s v.cl v.src1
    let gives := fun (i : Instr) (fn : Nat) (r : List W32) =>
      laneReady s (vecLane v.cl) 0x22 (vopOp v fn) 1 = true → Runs i s (Lands (vecLane v.cl) 1 1 [.vreg v.cl v.dst r] s)
    let near := fun (fn ulps : Nat) (f : FVal → FVal) => a.map fun x => withinUlps ulps (Config.ulpPick fn x.toNat) (f (dec32 x))
    gives (.rsqrt v) 0x11 (near 0x11 1 rsqrtV) ∧ gives (.exp v) 0x12 (near 0x12 1 expV) ∧ gives (.log v) 0x13 (near 0x13 1 logV) ∧
    gives (.sigmoid v) 0x14 (near 0x14 2 sigmoidV) ∧ gives (.tanh v) 0x15 (near 0x15 2 tanhV) ∧
    gives (.gelu v) 0x16 (a.map fun x => boundedLane 0x16 2 x (geluV (dec32 x))) ∧
    gives (.silu v) 0x17 (a.map fun x => boundedLane 0x17 2 x (siluV (dec32 x)))

/-- R69, R86, R87: a NaN operand gives the canonical NaN, whatever its payload; MIN and MAX give the other operand; what VLOAD makes of a float NaN
or an integer NaN code is the canonical binary32 NaN. -/
def Obligations.NanOperandsGiveCanonicalNan : Prop :=
  (∀ x y : W32, isNaN32 x = true ∨ isNaN32 y = true →
    add32 x y = nan32 ∧ sub32 x y = nan32 ∧ mul32 x y = nan32 ∧ div32 x y = nan32) ∧
  (∀ x y z : W32, isNaN32 x = true ∨ isNaN32 y = true ∨ isNaN32 z = true → fma32 x y z = nan32) ∧
  (∀ x : W32, isNaN32 x = true → sqrt32 x = nan32 ∧ abs32 x = nan32 ∧ neg32 x = nan32) ∧
  (∀ (x : W32) (n k : Nat), isNaN32 x = true → withinUlps n k (expV (dec32 x)) = nan32 ∧ withinUlps n k (rsqrtV (dec32 x)) = nan32 ∧
    withinUlps n k (logV (dec32 x)) = nan32 ∧ withinUlps n k (sigmoidV (dec32 x)) = nan32 ∧ withinUlps n k (tanhV (dec32 x)) = nan32) ∧
  (∀ (x y : W32) (larger : Bool), isNaN32 x = true →
    pick32 larger x y = (if isNaN32 y then nan32 else y) ∧ pick32 larger y x = if isNaN32 y then nan32 else y) ∧
  ∀ t code : Nat, (loadLane t code).2 = true → (loadLane t code).1 = nan32

/-- R85, R77, R81: ROUNDI saturates and gives 0 for a NaN; QUANT gives the codes of R77 for the target of its record; LSQGRAD gives the three gradients of
R81 in three registers, where with SCALE 0 the gradient of the scale is free (log entry 13). Of a destination V62 or V63 those that have a register are
kept, which is the model's choice (log entry 82). The target is one of the eight that R77 allows; which one is free (log entry 12). The free
values drawn are counted. SETX loads the scalar registers of its cluster from lane 0 of its sources, and XK from IMM; nothing else changes. -/
def Obligations.VopConversionResults : Prop :=
  ∀ (v : Vop) (s : State),
    let lane := vecLane v.cl
    let ready := fun (fn : Nat) => laneReady s lane 0x22 (vopOp v fn) 1 = true
    let a := getVreg s v.cl v.src1
    let b := getVreg s v.cl v.src2
    let c := getVreg s v.cl v.src3
    targetAt s v.cl ∈ quantTargets ∧
    (ready 0x40 → Runs (.setx v) s (fun t => Works lane 1 s t ∧ t = { s with
      run := { s.run with busy := t.run.busy }
      cnt := { s.cnt with inc := t.cnt.inc }
      units := { s.units with
        xs := cset 0#32 s.units.xs v.cl (a.headD 0), xo := cset 0#32 s.units.xo v.cl (b.headD 0)
        xa := cset 0#32 s.units.xa v.cl (c.headD 0), xk := cset 0#32 s.units.xk v.cl v.imm } })) ∧
    (v.imm = 0#32 → (ready 0x21 → Runs (.roundi v) s (Lands lane 1 1 [.vreg v.cl v.dst (a.map fun x => (roundLane x).1)] s)) ∧
    (ready 0x42 → Runs (.quant v) s (Lands lane 1 1
      [.vreg v.cl v.dst ((List.zipWith (quantLane (targetAt s v.cl)) a c).map fun e => BitVec.ofInt 32 e.code)] s)) ∧
    (ready 0x43 → Runs (.lsqgrad v) s fun t =>
      let g := fun (i : Nat) => lsqLane (targetAt s v.cl) (a.getD i 0) (b.getD i 0) (c.getD i 0) (Config.free (s.drawn + i))
      let dests := fun (k : Nat) (f : W32 × W32 × W32 → W32) =>
        if v.dst.val + k < 64 then [Landing.vreg v.cl (v.dst.val + k) ((List.range 64).map fun i => f (g i))] else []
      Lands lane 1 1 (dests 0 Prod.fst ++ dests 1 (fun r => r.2.1) ++ dests 2 fun r => r.2.2) { s with drawn := s.drawn + 64 } t))

/-- R84, R87, R82: VLOAD delivers 64 elements as lanes in the next step, and VSTORE writes 64 lanes in the format's codes; where the granules carry no poison mark
nothing else changes. Into a gradient tile VSTORE writes each value over the tile's scale as E5M2, and the tile's step takes its magnitude and its
saturations (what counts as a gradient tile is the model's reading, log entry 90). -/
def Obligations.VectorLoadsAndStores : Prop :=
  ∀ (cl : Fin 32) (o : OpAB) (s : State) (a : Nat),
    let fmt := opField o.a 6 8
    let t := fmtType fmt
    let n := 64 * typeBits t / 8
    let vs := getVreg s cl (opField o.a 0 6)
    opRsv o.a 14 = true → opRsv o.b 17 = true → fmtOk fmt = true → clPlace cl o.b n = some a →
    (laneReady s (vecLane cl) 0x20 o 1 = true → anyMark s a n = false → Runs (.vload cl o) s (Lands (vecLane cl) 1 1
      [.vreg cl (opField o.a 0 6) ((unpackElems (typeBits t) 64 (readMem s a n)).map fun c => (loadLane t c).1)] s)) ∧
    (laneReady s (vecLane cl) 0x21 o 1 = true → t ≠ 5 ∨ gradTile s a = none → Runs (.vstore cl o) s (Lands (vecLane cl) 1 1
      [cleanMem a (packElems (typeBits t) (vs.map fun x => (storeLane fmt x).code))] s)) ∧
    ∀ k, laneReady s (vecLane cl) 0x21 o 1 = true → t = 5 → gradTile s a = some k → Runs (.vstore cl o) s fun u =>
      let g := tileScale s k
      let cs := vs.map (scaledE5M2 (fmtOvf fmt) g.exp)
      Works (vecLane cl) 1 s u ∧ Sends 1 [cleanMem a (packElems 8 (cs.map Conv.code))] s u ∧
      u = { s with
        run := { s.run with busy := u.run.busy, delayed := u.run.delayed }
        cnt := { s.cnt with inc := u.cnt.inc }
        mem := { s.mem with grads := cset {} s.mem.grads k (sawGrads g vs cs) } }

/-! ### The MAC arrays -/

/-- R64, R233: MLOAD of a sound tile whose header carries the record's FORMAT. The weight register holds the tile's 1024 elements and its format, and
nothing else changes but the unit's time and the counters. -/
def Obligations.MloadFillsWeightRegister : Prop :=
  ∀ (u : MacUnit) (o : OpAB) (s : State) (a : Nat),
    let fmt := opField o.b 0 8
    let reg := opField o.b 8 1
    let n := payloadBytes fmt false
    laneReady s (macLane u) 0x10 o 1 = true → opRsv o.a 17 = true → opRsv o.b 9 = true → fmtOk fmt = true →
    clPlace u.cl o.a (32 + n) = some a → fld (readMem s a 32) 0 0 8 = fmt → fld (readMem s a 32) 0 8 1 = 0 →
    tileSound s a (a + 32) n = true →
    Runs (.mload u o) s fun t => Works (macLane u) 1 s t ∧ t = { s with
      run := { s.run with busy := t.run.busy }
      cnt := { s.cnt with inc := t.cnt.inc }
      units := { s.units with
        weight := csetN 0 s.units.weight (wElem u reg 0) (unpackElems (fmtBits fmt) 1024 (readMem s (a + 32) n))
        wfmt := cset 0 s.units.wfmt (wReg u reg) fmt
        wbad := cset 0 s.units.wbad (wReg u reg) 0 } }

/-- R65, R252: what MLOAD finds amiss. A header with another FORMAT marks the register, raises fault event 0x21 with the tile's object and
index, and sets no finding; a tile that is not sound is a poison finding. -/
def Obligations.MloadReportsBadTiles : Prop :=
  ∀ (u : MacUnit) (o : OpAB) (s : State) (a : Nat),
    let fmt := opField o.b 0 8
    let reg := opField o.b 8 1
    let n := payloadBytes fmt false
    let hdr := readMem s a 32
    laneReady s (macLane u) 0x10 o 1 = true → opRsv o.a 17 = true → opRsv o.b 9 = true → fmtOk fmt = true →
    clPlace u.cl o.a (32 + n) = some a →
    (fld hdr 0 0 8 ≠ fmt → s.dump.log.length < 4096 → Runs (.mload u o) s fun t =>
      t.units.wbad = cset 0 s.units.wbad (wReg u reg) 1 ∧ t.recs.findings = s.recs.findings ∧
      t.dump.log = logWith s.dump.log (faultBytes s ⟨0x21, true, laneDomain (macLane u), laneUnit s (macLane u), 0xFFFF, fld hdr 12 0 32,
        fld hdr 16 0 32, false, false⟩)) ∧
    (fld hdr 0 0 8 = fmt → fld hdr 0 8 1 = 0 → tileSound s a (a + 32) n = false → Runs (.mload u o) s fun t =>
      t.units.wbad = cset 0 s.units.wbad (wReg u reg) 2 ∧
      t.recs.findings = s.recs.findings ++ [(fld hdr 12 0 32, fld hdr 16 0 32)])

/-- R57 to R62, R64: MMAC completes on every FORMAT of the node. On sound weights each column of the bank takes its products, an integer column as R59 and
R61 say, a float column as R60 says; a pair of 4-bit integers takes both registers, each by the TYPE it was loaded with; CLEAR starts the bank from 0; an
integer step adds the activation codes to ASUM. No other unit's registers, no memory and nothing else changes. On a register that holds no operand of the
pair, of which the manual states no result, the columns that no flag has frozen, and ASUM, are free values (log entry 83); flags stand. -/
def Obligations.MmacAccumulates : Prop :=
  ∀ (u : MacUnit) (o : OpAB) (s : State),
    let ta := fmtType (opField o.b 0 8)
    let bank := opField o.b 9 2
    let s0 := if bit o.b.toNat 11 then clearBank s u bank else s
    let pair := pairRows ta (wType s u 0) (wType s u 1) (opField o.b 8 1) (opField o.b 12 4)
    laneReady s (macLane u) 0x11 o 1 = true → opRsv o.a 17 = true → opRsv o.b 16 = true → fmtOk (opField o.b 0 8) = true →
    (∀ rows a, pair = some rows → clPlace u.cl o.a (rows.length * typeBits ta / 8) = some a → (∀ r < 2, cget 0 s.units.wbad (wReg u r) = 0) →
      let acts := unpackElems (typeBits ta) rows.length (readMem s a (rows.length * typeBits ta / 8))
      let cols := (List.range 64).map fun n =>
        let ws := rows.map fun p => (wType s u p.1, cget 0 s.units.weight (wElem u p.1 (p.2 * 64 + n)))
        if isIntClass ta then intColumn ta acts ws (getCol s0 u bank n)
        else floatColumn ta ((ws.map Prod.fst).headD 0) acts (ws.map Prod.snd) (getCol s0 u bank n)
      let s1 := if isIntClass ta then addAsum s0 u bank (sumInt (acts.map (codeValue ta))) else s0
      Runs (.mmac u o) s fun t => Works (macLane u) 1 s t ∧ t = { s with
        run := { s.run with busy := t.run.busy }
        cnt := { s.cnt with inc := t.cnt.inc }
        units := { s.units with
          acc := csetN 0 s0.units.acc (accKey u bank 0) (cols.map Col.acc)
          wsum := csetN 0 s0.units.wsum (accKey u bank 0) (cols.map Col.wsum)
          mflag := csetN 0 s0.units.mflag (accKey u bank 0) (cols.map Col.flag)
          asum := s1.units.asum
          aflag := s1.units.aflag } }) ∧
    (pair = none → Runs (.mmac u o) s fun t => Works (macLane u) 1 s t ∧ t = { macFree s u bank (bit o.b.toNat 11) with
      run := { s.run with busy := t.run.busy }
      cnt := { s.cnt with inc := t.cnt.inc } })

/-- R61, R62: ACC_SAT and INVALID are sticky: no step clears them, and the accumulator of a column with either stands. -/
def Obligations.AccumulatorFlagsAreSticky : Prop :=
  ∀ (ta tw : Nat) (as : List Nat) (ws : List (Nat × Nat)) (c : Col), accSat c.flag = true ∨ invalid c.flag = true →
    (intColumn ta as ws c).acc = c.acc ∧ (floatColumn ta tw as (ws.map Prod.snd) c).acc = c.acc ∧
    ∀ f : Nat → Bool, f = accSat ∨ f = invalid → f c.flag = true →
      f (intColumn ta as ws c).flag = true ∧ f (floatColumn ta tw as (ws.map Prod.snd) c).flag = true

/-- R59: an integer accumulator takes the exact sum of the products, and stops at the limits of int32 with ACC_SAT. -/
def Obligations.IntegerAccumulationSaturates : Prop :=
  ∀ (x : W32) (d : Int),
    (-2147483648 ≤ x.toInt + d → x.toInt + d ≤ 2147483647 → (satAdd32 x d).1.toInt = x.toInt + d ∧ (satAdd32 x d).2 = false) ∧
    (2147483647 < x.toInt + d → satAdd32 x d = (0x7FFFFFFF#32, true)) ∧
    (x.toInt + d < -2147483648 → satAdd32 x d = (0x80000000#32, true))

/-- R64: MDRAIN copies accumulators, WSUM, ASUM or the flags of a bank to a vector register in the next step; the lanes of an INVALID column carry
INVALID with an accumulator drained (R79). -/
def Obligations.MdrainCopiesBank : Prop :=
  ∀ (u : MacUnit) (o : OpAB) (s : State), laneReady s (macLane u) 0x12 o 1 = true → opRsv o.a 10 = true → o.b = 0#32 →
    let bank := opField o.a 8 2
    let src := opField o.a 6 2
    Runs (.mdrain u o) s fun t => Lands (macLane u) 1 1
      [.drain u.cl (opField o.a 0 6) (drainLanes s u src bank)
        ((List.range 64).map fun n => src == 0 && invalid (getCol s u bank n).flag)] s t ∧
      (src = 0 → drainLanes s u src bank = (List.range 64).map fun n => (getCol s u bank n).acc)

/-! ### The select units -/

/-- R156, R159: SOPEN opens the unit empty. With K_IND 0, K is KMAX; with K_IND 1 the unit reads the K word, and a word of 0 or above KMAX
gives KMAX and BAD_K. Nothing else changes. -/
def Obligations.SopenOpensSelection : Prop :=
  ∀ (cl : Fin 32) (o : OpAB) (s : State),
    let kmax := opField o.a 0 11
    let unit := fun (k : Nat) (bad : Bool) =>
      Sel.mk true kmax k (bit o.a.toNat 11) (bit o.a.toNat 12) bad [] [] 0 0 0 0 0 0 0 false false []
    let opens := fun (k : Nat) (bad : Bool) (t : State) => Works (selLane cl) 1 s t ∧ t = { s with
      run := { s.run with busy := t.run.busy }
      cnt := { s.cnt with inc := t.cnt.inc }
      units := { s.units with select := cset {} s.units.select cl (unit k bad) } }
    laneReady s (selLane cl) 0x10 o 1 = true → opRsv o.a 14 = true → 1 ≤ kmax → kmax ≤ 1024 →
    (bit o.a.toNat 13 = false → o.b = 0#32 → Runs (.sopen cl o) s (opens kmax false)) ∧
    (bit o.a.toNat 13 = true → opRsv o.b 17 = true → ∀ a, clPlace cl o.b 2 = some a →
      (readNat s a 2 = 0 ∨ readNat s a 2 > kmax → Runs (.sopen cl o) s (opens kmax true)) ∧
      (1 ≤ readNat s a 2 → readNat s a 2 ≤ kmax → Runs (.sopen cl o) s (opens (readNat s a 2) false)))

/-- R156, R158, R160, R161, R163: SFEED, SCHAIN and SSUMIN. An open unit takes the entries in their order, or the child's summary; a closed one discards
them. R137: a chain word of a scan that is not finished contributes nothing, and the scan's later words are dropped. Memory stands. -/
def Obligations.SelectUnitsTakeEntries : Prop :=
  ∀ (cl : Fin 32) (o : OpAB) (s : State) (a : Nat),
    let u := getSel s cl
    let takes := fun (i : Instr) (m : Cells Sel) => Runs i s fun t =>
      t.units = { s.units with select := if u.isOpen then m else s.units.select } ∧
      t.mem.bytes = s.mem.bytes ∧ t.mem.sram = s.mem.sram ∧ t.mem.poison = s.mem.poison ∧ t.node = s.node ∧ t.recs = s.recs ∧ Works (selLane cl) 1 s t
    let fed := fun (child : Bool) (es : List SelEntry) => es.foldl (fun m e => cset {} m cl ((cget {} m cl).feed child e)) s.units.select
    (laneReady s (selLane cl) 0x11 o 1 = true → opRsv o.a 17 = true → opRsv o.b 1 = true → clPlace cl o.a 32 = some a →
      takes (.sfeed cl o) (fed (bit o.b.toNat 0) (entriesOf (readMem s a 32) 2))) ∧
    (laneReady s (selLane cl) 0x12 o 1 = true → opRsv o.a 19 = true → o.b = 0#32 → place false 0 (opField o.a 0 19) 1 = some a →
      let scan := (unfinishedResults s).find? fun r => decide (r ≤ opField o.a 0 19) && decide (opField o.a 0 19 < r + 8)
      (scan = none → takes (.schain cl o) (fed false (chainEntries (readMem s a 32)))) ∧
      ∀ r, scan = some r → Runs (.schain cl o) s fun t => Works (selLane cl) 1 s t ∧ t = { s with
        run := { s.run with busy := t.run.busy }
        cnt := { s.cnt with inc := t.cnt.inc }
        units := { s.units with dropped := s.units.dropped.filter (· != r) ++ [r] } }) ∧
    (laneReady s (selLane cl) 0x13 o 1 = true → opRsv o.a 17 = true → o.b = 0#32 → clPlace cl o.a 128 = some a →
      takes (.ssumin cl o) (cset {} s.units.select cl (u.addChild (readMem s a 128))))

/-- R151: a NaN score is counted and dropped: it is in no sum and no count but NAN_COUNT, is not held, and no entry held has a NaN score, so that none is
ever selected or a duplicate partner. -/
def Obligations.NanScoresAreNeverSelected : Prop :=
  (∀ (u : Sel) (child : Bool) (e : SelEntry), isNaN32 e.score = true →
    u.feed child e = { u with nanCount := satAdd 32 u.nanCount 1 }) ∧
  (∀ (u : Sel) (child : Bool) (e : SelEntry), (u.held.all fun h => !isNaN32 h.score) = true →
    ((u.feed child e).held.all fun h => !isNaN32 h.score) = true) ∧
  ∀ (u : Sel), (u.held.all fun h => !isNaN32 h.score) = true → (u.selected.all fun h => !isNaN32 h.score) = true

/-- R150, R152: whatever a unit is fed, what it holds stays in the order of R150 and within KMAX. -/
def Obligations.HeldEntriesStayOrdered : Prop :=
  ∀ (u : Sel) (child : Bool) (e : SelEntry), u.held.length ≤ u.kmax → u.held.Pairwise (fun a b => precedes u.maxOrder b a = false) →
    (u.feed child e).kmax = u.kmax ∧ (u.feed child e).maxOrder = u.maxOrder ∧ (u.feed child e).held.length ≤ u.kmax ∧
    (u.feed child e).held.Pairwise fun a b => precedes u.maxOrder b a = false

/-- R150, R152: a selection opened empty is the first K valid entries of those fed, in the order of R150, and does not depend on the order in which
they were fed (without DEDUP, over distinct IDs). -/
def Obligations.SelectionIsBestKInAnyOrder : Prop :=
  ∀ (u : Sel) (es es' : List SelEntry), u.held = [] → u.dedup = false → u.k ≤ u.kmax → es.Perm es' → (es.map SelEntry.id).Nodup →
    let r := (es.foldl (fun v e => v.feed false e) u).selected
    r = (es'.foldl (fun v e => v.feed false e) u).selected ∧
    r.length = min u.k (es.filter fun e => !isNaN32 e.score).length ∧ r.Pairwise (fun a b => precedes u.maxOrder a b = true) ∧
    (∀ e ∈ r, e ∈ es ∧ isNaN32 e.score = false) ∧
    ∀ e ∈ r, ∀ x ∈ es, isNaN32 x.score = false → x ∉ r → precedes u.maxOrder e x = true

/-- R156, R161, R162: SEMIT and SSAVE of an open unit write the selection with its pads and the summary, or the state image; the blocks land at the end of
the record, and the unit keeps its state. A closed unit writes nothing. -/
def Obligations.SelectionsAreWritten : Prop :=
  ∀ (cl : Fin 32) (o : OpAB) (steps : Nat) (s : State),
    let u := getSel s cl
    let emits := laneReady s (selLane cl) 0x14 o steps = true
    let saves := laneReady s (selLane cl) 0x15 o steps = true
    opRsv o.a 17 = true →
    (u.isOpen = true → selSteps u.kmax ≤ steps →
      (emits → opRsv o.b 17 = true → ∀ a b, clPlace cl o.a (16 * u.k) = some a → clPlace cl o.b 128 = some b →
        Runs (.semit cl o steps) s (Lands (selLane cl) steps steps [cleanMem a u.emitted, cleanMem b u.summary] s)) ∧
      (saves → o.b = 0#32 → ∀ a, clPlace cl o.a u.image.length = some a → Runs (.ssave cl o steps) s fun t =>
        Works (selLane cl) steps s t ∧ Sends steps [cleanMem a u.image] s t ∧
        t.units = { s.units with images := s.units.images.filter (fun p => p.1 != a) ++ [(a, u.image, u)] } ∧ t.mem = s.mem)) ∧
    (u.isOpen = false →
      (emits → opRsv o.b 17 = true → Runs (.semit cl o steps) s (Lands (selLane cl) steps steps [] s)) ∧
      (saves → o.b = 0#32 → Runs (.ssave cl o steps) s (Lands (selLane cl) steps steps [] s)))

/-- R161: SRESTORE of an image that SSAVE wrote gives the unit the state it was saved with: of images that read alike the one saved at that address.
Of an image that no unit saved, the state is free where the image does not say it (log entry 9). -/
def Obligations.SrestoreRestoresSavedState : Prop :=
  ∀ (cl : Fin 32) (o : OpAB) (steps : Nat) (s : State) (a : Nat), laneReady s (selLane cl) 0x16 o steps = true →
    opRsv o.a 17 = true → o.b = 0#32 → clPlace cl o.a 144 = some a →
    let restores := fun (v : Sel) (drawn : Nat) => Runs (.srestore cl o steps) s fun t => Works (selLane cl) steps s t ∧ t = { s with
      run := { s.run with busy := t.run.busy }
      cnt := { s.cnt with inc := t.cnt.inc }
      drawn := drawn
      units := { s.units with select := cset {} s.units.select cl v } }
    (∀ p, (s.units.images.find? fun p => p.1 == a && readMem s a p.2.1.length == p.2.1) = some p → imageAt s a = some p.2.2) ∧
    (∀ v, imageAt s a = some v → selSteps v.kmax ≤ steps → restores v s.drawn) ∧
    (imageAt s a = none → selSteps 1 ≤ steps → restores (imageState s a).1 (s.drawn + 1))

/-! ### Stack channels, movers, the edge controller -/

/-- R92, R93, R113: SRD delivers granules of the channel 64 steps later, each with its poison mark and with one where the column was uncorrectable; SWR
writes granules with their marks 64 steps later. R98, R26: NSEG gives the NBUs of its MASK, lowest position first, the channel for its steps, and no
other NBU; what they write reaches the channel's memory in later steps. -/
def Obligations.StackChannelsCompute : Prop :=
  (∀ (c : Chan) (o : OpAB) (s : State) (a d : Nat),
    let n := opField o.a 27 2 + 1
    opRsv o.a 29 = true → opRsv o.b 26 = true → chPlace c (opField o.a 0 27) n = some a → srdPlace o.b n = some d →
    (∀ e : Ecc, laneReady s (chLane c) 0x10 o 1 = true → e.uncorrectable = 0#4 →
      Runs (.srd c o e) s (Lands (chLane c) 1 64 [.mem d ((List.range n).flatMap fun i => readMem s (a + 32 * i) 32) (marksOf s a n)] s)) ∧
    (∀ e : Ecc, laneReady s (chLane c) 0x10 o 1 = true →
      Runs (.srd c o e) s fun t => ∃ bs marks, t.run.delayed = s.run.delayed ++ [⟨s.run.now + 64, .mem d bs marks⟩] ∧
      marks = List.zipWith (fun m i => m || bit (e.uncorrectable.toNat % 2 ^ n) i) (marksOf s a n) (List.range n) ∧
      t.mem = s.mem ∧ t.units = s.units ∧ t.node = s.node ∧ Works (chLane c) 1 s t) ∧
    (laneReady s (chLane c) 0x11 o 1 = true → Runs (.swr c o) s (Lands (chLane c) 1 64 [.mem a (readMem s d (32 * n)) (marksOf s d n)] s))) ∧
  ∀ (c : Chan) (o : OpAB) (steps : Nat) (ue : List (BitVec 27)) (corrected : Nat) (s : State),
    laneReady s (chLane c) 0x18 o steps = true → opRsv o.a 24 = true → o.b = 0#32 →
    (∀ p, s.run.plate = some p → popCount 24 (opField o.a 0 24) ≤ inkPositions p.ink ∧ steps ≤ segLimit s.setup.running) →
    Runs (.nseg c o steps ue corrected) s fun t => Works (chLane c) steps s t ∧
      t.units = (((List.range 24).filter (bit (opField o.a 0 24))).foldl (segNbu c steps (ue.map BitVec.toNat)) (ran s (chLane c) steps)).units ∧
      t.mem.bytes = s.mem.bytes ∧ t.mem.poison = s.mem.poison ∧
      (opField o.a 0 24 = 0 → t.units = s.units ∧ t.mem = s.mem) ∧ t.node = s.node ∧ t.pending = s.pending

/-- R235, R236, R250: MCOPY, MXBUF, BRD and BWR copy granules with their poison marks; MXBUF returns the credits whose data it has taken. BGATHER
reads the entries of its list in order, up to the first that does not fit, and writes what it read and how many entries it served; where one reaches beyond board DRAM
the sentinel counts it. -/
def Obligations.MoversCopyGranules : Prop :=
  (∀ (cl : Fin 32) (o : OpAB) (s : State) (a d : Nat),
    (laneReady s (moveLane cl) 0x10 o 1 = true → opRsv o.a 27 = true → opRsv o.b 25 = true →
      let n := opField o.a 25 2 + 1
      location o.a n = some a → location o.b n = some d →
      Runs (.mcopy cl o) s (Lands (moveLane cl) 1 16 [.mem d (readMem s a (32 * n)) (marksOf s a n)] s)) ∧
    (laneReady s (moveLane cl) 0x11 o 1 = true → opRsv o.a 21 = true → opRsv o.b 25 = true →
      let n := opField o.a 19 2 + 1
      let g := opField o.a 0 17
      g + n ≤ 131072 → location o.b n = some d →
      let x := xAddr (4194304 * opField o.a 17 2 + 32 * g)
      Runs (.mxbuf cl o) s fun t => Works (moveLane cl) 1 s t ∧ Sends 32 [.mem d (readMem s x (32 * n)) (marksOf s x n)] s t ∧
        t = { s with
          run := { s.run with busy := t.run.busy, delayed := t.run.delayed }
          cnt := { s.cnt with inc := t.cnt.inc }
          flash := { s.flash with credits := (returnCredits s (opField o.a 17 2) g n).flash.credits } }) ∧
    (opRsv o.b 28 = true →
      let n := 128 * (opField o.b 25 3 + 1)
      n ≤ edgeLimit s.setup.running → 128 * o.a.toNat + n ≤ dumpBase → location o.b (n / 32) = some d →
      (laneReady s edgeLane 0x10 o 1 = true → Runs (.brd o) s (Lands edgeLane 1 256
        [.mem d (readMem s (t2Addr (128 * o.a.toNat)) n) (marksOf s (t2Addr (128 * o.a.toNat)) (n / 32))] s)) ∧
      (laneReady s edgeLane 0x11 o 1 = true → Runs (.bwr o) s (Lands edgeLane 1 256
        [.mem (t2Addr (128 * o.a.toNat)) (readMem s d n) (marksOf s d (n / 32))] s)))) ∧
  ∀ (o : OpAB) (steps : Nat) (s : State) (d : Nat), laneReady s edgeLane 0x12 o steps = true → opRsv o.a 19 = true → opRsv o.b 25 = true →
    let a := nsAddr (32 * opField o.a 0 19)
    let es := (List.range (readNat s a 2)).map fun i => readNat s (a + 32 + 8 * i) 8
    let got := gather es (steps - 256)
    let data := got.flatMap fun e => readMem s (t2Addr e.1) e.2
    addrOk a (32 + 8 * readNat s a 2) = true → location o.b (granulesOf data.length) = some d →
    let ws := [cleanMem d data, .mem (a + 2) (leBytes 2 got.length) []]
    (gatherCut es (steps - 256) = false → Runs (.bgather o steps) s (Lands edgeLane steps steps ws s)) ∧
    (gatherCut es (steps - 256) = true → Runs (.bgather o steps) s fun t => Works edgeLane steps s t ∧ Sends steps ws s t ∧ t = { s with
      run := { s.run with busy := t.run.busy, delayed := t.run.delayed }
      cnt := { s.cnt with inc := t.cnt.inc, seen := cmod 0 s.cnt.seen (65536 + edgeLane) (· + 1) } })

/-- R232, R235, R82: MCLOSE writes the header with the TAG over the payload, GENERATION one above and DEVICE_WRITTEN, and with the gradient scale in that of a
gradient tile (log entry 90); MCHECK of a sound tile with the record's FORMAT changes nothing, of another FORMAT logs fault 0x21, of an unsound
one is a poison finding. -/
def Obligations.TilesAreClosedAndChecked : Prop :=
  ∀ (cl : Fin 32) (o : OpAB) (steps : Nat) (s : State) (a : Nat),
    let pl := payloadBytes (opField o.b 0 8) (bit o.b.toNat 8)
    let hdr := readMem s a 32
    let lane := moveLane cl
    let checks := laneReady s lane 0x13 o steps = true
    opRsv o.a 25 = true → opRsv o.b 9 = true → fmtOk (opField o.b 0 8) = true → closeSteps pl ≤ steps → location o.a (1 + pl / 32) = some a →
    (laneReady s lane 0x12 o steps = true → Runs (.mclose cl o steps) s (fun t => Works lane steps s t ∧ LaneOnly s t ∧
      Sends (steps + 15) [.mem a (scaleHeader s a (closeHeader hdr (readMem s (a + 32) pl))) (marksOf s a 1)] s t)) ∧
    (gradTile s a = none → ∀ h, scaleHeader s a h = h) ∧
    (checks → fld hdr 0 0 8 = opField o.b 0 8 → fld hdr 0 8 1 = opField o.b 8 1 →
      (tileSound s a (a + 32) pl = true → Runs (.mcheck cl o steps) s (Lands lane steps steps [] s)) ∧
      (tileSound s a (a + 32) pl = false → Runs (.mcheck cl o steps) s fun t =>
        t.recs.findings = s.recs.findings ++ [(fld hdr 12 0 32, fld hdr 16 0 32)])) ∧
    (checks → fld hdr 0 0 8 ≠ opField o.b 0 8 → s.dump.log.length < 4096 → Runs (.mcheck cl o steps) s fun t =>
      t.dump.log = logWith s.dump.log (faultBytes s ⟨0x21, true, laneDomain lane, laneUnit s lane, 0xFFFF, fld hdr 12 0 32,
        fld hdr 16 0 32, false, false⟩) ∧ t.recs.findings = s.recs.findings)

/-! ### What a write does when it lands -/

/-- R26: a write that lands leaves its bytes and its marks in place, and every other byte as it was. -/
def Obligations.LandedBytesAndNoOthers : Prop :=
  ∀ (s : State) (a : Nat) (bs : Bytes) (ms : List Bool), s.mem.wf = true → (∀ i < bs.length, isSram (a + i) = isSram a) →
    let t := landOne s (.mem a bs ms)
    readMem t a bs.length = bs ∧
    (∀ x, x < a ∨ a + bs.length ≤ x → readMem t x 1 = readMem s x 1) ∧
    marksOf t (32 * (a / 32)) ms.length = ms ∧
    t = { s with mem := { s.mem with bytes := t.mem.bytes, sram := t.mem.sram, poison := t.mem.poison } }

/-! ### The tree walkers -/

/-- R121, R132: TSKETCH writes the sketch of W values at the end of its record: bit j is 1 where value j is greater than +0. A record too short
for the W / 64 steps writes nothing. -/
def Obligations.TsketchWritesSignBits : Prop :=
  ∀ (q : Fin 4) (o : OpAB) (steps : Nat) (s : State) (a b : Nat),
    let w := sketchBits (opField o.b 19 2)
    let vs := valuesAt s a w
    laneReady s (walkLane q) 0x12 o steps = true → opRsv o.a 19 = true → opRsv o.b 21 = true → opField o.b 19 2 ≠ 3 →
    place false 0 (opField o.a 0 19) (w / 8) = some a → place false 0 (opField o.b 0 19) (granulesOf (w / 8)) = some b →
    (w / 64 ≤ steps → Runs (.tsketch q o steps) s (Lands (walkLane q) steps steps [cleanMem b (leBytes (w / 8) (sketchNat vs))] s)) ∧
    (steps < w / 64 → Runs (.tsketch q o steps) s (Lands (walkLane q) steps steps [] s)) ∧
    ∀ j < vs.length, bit (sketchNat vs) j = positive32 (vs.getD j 0)

/-- R130, R132, R133: TWALK of an index in use writes the query's sketch, the subtree list of three levels and its length at the end of its record; a
record too short for its sketch leaves an empty list and sets ABANDONED, as does a walk that its steps cut short. Of an index that is not in use nothing is written. -/
def Obligations.TwalkWritesSubtrees : Prop :=
  ∀ (q : Fin 4) (o : OpAB) (steps : Nat) (s : State), laneReady s (walkLane q) 0x10 o steps = true → opRsv o.a 19 = true → o.b = 0#32 →
    let a := nsAddr (32 * opField o.a 0 19)
    let head := readMem s a 64
    (findDesc s 1 (fld head 0 0 16) = none → Runs (.twalk q o steps) s (Lands (walkLane q) steps steps [] s)) ∧
    ∀ d, findDesc s 1 (fld head 0 0 16) = some d →
      let w := sketchBits (dWidth d)
      let sk := sketchNat (valuesAt s (a + 64) w)
      addrOk a (64 + 4 * w + w / 8 + 512) = true →
      (steps < w / 64 → Runs (.twalk q o steps) s (Lands (walkLane q) steps steps [blockFlags a 0 true] s)) ∧
      (w / 64 ≤ steps → ∀ list abandoned,
        walkLevels s (dTop d) (dWidth d) sk ⟨fld head 4 0 32, fld head 8 0 32⟩
          [fld d.bytes 8 0 8, fld d.bytes 8 8 8, fld d.bytes 8 16 8] [0] (steps - w / 64) = some (list, abandoned) →
        Runs (.twalk q o steps) s (Lands (walkLane q) steps steps [cleanMem (a + 64 + 4 * w) (leBytes (w / 8) sk),
          .mem (a + 64 + 4 * w + w / 8) (list.flatMap (leBytes 8)) [], blockFlags a list.length abandoned] s))

/-- R131, R133, R135, R136, R138: TPLAN plans the shares of its subtree list, or of its lists in CLUSTER mode, writes their tasks in the record's steps and
keeps the plan under its block; with WIDEN it widens the plan it kept, unless the query says NO_WIDEN. Where no descriptor of the block's index is
there, only the unit's time passes. -/
def Obligations.TplanKeepsPlans : Prop :=
  ∀ (q : Fin 4) (o : OpAB) (steps : Nat) (s : State), laneReady s (walkLane q) 0x11 o steps = true → opRsv o.a 19 = true →
    let blk := opField o.a 0 19
    let a := nsAddr (32 * blk)
    let s1 := ran s (walkLane q) steps
    let lane : PlanLane := ⟨walkLane q, steps⟩
    (planCtx s blk = none → o.b = 0#32 → exec (.tplan q o steps) s = .next s1) ∧
    (planCtx s blk = none ∨ neverWidens s blk = true → o.b = 1#32 → exec (.tplanWiden q o steps) s = .next s1) ∧
    ∀ x, planCtx s blk = some x →
      let off := 64 + 4 * sketchBits (dWidth x.desc) + sketchBits (dWidth x.desc) / 8
      let n := fld x.head 0x24 0 8
      let ptrs := (List.range n).map fun i => readNat s (a + off + 8 * i) 8
      let plans := if dMode x.desc = 1 then clusterPlans s x ptrs else treePlans s x ⟨fld x.head 4 0 32, fld x.head 8 0 32⟩ ptrs
      (o.b = 0#32 → addrOk a (off + 8 * n) = true → ∀ s2 shares num all, planShares x lane plans s1 0 steps = some (s2, shares, num, all) →
        Runs (.tplan q o steps) s fun t =>
          t.units.plans = s.units.plans.filter (fun p => p.block != blk) ++
            [{ block := blk, nextNum := num, shares := shares, abandoned := !all, at_ := s.run.frame }] ∧
          t.mem = s.mem ∧ t.node = s.node ∧ (all = true → t.run = s2.run)) ∧
      (o.b = 1#32 → neverWidens s blk = false → ∀ p, (s.units.plans.find? fun p => p.block == blk) = some p →
        let wide := widenShares x lane p.shares s1 p.nextNum steps
        Runs (.tplanWiden q o steps) s fun t =>
          t.units.plans = s.units.plans.map (fun r => if r.block = blk then
            { r with nextNum := wide.2.2.1, shares := wide.2.1, abandoned := r.abandoned || !wide.2.2.2 } else r) ∧
          t.mem = s.mem ∧ t.node = s.node ∧ (wide.2.2.2 = true → t.run = wide.1.run))

/-! ### Actions common to lanes, and the flash lanes -/

/-- R25, R37, R45, R108, R109, R111, R104: IDLE changes nothing; REFRESH refreshes each bank of its channel once, or passes where its position is one for a hot
stack and the stack was not hot when the channel's slot began; a node that runs no plate refreshes two or four times as often as its stacks need; the words of an
ended NBU task enter the chain 320 steps after its end. -/
def Obligations.IdleRefreshAndTaskEnd : Prop :=
  (∀ (l : BitVec 16) (s : State), exec (.idle l) s = .next s) ∧
  (∀ (c : Chan) (hot : Bool) (temp : Int) (s : State) (r : Rec) (run : Nat), laneFree s (chLane c) = true → recAt s (chLane c) = some (r, 0, run) →
    r.op = 2 → r.hot = hot →
    let k := 16 * c.stack.val + c.ch.val
    let was := cget false s.units.hot c.stack
    let isHot := if run % 4 = 0 then hotAfter was temp else was
    let slot := if run % 4 = 0 then isHot else cget false s.units.slotHot k
    Runs (.refresh c hot temp) s fun t => Works (chLane c) 128 s t ∧ t = { s with
      run := { s.run with busy := t.run.busy }
      cnt := { s.cnt with inc := t.cnt.inc }
      units := { s.units with
        hot := cset false s.units.hot c.stack isHot
        slotHot := cset false s.units.slotHot k slot
        refresh := if hot && !slot then s.units.refresh else cmod 0 s.units.refresh k fun v => (v + 1) % 8192 } }) ∧
  (∀ (stack : Fin 6) (temp : Int) (s : State), s.run.running = false → s.node.state ≠ stOff → s.faults.inReset.contains (9 + stack.val) = false →
    Runs (.standaloneRefresh stack temp) s fun t =>
      t.units.hot = cset false s.units.hot stack (hotAfter (cget false s.units.hot stack) temp) ∧
      t.units.refresh = (List.range 16).foldl (fun r ch => cmod 0 r (16 * stack.val + ch) fun v =>
        (v + if hotAfter (cget false s.units.hot stack) temp then 4 else 2) % 8192) s.units.refresh ∧
      t.mem = s.mem ∧ t.run = s.run ∧ t.node = s.node) ∧
  ∀ (c : Chan) (pos : Fin 24) (s : State) (d : NDone) (r : List NDone), (getNbu s c pos).done = d :: r → d.ended ≤ s.run.now →
    d.result + d.words.length ≤ nsGranules → Runs (.nbuTaskEnd c pos) s fun t =>
      t.run.delayed = s.run.delayed ++ (List.range d.words.length).map (fun i =>
        ⟨d.ended + 320, cleanMem (nsAddr (32 * (d.result + i))) (d.words.getD i [])⟩) ∧
      t.units.nbu = (setNbu s c pos { getNbu s c pos with done := r }).units.nbu ∧ t.mem = s.mem ∧ t.node = s.node

/-- R109: a stack is hot above 85 °C and stays so until 82 °C or below. -/
def Obligations.HotFollowsHysteresis : Prop :=
  ∀ (was : Bool) (temp : Int), hotAfter was temp = true ↔ temp > 850 ∨ (was = true ∧ temp > 820)

/-- R48, R49, R195: every 256th MAINT step of a lane runs its canary in place of queued work, and a mismatch is reported; any other serves the lane's first
item in order, if there is one; a FILL step serves none while no urgent work exists. -/
def Obligations.MaintServesItemOrCanary : Prop :=
  ∀ (lane : BitVec 16) (mismatch : Bool) (ecc : Ecc) (s : State) (r : Rec) (i run : Nat), laneFree s lane.toNat = true →
    recAt s lane.toNat = some (r, i, run) → r.op = 1 →
    let l := lane.toNat
    let k := cget 0 s.run.maint l + 1
    let arg := if 0x200 ≤ l ∧ l < 0x260 then canaryPair l (k / 256 - 1) else 0
    Runs (.maintStep lane ⟨mismatch, ecc⟩) s fun t => ∃ s1,
      Works l 1 s s1 ∧ LaneOnly { s with run := { s.run with maint := cset 0 s.run.maint l k } } s1 ∧
      (k % 256 = 0 → t = if mismatch then canaryMismatch s1 (laneUnit s l) arg else s1) ∧
      (k % 256 ≠ 0 → r.fill = true ∧ s.bg.gate = false → t = s1) ∧
      (k % 256 ≠ 0 → ¬ (r.fill = true ∧ s.bg.gate = false) → t = match itemFor s l with | some i => serveItem s1 i ecc | none => s1)

/-- R238, R141, R250: FISSUE hands over the first read of its channel's queue, FPROG the first program, FERASE the first erase, where the channel can take a
command and, for data, a credit is free; where the channel can take none, only the unit's time passes. -/
def Obligations.FlashLanesHandOver : Prop :=
  ∀ (fc : Fin 24) (s : State),
    let ready := fun (op : Nat) => laneReady s (fcLane fc) op ⟨0, 0⟩ 1 = true
    (∀ r k, ready 0x10 → nextRead s fc = some r → freeCredit s fc = some k → canHand s fc = true → Runs (.fissue fc) s fun t =>
      t.flash.cmdQ = cset [] s.flash.cmdQ fc (cmdQueue s fc ++ [(0, withCredit r.place k)]) ∧
      t.flash.reads = s.flash.reads.map (fun q => if q = r then { q with stage := 1 } else q) ∧ t.mem = s.mem ∧ t.node = s.node) ∧
    (∀ st q k, ready 0x11 → cget [] s.flash.progQ fc = st :: q → freeCredit s fc = some k → canHand s fc = true → Runs (.fprog fc) s fun t =>
      t.flash.progQ = cset [] s.flash.progQ fc q ∧ t.flash.cmdQ = cset [] s.flash.cmdQ fc (cmdQueue s fc ++ [(1, withCredit st k)]) ∧
      t.mem = s.mem ∧ t.node = s.node) ∧
    (∀ st q, ready 0x12 → cget [] s.flash.eraseQ fc = st :: q → canHand s fc = true → Runs (.ferase fc) s fun t =>
      t.flash.eraseQ = cset [] s.flash.eraseQ fc q ∧ t.flash.cmdQ = cset [] s.flash.cmdQ fc (cmdQueue s fc ++ [(2, st)]) ∧
      t.mem = s.mem ∧ t.node = s.node) ∧
    (canHand s fc = false → (ready 0x10 → exec (.fissue fc) s = .next (ran s (fcLane fc) 1)) ∧
      (ready 0x11 → exec (.fprog fc) s = .next (ran s (fcLane fc) 1)) ∧ (ready 0x12 → exec (.ferase fc) s = .next (ran s (fcLane fc) 1)))

/-- R266, R270, R272: FSEND hands the entries of its list, in order, to its port; memory and the node state stand. -/
def Obligations.FsendSendsEntries : Prop :=
  ∀ (p : Fin 8) (o : OpAB) (s : State), laneReady s (portLane p) 0x10 o 1 = true → opRsv o.a 19 = true → opRsv o.b 16 = true →
    (∀ q, s.run.plate = some q → ∃ e, q.slots[opField o.b 0 16]? = some e ∧ s.run.step ≤ e.lastSend) →
    let a := nsAddr (32 * opField o.a 0 19)
    let n := readNat s a 2
    addrOk a (32 + 16 * n) = true → Runs (.fsend p o) s fun t =>
      t = ((List.range n).map fun i => readNat s (a + 32 + 16 * i) 16).foldl (sendEntry p (opField o.b 0 16)) (ran s (portLane p) 1) ∧
      (n = 0 → t.fab = s.fab) ∧ t.mem = s.mem ∧ t.node = s.node

/-- R324: SADMIT completes with the admitted records of its class that came by its port: their list, and each record at the granule the list names, land at
the end of its record, and nothing else changes. -/
def Obligations.SadmitWritesAdmittedRecords : Prop :=
  ∀ (p : Fin 2) (o : OpAB) (steps : Nat) (s : State),
    let rs := s.recs.admitted.filter fun r => !r.malformed && recClass r.bytes == opField o.b 0 1 && decide (r.ring / 32 = p.val)
    let g := opField o.a 0 19
    let lens := rs.map fun r => granulesOf r.bytes.length
    let start := 1 + granulesOf (16 * rs.length)
    let places := (List.range rs.length).map fun i => g + start + (lens.take i).foldl (· + ·) 0
    let list := layoutBytes 32 [(0, 2, rs.length)] ++ (List.range rs.length).flatMap fun i => match rs[i]? with
      | none => []
      | some r => layoutBytes 16 [(0, 8, r.index), (8, 4, r.ring), (12, 4, places.getD i 0)]
    laneReady s (0x500 + p.val) 0x10 o steps = true → opRsv o.a 19 = true → opRsv o.b 1 = true →
    g + (start + lens.foldl (· + ·) 0) ≤ nsGranules →
    Runs (.sadmit p o steps) s (Lands (0x500 + p.val) steps steps
      (cleanMem (nsAddr (32 * g)) (slice list 0 (32 * start)) :: (List.range rs.length).flatMap fun i => match rs[i]? with
        | none => []
        | some r => [cleanMem (nsAddr (32 * places.getD i 0)) (slice r.bytes 0 (32 * lens.getD i 0))]) s)

/-! ### Where lane commands wait -/

/-- R36, R39: operands with a Reserved bit set, an unknown FORMAT, an IMM that its function does not use or KMAX 0 are none of a plate in use, and a command
that the stroke does not hold for its lane in this step is no action of the lane: neither has an effect (log entries 8 and 37).
R228: a command whose address no tier has stops by name. -/
def Obligations.RefusedOperandsDoNothing : Prop :=
  (∀ (s : State) (o : OpAB) (cl : Fin 32) (u : MacUnit) (c : Chan),
    (opRsv o.a 17 = false → exec (.mload u o) s = .next s ∧ exec (.sfeed cl o) s = .next s ∧ exec (.ssumin cl o) s = .next s) ∧
    (fmtOk (opField o.b 0 8) = false → exec (.mload u o) s = .next s ∧ exec (.mmac u o) s = .next s) ∧
    (fmtOk (opField o.a 6 8) = false → exec (.vload cl o) s = .next s ∧ exec (.vstore cl o) s = .next s) ∧
    (∀ v : Vop, v.imm ≠ 0#32 → exec (.add v) s = .next s ∧ exec (.quant v) s = .next s) ∧
    (opField o.a 0 11 = 0 → exec (.sopen cl o) s = .next s) ∧
    (opRsv o.a 29 = false → exec (.swr c o) s = .next s) ∧
    (laneActs s (macLane u) 0x10 o 1 = false → exec (.mload u o) s = .next s) ∧
    (laneActs s (chLane c) 0x11 o 1 = false → exec (.swr c o) s = .next s)) ∧
  ∀ (cl : Fin 32) (c : Chan) (o : OpAB) (s : State),
    (laneReady s (moveLane cl) 0x10 o 1 = true → opRsv o.a 27 = true → opRsv o.b 25 = true → location o.a (opField o.a 25 2 + 1) = none →
      exec (.mcopy cl o) s = .fault .noSuchAddress) ∧
    (laneReady s (chLane c) 0x11 o 1 = true → opRsv o.a 29 = true → opRsv o.b 26 = true → chPlace c (opField o.a 0 27) (opField o.a 27 2 + 1) = none →
      exec (.swr c o) s = .fault .noSuchAddress) ∧
    (∀ x : W32, location x 1 = none ↔ bit x.toNat 19 = true ∧ 131072 ≤ opField x 0 19)

/-- R58: an integer-class operand is never paired with a float operand in one MMAC: no rows of such a pair are multiplied, and a plate whose MMAC record
declares such a pair in any of its steps is refused at load by check 6 of R39. -/
def Obligations.MixedPairsAreRefused : Prop :=
  let mixed := fun (ta tw : Nat) => (isIntClass ta = true ∧ isFloatType tw = true) ∨ (isFloatType ta = true ∧ isIntClass tw = true)
  (∀ ta t0 t1 reg j : Nat, mixed ta (if reg = 0 then t0 else t1) → pairRows ta t0 t1 reg j = none) ∧
  ∀ (s : State) (image sliceMap : Bytes) (point : Nat) (l : Lane) (before after : List Rec) (r : Rec) (i fmt : Nat),
    plateParses image = true → l ∈ (plateOf image).lanes → l.id < 0x100 → l.id % 8 < 4 → l.recs = before ++ r :: after → r.op = 0x11 → i ≤ r.rep →
    let ctx := before.foldl (fun c r => c.afterRec l.id r) (startCtx l)
    (if bit (recBw r i).toNat 8 then ctx.w1 else ctx.w0) = some fmt → mixed (fmtType (opField (recBw r i) 0 8)) (fmtType fmt) →
    6 ∈ plateFails s image sliceMap point ∧ plateOk s image sliceMap = false


/-- R25, R27: while a unit works, a command of its lane leaves the state as it is, whatever it is (log entry 8). -/
def Obligations.BusyUnitsWait : Prop :=
  ∀ (i : Instr) (s : State) (l : Nat), commandLane i = some l → laneFree s l = false → exec i s = .next s

/-! ### The fabric -/

/-- R263 to R265: a flit that fails FEC or CRC, or is not the next one expected, is discarded and asks for a replay. Any other is accepted: the next
LSEQ is expected, its ACKSEQ and credits are taken, its own credit is to be returned (for a flit that goes on, once it has left by the next link), RETRY_REQ with
flits outstanding replays them, a flit for another node is passed on, and what may be sent is sent. After 16 replays in a row a link is removed with a fault
event. No link sends past its credits or its 128 flits of replay. R259, R43, R270: a laser that fails takes its link out of service, an engine its 16 links, with a
fault event, and a latency above the one the plate declares is a fault that stops nothing. When an IDLE flit answers is the model's choice (log entry 91). -/
def Obligations.LinksCarryFlits : Prop :=
  (∀ (l : Fin 32) (f : Bytes) (fec : Bool) (s : State), (getLink s l).state = 3 → s.faults.inReset.contains 4 = false →
    let x := getLink s l
    let k := ackCount x (fld f 0xF0 16 16)
    let on := !flitUnknown f && goesOn s f
    let y := { x with
      rxSeq := (x.rxSeq + 1) % 65536, acked := fld f 0xF0 16 16, replay := x.replay.drop k, replays := if k > 0 then 0 else x.replays
      used := (List.range 4).foldl (fun u vc => cmod 0 u vc (· - flitReturns f vc)) x.used
      returns := match flitVc f with | none => x.returns | some vc => if on then x.returns else cmod 0 x.returns vc (· + 1) }
    let s1 := countLink (countLink (setLink s l y) l 1 1) l 3 256
    let s2 := if flitUnknown f then countLink s1 l 5 1 else s1
    let goes := fun (s : State) => if on then passFlit s l f else s
    let then' := fun (s : State) => answerFlit s l (getLink s l).queue.length (fld f 0 0 8 == 0)
    (fec = false ∨ f.length ≠ 256 ∨ fld f 0xFC 0 32 ≠ crc32c (f.take 252) ∨ fld f 0xF0 0 16 ≠ x.rxSeq →
      exec (.linkFlitReceive l f fec) s = .next (answerFlit (setLink s l { x with retry := true }) l x.queue.length false)) ∧
    (fec = true → f.length = 256 → fld f 0xFC 0 32 = crc32c (f.take 252) → fld f 0xF0 0 16 = x.rxSeq →
      (fld f 0xF4 24 1 = 0 → exec (.linkFlitReceive l f fec) s = .next (then' (goes s2))) ∧
      (fld f 0xF4 24 1 = 1 → y.replay ≠ [] → exec (.linkFlitReceive l f fec) s = .next (then' (goes (replayLink s2 l)))))) ∧
  (∀ (l : Fin 32) (s : State), (getLink s l).state = 3 → (getLink s l).replay ≠ [] → exec (.replayTimeout l) s = .next (replayLink s l) ∧
    ((getLink s l).replays + 1 < 16 → (replayLink s l).dump = s.dump ∧
      (replayLink s l).fab = (setLink s l { getLink s l with replays := (getLink s l).replays + 1 }).fab) ∧
    (16 ≤ (getLink s l).replays + 1 → (getLink (replayLink s l) l).state = 8 ∧ (getLink (replayLink s l) l).replay = [] ∧
      (getLink (replayLink s l) l).queue = [] ∧
      ∃ s1 : State, s1.dump = s.dump ∧ s1.fab = (setLink s l { getLink s l with replays := (getLink s l).replays + 1 }).fab ∧
        replayLink s l = logFault (failLink s1 l 8) { code := 0x34, event := true, dom := 4, unit := 0x400 + l.val / 4, arg0 := l })) ∧
  (∀ (x : Link) (f : Bytes), nextFlit x = some f → f ∈ x.queue ∧ x.replay.length < 128 ∧
    (∀ vc, flitVc f = some vc → cget 0 x.used vc < vcCredits vc) ∧ ∀ g ∈ x.queue, maySend x g = true → flitRank f ≤ flitRank g) ∧
  (∀ (s : State) (l n : Nat), pump s l n = { s with
    fab := { s.fab with links := (pump s l n).fab.links, transit := (pump s l n).fab.transit }
    cnt := { s.cnt with inc := (pump s l n).cnt.inc } }) ∧
  (∀ (l : Fin 32) (s : State), s.power.state = 2 → s.faults.inReset.contains 4 = false → portRole s (l / 4) ≠ 3 → (getLink s l).state ≠ 7 →
    let event := fun (n : Nat) => ({ code := 0x35, event := true, dom := 4, unit := 0x400 + l.val / 4, arg0 := l, arg1 := n } : FaultInfo)
    exec (.laserFail ⟨l, false⟩) s = .next (logFault (failLink s l 7) (event 0)) ∧
    exec (.laserFail ⟨l, true⟩) s =
      .next (logFault (((List.range 16).map (l.val / 16 * 16 + ·)).foldl (fun s k => failLink s k 7) s) (event 1))) ∧
  ∀ (ns hops : Nat) (s : State) (p : Plate), s.power.state = 2 → s.run.running = true → s.run.plate = some p →
    (Runs (.fabricLatency 0 ns) s fun t => t.fab.treeNs = ns ∧ t.node = s.node ∧ t.run = s.run ∧ (ns ≤ p.treeNs → t.dump = s.dump) ∧
      (p.treeNs < ns → s.dump.log.length < 4096 → t.dump.log = logWith s.dump.log
        (faultBytes s { code := 0x33, event := false, dom := 4, unit := 0x812, arg0 := 0, arg1 := ns }))) ∧
    (hops ≠ 0 → Runs (.fabricLatency hops ns) s fun t => t.fab.routeNs = cset 0 s.fab.routeNs hops ns ∧ t.node = s.node ∧ t.run = s.run ∧
      ((∀ e ∈ p.slots, e.hops = hops → ns ≤ e.routeNs) → t.dump = s.dump))

/-- R260 to R262, R272: what each event of training makes of a lane that trains, which goes on sending its TRAIN flits. Light is received, and a lane whose pair stands
exchanged then is reported; without it the fibre pair is exchanged; TRAIN flits form the link, with the Tx lane of this node that the peer reports hearing, where
there is one and a DOMAIN peer is a neighbour of the domain; what has formed none by the end is ONE_WAY or DARK. The end of training reports such lanes and
the neighbours without a link, and a secondary of a conjunction sends its JOIN. -/
def Obligations.LanesTrain : Prop :=
  (∀ (l : Fin 32) (s : State), laneTrains s l = true →
    let x := getLink s l
    exec (.lightDetected l) s =
      .next (sendTrain (setLink (if x.swapped then note s (.swapped l) else s) l { x with state := 2 }) l) ∧
    (x.state ≤ 1 → exec (.pairSwapToggle l) s = .next (sendTrain (setLink s l { x with state := 1, swapped := !x.swapped }) l)) ∧
    (x.state = 2 → exec (.laneTrainingTimeout l) s = .next (note (setLink s l { x with state := 5 }) (.oneWay l))) ∧
    (x.state ≤ 1 → exec (.laneTrainingTimeout l) s = .next (note (setLink s l { x with state := 4 }) (.dark l))) ∧
    ∀ (ns : Nat) (p : TrainMsg),
      let heard := txHeard s l p
      let becomes := fun (st : Nat) => exec (.train l ns p) s =
        .next (sendTrain (setLink s l { x with state := st, peer := some p, latency := ns, tx := heard }) l)
      (heard = none → becomes 2) ∧
      (heard ≠ none → portRole s (l.val / 4) ≠ 0 → becomes 3) ∧
      (heard ≠ none → portRole s (l.val / 4) = 0 → isNeighbour (nodeId s) p.node.val = true → inDomain s p.node.val = true →
        p.domain.toNat = domainNumber s → p.role.val = 0 → becomes 3) ∧
      (heard ≠ none → portRole s (l.val / 4) = 0 → isNeighbour (nodeId s) p.node.val = false ∨ inDomain s p.node.val = false ∨
        p.domain.toNat ≠ domainNumber s ∨ p.role.val ≠ 0 → becomes 6)) ∧
  (∀ (s : State) (l t : Nat) (p : TrainMsg), txHeard s l p = some t → t < 32 ∧ portRole s (t / 4) = portRole s (l / 4) ∧ t ∈ p.hears) ∧
  (∀ (l : Fin 32) (s : State), portRole s (l / 4) = 3 ∨ 3 ≤ (getLink s l).state → laneTrains s l = false) ∧
  ∀ s : State, s.power.state = 2 → s.fab.trained = false → s.faults.inReset.contains 4 = false →
    let bad := ((List.range 32).filter fun l => (getLink s l).state == 4 || (getLink s l).state == 5).length
    Runs .fabricTrainingComplete s fun t => t.fab.trained = true ∧ t.fab.links = s.fab.links ∧
      t.fab.out = s.fab.out ++ (if conjCandidate s && s.boot.conjId != 0 then [.conjJoin s.boot.conjId s.boot.serial s.boot.fwDigest] else []) ∧
      t.fab.notes = s.fab.notes ++ ((domainPeers s).filter fun n => (linksTo s n).isEmpty).map FabricNote.noLink ∧
      t.orr.outbox = s.orr.outbox ++ match s.orr.view with
        | some v => if bad > 0 then [(1, v.coord, nodeId s, 0, min 32 (4 * bad))] else []
        | none => []

/-- R278, R281: CONJ_JOIN, ACCEPT, CONJ_FORM_TIMEOUT and CONJ_MEMBER_LOST complete with their whole effect where their event can happen. The primary takes each
JOIN, and the conjunction forms when every position is there once with the primary's firmware; a secondary takes its place and the node ID from ACCEPT; a
formation that fails is reported with the positions that are missing or there twice. A member lost under MULTIPLY leaves the rest, under the others the node
fails. -/
def Obligations.ConjunctionsForm : Prop :=
  (∀ (p : Fin 8) (serial : BitVec 64) (digest : BitVec 256) (s : State), s.boot.conjId = 0 → s.conj.formed = false → s.conj.failed = false →
    conjCandidate s = true → s.fab.trained = true →
    let s1 := { s with conj := { s.conj with joined := s.conj.joined ++ [(p.val, serial.toNat, digest.toNat)] } }
    let m := (conjSetting s).1
    let arr := (conjSetting s).2
    let e := s.conj.epoch + 1
    (conjComplete s1 m = false → exec (.conjJoin p serial digest) s = .next s1) ∧
    (conjComplete s1 m = true → exec (.conjJoin p serial digest) s = .next { s with
      conj := { s1.conj with formed := true, size := m, arrangement := arr, epoch := e, members := List.range m, primary := 0 }
      fab := { s.fab with out := s.fab.out ++ (List.range (m - 1)).map fun i => .conjAccept (i + 1) m arr (nodeId s) e } })) ∧
  (∀ (s : State) (m : Nat), conjComplete s m = true ↔ s.conj.joined.length = m - 1 ∧ ∀ i, i < m - 1 →
    (∃ j ∈ s.conj.joined, j.1 = i + 1 ∧ j.2.2 = s.boot.fwDigest) ∧ conjLinks s (i + 1) ≠ []) ∧
  (∀ (size : Fin 9) (arr : Fin 3) (node : Fin 512) (epoch : W32) (s : State), s.boot.conjId ≠ 0 → s.conj.formed = false → conjCandidate s = true →
    let d := domainSetting s
    exec (.accept size arr node epoch) s = .next { s with
      conj := { s.conj with formed := true, size := size.val, arrangement := arr.val, epoch := epoch.toNat, members := List.range size.val, primary := 0 }
      boot := { s.boot with settings := putTlv s.boot.settings ⟨1, 0, leBytes 5
        (d - bits d 25 9 * 2 ^ 25 + (node.val % 8 + 8 * (node.val / 8 % 8) + 64 * (node.val / 64)) * 2 ^ 25)⟩ } }) ∧
  (∀ s : State, s.boot.conjId = 0 → s.conj.formed = false → s.conj.failed = false → conjCandidate s = true →
    let here := fun (i : Nat) => (s.conj.joined.filter fun j => j.1 == i).length + (if i = 0 then 1 else 0)
    let mask := fun (f : Nat → Bool) => (List.range 8).foldl (fun a i => if f i then a + 2 ^ i else a) 0
    exec .conjFormTimeout s = .next (postEvent { s with conj := { s.conj with failed := true } } 0 9 0
      (packBits [(0, 8, mask fun i => decide (i < (conjSetting s).1) && here i == 0), (8, 8, mask fun i => decide (here i > 1))]))) ∧
  ∀ (p : Fin 8) (s : State), s.conj.formed = true → s.conj.members.contains p.val = true →
    let s1 := logFault s { code := 0x38, event := true, dom := 4, unit := 0x812, arg0 := p }
    (s.conj.arrangement = 2 → exec (.conjMemberLost p) s =
      .next { s1 with conj := { s.conj with members := s.conj.members.filter (· != p.val), size := s.conj.size - 1 } }) ∧
    (s.conj.arrangement ≠ 2 → exec (.conjMemberLost p) s = .next (enterFault s1))

/-- R268, R269: a DATA flit's payload is written at its place as it arrives, and the flit that completes its message is answered with DELIVERED; the
notice acknowledges the message sent. R402: CONFIRM makes a write count as in place. R273, R216, R361: a BULK message for another node goes on;
a tile that a rebuild asked the partner for waits for the rebuild's end, any other is written
under the rules of OBJ_WRITE and answered with its status; a bridge's tile that is not acknowledged ends its command. -/
def Obligations.MessagesAreTaken : Prop :=
  (∀ (p : DataMsg) (s : State), s.run.running = true → s.faults.inReset.contains 4 = false →
    let at' := 32 * p.dest.toNat + 224 * p.seq.toNat
    let n := min 224 (p.length.toNat - 224 * p.seq.toNat)
    let m := (s.fab.recv.find? (sameMsg p)).getD ⟨p.slot.toNat, p.src.val, p.dest.toNat, p.length.toNat, []⟩
    let got := if m.got.contains p.seq.toNat then m.got else m.got ++ [p.seq.toNat]
    n ≠ 0 → at' + n ≤ nsSize → Runs (.data p) s fun t =>
      t.mem = (writeMem s (nsAddr at') (slice p.data 0 n)).mem ∧ t.units = s.units ∧ t.recs = s.recs ∧ t.node = s.node ∧ t.run = s.run ∧
      t.fab.recv = s.fab.recv.filter (!sameMsg p ·) ++ [{ m with got := got }] ∧
      t.fab.out = s.fab.out ++ (if m.got.contains p.seq.toNat = false ∧ got.length = dataFlits p.length.toNat then
        [.delivered p.src p.slot.toNat p.dest.toNat] else [])) ∧
  (∀ (src : Fin 512) (slot : BitVec 16) (dest : BitVec 19) (s : State) (m : SentMsg),
    s.fab.sent.find? (fun m => m.slot == slot.toNat && m.dst == src.val && m.dest == dest.toNat && !m.acked) = some m →
    exec (.delivered src slot dest) s = .next { s with fab := { s.fab with
      sent := s.fab.sent.map fun k => if k = m then { k with acked := true } else k } }) ∧
  (∀ (src : Fin 512) (slot : BitVec 16) (dest : BitVec 19) (s : State),
    s.fab.sent.find? (fun m => m.slot == slot.toNat && m.dst == src.val && m.dest == dest.toNat && !m.acked) = none →
    exec (.delivered src slot dest) s = .next { s with fab := { s.fab with
      unacked := s.fab.unacked.filter fun m => !(m.2.slot == slot.toNat && m.2.dst == src.val && m.2.dest == dest.toNat && !m.2.acked) } }) ∧
  (∀ (home : Fin 512) (sn : BitVec 48) (vid : BitVec 64) (s : State), exec (.confirm home sn vid) s = .next { s with recs := { s.recs with
    notInPlace := s.recs.notInPlace.filter (· != (sn.toNat, vid.toNat))
    copies := s.recs.copies.filter fun c => !(c.1 == sn.toNat && recVid c.2 == vid.toNat) } }) ∧
  (∀ (p : BulkMsg) (s : State), s.faults.inReset.contains 4 = false →
    let gateway := decide (p.domain.toNat = domainNumber s) && (p.dst.val != nodeId s) && (p.srcDomain != p.domain) && !p.first
    (gateway = true → exec (.bulk p) s = .next (sendBulk s p)) ∧
    (gateway = false → p.domain.toNat ≠ domainNumber s ∨ p.dst.val ≠ nodeId s → exec (.bulk p) s = .next { s with fab := { s.fab with
      out := s.fab.out ++ [.bulk p.dst p.dst { p with first := false }] } }) ∧
    (p.domain.toNat = domainNumber s → p.dst.val = nodeId s →
      (∀ (object : W32) (index : W32) (bytes : Bytes), p.body = .tile object index bytes →
        let asked := s.bg.asked.contains (object.toNat, index.toNat) && p.src.val == (partner s).getD 512
        (asked = true → exec (.bulk p) s = .next { s with bg := { s.bg with
          answers := s.bg.answers ++ [(object.toNat, index.toNat, some bytes)] } }) ∧
        (asked = false → beingLoaded s = false →
          let r := bulkTile s object.toNat index.toNat bytes
          exec (.bulk p) s = .next { r.2 with fab := { r.2.fab with
            out := r.2.fab.out ++ [.bulkAck p.srcDomain.toNat p.src object.toNat index.toNat r.1] } }) ∧
        (asked = false → beingLoaded s = true → exec (.bulk p) s = .next (loadTile s object.toNat index.toNat bytes))) ∧
      (∀ table shard place bytes, p.body = .shardRow table shard place bytes →
        exec (.bulk p) s = .next (bulkRow s p.src.val table.toNat shard.toNat place.toNat bytes)) ∧
      ∀ object index status, p.body = .ack object index status →
        exec (.bulk p) s = .next (bridgeAck s object.toNat index.toNat status.toNat))) ∧
  ∀ (s : State) (o i m : Nat) (r : List (Nat × Nat × Nat)) (p : InProg), s.fab.bridge = (o, i, m) :: r → inProg s m = some p →
    Runs .bridgeTileTimeout s fun t => t = finish { s with fab := { s.fab with bridge := s.fab.bridge.filter fun e => e.2.2 != m } } m
      { status := sTimeout, progress := p.moved } ∧ t.fab.bridge = s.fab.bridge.filter (fun e => e.2.2 != m)

/-! ### The orrery -/

/-- R410, R412 to R415: the coordinator charges a penalty, treats a loss as a loss, and raises a score that has gone unpunished; the subject
mirrors its score and the deputy records it, each with an acknowledgement; a fall below 64 is a drop; HOLD ends after F(600 s). -/
def Obligations.ScoresAndDrops : Prop :=
  (∀ (m : OrMsg) (s : State), isCoord s = true → statusOf s m.subject = 1 →
    (lossCode m.code.toNat = true → exec (.report m) s = .next (loseNode s m.subject)) ∧
    (lossCode m.code.toNat = false → m.value ≠ 0#8 →
      exec (.report m) s = .next (changeScore s m.subject (scoreNow s m.subject - m.value.toNat)))) ∧
  (∀ (m : OrMsg) (s : State) (v : View), s.orr.view = some v →
    (v.deputy ≠ nodeId s → m.subject.val = nodeId s → exec (.score m) s =
      .next (orrSend { s with orr := { s.orr with score := m.value.toNat } } 4 m.sender m.subject 0 0)) ∧
    (v.deputy = nodeId s → m.subject.val ≠ nodeId s → exec (.score m) s =
      .next (orrSend (applyScore s m.subject m.value.toNat) 4 m.sender m.subject 0 0))) ∧
  (∀ (m : OrMsg) (s : State) (a : Nat × Nat), (s.orr.awaiting.find? fun a => a.1 == m.sender.val) = some a → Runs (.ack m) s fun t =>
    t.orr.awaiting = s.orr.awaiting.erase a ∧ (a.2 = 0 → t.orr.acks = s.orr.acks ++ [m.sender.val]) ∧
    (∀ u r, a.2 = 1 → s.orr.unacked = u :: r → t = applyScore { s with orr := { s.orr with awaiting := s.orr.awaiting.erase a, unacked := r } } u.1 u.2)) ∧
  (∀ (n : Fin 512) (s : State), isCoord s = true → statusOf s n = 1 → 0 < framesOf s 1000 → (healthOf s n).since + framesOf s 1000 ≤ s.run.frame →
    scoreNow s n < 255 → exec (.scoreRecovery n) s = .next (changeScore s n (scoreNow s n + 1))) ∧
  (∀ (m : OrMsg) (s : State) (v : View), s.orr.view = some v →
    (isCoord s = true → exec (.notice m) s = .next (loseNode s m.subject)) ∧
    (isCoord s = false → v.coord ≠ m.subject.val → exec (.notice m) s = .next (orrSend s 6 v.coord m.subject 0 0))) ∧
  (∀ (s : State) (n : Nat), s.orr.losses.contains n = false → liveNode s n = true → (loseNode s n).orr.losses = s.orr.losses ++ [n] ∧
    (loseNode s n).orr.drops = (s.run.frame :: s.orr.drops).take 4 ∧ (loseNode s n).node = s.node) ∧
  (∀ (s : State) (n v : Nat), 64 ≤ (healthOf s n).score → v < 64 → statusOf s n = 1 →
    (applyScore s n v).orr.drops = (s.run.frame :: s.orr.drops).take 4) ∧
  ∀ (s : State) (v : View), s.orr.view = some v →
    (v.hold = true → s.orr.drops.getD 0 0 + framesOf s 600000 ≤ s.run.frame →
      exec .holdClear s = .next { s with orr := { s.orr with view := some { v with hold := false }, holdDue := false } }) ∧
    (v.hold = false ∨ s.run.frame < s.orr.drops.getD 0 0 + framesOf s 600000 → exec .holdClear s = .next s)

/-- R416 to R434: how views are proposed, acknowledged and taken over, and how nodes join and leave. A JOIN that fails a
test is refused with the test's reason, the score before the firmware and the firmware before the place; one that fails none makes the node LOADING. -/
def Obligations.ViewsAndAdmission : Prop :=
  (∀ (s : State) (v : View), s.orr.view = some v → isCoord s = true → viewDue s v = true → s.orr.proposed = false → Runs .viewForm s fun t =>
    t.orr.pending = some (nextView s v).1 ∧ t.orr.proposed = true ∧ t.orr.acks = [] ∧ t.orr.view = some v ∧ t.node = s.node ∧
    t.orr.awaiting = s.orr.awaiting.filter (fun a => a.2 != 0) ++
      (((nextView s v).1.nodes [1, 2]).filter (· != nodeId s)).map fun n => (n, 0)) ∧
  (∀ (m : OrMsg) (b : Bytes) (s : State) (v : View), s.orr.view = some v → v.coord = m.sender.val → Runs (.propose m b) s fun t =>
    t.orr.pending = some (viewOf b) ∧ t.orr.proposed = false ∧ t.orr.view = some v ∧ t.orr.outbox = s.orr.outbox ++ [(4, m.sender.val, nodeId s, 0, 0)]) ∧
  (∀ (m : OrMsg) (b : Bytes) (s : State) (v : View), s.orr.view = some v → v.deputy = m.sender.val → exec (.takeover m b) s = .next { s with
    orr := { s.orr with pending := some (viewOf b), proposed := false, acks := [] } }) ∧
  (∀ (s : State) (v : View), s.orr.view = some v → v.deputy = nodeId s → v.coord ≠ nodeId s → s.run.running = true →
    s.orr.losses.contains v.coord = true → Runs .deputyTakeover s fun t => t.fab.issued = true ∧ t.orr.proposed = false ∧
      (∃ b, t.fab.beat = some b ∧ b.frame = BitVec.ofNat 64 (s.run.frame + 1) ∧ b.missing = [v.coord] ∧ b.apply = false) ∧
      ∃ w, t.orr.pending = some w ∧ w.num = v.num + 1 ∧ w.of v.coord = (v.set v.coord 3).of v.coord) ∧
  (∀ (m : OrMsg) (s : State) (v : View), s.orr.view = some v → isCoord s = true → v.of m.subject = 1 →
    (mayDepart s v m.subject = true → exec (.depart m) s =
      .next { s with orr := { s.orr with departs := s.orr.departs.filter (· != m.subject.val) ++ [m.subject.val] } }) ∧
    (mayDepart s v m.subject = false → exec (.depart m) s = .next (orrSend s 9 m.subject m.subject 0 0))) ∧
  (∀ (m : OrMsg) (b : JoinBody) (s : State), isCoord s = true → exec (.join m b) s = .next (joinAt s m b) ∧
    (joinCheck s m.subject m b ≠ 0 → (joinAt s m b).orr.outbox = s.orr.outbox ++ [(9, m.subject.val, m.subject.val, joinCheck s m.subject m b, 0)]) ∧
    (joinCheck s m.subject m b = 0 → (joinAt s m b).orr.loads = s.orr.loads.filter (· != m.subject.val) ++ [m.subject.val])) ∧
  (∀ (s : State) (n : Nat) (m : OrMsg) (b : JoinBody), (m.value.toNat < 200 → joinCheck s n m b = 1) ∧
    (200 ≤ m.value.toNat → b.digest.toNat ≠ s.boot.fwDigest → joinCheck s n m b = 2) ∧
    (200 ≤ m.value.toNat → b.digest.toNat = s.boot.fwDigest → inDomain s n = false ∨ liveNode s n = true → joinCheck s n m b = 3)) ∧
  (∀ (m : OrMsg) (s : State) (code box : Nat), m.subject.val = nodeId s → s.node.trans = some (code, box) →
    (code = 0x1B ∨ code = 0x1D → exec (.refuse m) s = .next (finishTrans s { status := sBusy })) ∧
    (code ≠ 0x1B → code ≠ 0x1D → exec (.refuse m) s = .next (admissionRefused s false))) ∧
  (∀ (m : OrMsg) (s : State), isCoord s = true → statusOf s m.subject = 2 → exec (.loaded m) s = .next { s with orr := { s.orr with
    lives := s.orr.lives.filter (· != m.subject.val) ++ [m.subject.val] } }) ∧
  (∀ (x y f : Nat) (s : State), s.orr.soak = some f →
    let st := testScoreOf s x y
    let s1 := { s with orr := { s.orr with soak := none, testScore := st } }
    (st < 200 → exec (.admissionTestEnd x y) s = .next (admissionRefused s1 true)) ∧
    (∀ v, 200 ≤ st → s.orr.view = some v → v.coord ≠ nodeId s → exec (.admissionTestEnd x y) s =
      .next (orrSendBody { s1 with orr := { s1.orr with joining := true } } 7 v.coord (nodeId s) 0 st v.num (frameNow s) (ownJoin s))) ∧
    (200 ≤ st → s.orr.view = none → exec (.admissionTestEnd x y) s = .next (becomeFormer { s1 with orr := { s1.orr with joining := true } }))) ∧
  (∀ s : State, s.node.state = stEclipsed → s.orr.probation = true → s.orr.noRetest = false → s.dump.escalated = false → s.faults.test = none →
    s.orr.soak = none → exec .probationRetest s = .next { s with faults := { s.faults with test := some (true, stEclipsed, none) } }) ∧
  (∀ s : State, s.orr.joining = true → s.orr.isFormer = false → Runs .formerTimeout s fun t => t.orr.isFormer = true ∧
    ∃ f ∈ t.orr.formers, f.node = nodeId s ∧ f.score = s.orr.testScore) ∧
  (∀ (m : OrMsg) (b : JoinBody) (s : State), m.subject.val ≠ nodeId s → s.orr.view = none →
    s.orr.seenForms.contains (m.subject.val + 512 * (m.value.toNat + 256 * (m.view.toNat + 2 ^ 32 * m.frame.toNat))) = false →
    Runs (.form m b) s fun t => t.orr.formers = s.orr.formers.filter (fun g => g.node != m.subject.val) ++ [formerOf m b] ∧ t.node = s.node ∧
      t.orr.outbox = s.orr.outbox ++ (neighbours s).map fun n => (0xB, n, m.subject.val, 0, m.value.toNat)) ∧
  (∀ s : State, s.orr.isFormer = true → s.orr.proposed = false → s.orr.pending = none → (∀ f ∈ s.orr.formers, nodeId s ≤ f.node) →
    (∃ f ∈ s.orr.formers, f.node = nodeId s ∧ formCheck s (s.orr.formers.foldl (fun n f => max n f.epoch) 0) f = 0) →
    Runs .formationWindowEnd s fun t => t.orr.proposed = true ∧ t.orr.joining = false ∧ t.orr.firstFrame.isSome = true ∧
      ∃ v, t.orr.pending = some v ∧ 1 ≤ v.num) ∧
  ∀ (s : State) (v : View), s.orr.view = some v → v.of (nodeId s) = 2 → exec .partnerLoadDone s = .next (orrSend s 0xA v.coord (nodeId s) 0 0)

/-! ### Flash events -/

/-- R142, R246 to R248, R251, R252, R478, R503, R506: what each event of flash makes of the channels. A read that comes back in time is ready and its data (from the
page, or by the stripe's parity) stand in the express buffer or the receive area, a lost one is poison; a unit program puts what is staged for its channel
into NAND; an erase empties its unit; a stripe of 250 frames is programmed as it is; a line fault loses its channel; a group's lost sense puts DOM_FLASH in
reset until every group is back; training decides channel by channel. -/
def Obligations.FlashEvents : Prop :=
  (∀ (fc : Fin 24) (r : NandRead) (s s1 : State) (pl k : Nat) (d : Bytes) (q : FRead), popCmd s fc 0 = some (pl, k, s1) → readBack s1 pl r = (d, false) →
    (s.flash.reads.find? fun q => q.channel == fc.val && q.place == pl && q.stage == 1) = some q →
    Runs (.flashReadDone fc r) s fun t => t.flash.cmdQ = s1.flash.cmdQ ∧ t.recs = s.recs ∧ t.node = s.node ∧ (r.uncorrectable = false → t.bg = s.bg) ∧
      t.flash.reads = s.flash.reads.map (fun x => if x = q then { x with stage := 2, data := d } else x) ∧
      (4 ≤ fc.val → ∃ s2 : State, s2.mem = s.mem ∧ s2.flash.received = s.flash.received ∧ s2.flash.slotMap = s.flash.slotMap ∧ t = receive s2 q.slot d) ∧
      (fc.val < 4 → t.flash.received = s.flash.received ∧
        t.mem.sram = (writeMem s (xAddr (4194304 * fc.val + 16384 * k)) d).mem.sram)) ∧
  (∀ (fc : Fin 24) (r : NandRead) (s s1 : State) (pl k n : Nat) (d : Bytes), popCmd s fc 0 = some (pl, k, s1) → readBack s1 pl r = (d, true) →
    slotAt s pl = some n →
    let e := slotEntry s n
    let lost := mkEntry (seStripe e) (seIndex e) (seStaged e) true (seValid e)
    Runs (.flashReadDone fc r) s fun t => sePoisoned lost = true ∧ t.flash.slotMap = cset 0 s.flash.slotMap n lost ∧
      t.flash.received = s.flash.received ∧ ∀ q, (s.flash.reads.find? fun q => q.channel == fc.val && q.place == pl && q.stage == 1) = some q →
        t.flash.reads = s.flash.reads.map fun x => if x = q then { x with stage := 3, data := d } else x) ∧
  (∀ (s : State) (pl : Nat) (r : NandRead),
    let ch := unitChannel (pl / stripeSlots) (pl % stripeSlots / 8)
    (chanLost s ch = false → r.uncorrectable = false → cget 0 s.flash.pages (24 * (pl / stripeSlots) + ch) ≠ 0 →
      readBack s pl r = (fullSlot (cget [] s.flash.nand pl), false)) ∧
    (∀ d, chanLost s ch = true → r.uncorrectable = false → rebuildSlot s (pl / stripeSlots) (pl % stripeSlots) = some d → readBack s pl r = (d, false)) ∧
    (chanLost s ch = true ∨ r.uncorrectable = true → rebuildSlot s (pl / stripeSlots) (pl % stripeSlots) = none → (readBack s pl r).2 = true)) ∧
  (∀ (fc : Fin 24) (s s1 : State) (st k : Nat), popCmd s fc 1 = some (st, k, s1) → Runs (.flashProgramDone fc) s fun t =>
    let here := s.flash.staged.filter fun kv => kv.1 / stripeSlots == st && unitChannel st (kv.1 % stripeSlots / 8) == fc.val
    t.flash.nand = here.foldl (fun m kv => cset [] m kv.1 kv.2) s.flash.nand ∧ cget 0 t.flash.pages (24 * st + fc.val) ≠ 0 ∧
    t.flash.slotMap = s.flash.slotMap ∧ t.flash.staged = s.flash.staged ∧ t.mem = s.mem ∧ t.node = s.node ∧
    (s.flash.programs.find? (fun p => p.1 == st) = some (st, 1) → t.flash.clearing = s.flash.clearing ++ [st])) ∧
  (∀ (fc : Fin 24) (s s1 : State) (st k : Nat), popCmd s fc 2 = some (st, k, s1) → Runs (.flashEraseDone fc) s fun t =>
    t.flash.nand = cdrop (fun k => k / stripeSlots == st && unitChannel st (k % stripeSlots / 8) == fc.val) s.flash.nand ∧
    t.flash.parity = (if st % 24 = fc.val then cdrop (fun k => k / 8 == st) s.flash.parity else s.flash.parity) ∧
    t.flash.pages = cset 0 s.flash.pages (24 * st + fc.val) 0 ∧
    t.flash.slotMap = s.flash.slotMap ∧ t.mem = s.mem ∧ t.node = s.node) ∧
  (∀ (sl : Fin 16) (s : State) (o : OpenStripe), (s.flash.openS.find? fun o => o.slice == sl.val && decide (o.born + 250 ≤ s.run.frame)) = some o →
    Runs (.stripeAgeFlush sl) s fun t => t = queueStripe s o.stripe ∧ t.flash.openS = s.flash.openS.filter (fun x => x.stripe != o.stripe)) ∧
  (∀ (fc line : Fin 24) (s : State), s.flash.trained = true → chanLost s fc = false → s.faults.inReset.contains 16 = false →
    Runs (.flashLineFault fc line) s fun t => t.flash.lost = cset false s.flash.lost fc true ∧ t.flash.cmdQ = cset [] s.flash.cmdQ fc [] ∧
      t.node = s.node ∧ (s.dump.log.length < 4096 → t.dump.log = logWith s.dump.log
        (faultBytes s { code := 0x207, event := true, dom := 16, unit := 0x300 + fc.val, arg0 := fc.val, arg1 := line.val }))) ∧
  (∀ (g : Fin 6) (s : State), s.power.state = psOn → bit s.power.sense g = true → Runs (.nandSenseLost g) s fun t =>
    t.faults.senseHeld = s.faults.senseHeld ++ [g.val] ∧ t.faults.inReset.contains 16 = true ∧ t.power.sense = s.power.sense - 2 ^ g.val ∧
    t.power.live = s.power.live ||| 2 ^ (10 + g.val) ∧ t.node = s.node) ∧
  (∀ (g : Fin 6) (s : State), s.faults.senseHeld.contains g.val = true → Runs (.nandSenseRestored g) s fun t =>
    t.power.sense = s.power.sense ||| 2 ^ g.val ∧ t.faults.senseHeld = s.faults.senseHeld.filter (· != g.val) ∧ t.node = s.node ∧
    t.faults.inReset = if s.faults.senseHeld.all (· == g.val) then s.faults.inReset.filter (· != 16) else s.faults.inReset) ∧
  (∀ (rs : List FlashTrain) (s : State), s.power.state = psOn → s.flash.trained = false → s.faults.inReset.contains 16 = false →
    Runs (.flashTrainingDone rs) s fun t => t.flash.trained = true) ∧
  ∀ (express reach : Bool) (t : FlashTrain), (trainChannel express reach t).lost = false →
    lineFatal t.lines = false ∧ 0 < (packageSearch t).1 ∧ (t.dq2400 = true ∨ t.dq3600 = true) ∧
    (express = true → t.dq3600 = true ∧ (trainChannel express reach t).reach = false)

/-! ### Background work, set-up objects and records -/

/-- R188, R189, R192, R213, R216, R254, R256, R117: how background work ends. A merge switches at its boundary once both holders are done and is put off
by its span otherwise; an area is given back QUERY_DEPTH frames later; old versions go at their frame; a load window closes every 4096
frames; a rebuild brings its tile, from the node's own source where its reads succeed, else from the partner, who is asked if it was not yet, or the
object is lost; a submitted shard map goes to the beat root. -/
def Obligations.BackgroundWorkEnds : Prop :=
  (∀ (ix : BitVec 16) (lf : BitVec 24) (nd : Fin 512) (s : State) (m : Merge) (d : Desc), s.run.running = true →
    (s.bg.merges.find? fun m => m.index == ix.toNat && m.leaf == lf.toNat && m.node == nd.val && m.switched.isNone && decide (m.start + m.span ≤ s.run.frame)) = some m →
    findDesc s 1 m.index = some d →
    let both := m.told && (m.theirs || (match partner s with | some p => !liveNode s p | none => true))
    (both = false → exec (.mergeSwitch ix lf nd) s = .next { s with
      bg := { s.bg with merges := s.bg.merges.map fun x => if x = m then { m with span := m.span + mergeSpan d } else x } }) ∧
    (both = true → Runs (.mergeSwitch ix lf nd) s fun t => t.mem = (applyMerge s d m).mem ∧ t.flash = (applyMerge s d m).flash ∧ t.node = s.node ∧
      t.bg.merges = s.bg.merges.map fun x => if x = m then { m with
        switched := some s.run.frame, entry := leafEntry s d m.node m.leaf
        vecs := ((imageOf s d m).slots d).map fun k => (k, slotEntry s k) } else x)) ∧
  (∀ (ix : BitVec 16) (lf : BitVec 24) (s : State) (m : Merge), (s.bg.merges.find? fun m => m.index == ix.toNat && m.leaf == lf.toNat &&
      (match m.switched with | some f => decide (f + depthNow s ≤ s.run.frame) | none => false)) = some m →
    Runs (.mergeAreaRelease ix lf) s fun t => t.bg.merges = s.bg.merges.filter (· != m) ∧ t.node = s.node ∧ t.setup = s.setup) ∧
  (∀ (k : Bool) (id : BitVec 16) (s : State), exec (.oldVersionRelease k id) s = .next { s with setup := { s.setup with
    oldDescs := s.setup.oldDescs.filter fun d =>
      !(d.1.kind == (if k then 2 else 1) && d.1.id == id.toNat && (!s.run.running || decide (d.2 ≤ s.run.frame))) } }) ∧
  (∀ s : State, s.run.running = true → s.run.frame % 4096 = 0 → s.cnt.windowEnd ≠ s.run.frame → Runs .loadWindowEnd s fun t =>
    t.cnt.shardLoad = closeWindow s.cnt.shardLoad ∧ t.cnt.windowEnd = s.run.frame ∧ t.node = s.node ∧ t.setup = s.setup) ∧
  (∀ (s : State) (t : Transit) (d : Desc), s.bg.transit = some t → findDesc s 2 t.table = some d → s.run.running = true → t.submitted = false →
    shardRows d.bytes t.shard ≤ t.cursor → s.setup.change = none → s.setup.reshard = none → Runs .transitCopyDone s fun u =>
      u.bg.transit = some { t with submitted := true } ∧ u.node = s.node ∧
      ∃ s1 : State, s1.setup = s.setup ∧ s1.fab = s.fab ∧ u = if isRoot s then giveEpoch s1 t.table t.shard t.owner
        else sendRemote s1 (beatRoot s) (.mapChange (Fin.ofNat 512 (nodeId s)) (BitVec.ofNat 16 t.table) (BitVec.ofNat 16 t.shard) (Fin.ofNat 512 t.owner))) ∧
  (∀ (o t : W32) (unread : Bool) (s : State) (i : Item) (obj : Obj), (s.bg.items.find? fun i => i.work == .rebuild o.toNat t.toNat) = some i →
    findObj s o.toNat = some obj → (s.run.running = true → i.left = 0) →
    let own := if unread then none else ownSource s obj t.toNat
    let came := s.bg.answers.find? fun a => a.1 == o.toNat && a.2.1 == t.toNat
    let asked := s.bg.asked.contains (o.toNat, t.toNat)
    let good := own.or ((came.bind fun a => a.2.2).filter (soundTile obj))
    let s1 := endItem s i
    let s1 := { s1 with bg := { s1.bg with
      asked := s.bg.asked.filter (· != (obj.id, t.toNat)), answers := s.bg.answers.filter fun a => !(a.1 == obj.id && a.2.1 == t.toNat) } }
    (∀ p, partner s = some p → liveNode s p = true → own = none → came = none → (asked = true → exec (.rebuildDone o t unread) s = .next s) ∧
      (asked = false → s.run.running = true → exec (.rebuildDone o t unread) s = .next (askTile s p o.toNat t.toNat))) ∧
    (own.isSome = true ∨ came.isSome = true ∨ (asked = false ∧ s.run.running = false) ∨ (∀ p, partner s = some p → liveNode s p = false) →
      (∀ b, good = some b → exec (.rebuildDone o t unread) s = .next (clearSlots (countTile (writeTile s1 obj t.toNat
        (poisonHeader false (closeHeader (b.take 32) (b.drop 32))) (b.drop 32)) (some obj.slice) obj t.toNat true) obj t.toNat)) ∧
      (good = none → exec (.rebuildDone o t unread) s = .next (markLost s1 obj.id)))) ∧
  (∀ (st : Fin 6) (die : Fin 12) (s : State), (s.bg.copies.any fun c =>
      c.1 == st.val && c.2.1 == die.val && (!s.run.running || decide (copyGranules ≤ c.2.2.2))) = true → exec (.bankPairCopyDone st die) s =
    .next { s with bg := { s.bg with
      copies := s.bg.copies.filter (fun c => !(c.1 == st.val && c.2.1 == die.val)), items := s.bg.items.filter fun i => i.work != .spareCopy st.val die.val } }) ∧
  ∀ s : State, s.run.running = true → exec .poisonSlackExpire s = .next (poisonOut s fun r => decide (r.admitAt + slackOf s r ≤ s.run.frame))

/-- R19, R292, R301, R303, R325, R350, R358: how sets of next copies are marked, a change is abandoned, rings close, results are told, and a node that
drains becomes READY. -/
def Obligations.ChangesAndRecordsEnd : Prop :=
  (∀ s : State, burinUp s = true → s.setup.next ≠ [] → s.run.running = true → s.setup.complete = false → s.setup.change = none →
    exec .setupMarkComplete s = .next (markSet s)) ∧
  (∀ (s : State) (c : Change), s.setup.change = some c → burinUp s = true → s.setup.complete = false → c.abandoned = false →
    (c.quiesced = true → maskOpen s c.changed = false → exec .sliceQuiet s = .next (markSet s)) ∧
    (maskOpen s c.changed = true → exec .sliceQuiet s = .next s)) ∧
  (∀ (s : State) (c : Change), s.setup.change = some c → s.run.running = true →
    (c.frame + 4 * (quietFrames s + 1) ≤ s.run.frame → (s.fab.armed && s.setup.complete) = false → exec .composeAbandon s =
      .next { s with setup := { s.setup with complete := false, change := some { c with abandoned := true } } }) ∧
    (s.run.frame < c.frame + 4 * (quietFrames s + 1) → exec .composeAbandon s = .next s) ∧
    (∀ m, c.abandoned = true → s.setup.reshard = none → c.mailbox = some m → dropAbandoned s = finish (dropChange s) m { status := sTimeout })) ∧
  (∀ s : State, s.run.running = true → (∀ c ∈ s.recs.custody, c.state = 1 → s.run.frame < c.handover + orphanFrames s) → exec .custodyOrphan s = .next s) ∧
  (∀ (s : State) (c : Custody), s.run.running = true → s.recs.custody = [c] → c.state = 1 → c.handover + orphanFrames s ≤ s.run.frame →
    s.bg.transit = none → Runs .custodyOrphan s fun t => t.recs.custody = [] ∧ t.node = s.node ∧ t.setup = s.setup) ∧
  (∀ (s : State) (r : Reshard) (b : Bytes), s.setup.reshard = some r → r.moving = true → s.setup.change = none → phasePackage s r.target = some b →
    (∀ i ∈ s.bg.items, ∀ o t, i.work ≠ .reshardMove o t) →
    exec .reshardMovesDone s = .next (acceptChange s (s.setup.epoch + 1) none (packageNext b (s.setup.epoch + 1)))) ∧
  (∀ s : State, s.node.state = stDraining → recordsOpen s (fun _ => true) = false → s.node.trans = none → Runs .drainComplete s fun t => t.node.state = stReady) ∧
  (∀ s : State, s.node.state = stDraining → recordsOpen s (fun _ => true) = true → exec .drainComplete s = .next s) ∧
  (∀ (n : Fin 64) (s : State) (r : Ring), (s.host.rings.find? fun r => r.num == n.val) = some r → r.closing = true → r.isOpen = false →
    (ringPending s n = true → exec (.ringCloseDone n) s = .next s) ∧
    (∀ p, ringPending s n = false → (s.host.inProg.find? fun p => p.code == 0x59 && p.arg == n.val) = some p →
      exec (.ringCloseDone n) s = .next (finish (freeRing s n) p.mailbox { status := sOk }))) ∧
  ∀ (n : Fin 64) (s : State) (r : Ring), s.host.written.contains n.val = true → (s.host.rings.find? fun r => r.num == n.val) = some r → dmaOk s r.port = true →
    s.host.written.all (· == n.val) = true → Runs (.resultsWritten n) s fun t =>
      t = raise (hostWrite { s with host := { s.host with written := [] } } r.port r.doneAddr (leBytes 8 r.done)) r.port (16 + r.slice) ∧ t.host.written = []

/-! ### Faults, resets and health -/

/-- R385, R387, R415: a node that enters FAULT is in FAULT, halts its plate, notes whether it was serving for the reset that follows, leaves no
transition and tells every neighbour. Memory of T1 and T2, the settings, the NOR and the unit registers stand. -/
def Obligations.EnteringFaultStopsThePlate : Prop :=
  ∀ s : State, s.node.state ≠ stFault → let t := enterFault s
    t.node.state = stFault ∧ t.node.trans = none ∧ t.run.running = false ∧ t.run.waiting = false ∧ t.run.step = 0 ∧ t.run.delayed = [] ∧
    t.run.plate = s.run.plate ∧ t.recs.inflight = [] ∧ t.fab.beat = none ∧ t.faults.autoStart = decide (4 ≤ s.node.state) ∧
    t.faults.toServing = (s.node.state == stServing) ∧ t.units = s.units ∧ t.mem.bytes = s.mem.bytes ∧ t.mem.sram = s.mem.sram ∧
    t.mem.poison = s.mem.poison ∧ t.nor = s.nor ∧ t.boot = s.boot ∧ t.pending = s.pending ∧
    ∃ l, t.orr.outbox = s.orr.outbox ++ (neighbours s).map (fun n => (6, n, nodeId s, 0, 0)) ++ l

/-- R380 to R388, R395 to R400, R453, R317: hangs are declared with their code, dumps end in the resets that waited for them, the node resets itself once and is
taken out of service the second time within 3600 s, domains leave reset, and Burin on its return ends what was in progress with S_RESET. -/
def Obligations.HangsAndResets : Prop :=
  (∀ (u peer : BitVec 16) (s : State), timersRun s (unitDomain u.toNat) = true →
    exec (.hangAck u peer) s = .next (declare s 1 (unitDomain u.toNat) u.toNat peer.toNat) ∧
    exec (.hangOwn u) s = .next (declare s 2 (unitDomain u.toNat) u.toNat 0xFFFF) ∧
    exec (.hangWait u peer) s = .next (declare s 3 (unitDomain u.toNat) u.toNat peer.toNat)) ∧
  (∀ s : State, s.node.state ≠ stOff → burinUp s = true → s.faults.toReset.contains 1 = false →
    exec .watchdog s = .next (declare s 4 1 0x900 0xFFFF)) ∧
  (∀ (us : W32) (l : List Nat) (s : State) (full : Bool) (dom : Nat), s.dump.writing = some (full, dom) → s.faults.toReset = [] →
    exec (.dumpComplete us l) s = .next { s with
      dump := { s.dump with writing := none, valid := true, part := !full, us := us.toNat, unread := l }
      power := { s.power with ibi := s.power.ibi ++ [1] } }) ∧
  (∀ (us : W32) (l : List Nat) (s : State) (full : Bool) (dom d : Nat), s.dump.writing = some (full, dom) → s.faults.toReset = [d] → d ≠ 0 →
    s.faults.inReset.contains d = false → Runs (.dumpComplete us l) s fun t => t.faults.toReset = [] ∧ t.faults.inReset = s.faults.inReset ++ [d] ∧
      t.dump.valid = true ∧ t.dump.part = !full ∧ t.node.state = s.node.state) ∧
  (∀ s : State, s.node.state = stFault → s.boot.romRecovery = false → burinUp s = true → s.dump.writing = none → s.faults.toReset = [] →
    (s.dump.escalated = true → Runs .autoNodeReset s fun t => t.node.state = stEclipsed) ∧
    (s.dump.escalated = false → s.dump.nr1 = none → Runs .autoNodeReset s fun t => t.node.state = stBoot ∧ t.dump.nr1 = some s.power.ms ∧
      t.run.running = false ∧ t.mem.bytes = s.mem.bytes ∧ t.nor = s.nor ∧ t.setup.epoch = s.setup.epoch ∧ t.host.mstate = [] ∧ t.boot.firmware = false ∧
      t.pending = s.pending) ∧
    (∀ n, s.dump.escalated = false → s.dump.nr1 = some n → s.power.ms - n ≤ 3600000 → exec .autoNodeReset s = .next (endIncident (escalate s)))) ∧
  (∀ (d : Fin 17) (s : State), s.faults.inReset.contains d.val = true → (d.val = 16 → s.faults.senseHeld = []) → Runs (.domainResetDone d) s fun t =>
    t.faults.inReset = s.faults.inReset.filter (· != d.val) ∧ t.node = s.node ∧ t.units = s.units ∧ t.setup = s.setup) ∧
  (∀ s : State, stSelftest ≤ s.node.state → s.boot.firmware = false → s.boot.romRecovery = false → s.faults.inReset.contains 1 = false →
    exec .burinRestart s = .next (s.host.inProg.foldl (fun s p => finish (discardNext s p.mailbox) p.mailbox { status := sReset, progress := p.moved })
      { s with boot := { s.boot with firmware := true } })) ∧
  (∀ (u : BitVec 16) (s : State) (q : Quarantine) (t : Nat), (s.faults.quarantined.find? fun q => q.unit == u.toNat) = some q → q.freed = some t →
    (s.power.ms < t + 60000 → exec (.quarantineLift u) s = .next s) ∧
    (t + 60000 ≤ s.power.ms → Runs (.quarantineLift u) s fun t => t.faults.quarantined = s.faults.quarantined.erase q ∧ t.node = s.node ∧
      ∃ s1, t = logFault s1 { code := 0x11, event := true, dom := unitDomain u.toNat, unit := u.toNat })) ∧
  (∀ s : State, burinUp s = true → s.boot.mapDirty.isSome = true → exec .faultMapWrite s = .next (writeRecord s s.boot.record false)) ∧
  ∀ (s : State) (d : Nat), s.faults.inReset.contains d = false → (startReset s d).faults.inReset = s.faults.inReset ++ [d] ∧
    (∀ x, tierOf x = 1 ∨ tierOf x = 2 → readMem (startReset s d) x 1 = readMem s x 1) ∧ (startReset s d).nor = s.nor

/-! ### Power and boot -/

/-- R469 to R479, R486, R489, R490: POWER_STATE, cause by cause. Contact brings up the controller alone; 44 V valid starts the rails, whose seven steps end in ON
and BOOT; an input out of range takes the module down without latching, a breaker, a rail or a thermal trip latch with their cause; CONTROL switches off and on, and a
retry is counted and takes the module up where the cause allows it; loss of 44 V leaves the power controller at its reset values, and NOR and NAND as they were. -/
def Obligations.PowerStateFollowsItsCauses : Prop :=
  (∀ s : State, s.power.vmgt = false → (Runs .inputContact s fun t => t.power.vmgt = true ∧ t.power.state = psHousekeeping ∧ t.power.mainPath = true ∧
      t.node = s.node ∧ t.nor = s.nor) ∧
    Runs .reverse s fun t => t.power.vmgt = true ∧ t.power.state = psReverse ∧ bit t.power.seen 0 = true ∧ t.power.mainPath = false) ∧
  (∀ s : State, s.power.vmgt = true →
    let falls := fun (i : Instr) (tgt cause : Nat) => Runs i s fun t => t.power.state = psFalling ∧ t.power.fallTo = tgt ∧ t.power.mainPath = false ∧
      t.power.latch = cause ∧ t.node.state = stOff ∧ t.run.running = false ∧ t.mem.bytes = [] ∧ t.nor = s.nor ∧ t.flash.nand = s.flash.nand ∧
      t.pending = s.pending
    (s.power.state = psHousekeeping → s.power.mainPath = true → Runs .inputValid s fun t => t.power.state = psRising ∧ t.power.railStep = 0) ∧
    (∀ v : BitVec 6, s.power.state = psRising → s.power.railStep < 6 → Runs (.railSequenceStep v) s fun t =>
      t.power.railStep = s.power.railStep + 1 ∧ t.power.state = psRising ∧ t.node = s.node) ∧
    (∀ v : BitVec 6, s.power.state = psRising → s.power.railStep = 6 → Runs (.railSequenceStep v) s fun t => t.power.state = psOn ∧ t.node.state = stBoot) ∧
    (s.power.state = psOn → s.power.mainPath = true → s.power.latch = 0 →
      falls .inputUv psHousekeeping 0 ∧ falls .inputOv psHousekeeping 0 ∧ falls .breaker psLatched 1 ∧
      (∀ r : Fin 9, falls (.railFault r) psLatched 2) ∧ falls .thermtrip psLatched 3 ∧ falls .controlOff psHeld 0) ∧
    (s.power.state = psFalling → Runs .powerDownComplete s fun t => t.power.state = s.power.fallTo ∧ t.power.railStep = 0) ∧
    (s.power.state = psHousekeeping → s.power.mainPath = false → exec .inputReturn s = .next { s with power := { s.power with mainPath := true } }) ∧
    (s.power.state = psHeld → Runs .controlOn s fun t => t.power.state = psRising ∧ t.power.mainPath = true) ∧
    (s.power.state = psLatched → s.power.latch ≠ 3 ∨ coolantOk s = true → Runs .controlRetry s fun t => t.power.state = psRising ∧ t.power.latch = 0 ∧
      t.power.failedRail = 15 ∧ t.power.retries = satAdd 16 s.power.retries 1) ∧
    (s.power.state ≠ psLatched ∨ (s.power.latch = 3 ∧ coolantOk s = false) →
      exec .controlRetry s = .next { s with power := { s.power with retries := satAdd 16 s.power.retries 1 } }) ∧
    (Runs .inputLoss s fun t => t.power = {} ∧ t.node.state = stOff ∧ t.nor = s.nor ∧ t.mem.bytes = [] ∧ t.flash.nand = s.flash.nand ∧ t.pending = s.pending) ∧
    (∀ mask : W32, Runs (.seenFlagClear mask) s fun t => t.power.seen = s.power.seen &&& (63 - mask.toNat % 64) ∧ t.node = s.node)) ∧
  ∀ s : State, tick s = if s.power.vmgt then { s with
    power := { s.power with ms := s.power.ms + 1 }
    conj := { s.conj with unlinked := if s.conj.formed && conjPos s == 1 && !conjLink s 0 then min 10 (s.conj.unlinked + 1) else 0 } } else s

/-- R442, R443, R326, R345, R369, R444, R485, R487: the boot chain takes the active slot or else the other, or ends in ROM recovery in FAULT; with every part ready
the node tests itself and enters RESTORED; a Tj above 105.0 °C stops it at the end of its frame; an envelope not regained in 10 s does, and one that has
held for 60 s starts the admission test. -/
def Obligations.BootAndEnvelope : Prop :=
  (∀ (x : BootIn) (s : State), s.node.state = stBoot → s.power.state = psOn → s.boot.chained = false →
    let d := bootDirOf s.nor
    Runs (.boot x) s fun t => t.boot.chained = true ∧ t.nor = s.nor ∧
      t.boot.serial = fld s.nor.cert 8 0 64 ∧ t.boot.grade = fld s.nor.cert 0x10 0 1 ∧
      if bootable s.nor d.active then t.boot.firmware = true ∧ t.boot.romRecovery = false ∧ t.boot.activeSlot = d.active ∧
        t.boot.fwVersion = imageVersion (slotImage s.nor d.active)
      else if bootable s.nor (1 - d.active) then t.boot.firmware = true ∧ t.boot.romRecovery = false ∧ t.boot.activeSlot = 1 - d.active
      else t.node.state = stFault ∧ t.boot.romRecovery = true ∧ t.boot.firmware = false) ∧
  (∀ s : State, s.node.state = stBoot → s.boot.firmware = true → s.fab.trained = true → s.flash.trained = true →
    (Runs (.bootComplete true true) s fun t => t.node.state = stSelftest ∧ t.faults.test = some (false, stRestored, none)) ∧
    exec (.bootComplete false true) s = .next (enterFault s) ∧ exec (.bootComplete true false) s = .next (enterFault s)) ∧
  (∀ (s : State) (full : Bool), s.node.state = stSelftest → s.faults.test = some (full, stRestored, none) → s.faults.autoStart = false →
    Runs (.selftestDone []) s fun t => t.node.state = stRestored ∧ t.faults.test = none) ∧
  (∀ (tj : Int) (s : State), s.power.state = psOn → tj > 1050 → s.run.running = true → Runs (.tjLimit tj) s fun t =>
    t.run.stopAt = some stFault ∧ bit t.power.live 4 = true ∧ t.faults.holdStart = true ∧ t.node = s.node) ∧
  (∀ (tj : Int) (s : State), tj ≤ 1050 → exec (.tjLimit tj) s = .next s) ∧
  (∀ s : State, s.power.vmgt = true → bit s.power.live 4 = true → Runs .tjHighClear s fun t => t.power.live = s.power.live - 16 ∧
    t.faults.heldFrom = some s.power.ms ∧ t.node = s.node) ∧
  (∀ (s : State) (t : Nat), s.faults.graceFrom = some t → s.run.running = true →
    (t + 10000 ≤ s.power.ms → exec .envelopeGraceExpire s = .next { s with
      run := { s.run with stopAt := some stFault }, faults := { s.faults with holdStart := true, heldFrom := none, graceFrom := none } }) ∧
    (s.power.ms < t + 10000 → exec .envelopeGraceExpire s = .next s)) ∧
  ∀ s : State, s.node.state = stRestored → s.faults.holdStart = true → s.faults.autoStart = true → bit s.power.live 4 = false →
    ((∀ h, s.faults.heldFrom = some h → h + 60000 ≤ s.power.ms) → Runs .envelopeHoldStart s fun t =>
      t.faults.holdStart = false ∧ t.orr.soak.isSome = true) ∧
    (∀ h, s.faults.heldFrom = some h → s.power.ms < h + 60000 → exec .envelopeHoldStart s = .next s)

/-! ### The sideband and the ports -/

/-- R508, R509: the carrier's reads of the dump. DATA returns the 4 bytes at WINDOW, which moves on by 4, and 0 past the end; WINDOW keeps a
multiple of 4; the dump is dropped only on its own word. R305, R306, R507: each port reset resets its port's domain and nothing else; its
release leaves Memory Space Enable 0; a lost reference clock and a degraded link are faults; until the node leaves BOOT no enable changes. -/
def Obligations.SidebandAndPortEvents : Prop :=
  (∀ s : State, nodeTargetUp s = true →
    exec (.dumpClear 0x44554D50#32) s = .next { s with dump := { s.dump with valid := false, part := false } } ∧
    (∀ v : W32, v ≠ 0x44554D50#32 → exec (.dumpClear v) s = .next s) ∧
    (∀ v : W32, v.toNat % 2 ^ 27 ≤ 0x4000000 → exec (.dumpWindowSet v) s =
      .next { s with dump := { s.dump with window := v.toNat % 2 ^ 27 / 4 * 4 } }) ∧
    (s.dump.window < 0x4000000 → exec .dumpDataRead s = .next { s with dump := { s.dump with
      data := leNat ((List.range 4).map fun i => dumpByte s (s.dump.window + i)), window := s.dump.window + 4 } }) ∧
    (0x4000000 ≤ s.dump.window → exec .dumpDataRead s = .next { s with dump := { s.dump with data := 0 } })) ∧
  (∀ (a : BitVec 7) (s : State),
    (s.power.vmgt = true → let t := { s with power := { s.power with addrPower := some a.toNat } }
      exec (.entdaa false a) s = .next t ∧ exec (.setdasa false a) s = .next t) ∧
    (nodeTargetUp s = true → let t := { s with power := { s.power with addrNode := some a.toNat } }
      exec (.entdaa true a) s = .next t ∧ exec (.setdasa true a) s = .next t)) ∧
  (∀ (p : Fin 2) (c : PortReset) (s : State), s.node.state ≠ stOff → s.faults.inReset.contains (2 + p.val) = false →
    (Runs (.portReset p c) s fun t => t.faults.inReset = s.faults.inReset ++ [2 + p.val] ∧ t.host.memEn = cset false s.host.memEn p false ∧
      t.host.busMaster = cset false s.host.busMaster p false ∧ t.host.linkUp = cset false s.host.linkUp p false ∧ t.host.rings = s.host.rings ∧
      t.host.frames = s.host.frames ∧ t.host.mstate = s.host.mstate ∧ t.mem.bytes = s.mem.bytes ∧ t.node = s.node ∧ t.run = s.run ∧ t.recs = s.recs) ∧
    Runs (.refclkLost p) s fun t => t.faults.inReset = s.faults.inReset ++ [2 + p.val] ∧ t.node = s.node ∧ t.run = s.run ∧
      (s.dump.log.length < 4096 → t.dump.log = logWith s.dump.log
        (faultBytes s { code := 0x212, event := true, dom := 2 + p.val, unit := 0x502 + p.val, arg0 := p.val }))) ∧
  (∀ (p : Fin 2) (s : State), s.faults.inReset.contains (2 + p.val) = true → Runs (.portResetRelease p) s fun t =>
    t.faults.inReset = s.faults.inReset.filter (· != 2 + p.val) ∧ t.host.memEn = s.host.memEn ∧ t.node = s.node) ∧
  (∀ (p : Fin 2) (s : State), s.node.state ≠ stOff → portDown s p = false →
    (Runs (.portLinkTrained p 8 6) s fun t => t = { s with host := { s.host with linkUp := cset false s.host.linkUp p true } }) ∧
    (s.dump.log.length < 4096 → Runs (.portLinkTrained p 4 6) s fun t => t.host.linkUp = cset false s.host.linkUp p true ∧ t.node = s.node ∧
      t.dump.log = logWith s.dump.log (faultBytes s ⟨0x210, false, 2 + p.val, 0x502 + p.val, 0xFFFF, p.val, 4 + 256 * 6, false, false⟩))) ∧
  ∀ (p : Fin 2) (w : CfgWrite) (s : State), portReceives s p = true →
    (s.node.state = stBoot → exec (.configurationRequest p w) s = .next s) ∧
    (s.node.state ≠ stBoot → Runs (.configurationRequest p w) s fun t =>
      t.host.memEn = (match w.memEnable with | some b => cset false s.host.memEn p b | none => s.host.memEn) ∧
      t.host.busMaster = (match w.busMaster with | some b => cset false s.host.busMaster p b | none => s.host.busMaster) ∧
      t.host.msixEn = (match w.msixEnable with | some b => cset false s.host.msixEn p b | none => s.host.msixEn) ∧
      t.node = s.node ∧ t.run = s.run ∧ t.host.frames = s.host.frames ∧ t.host.mstate = s.host.mstate)

/-- R309, R310, R313: a host write to a mailbox frame. The seal write makes the mailbox BUSY, behind the commands that wait; a mailbox that is BUSY, or not
native to the port, takes nothing and counts the write; only the command block, the payload and the command seal are written. R318, R322: in BAR0
beyond the frames CONSUMER and the MSI-X table are written, in BAR2 the apertures of the port's rings. -/
def Obligations.HostWritesReachTheirPlaces : Prop :=
  (∀ (p : Fin 2) (m : Fin 64) (bs : Bytes) (s : State), takesWrites s p = true → bs ≠ [] → bs.length ≤ 4096 →
    exec (.commandSealWrite p m bs) s = .next (frameWrite (countBar s p bs.length) p m (4096 - bs.length) bs) ∧
    (boxPort m = p.val → cget 0 s.host.mstate m ≠ 1 → Runs (.commandSealWrite p m bs) s fun t =>
      t.host.mstate = cset 0 s.host.mstate m 1 ∧ t.host.order = s.host.order ++ [m.val] ∧
      (s.host.wf = true → ∀ o, o < 4096 → frameBytes t m o 1 = if 4096 - bs.length ≤ o ∧ frameRw o = true
        then [bs.getD (o - (4096 - bs.length)) 0#8] else frameBytes s m o 1) ∧ t.mem = s.mem ∧ t.node = s.node ∧ t.recs = s.recs ∧
      t.host.rings = s.host.rings ∧ t.host.queues = s.host.queues) ∧
    (boxPort m = p.val → cget 0 s.host.mstate m = 1 → Runs (.commandSealWrite p m bs) s fun t => t.host = { s.host with
      busyW := cmod 0 s.host.busyW p (satAdd 32 · 1) } ∧ t.mem = s.mem ∧ t.node = s.node) ∧
    (boxPort m ≠ p.val → Runs (.commandSealWrite p m bs) s fun t => t.host = { s.host with
      foreign := cmod 0 s.host.foreign p (satAdd 32 · 1) } ∧ t.mem = s.mem ∧ t.node = s.node)) ∧
  (∀ (p m off : Nat) (bs : Bytes) (s : State) (o : Nat), s.host.wf = true → o < 4096 → frameRw o = false ∨ o < off ∨ off + bs.length ≤ o →
    off + bs.length ≤ 4096 → frameBytes (frameWrite s p m off bs) m o 1 = frameBytes s m o 1) ∧
  (∀ (p m off : Nat) (bs : Bytes) (s : State) (i : Nat), s.host.wf = true → boxPort m = p → cget 0 s.host.mstate m ≠ 1 → i < bs.length →
    off + bs.length ≤ 4096 → frameRw (off + i) = true → frameBytes (frameWrite s p m off bs) m (off + i) 1 = [bs.getD i 0#8]) ∧
  ∀ (a : BarAddr) (bs : Bytes) (s : State), takesWrites s a.port = true →
    (a.bar2 = true → exec (.registerWrite a bs) s = .next (bar2Write (countBar s a.port bs.length) a.port a.offset.toNat bs)) ∧
    (a.bar2 = false → a.offset.toNat < 2 ^ 20 →
      exec (.registerWrite a bs) s = .next (bar0Write (countBar s a.port bs.length) a.port a.offset.toNat bs)) ∧
    Runs (.registerWrite a bs) s fun t =>
    t.mem.bytes = s.mem.bytes ∧ t.mem.sram = s.mem.sram ∧ t.node = s.node ∧ t.run = s.run ∧ t.recs = s.recs ∧ t.setup = s.setup ∧
    (a.bar2 = true → t.host = (bar2Write s a.port a.offset.toNat bs).host) ∧
    (a.bar2 = false → a.offset.toNat < 0x40000 → t.host =
      (frameWrite s a.port (a.offset.toNat / 4096) (a.offset.toNat % 4096) (clip (a.offset.toNat % 4096) 4096 bs)).host) ∧
    (a.bar2 = false → 0x70400 ≤ a.offset.toNat → t.host = s.host)

/-! ### Mailbox commands -/

/-- R311 to R316, R326, R327: how every mailbox command is taken. Not offered, nothing happens; a seal that fails, a repetition, a command its mailbox may not issue
and one the node state does not allow are answered by name, in this order, without any other effect on the node. A response stands in the frame with
its status block and seal, and the mailbox is DONE. -/
def Obligations.CommandsAreCheckedInOrder : Prop :=
  (∀ (i : Instr) (code : Nat) (m : Fin 64) (s : State), mailboxCode i = some (code, m) →
    let c := readCmd s m
    let u := taken s m
    (canTake s m = false → exec i s = .next s) ∧
    (canTake s m = true → sealOk s c = false → exec i s = .next (badSeal u c)) ∧
    (∀ l, canTake s m = true → sealOk s c = true → c.code = code → replayOf s c = some l → exec i s = .next (replay u c l)) ∧
    (Offered code m s → s.boot.romRecovery = false → denied s c = true → exec i s = .next (replyS u c sDenied)) ∧
    (∀ d, Offered code m s → s.boot.romRecovery = false → denied s c = false → stateRefusal s c = some d → exec i s = .next (badState u c d)) ∧
    (s.host.wf = true → canTake s m = true →
      sealOk s c = false ∨ (Offered code m s ∧ s.boot.romRecovery = false ∧ (denied s c = true ∨ (stateRefusal s c).isSome = true)) →
      Runs i s (AnswersOnly m s))) ∧
  ∀ (s : State) (c : Cmd) (r : Reply), s.host.wf = true → r.resp.length ≤ 3584 → let t := reply s c r
    frameBytes t c.m 0x40 64 = statusBlock s c.seq false r ∧ frameBytes t c.m 0x100 r.resp.length = r.resp ∧
    frameBytes t c.m 0xFF0 8 = layoutBytes 8 [(0, 4, c.seq), (4, 2, r.status), (6, 2, sealCheck (statusBlock s c.seq false r ++ r.resp))] ∧
    cget 0 t.host.mstate c.m = 2

/-- R339 to R348, R438 to R440, R452, R460: what the queries answer with, and what the commands for resets, tests, transitions, settings and firmware do, once they
are accepted and their buffers can be reached. What an image verifies as is not fixed by the manual's rules alone: each outcome is stated. -/
def Obligations.QueriesAndControlTakeEffect : Prop :=
  ∀ (m : Fin 64) (s : State), let c := readCmd s m; let u := taken s m
    let reached := fun (d : Dma) => dmaOk s c.port = true ∧ d.failAt = none
    (Accepts 0x01 noArgs m s → exec (.nodeInfo m) s = .next (reply u c { status := sOk, resp := infoBytes u })) ∧
    (∀ t : Telemetry, Accepts 0x02 noArgs m s → let v := { u with power := { u.power with tele := t } }
      exec (.nodeStatus m t) s = .next (reply v c { status := sOk, resp := statusBytes v })) ∧
    (∀ (d : Dma) (seed : Nat), Accepts 0x03 attestParams m s → s.boot.seed = some seed → reached d →
      let r := attestReport u (c.arg 0x10 0 256) seed
      let v := { u with drawn := s.drawn + 1 }
      exec (.attest m d) s = .next (if c.bufSize 0x30 < r.length then reply v c { status := sBadParam, detail := 0x38, resp := leBytes 8 r.length }
        else replyD (hostWrite v c.port (c.bufAddr 0x30) r) c sOk r.length)) ∧
    (∀ d : Dma, Accepts 0x04 counterParams m s → reached d →
      let v := if s.run.running then u else flushCounters u
      let bs := counterBytes v (c.arg 0x10 0 16) (c.arg 0x10 16 4) (c.arg 0x14 0 32) (c.arg 0x18 0 32)
      bs.length ≤ c.bufSize 0x20 → exec (.counterRead m d) s = .next (replyS (hostWrite v c.port (c.bufAddr 0x20) bs) c sOk)) ∧
    (∀ d : Dma, Accepts 0x05 logParams m s → reached d →
      let log := c.arg 0x10 0 8
      let sl := c.arg 0x10 9 4
      let n := min (logOf u log sl).1.length (c.bufSize 0x20 / (if log = 3 then 64 else 32))
      let bs := ((logOf u log sl).1.take n).flatten
      let v := hostWrite u c.port (c.bufAddr 0x20) bs
      let w := if c.arg 0x10 8 1 = 1 then clearLog v log sl n else v
      let head := layoutBytes 32 [(0, 4, n), (4, 4, (logOf w log sl).1.length), (8, 4, (logOf u log sl).2)]
      bs.length ≤ c.bufSize 0x20 → exec (.logRead m d) s = .next (reply w c { status := sOk, resp := head })) ∧
    (Accepts 0x10 resetParams m s → let d := c.arg 0x10 0 5
      (d = 0 → s.run.running = false → Runs (.resetDomain m) s fun t => t.node.state = stBoot ∧ t.dump.escalated = false ∧ t.dump.nr1 = none ∧
        t.mem.bytes = s.mem.bytes ∧ t.nor = s.nor ∧ t.boot.firmware = false) ∧
      (d ≠ 0 → s.faults.inReset.contains d = false → d = 1 ∨ d = 2 + c.port → exec (.resetDomain m) s = .next (startReset (replyS u c sOk) d)) ∧
      (d ≠ 0 → s.faults.inReset.contains d = false → d ≠ 1 → d ≠ 2 + c.port → exec (.resetDomain m) s =
        .next (startReset (if s.run.running && frameDomain d then loseFrame (hold u c d) d else hold u c d) d)) ∧
      (d ≠ 0 → s.faults.inReset.contains d = true → exec (.resetDomain m) s = .next (hold u c d))) ∧
    (Accepts 0x11 selftestParams m s → s.faults.test = none → s.node.state ≠ stFault → s.node.state ≠ stSelftest → Runs (.selftest m) s fun t =>
      t.node.state = stSelftest ∧ t.faults.test = some (c.arg 0x10 0 1 == 1, s.node.state, some m.val)) ∧
    (Accepts 0x18 noArgs m s → exec (.start m) s = .next { beginTrans u c with orr := { s.orr with soak := some s.run.frame } }) ∧
    (Accepts 0x1C noArgs m s → exec (.resume m) s = .next { beginTrans u c with orr := { s.orr with soak := some s.run.frame } }) ∧
    (Accepts 0x19 noArgs m s → (s.run.running = true → exec (.serve m) s = .next (beginTrans u c)) ∧
      (s.run.running = false → Runs (.serve m) s fun t => t.node.state = stServing)) ∧
    (Accepts 0x1A noArgs m s → (s.run.running = true → exec (.drain m) s = .next (beginTrans u c)) ∧
      (s.run.running = false → Runs (.drain m) s fun t => t.node.state = stDraining)) ∧
    (∀ v : View, s.orr.view = some v → v.coord ≠ nodeId s →
      (Accepts 0x1B noArgs m s → exec (.maint m) s = .next (orrSend (beginTrans u c) 8 v.coord (nodeId s) 0 0)) ∧
      (Accepts 0x1D noArgs m s → exec (.stop m) s = .next (orrSend (beginTrans u c) 8 v.coord (nodeId s) 0 0))) ∧
    (Accepts 0x20 proofParams m s →
      let v := if c.arg 0x10 0 1 = 1 then writeBank u [] true else writeRecord u (changedRecord u c.pay) true
      exec (.proofWrite m true) s = .next (reply v c { status := sOk, resp := layoutBytes 16 [(0, 8, v.boot.proofSeq), (8, 1, b2n v.boot.proofInB)] }) ∧
      exec (.proofWrite m false) s = .next (replyS (failedWrite u) c sAborted)) ∧
    (∀ d : Dma, Accepts 0x21 updateParams m s → reached d →
      let n := min (c.bufSize 0x20) 8388608
      let slot := otherSlot s
      let v := countDmaRead (setSlot (setValid u slot false) slot (d.data.take n)) c n
      let img := slotImage v.nor slot
      exec (.fwUpdate m d) s = .next (if imageVerifies img then
        reply (setValid v slot true) c { status := sOk, resp := layoutBytes 40 [(0, 8, slot), (8, 32, imageDigest img)] } else replyS v c sBadSignature)) ∧
    (Accepts 0x22 activateParams m s → let slot := c.arg 0x10 0 1
      (s.boot.firmware = true → slot = s.boot.activeSlot → exec (.fwActivate m) s = .next (replyS u c sOk)) ∧
      (slot ≠ s.boot.activeSlot → exec (.fwActivate m) s = .next (
        if bootable s.nor slot = false ∨ imageVersion (slotImage s.nor slot) < minVersion s then replyS u c sBadSignature
        else replyS { u with nor := writeBootDir s.nor { bootDirOf s.nor with active := slot } } c sOk)))

/-- R348 to R361, R378, R280: what the commands for set-up objects, composition, objects, rings, versions, transits and conjunctions do once they are accepted and
their buffers can be reached. Set-up objects wait as next copies, content changes at once, and points and policies at once where no plate runs. -/
def Obligations.SetupAndContentTakeEffect : Prop :=
  ∀ (m : Fin 64) (s : State), let c := readCmd s m; let u := taken s m
    let reached := fun (d : Dma) => dmaOk s c.port = true ∧ d.failAt = none
    let waits := fun (o : NextObj) => hold (addNext u ⟨o, some m.val, false⟩) c 0
    (Accepts 0x30 clusterParams m s → exec (.clusterMap m) s = .next (waits (.clmap (c.arg 0x10 0 2) (c.arg 0x14 0 32)))) ∧
    (Accepts 0x31 bpmapParams m s →
      let st := c.arg 0x10 0 3
      let die := c.arg 0x10 3 4
      let v := c.arg 0x14 0 32
      (bit v 5 = false ∨ bit (bpmapOf s st die) 5 = true → exec (.bpmap m) s = .next (waits (.bpmap st die v))) ∧
      (bit v 5 = true → bit (bpmapOf s st die) 5 = false →
        exec (.bpmap m) s = .next (startSpareCopy (waits (.bpmap st die v)) st die (bits v 0 5)))) ∧
    (∀ d : Dma, Accepts 0x40 composeParams m s → reached d →
      let size := c.bufSize 0x20
      let b := d.data.take size
      let v := countDmaRead u c size
      packageBad b size (c.arg 0x10 0 32) = none →
      (c.arg 0x10 0 32 ≠ (s.setup.epoch + 1) % 2 ^ 32 → exec (.compose m d) s = .next (replyS u c sStaleEpoch)) ∧
      (c.arg 0x10 0 32 = (s.setup.epoch + 1) % 2 ^ 32 → s.node.state ≠ stRestored → pendingDetail s = none →
        exec (.compose m d) s = .next (acceptChange (hold v c 0) (c.arg 0x10 0 32) (some m) (packageNext b (c.arg 0x10 0 32))))) ∧
    (∀ d : Dma, Accepts 0x41 phaseLoadParams m s → reached d → s.setup.reshard = none →
      let size := c.bufSize 0x20
      let b := d.data.take size
      let v := countDmaRead u c size
      packageBad b size 0 = none → fld b (fld b 8 0 32 + 0x10) 0 64 = s.setup.job → phaseMapOk v b = true →
      exec (.phaseLoad m d) s = .next (replyS { v with setup := { s.setup with
        phaseMaps := s.setup.phaseMaps.filter (fun p => p.1 != c.arg 0x10 0 2) ++ [(c.arg 0x10 0 2, b)] } } c sOk)) ∧
    (∀ d : Dma, Accepts 0x42 phaseParams m s → reached d → pendingDetail s = none → Runs (.phase m d) s fun t =>
      (∃ r, t.setup.reshard = some r ∧ r.target = c.arg 0x10 0 2 ∧ r.mailbox = m.val ∧ r.moving = false) ∧
      ∃ ch, t.setup.change = some ch ∧ ch.epoch = (s.setup.epoch + 1) % 2 ^ 32 ∧ ch.frame = s.run.frame ∧ ch.mailbox = some m.val) ∧
    (Accepts 0x48 quotaParams m s → let i := c.arg 0x10 0 4
      (s.node.state ≠ stRestored → exec (.quotaSet m) s = .next (reply { u with setup := { s.setup with
        staged := s.setup.staged.filter (fun q => q.1 != i) ++ [(i, c.pay)] } } c { status := sOk, resp := leBytes 8 1 })) ∧
      (s.node.state = stRestored → Runs (.quotaSet m) s fun t => t.setup.quota = cset [] s.setup.quota i c.pay ∧
        t.setup.staged = s.setup.staged.filter (fun q => q.1 != i))) ∧
    (Accepts 0x49 oppointParams m s → refusesPoint s (c.arg 0x10 0 2) = none →
      (s.run.running = true → exec (.oppointSet m) s = .next { hold u c 0 with setup := { s.setup with
        newPoint := s.setup.newPoint ++ [(c.arg 0x10 0 2, m.val)] } }) ∧
      (s.run.running = false → Runs (.oppointSet m) s fun t => t.setup.preferred = c.arg 0x10 0 2 ∧ t.setup.newPoint = [])) ∧
    (Accepts 0x4A policyParams m s →
      (s.run.running = true → exec (.policySet m) s = .next { hold u c 0 with setup := { s.setup with
        newPolicy := s.setup.newPolicy ++ [(c.arg 0x10 0 1 == 1, c.arg 0x14 0 16, m.val)] } }) ∧
      (s.run.running = false → Runs (.policySet m) s fun t => t.setup.flat = (c.arg 0x10 0 1 == 1) ∧ t.setup.setPoint = c.arg 0x14 0 16)) ∧
    (Accepts 0x50 objAllocParams m s → let o : Obj := { id := fld c.pay 0 0 32, desc := c.pay, extents := [] }
      exec (.objAlloc m) s = .next (match allocate u o with
        | none => replyS { u with drawn := s.drawn + 130 } c sNoSpace
        | some es => let d := patch c.pay 0x18 (leBytes 1 es.length)
          reply { u with mem := { s.mem with objs := s.mem.objs ++ [{ o with desc := d, extents := es }] }, drawn := s.drawn + 130 } c
            { status := sOk, resp := d ++ extentList es })) ∧
    (∀ o, Accepts 0x51 objFreeParams m s → findObj s (c.arg 0x10 0 32) = some o →
      (objHeld s o = false → exec (.objFree m) s = .next (replyS (freeObj u o) c sOk)) ∧
      (objHeld s o = true → exec (.objFree m) s = .next (replyS u c sBusy))) ∧
    (∀ (d : Dma) (o : Obj), Accepts 0x52 objWriteParams m s → reached d → findObj s (c.arg 0x10 0 32) = some o → namedInUse s o = false →
      c.arg 0x18 0 32 = 1 → headerBad (d.data.take 32) = none → tagOk (d.data.take 32) (d.data.drop 32) = true → d.data.length = o.tileBytes →
      let v := countDmaRead u c o.tileBytes
      tileRoom v o (c.arg 0x14 0 32) = true → exec (.objWrite m d) s =
        .next (reply (foundAgain (clearSlots (countTile (writeTile v o (c.arg 0x14 0 32) (d.data.take 32) (d.data.drop 32)) (some o.slice) o
          (c.arg 0x14 0 32) true) o (c.arg 0x14 0 32)) o) c { status := sOk, progress := o.tileBytes })) ∧
    (∀ (d : Dma) (o : Obj) (off : Nat), Accepts 0x52 objWriteParams m s → reached d → findObj s (c.arg 0x10 0 32) = some o → namedInUse s o = false →
      tilesBad o d.data (c.arg 0x18 0 32 * o.tileBytes) (c.arg 0x18 0 32) = some off →
      exec (.objWrite m d) s = .next (reply u c { status := sBadParam, detail := 0x20, bufOff := off })) ∧
    (∀ (d : Dma) (o : Obj), Accepts 0x53 objReadParams m s → reached d → findObj s (c.arg 0x10 0 32) = some o →
      let ts := (List.range (c.arg 0x18 0 32)).map fun i => tileOut u o (c.arg 0x14 0 32 + i)
      let bs := ts.flatMap Prod.fst
      bs.length ≤ c.bufSize 0x20 → exec (.objRead m d) s = .next (reply ((List.range (c.arg 0x18 0 32)).foldl
          (fun s i => countTile s (some o.slice) o (c.arg 0x14 0 32 + i) false) (hostWrite u c.port (c.bufAddr 0x20) bs)) c
        { status := sOk, detail := (ts.filter Prod.snd).length, progress := bs.length })) ∧
    (Accepts 0x54 descLoadParams m s → let kind := c.arg 0x10 0 8
      exec (.descLoad m) s = .next (waits (if c.arg 0x10 8 1 = 1 then .remove kind (c.arg 0x14 0 16) else .desc kind c.pay (blockOf u kind c.pay)))) ∧
    (Accepts 0x58 ringSetupParams m s → exec (.ringSetup m) s = .next (waits (.ring c.pay ((boxSlice s m).getD 0)))) ∧
    (Accepts 0x59 ringCloseParams m s → s.run.running = true → Runs (.ringClose m) s fun t =>
      t.host.rings = s.host.rings.map (fun r => if r.num = c.arg 0x10 0 6 then { r with closing := true } else r) ∧
      t.host.inProg = s.host.inProg ++ [⟨m, c.code, c.req, c.seq, c.arg 0x10 0 6, 0⟩] ∧ t.mem = s.mem ∧ t.recs = s.recs ∧ t.node = s.node) ∧
    (∀ d, Accepts 0x60 versionParams m s → findDesc s (1 + c.arg 0x10 0 1) (fld c.pay 0 0 16) = some d →
      switchRefusal u d (blockOf u (1 + c.arg 0x10 0 1) c.pay) = none →
      exec (.versionSwitch m) s = .next (waits (.version (1 + c.arg 0x10 0 1) c.pay (blockOf u (1 + c.arg 0x10 0 1) c.pay)))) ∧
    (∀ d, Accepts 0x61 transitParams m s → transitTable s c = some d → shardOwner s d (c.arg 0x10 16 16) = nodeId s →
      transitRefusal s d (c.arg 0x14 0 9) = none → custodyFree s = true → let v := { u with drawn := s.drawn + 1 }
      exec (.transit m) s = .next (if lacksQuota u d (c.arg 0x10 16 16) (c.arg 0x14 0 9) then replyS v c sNoSpace
        else startTransit v c d (c.arg 0x10 16 16) (c.arg 0x14 0 9))) ∧
    (∀ o, Accepts 0x70 bridgeParams m s → findObj s (c.arg 0x10 0 32) = some o → c.arg 0x18 0 32 ≠ 0 → Runs (.bridgeXfer m) s fun t =>
      t.fab.bridge = s.fab.bridge ++ ((List.range (c.arg 0x18 0 32)).map (c.arg 0x14 0 32 + ·)).map (fun x => (c.arg 0x1C 0 32, x, m.val)) ∧
      t.fab.out.length = s.fab.out.length + c.arg 0x18 0 32 ∧ t.mem = s.mem ∧ t.node = s.node ∧ t.setup = s.setup) ∧
    (Accepts 0x78 noArgs m s → promoteRefusal s = none → s.conj.promote = [] →
      (s.run.running = true → Runs (.conjPromote m) s fun t => t.conj = { s.conj with promote := [m.val] } ∧ t.node = s.node) ∧
      (s.run.running = false → Runs (.conjPromote m) s fun t => t.conj = { s.conj with primary := 1 } ∧ t.node = s.node))

end Slice0
end

