-- ==== Sys2Proof/Laws/Cells.lean ====
section
/-!
SUPPORT. The laws of sparse storage: reading after a write, and that every operation keeps the canonical form.
-/
namespace Sys2Proof

variable {α : Type} {d : α}

@[simp] theorem cget_nil (k : Nat) : cget d [] k = d := rfl

@[simp] theorem cgetN_zero (m : Cells α) (k : Nat) : cgetN d m k 0 = [] := rfl

theorem cgetN_length (m : Cells α) (k n : Nat) : (cgetN d m k n).length = n := by
  induction n generalizing k with
  | zero => rfl
  | succ n ih => simp [cgetN, ih]

theorem cgetN_getD (m : Cells α) (k n i : Nat) (h : i < n) : (cgetN d m k n).getD i d = cget d m (k + i) := by
  induction n generalizing k i with
  | zero => omega
  | succ n ih =>
    cases i with
    | zero => simp [cgetN]
    | succ i =>
      have := ih (k + 1) i (by omega)
      simp only [cgetN, List.getD_cons_succ, this]
      congr 1; omega

/-- Only the values at the keys read matter. -/
theorem cgetN_congr (m m' : Cells α) (k n : Nat) (h : ∀ i, i < n → cget d m (k + i) = cget d m' (k + i)) :
    cgetN d m k n = cgetN d m' k n := by
  induction n generalizing k with
  | zero => rfl
  | succ n ih =>
    simp only [cgetN]
    rw [show cget d m k = cget d m' k from by simpa using h 0 (by omega)]
    rw [ih (k + 1) fun i hi => by have := h (i + 1) (by omega); rwa [Nat.add_assoc, Nat.add_comm 1 i]]

/-! ### Canonical form -/

variable [DecidableEq α]

/-- A looser lower bound. -/
theorem cwfFrom_mono {lo : Nat} {m : Cells α} (hm : cwfFrom d (some lo) m = true) : cwfFrom d none m = true := by
  cases m with
  | nil => rfl
  | cons kv r => obtain ⟨k, v⟩ := kv; simp [cwfFrom] at hm ⊢; exact ⟨hm.1.2, hm.2⟩

theorem cwfFrom_le {lo hi : Nat} {m : Cells α} (h : lo ≤ hi) (hm : cwfFrom d (some hi) m = true) : cwfFrom d (some lo) m = true := by
  cases m with
  | nil => rfl
  | cons kv r => obtain ⟨k, v⟩ := kv; simp [cwfFrom] at hm ⊢; exact ⟨⟨by omega, hm.1.2⟩, hm.2⟩

theorem cset_from (lo : Option Nat) (m : Cells α) (k : Nat) (v : α) (h : ∀ l, lo = some l → l < k) (hm : cwfFrom d lo m = true) :
    cwfFrom d lo (cset d m k v) = true := by
  induction m generalizing lo with
  | nil =>
    unfold cset; split
    · rfl
    · rename_i hv
      cases lo with
      | none => simp [cwfFrom, hv]
      | some l => simp [cwfFrom, hv, h l rfl]
  | cons kv r ih =>
    obtain ⟨k', v'⟩ := kv
    simp only [cwfFrom, Bool.and_eq_true, decide_eq_true_eq] at hm
    obtain ⟨⟨hlo, hv'⟩, hr⟩ := hm
    unfold cset
    split
    · rename_i hk
      split
      · simp [cwfFrom, hlo, hv', hr]
      · rename_i hv
        cases lo with
        | none => simp [cwfFrom, hv, hk, hv', hr]
        | some l => simp [cwfFrom, h l rfl, hv, hk, hv', hr]
    · split
      · rename_i hk hk'
        subst hk'
        split
        · cases lo with
          | none => exact cwfFrom_mono hr
          | some l => exact cwfFrom_le (by have := h l rfl; omega) hr
        · rename_i hv
          simp [cwfFrom, hlo, hv, hr]
      · rename_i hk hk'
        simp only [cwfFrom, Bool.and_eq_true, decide_eq_true_eq]
        exact ⟨⟨hlo, hv'⟩, ih (some k') (fun l hl => by cases hl; omega) hr⟩

/-- A write keeps the canonical form. -/
theorem cset_wf (m : Cells α) (k : Nat) (v : α) (h : cwf d m = true) : cwf d (cset d m k v) = true :=
  cset_from none m k v (fun l hl => by cases hl) h

theorem cmod_wf (m : Cells α) (k : Nat) (f : α → α) (h : cwf d m = true) : cwf d (cmod d m k f) = true := cset_wf m k _ h

theorem csetN_wf (vs : List α) (m : Cells α) (k : Nat) (h : cwf d m = true) : cwf d (csetN d m k vs) = true := by
  induction vs generalizing m k with
  | nil => exact h
  | cons v vs ih => exact ih _ _ (cset_wf m k v h)

theorem cfilter_from (p : Nat × α → Bool) (lo : Option Nat) (m : Cells α) (h : cwfFrom d lo m = true) : cwfFrom d lo (m.filter p) = true := by
  induction m generalizing lo with
  | nil => rfl
  | cons kv r ih =>
    obtain ⟨k, v⟩ := kv
    have hm := h
    simp only [cwfFrom, Bool.and_eq_true, decide_eq_true_eq] at hm
    obtain ⟨⟨hlo, hv⟩, hr⟩ := hm
    rw [List.filter_cons]
    split
    · simp only [cwfFrom, Bool.and_eq_true, decide_eq_true_eq]
      exact ⟨⟨hlo, hv⟩, ih _ hr⟩
    · cases lo with
      | none => exact cwfFrom_mono (ih _ hr)
      | some l => exact cwfFrom_le (by have := hlo; simp at this; omega) (ih _ hr)

theorem cdrop_wf (p : Nat → Bool) (m : Cells α) (h : cwf d m = true) : cwf d (cdrop p m) = true := cfilter_from _ none m h

/-! ### Reading after a write -/

theorem cget_low {lo k : Nat} {m : Cells α} (hk : k ≤ lo) (hm : cwfFrom d (some lo) m = true) : cget d m k = d := by
  cases m with
  | nil => rfl
  | cons kv r =>
    obtain ⟨k', v⟩ := kv
    simp [cwfFrom] at hm
    unfold cget
    rw [if_pos (by omega)]

/-- A read at the key written gives what was written. -/
theorem cget_cset_same (m : Cells α) (k : Nat) (v : α) (lo : Option Nat) (hm : cwfFrom d lo m = true) : cget d (cset d m k v) k = v := by
  induction m generalizing lo with
  | nil => unfold cset; split <;> simp_all [cget]
  | cons kv r ih =>
    obtain ⟨k', v'⟩ := kv
    simp only [cwfFrom, Bool.and_eq_true, decide_eq_true_eq] at hm
    obtain ⟨⟨-, -⟩, hr⟩ := hm
    unfold cset
    split
    · split
      · rename_i hk hv; unfold cget; rw [if_pos hk, hv]
      · unfold cget; rw [if_neg (by omega), if_pos rfl]
    · split
      · rename_i hk hk'; subst hk'
        split
        · rename_i hv; rw [hv]; exact cget_low (Nat.le_refl _) hr
        · unfold cget; rw [if_neg (by omega), if_pos rfl]
      · rename_i hk hk'; unfold cget; rw [if_neg hk, if_neg hk']; exact ih _ hr

/-- A write leaves every other key alone. -/
theorem cget_cset_other (m : Cells α) (k j : Nat) (v : α) (hj : j ≠ k) (lo : Option Nat) (hm : cwfFrom d lo m = true) :
    cget d (cset d m k v) j = cget d m j := by
  induction m generalizing lo with
  | nil =>
    unfold cset; split
    · rfl
    · by_cases h1 : j < k
      · simp [cget, h1]
      · simp [cget, h1, hj]
  | cons kv r ih =>
    obtain ⟨k', v'⟩ := kv
    simp only [cwfFrom, Bool.and_eq_true, decide_eq_true_eq] at hm
    obtain ⟨⟨-, -⟩, hr⟩ := hm
    unfold cset
    split
    · rename_i hk
      split
      · rfl
      · by_cases h1 : j < k
        · have h2 : j < k' := by omega
          simp [cget, h1, h2]
        · simp [cget, h1, hj]
    · rename_i hk
      split
      · rename_i hk'; subst hk'
        by_cases h1 : j < k
        · split
          · rw [cget_low (by omega) hr]; simp [cget, h1]
          · simp [cget, h1]
        · split
          · simp [cget, h1, hj]
          · simp [cget, h1, hj]
      · by_cases h1 : j < k'
        · simp [cget, h1]
        · by_cases h2 : j = k'
          · simp [cget, h2]
          · simp [cget, h1, h2, ih _ hr]

theorem cget_set (m : Cells α) (k j : Nat) (v : α) (h : cwf d m = true) : cget d (cset d m k v) j = if j = k then v else cget d m j := by
  split
  · rename_i hj; subst hj; exact cget_cset_same m j v none h
  · rename_i hj; exact cget_cset_other m k j v hj none h

/-- Outside the keys written, `csetN` changes nothing. -/
theorem cget_setN_out (vs : List α) (m : Cells α) (k j : Nat) (h : cwf d m = true) (hj : j < k ∨ k + vs.length ≤ j) :
    cget d (csetN d m k vs) j = cget d m j := by
  induction vs generalizing m k with
  | nil => rfl
  | cons v vs ih =>
    simp only [List.length_cons] at hj
    unfold csetN
    rw [ih _ _ (cset_wf m k v h) (by omega), cget_set m k j v h, if_neg (by omega)]

/-- At the keys written, `csetN` leaves the values written. -/
theorem cget_setN_in (vs : List α) (m : Cells α) (k i : Nat) (h : cwf d m = true) (hi : i < vs.length) :
    cget d (csetN d m k vs) (k + i) = vs.getD i d := by
  induction vs generalizing m k i with
  | nil => simp at hi
  | cons v vs ih =>
    unfold csetN
    cases i with
    | zero => rw [cget_setN_out _ _ _ _ (cset_wf m k v h) (by omega), cget_set m k _ v h]; simp
    | succ i =>
      have := ih (cset d m k v) (k + 1) i (cset_wf m k v h) (by simpa using hi)
      rw [show k + (i + 1) = k + 1 + i from by omega, this]; simp

/-- Reading back what `csetN` wrote. -/
theorem cgetN_setN (vs : List α) (m : Cells α) (k : Nat) (h : cwf d m = true) : cgetN d (csetN d m k vs) k vs.length = vs := by
  apply List.ext_getElem
  · rw [cgetN_length]
  · intro i h1 h2
    have h3 := cgetN_getD (d := d) (csetN d m k vs) k vs.length i h2
    rw [cget_setN_in vs m k i h h2] at h3
    simp [List.getD_eq_getElem?_getD, h1, h2] at h3
    exact h3

end Sys2Proof
end

