-- ==== Sys2Proof/Laws/Float.lean ====
section
/-!
SUPPORT. The comparison of scores is a strict weak order on the values that are no NaN.
-/
namespace Sys2Proof

theorem scaled_down {l lo e : Int} (neg : Bool) (m : Nat) (h : l ≤ lo) (k : lo ≤ e) :
    scaled l neg m e = scaled lo neg m e * 2 ^ (lo - l).toNat := by
  have hs : (e - l).toNat = (e - lo).toNat + (lo - l).toNat := by omega
  unfold scaled
  rw [hs, Nat.shiftLeft_add, Nat.shiftLeft_eq (m <<< _)]
  dsimp only
  push_cast
  split
  · rw [Int.neg_mul]
  · rfl

/-- Finite values compare as their multiples of any common unit. -/
theorem flt_fin {na nb : Bool} {ma mb : Nat} {ea eb l : Int} (ha : l ≤ ea) (hb : l ≤ eb) :
    flt (.fin na ma ea) (.fin nb mb eb) = decide (scaled l na ma ea < scaled l nb mb eb) := by
  have hm : l ≤ min ea eb := by omega
  have p : (0 : Int) < 2 ^ (min ea eb - l).toNat := Int.pow_pos (by decide)
  simp only [flt]
  rw [scaled_down na ma hm (by omega), scaled_down nb mb hm (by omega)]
  exact decide_eq_decide.mpr (Int.mul_lt_mul_right p).symm

theorem flt_nan_left (a : FVal) : flt .nan a = false := by cases a <;> rfl
theorem flt_nan_right (a : FVal) : flt a .nan = false := by cases a <;> rfl

theorem flt_irrefl (a : FVal) : flt a a = false := by
  cases a with
  | nan => rfl
  | inf n => cases n <;> rfl
  | fin n m e => rw [flt_fin (Int.le_refl e) (Int.le_refl e)]; simp

theorem flt_trans {a b c : FVal} (h : flt a b = true) (k : flt b c = true) : flt a c = true := by
  cases a with
  | nan => simp [flt_nan_left] at h
  | inf na =>
    cases b with
    | nan => simp [flt_nan_left] at k
    | inf nb => cases na <;> cases nb <;> cases c <;> simp_all [flt]
    | fin nb mb eb => cases na <;> cases c <;> simp_all [flt]
  | fin na ma ea =>
    cases b with
    | nan => simp [flt_nan_left] at k
    | inf nb => cases nb <;> cases c <;> simp_all [flt]
    | fin nb mb eb =>
      cases c with
      | nan => simp [flt_nan_right] at k
      | inf nc => cases nc <;> simp_all [flt]
      | fin nc mc ec =>
        have l1 : min ea (min eb ec) ≤ ea := by omega
        have l2 : min ea (min eb ec) ≤ eb := by omega
        have l3 : min ea (min eb ec) ≤ ec := by omega
        rw [flt_fin l1 l2, decide_eq_true_eq] at h
        rw [flt_fin l2 l3, decide_eq_true_eq] at k
        rw [flt_fin l1 l3, decide_eq_true_eq]
        omega

/-- A value that is no NaN lies above the lower or below the higher of two. -/
theorem flt_split {a b c : FVal} (hb : b ≠ .nan) (h : flt a c = true) : flt a b = true ∨ flt b c = true := by
  cases a with
  | nan => simp [flt_nan_left] at h
  | inf na =>
    cases b with
    | nan => exact absurd rfl hb
    | inf nb => cases na <;> cases nb <;> cases c <;> simp_all [flt]
    | fin nb mb eb => cases na <;> cases c <;> simp_all [flt]
  | fin na ma ea =>
    cases b with
    | nan => exact absurd rfl hb
    | inf nb => cases nb <;> cases c <;> simp_all [flt]
    | fin nb mb eb =>
      cases c with
      | nan => simp [flt_nan_right] at h
      | inf nc => cases nc <;> simp_all [flt]
      | fin nc mc ec =>
        have l1 : min ea (min eb ec) ≤ ea := by omega
        have l2 : min ea (min eb ec) ≤ eb := by omega
        have l3 : min ea (min eb ec) ≤ ec := by omega
        rw [flt_fin l1 l3, decide_eq_true_eq] at h
        rw [flt_fin l1 l2, decide_eq_true_eq, flt_fin l2 l3, decide_eq_true_eq]
        omega

theorem flt_asymm {a b : FVal} (h : flt a b = true) : flt b a = false := by
  cases e : flt b a with
  | false => rfl
  | true => exact absurd (flt_trans h e) (by rw [flt_irrefl]; decide)

end Sys2Proof
end

