-- ==== Sys2Proof/Laws/State.lean ====
section
/-!
SUPPORT. What each shared operation leaves: one lemma for each part of the state an operation does not touch.
-/
namespace Sys2Proof.Machine

/-- A fold over operations that leave a part of the state leaves it. -/
theorem foldl_keeps {α β : Type} (get : State → β) (f : State → α → State) (h : ∀ s a, get (f s a) = get s) (l : List α) (s : State) :
    get (l.foldl f s) = get s := by
  induction l generalizing s with
  | nil => rfl
  | cons a l ih => exact (ih _).trans (h s a)

/-- So does a link that sends. -/
theorem pump_keeps {β : Type} (get : State → β) (h : ∀ s l c n, get (countLink s l c n) = get s) (k : ∀ s l x, get (setLink s l x) = get s)
    (p : ∀ s l f, get (passedOn s l f) = get s) (n : Nat) (s : State) (l : Nat) : get (pump s l n) = get s := by
  induction n generalizing s with
  | zero => rfl
  | succ n ih =>
    unfold pump
    dsimp only
    split
    · rfl
    · split
      · rfl
      · rw [ih, p, h, h, k]

section
variable (s : State) (a : Nat) (bs : Bytes)

@[simp] theorem writeMem_run : (writeMem s a bs).run = s.run := by unfold writeMem; split <;> rfl
@[simp] theorem writeMem_units : (writeMem s a bs).units = s.units := by unfold writeMem; split <;> rfl
@[simp] theorem writeMem_cnt : (writeMem s a bs).cnt = s.cnt := by unfold writeMem; split <;> rfl
@[simp] theorem writeMem_dump : (writeMem s a bs).dump = s.dump := by unfold writeMem; split <;> rfl
@[simp] theorem writeMem_power : (writeMem s a bs).power = s.power := by unfold writeMem; split <;> rfl
@[simp] theorem writeMem_nor : (writeMem s a bs).nor = s.nor := by unfold writeMem; split <;> rfl
@[simp] theorem writeMem_boot : (writeMem s a bs).boot = s.boot := by unfold writeMem; split <;> rfl
@[simp] theorem writeMem_faults : (writeMem s a bs).faults = s.faults := by unfold writeMem; split <;> rfl
@[simp] theorem writeMem_setup : (writeMem s a bs).setup = s.setup := by unfold writeMem; split <;> rfl
@[simp] theorem writeMem_host : (writeMem s a bs).host = s.host := by unfold writeMem; split <;> rfl
@[simp] theorem writeMem_recs : (writeMem s a bs).recs = s.recs := by unfold writeMem; split <;> rfl
@[simp] theorem writeMem_bg : (writeMem s a bs).bg = s.bg := by unfold writeMem; split <;> rfl
@[simp] theorem writeMem_flash : (writeMem s a bs).flash = s.flash := by unfold writeMem; split <;> rfl
@[simp] theorem writeMem_fab : (writeMem s a bs).fab = s.fab := by unfold writeMem; split <;> rfl
@[simp] theorem writeMem_conj : (writeMem s a bs).conj = s.conj := by unfold writeMem; split <;> rfl
@[simp] theorem writeMem_orr : (writeMem s a bs).orr = s.orr := by unfold writeMem; split <;> rfl
@[simp] theorem writeMem_node : (writeMem s a bs).node = s.node := by unfold writeMem; split <;> rfl
@[simp] theorem writeMem_drawn : (writeMem s a bs).drawn = s.drawn := by unfold writeMem; split <;> rfl
@[simp] theorem writeMem_pending : (writeMem s a bs).pending = s.pending := by unfold writeMem; split <;> rfl

end

section
variable (s : State) (a : Nat) (ms : List Bool)

@[simp] theorem setMarks_run : (setMarks s a ms).run = s.run := rfl
@[simp] theorem setMarks_units : (setMarks s a ms).units = s.units := rfl
@[simp] theorem setMarks_cnt : (setMarks s a ms).cnt = s.cnt := rfl
@[simp] theorem setMarks_dump : (setMarks s a ms).dump = s.dump := rfl
@[simp] theorem setMarks_power : (setMarks s a ms).power = s.power := rfl
@[simp] theorem setMarks_nor : (setMarks s a ms).nor = s.nor := rfl
@[simp] theorem setMarks_boot : (setMarks s a ms).boot = s.boot := rfl
@[simp] theorem setMarks_faults : (setMarks s a ms).faults = s.faults := rfl
@[simp] theorem setMarks_setup : (setMarks s a ms).setup = s.setup := rfl
@[simp] theorem setMarks_host : (setMarks s a ms).host = s.host := rfl
@[simp] theorem setMarks_recs : (setMarks s a ms).recs = s.recs := rfl
@[simp] theorem setMarks_bg : (setMarks s a ms).bg = s.bg := rfl
@[simp] theorem setMarks_flash : (setMarks s a ms).flash = s.flash := rfl
@[simp] theorem setMarks_fab : (setMarks s a ms).fab = s.fab := rfl
@[simp] theorem setMarks_conj : (setMarks s a ms).conj = s.conj := rfl
@[simp] theorem setMarks_orr : (setMarks s a ms).orr = s.orr := rfl
@[simp] theorem setMarks_node : (setMarks s a ms).node = s.node := rfl
@[simp] theorem setMarks_drawn : (setMarks s a ms).drawn = s.drawn := rfl
@[simp] theorem setMarks_pending : (setMarks s a ms).pending = s.pending := rfl

end

section
variable (s : State) (k : Nat) (w : Landing)

@[simp] theorem later_units : (later s k w).units = s.units := rfl
@[simp] theorem later_mem : (later s k w).mem = s.mem := rfl
@[simp] theorem later_cnt : (later s k w).cnt = s.cnt := rfl
@[simp] theorem later_dump : (later s k w).dump = s.dump := rfl
@[simp] theorem later_power : (later s k w).power = s.power := rfl
@[simp] theorem later_nor : (later s k w).nor = s.nor := rfl
@[simp] theorem later_boot : (later s k w).boot = s.boot := rfl
@[simp] theorem later_faults : (later s k w).faults = s.faults := rfl
@[simp] theorem later_setup : (later s k w).setup = s.setup := rfl
@[simp] theorem later_host : (later s k w).host = s.host := rfl
@[simp] theorem later_recs : (later s k w).recs = s.recs := rfl
@[simp] theorem later_bg : (later s k w).bg = s.bg := rfl
@[simp] theorem later_flash : (later s k w).flash = s.flash := rfl
@[simp] theorem later_fab : (later s k w).fab = s.fab := rfl
@[simp] theorem later_conj : (later s k w).conj = s.conj := rfl
@[simp] theorem later_orr : (later s k w).orr = s.orr := rfl
@[simp] theorem later_node : (later s k w).node = s.node := rfl
@[simp] theorem later_drawn : (later s k w).drawn = s.drawn := rfl
@[simp] theorem later_pending : (later s k w).pending = s.pending := rfl

end

section
variable (s : State) (cl reg : Nat) (vs : List W32)

@[simp] theorem setVreg_run : (setVreg s cl reg vs).run = s.run := rfl
@[simp] theorem setVreg_mem : (setVreg s cl reg vs).mem = s.mem := rfl
@[simp] theorem setVreg_cnt : (setVreg s cl reg vs).cnt = s.cnt := rfl
@[simp] theorem setVreg_dump : (setVreg s cl reg vs).dump = s.dump := rfl
@[simp] theorem setVreg_power : (setVreg s cl reg vs).power = s.power := rfl
@[simp] theorem setVreg_nor : (setVreg s cl reg vs).nor = s.nor := rfl
@[simp] theorem setVreg_boot : (setVreg s cl reg vs).boot = s.boot := rfl
@[simp] theorem setVreg_faults : (setVreg s cl reg vs).faults = s.faults := rfl
@[simp] theorem setVreg_setup : (setVreg s cl reg vs).setup = s.setup := rfl
@[simp] theorem setVreg_host : (setVreg s cl reg vs).host = s.host := rfl
@[simp] theorem setVreg_recs : (setVreg s cl reg vs).recs = s.recs := rfl
@[simp] theorem setVreg_bg : (setVreg s cl reg vs).bg = s.bg := rfl
@[simp] theorem setVreg_flash : (setVreg s cl reg vs).flash = s.flash := rfl
@[simp] theorem setVreg_fab : (setVreg s cl reg vs).fab = s.fab := rfl
@[simp] theorem setVreg_conj : (setVreg s cl reg vs).conj = s.conj := rfl
@[simp] theorem setVreg_orr : (setVreg s cl reg vs).orr = s.orr := rfl
@[simp] theorem setVreg_node : (setVreg s cl reg vs).node = s.node := rfl
@[simp] theorem setVreg_drawn : (setVreg s cl reg vs).drawn = s.drawn := rfl
@[simp] theorem setVreg_pending : (setVreg s cl reg vs).pending = s.pending := rfl

end

section
variable (s : State) (d g i c n : Nat)

@[simp] theorem count_run : (count s d g i c n).run = s.run := rfl
@[simp] theorem count_units : (count s d g i c n).units = s.units := rfl
@[simp] theorem count_mem : (count s d g i c n).mem = s.mem := rfl
@[simp] theorem count_dump : (count s d g i c n).dump = s.dump := rfl
@[simp] theorem count_power : (count s d g i c n).power = s.power := rfl
@[simp] theorem count_nor : (count s d g i c n).nor = s.nor := rfl
@[simp] theorem count_boot : (count s d g i c n).boot = s.boot := rfl
@[simp] theorem count_faults : (count s d g i c n).faults = s.faults := rfl
@[simp] theorem count_setup : (count s d g i c n).setup = s.setup := rfl
@[simp] theorem count_host : (count s d g i c n).host = s.host := rfl
@[simp] theorem count_recs : (count s d g i c n).recs = s.recs := rfl
@[simp] theorem count_bg : (count s d g i c n).bg = s.bg := rfl
@[simp] theorem count_flash : (count s d g i c n).flash = s.flash := rfl
@[simp] theorem count_fab : (count s d g i c n).fab = s.fab := rfl
@[simp] theorem count_conj : (count s d g i c n).conj = s.conj := rfl
@[simp] theorem count_orr : (count s d g i c n).orr = s.orr := rfl
@[simp] theorem count_node : (count s d g i c n).node = s.node := rfl
@[simp] theorem count_drawn : (count s d g i c n).drawn = s.drawn := rfl
@[simp] theorem count_pending : (count s d g i c n).pending = s.pending := rfl

end

section
variable (s : State) (id c n : Nat)

@[simp] theorem countLane_run : (countLane s id c n).run = s.run := rfl
@[simp] theorem countLane_units : (countLane s id c n).units = s.units := rfl
@[simp] theorem countLane_mem : (countLane s id c n).mem = s.mem := rfl
@[simp] theorem countLane_dump : (countLane s id c n).dump = s.dump := rfl
@[simp] theorem countLane_power : (countLane s id c n).power = s.power := rfl
@[simp] theorem countLane_nor : (countLane s id c n).nor = s.nor := rfl
@[simp] theorem countLane_boot : (countLane s id c n).boot = s.boot := rfl
@[simp] theorem countLane_faults : (countLane s id c n).faults = s.faults := rfl
@[simp] theorem countLane_setup : (countLane s id c n).setup = s.setup := rfl
@[simp] theorem countLane_host : (countLane s id c n).host = s.host := rfl
@[simp] theorem countLane_recs : (countLane s id c n).recs = s.recs := rfl
@[simp] theorem countLane_bg : (countLane s id c n).bg = s.bg := rfl
@[simp] theorem countLane_flash : (countLane s id c n).flash = s.flash := rfl
@[simp] theorem countLane_fab : (countLane s id c n).fab = s.fab := rfl
@[simp] theorem countLane_conj : (countLane s id c n).conj = s.conj := rfl
@[simp] theorem countLane_orr : (countLane s id c n).orr = s.orr := rfl
@[simp] theorem countLane_node : (countLane s id c n).node = s.node := rfl
@[simp] theorem countLane_drawn : (countLane s id c n).drawn = s.drawn := rfl
@[simp] theorem countLane_pending : (countLane s id c n).pending = s.pending := rfl

end

section
variable (s : State) (id c n : Nat)

@[simp] theorem countTier_run : (countTier s id c n).run = s.run := rfl
@[simp] theorem countTier_units : (countTier s id c n).units = s.units := rfl
@[simp] theorem countTier_mem : (countTier s id c n).mem = s.mem := rfl
@[simp] theorem countTier_dump : (countTier s id c n).dump = s.dump := rfl
@[simp] theorem countTier_power : (countTier s id c n).power = s.power := rfl
@[simp] theorem countTier_nor : (countTier s id c n).nor = s.nor := rfl
@[simp] theorem countTier_boot : (countTier s id c n).boot = s.boot := rfl
@[simp] theorem countTier_faults : (countTier s id c n).faults = s.faults := rfl
@[simp] theorem countTier_setup : (countTier s id c n).setup = s.setup := rfl
@[simp] theorem countTier_host : (countTier s id c n).host = s.host := rfl
@[simp] theorem countTier_recs : (countTier s id c n).recs = s.recs := rfl
@[simp] theorem countTier_bg : (countTier s id c n).bg = s.bg := rfl
@[simp] theorem countTier_flash : (countTier s id c n).flash = s.flash := rfl
@[simp] theorem countTier_fab : (countTier s id c n).fab = s.fab := rfl
@[simp] theorem countTier_conj : (countTier s id c n).conj = s.conj := rfl
@[simp] theorem countTier_orr : (countTier s id c n).orr = s.orr := rfl
@[simp] theorem countTier_node : (countTier s id c n).node = s.node := rfl
@[simp] theorem countTier_drawn : (countTier s id c n).drawn = s.drawn := rfl
@[simp] theorem countTier_pending : (countTier s id c n).pending = s.pending := rfl

end

section
variable (s : State) (id c n : Nat)

@[simp] theorem countArith_run : (countArith s id c n).run = s.run := by unfold countArith; split <;> rfl
@[simp] theorem countArith_units : (countArith s id c n).units = s.units := by unfold countArith; split <;> rfl
@[simp] theorem countArith_mem : (countArith s id c n).mem = s.mem := by unfold countArith; split <;> rfl
@[simp] theorem countArith_dump : (countArith s id c n).dump = s.dump := by unfold countArith; split <;> rfl
@[simp] theorem countArith_power : (countArith s id c n).power = s.power := by unfold countArith; split <;> rfl
@[simp] theorem countArith_nor : (countArith s id c n).nor = s.nor := by unfold countArith; split <;> rfl
@[simp] theorem countArith_boot : (countArith s id c n).boot = s.boot := by unfold countArith; split <;> rfl
@[simp] theorem countArith_faults : (countArith s id c n).faults = s.faults := by unfold countArith; split <;> rfl
@[simp] theorem countArith_setup : (countArith s id c n).setup = s.setup := by unfold countArith; split <;> rfl
@[simp] theorem countArith_host : (countArith s id c n).host = s.host := by unfold countArith; split <;> rfl
@[simp] theorem countArith_recs : (countArith s id c n).recs = s.recs := by unfold countArith; split <;> rfl
@[simp] theorem countArith_bg : (countArith s id c n).bg = s.bg := by unfold countArith; split <;> rfl
@[simp] theorem countArith_flash : (countArith s id c n).flash = s.flash := by unfold countArith; split <;> rfl
@[simp] theorem countArith_fab : (countArith s id c n).fab = s.fab := by unfold countArith; split <;> rfl
@[simp] theorem countArith_conj : (countArith s id c n).conj = s.conj := by unfold countArith; split <;> rfl
@[simp] theorem countArith_orr : (countArith s id c n).orr = s.orr := by unfold countArith; split <;> rfl
@[simp] theorem countArith_node : (countArith s id c n).node = s.node := by unfold countArith; split <;> rfl
@[simp] theorem countArith_drawn : (countArith s id c n).drawn = s.drawn := by unfold countArith; split <;> rfl
@[simp] theorem countArith_pending : (countArith s id c n).pending = s.pending := by unfold countArith; split <;> rfl

end

section
variable (s : State) (id a b : Nat)

@[simp] theorem countConv_run : (countConv s id a b).run = s.run := by simp [countConv]
@[simp] theorem countConv_units : (countConv s id a b).units = s.units := by simp [countConv]
@[simp] theorem countConv_mem : (countConv s id a b).mem = s.mem := by simp [countConv]
@[simp] theorem countConv_dump : (countConv s id a b).dump = s.dump := by simp [countConv]
@[simp] theorem countConv_power : (countConv s id a b).power = s.power := by simp [countConv]
@[simp] theorem countConv_nor : (countConv s id a b).nor = s.nor := by simp [countConv]
@[simp] theorem countConv_boot : (countConv s id a b).boot = s.boot := by simp [countConv]
@[simp] theorem countConv_faults : (countConv s id a b).faults = s.faults := by simp [countConv]
@[simp] theorem countConv_setup : (countConv s id a b).setup = s.setup := by simp [countConv]
@[simp] theorem countConv_host : (countConv s id a b).host = s.host := by simp [countConv]
@[simp] theorem countConv_recs : (countConv s id a b).recs = s.recs := by simp [countConv]
@[simp] theorem countConv_bg : (countConv s id a b).bg = s.bg := by simp [countConv]
@[simp] theorem countConv_flash : (countConv s id a b).flash = s.flash := by simp [countConv]
@[simp] theorem countConv_fab : (countConv s id a b).fab = s.fab := by simp [countConv]
@[simp] theorem countConv_conj : (countConv s id a b).conj = s.conj := by simp [countConv]
@[simp] theorem countConv_orr : (countConv s id a b).orr = s.orr := by simp [countConv]
@[simp] theorem countConv_node : (countConv s id a b).node = s.node := by simp [countConv]
@[simp] theorem countConv_drawn : (countConv s id a b).drawn = s.drawn := by simp [countConv]
@[simp] theorem countConv_pending : (countConv s id a b).pending = s.pending := by simp [countConv]

end

section
variable (s : State) (sl c n : Nat)

@[simp] theorem countRec_run : (countRec s sl c n).run = s.run := by unfold countRec; split <;> rfl
@[simp] theorem countRec_units : (countRec s sl c n).units = s.units := by unfold countRec; split <;> rfl
@[simp] theorem countRec_mem : (countRec s sl c n).mem = s.mem := by unfold countRec; split <;> rfl
@[simp] theorem countRec_dump : (countRec s sl c n).dump = s.dump := by unfold countRec; split <;> rfl
@[simp] theorem countRec_power : (countRec s sl c n).power = s.power := by unfold countRec; split <;> rfl
@[simp] theorem countRec_nor : (countRec s sl c n).nor = s.nor := by unfold countRec; split <;> rfl
@[simp] theorem countRec_boot : (countRec s sl c n).boot = s.boot := by unfold countRec; split <;> rfl
@[simp] theorem countRec_faults : (countRec s sl c n).faults = s.faults := by unfold countRec; split <;> rfl
@[simp] theorem countRec_setup : (countRec s sl c n).setup = s.setup := by unfold countRec; split <;> rfl
@[simp] theorem countRec_host : (countRec s sl c n).host = s.host := by unfold countRec; split <;> rfl
@[simp] theorem countRec_recs : (countRec s sl c n).recs = s.recs := by unfold countRec; split <;> rfl
@[simp] theorem countRec_bg : (countRec s sl c n).bg = s.bg := by unfold countRec; split <;> rfl
@[simp] theorem countRec_flash : (countRec s sl c n).flash = s.flash := by unfold countRec; split <;> rfl
@[simp] theorem countRec_fab : (countRec s sl c n).fab = s.fab := by unfold countRec; split <;> rfl
@[simp] theorem countRec_conj : (countRec s sl c n).conj = s.conj := by unfold countRec; split <;> rfl
@[simp] theorem countRec_orr : (countRec s sl c n).orr = s.orr := by unfold countRec; split <;> rfl
@[simp] theorem countRec_node : (countRec s sl c n).node = s.node := by unfold countRec; split <;> rfl
@[simp] theorem countRec_drawn : (countRec s sl c n).drawn = s.drawn := by unfold countRec; split <;> rfl
@[simp] theorem countRec_pending : (countRec s sl c n).pending = s.pending := by unfold countRec; split <;> rfl

end

section
variable (s : State) (id n : Nat)

@[simp] theorem ran_units : (ran s id n).units = s.units := rfl
@[simp] theorem ran_mem : (ran s id n).mem = s.mem := rfl
@[simp] theorem ran_dump : (ran s id n).dump = s.dump := rfl
@[simp] theorem ran_power : (ran s id n).power = s.power := rfl
@[simp] theorem ran_nor : (ran s id n).nor = s.nor := rfl
@[simp] theorem ran_boot : (ran s id n).boot = s.boot := rfl
@[simp] theorem ran_faults : (ran s id n).faults = s.faults := rfl
@[simp] theorem ran_setup : (ran s id n).setup = s.setup := rfl
@[simp] theorem ran_host : (ran s id n).host = s.host := rfl
@[simp] theorem ran_recs : (ran s id n).recs = s.recs := rfl
@[simp] theorem ran_bg : (ran s id n).bg = s.bg := rfl
@[simp] theorem ran_flash : (ran s id n).flash = s.flash := rfl
@[simp] theorem ran_fab : (ran s id n).fab = s.fab := rfl
@[simp] theorem ran_conj : (ran s id n).conj = s.conj := rfl
@[simp] theorem ran_orr : (ran s id n).orr = s.orr := rfl
@[simp] theorem ran_node : (ran s id n).node = s.node := rfl
@[simp] theorem ran_drawn : (ran s id n).drawn = s.drawn := rfl
@[simp] theorem ran_pending : (ran s id n).pending = s.pending := rfl

end

section
variable (s : State) (p a : Nat) (bs : Bytes)

@[simp] theorem hostWrite_run : (hostWrite s p a bs).run = s.run := rfl
@[simp] theorem hostWrite_units : (hostWrite s p a bs).units = s.units := rfl
@[simp] theorem hostWrite_dump : (hostWrite s p a bs).dump = s.dump := rfl
@[simp] theorem hostWrite_power : (hostWrite s p a bs).power = s.power := rfl
@[simp] theorem hostWrite_nor : (hostWrite s p a bs).nor = s.nor := rfl
@[simp] theorem hostWrite_boot : (hostWrite s p a bs).boot = s.boot := rfl
@[simp] theorem hostWrite_faults : (hostWrite s p a bs).faults = s.faults := rfl
@[simp] theorem hostWrite_setup : (hostWrite s p a bs).setup = s.setup := rfl
@[simp] theorem hostWrite_host : (hostWrite s p a bs).host = s.host := rfl
@[simp] theorem hostWrite_recs : (hostWrite s p a bs).recs = s.recs := rfl
@[simp] theorem hostWrite_bg : (hostWrite s p a bs).bg = s.bg := rfl
@[simp] theorem hostWrite_flash : (hostWrite s p a bs).flash = s.flash := rfl
@[simp] theorem hostWrite_fab : (hostWrite s p a bs).fab = s.fab := rfl
@[simp] theorem hostWrite_conj : (hostWrite s p a bs).conj = s.conj := rfl
@[simp] theorem hostWrite_orr : (hostWrite s p a bs).orr = s.orr := rfl
@[simp] theorem hostWrite_node : (hostWrite s p a bs).node = s.node := rfl
@[simp] theorem hostWrite_drawn : (hostWrite s p a bs).drawn = s.drawn := rfl
@[simp] theorem hostWrite_pending : (hostWrite s p a bs).pending = s.pending := rfl

end

section
variable (s : State) (p v : Nat)

@[simp] theorem sendVector_run : (sendVector s p v).run = s.run := rfl
@[simp] theorem sendVector_units : (sendVector s p v).units = s.units := rfl
@[simp] theorem sendVector_cnt : (sendVector s p v).cnt = s.cnt := rfl
@[simp] theorem sendVector_dump : (sendVector s p v).dump = s.dump := rfl
@[simp] theorem sendVector_power : (sendVector s p v).power = s.power := rfl
@[simp] theorem sendVector_nor : (sendVector s p v).nor = s.nor := rfl
@[simp] theorem sendVector_boot : (sendVector s p v).boot = s.boot := rfl
@[simp] theorem sendVector_faults : (sendVector s p v).faults = s.faults := rfl
@[simp] theorem sendVector_setup : (sendVector s p v).setup = s.setup := rfl
@[simp] theorem sendVector_host : (sendVector s p v).host = s.host := rfl
@[simp] theorem sendVector_recs : (sendVector s p v).recs = s.recs := rfl
@[simp] theorem sendVector_bg : (sendVector s p v).bg = s.bg := rfl
@[simp] theorem sendVector_flash : (sendVector s p v).flash = s.flash := rfl
@[simp] theorem sendVector_fab : (sendVector s p v).fab = s.fab := rfl
@[simp] theorem sendVector_conj : (sendVector s p v).conj = s.conj := rfl
@[simp] theorem sendVector_orr : (sendVector s p v).orr = s.orr := rfl
@[simp] theorem sendVector_node : (sendVector s p v).node = s.node := rfl
@[simp] theorem sendVector_drawn : (sendVector s p v).drawn = s.drawn := rfl
@[simp] theorem sendVector_pending : (sendVector s p v).pending = s.pending := rfl

end

section
variable (s : State) (p v : Nat)

@[simp] theorem raise_run : (raise s p v).run = s.run := by simp only [raise, apply_ite State.run, sendVector_run, ite_self]
@[simp] theorem raise_units : (raise s p v).units = s.units := by simp only [raise, apply_ite State.units, sendVector_units, ite_self]
@[simp] theorem raise_cnt : (raise s p v).cnt = s.cnt := by simp only [raise, apply_ite State.cnt, sendVector_cnt, ite_self]
@[simp] theorem raise_dump : (raise s p v).dump = s.dump := by simp only [raise, apply_ite State.dump, sendVector_dump, ite_self]
@[simp] theorem raise_power : (raise s p v).power = s.power := by simp only [raise, apply_ite State.power, sendVector_power, ite_self]
@[simp] theorem raise_nor : (raise s p v).nor = s.nor := by simp only [raise, apply_ite State.nor, sendVector_nor, ite_self]
@[simp] theorem raise_boot : (raise s p v).boot = s.boot := by simp only [raise, apply_ite State.boot, sendVector_boot, ite_self]
@[simp] theorem raise_faults : (raise s p v).faults = s.faults := by simp only [raise, apply_ite State.faults, sendVector_faults, ite_self]
@[simp] theorem raise_setup : (raise s p v).setup = s.setup := by simp only [raise, apply_ite State.setup, sendVector_setup, ite_self]
@[simp] theorem raise_recs : (raise s p v).recs = s.recs := by simp only [raise, apply_ite State.recs, sendVector_recs, ite_self]
@[simp] theorem raise_bg : (raise s p v).bg = s.bg := by simp only [raise, apply_ite State.bg, sendVector_bg, ite_self]
@[simp] theorem raise_flash : (raise s p v).flash = s.flash := by simp only [raise, apply_ite State.flash, sendVector_flash, ite_self]
@[simp] theorem raise_fab : (raise s p v).fab = s.fab := by simp only [raise, apply_ite State.fab, sendVector_fab, ite_self]
@[simp] theorem raise_conj : (raise s p v).conj = s.conj := by simp only [raise, apply_ite State.conj, sendVector_conj, ite_self]
@[simp] theorem raise_orr : (raise s p v).orr = s.orr := by simp only [raise, apply_ite State.orr, sendVector_orr, ite_self]
@[simp] theorem raise_node : (raise s p v).node = s.node := by simp only [raise, apply_ite State.node, sendVector_node, ite_self]
@[simp] theorem raise_drawn : (raise s p v).drawn = s.drawn := by simp only [raise, apply_ite State.drawn, sendVector_drawn, ite_self]
@[simp] theorem raise_pending : (raise s p v).pending = s.pending := by simp only [raise, apply_ite State.pending, sendVector_pending, ite_self]

end

section
variable (s : State) (p sl : Nat) (e : Bytes)

@[simp] theorem pushEvent_run : (pushEvent s p sl e).run = s.run := by simp only [pushEvent, apply_ite State.run, raise_run, ite_self]
@[simp] theorem pushEvent_units : (pushEvent s p sl e).units = s.units := by simp only [pushEvent, apply_ite State.units, raise_units, ite_self]
@[simp] theorem pushEvent_cnt : (pushEvent s p sl e).cnt = s.cnt := by simp only [pushEvent, apply_ite State.cnt, raise_cnt, ite_self]
@[simp] theorem pushEvent_dump : (pushEvent s p sl e).dump = s.dump := by simp only [pushEvent, apply_ite State.dump, raise_dump, ite_self]
@[simp] theorem pushEvent_power : (pushEvent s p sl e).power = s.power := by simp only [pushEvent, apply_ite State.power, raise_power, ite_self]
@[simp] theorem pushEvent_nor : (pushEvent s p sl e).nor = s.nor := by simp only [pushEvent, apply_ite State.nor, raise_nor, ite_self]
@[simp] theorem pushEvent_boot : (pushEvent s p sl e).boot = s.boot := by simp only [pushEvent, apply_ite State.boot, raise_boot, ite_self]
@[simp] theorem pushEvent_faults : (pushEvent s p sl e).faults = s.faults := by simp only [pushEvent, apply_ite State.faults, raise_faults, ite_self]
@[simp] theorem pushEvent_setup : (pushEvent s p sl e).setup = s.setup := by simp only [pushEvent, apply_ite State.setup, raise_setup, ite_self]
@[simp] theorem pushEvent_recs : (pushEvent s p sl e).recs = s.recs := by simp only [pushEvent, apply_ite State.recs, raise_recs, ite_self]
@[simp] theorem pushEvent_bg : (pushEvent s p sl e).bg = s.bg := by simp only [pushEvent, apply_ite State.bg, raise_bg, ite_self]
@[simp] theorem pushEvent_flash : (pushEvent s p sl e).flash = s.flash := by simp only [pushEvent, apply_ite State.flash, raise_flash, ite_self]
@[simp] theorem pushEvent_fab : (pushEvent s p sl e).fab = s.fab := by simp only [pushEvent, apply_ite State.fab, raise_fab, ite_self]
@[simp] theorem pushEvent_conj : (pushEvent s p sl e).conj = s.conj := by simp only [pushEvent, apply_ite State.conj, raise_conj, ite_self]
@[simp] theorem pushEvent_orr : (pushEvent s p sl e).orr = s.orr := by simp only [pushEvent, apply_ite State.orr, raise_orr, ite_self]
@[simp] theorem pushEvent_node : (pushEvent s p sl e).node = s.node := by simp only [pushEvent, apply_ite State.node, raise_node, ite_self]
@[simp] theorem pushEvent_drawn : (pushEvent s p sl e).drawn = s.drawn := by simp only [pushEvent, apply_ite State.drawn, raise_drawn, ite_self]
@[simp] theorem pushEvent_pending : (pushEvent s p sl e).pending = s.pending := by simp only [pushEvent, apply_ite State.pending, raise_pending, ite_self]

end

section
variable (s : State) (sl c lo ar : Nat)

@[simp] theorem postEvent_run : (postEvent s sl c lo ar).run = s.run := by unfold postEvent; exact foldl_keeps State.run _ (fun t p => by split <;> simp) _ _
@[simp] theorem postEvent_units : (postEvent s sl c lo ar).units = s.units := by unfold postEvent; exact foldl_keeps State.units _ (fun t p => by split <;> simp) _ _
@[simp] theorem postEvent_cnt : (postEvent s sl c lo ar).cnt = s.cnt := by unfold postEvent; exact foldl_keeps State.cnt _ (fun t p => by split <;> simp) _ _
@[simp] theorem postEvent_dump : (postEvent s sl c lo ar).dump = s.dump := by unfold postEvent; exact foldl_keeps State.dump _ (fun t p => by split <;> simp) _ _
@[simp] theorem postEvent_power : (postEvent s sl c lo ar).power = s.power := by unfold postEvent; exact foldl_keeps State.power _ (fun t p => by split <;> simp) _ _
@[simp] theorem postEvent_nor : (postEvent s sl c lo ar).nor = s.nor := by unfold postEvent; exact foldl_keeps State.nor _ (fun t p => by split <;> simp) _ _
@[simp] theorem postEvent_boot : (postEvent s sl c lo ar).boot = s.boot := by unfold postEvent; exact foldl_keeps State.boot _ (fun t p => by split <;> simp) _ _
@[simp] theorem postEvent_faults : (postEvent s sl c lo ar).faults = s.faults := by unfold postEvent; exact foldl_keeps State.faults _ (fun t p => by split <;> simp) _ _
@[simp] theorem postEvent_setup : (postEvent s sl c lo ar).setup = s.setup := by unfold postEvent; exact foldl_keeps State.setup _ (fun t p => by split <;> simp) _ _
@[simp] theorem postEvent_recs : (postEvent s sl c lo ar).recs = s.recs := by unfold postEvent; exact foldl_keeps State.recs _ (fun t p => by split <;> simp) _ _
@[simp] theorem postEvent_bg : (postEvent s sl c lo ar).bg = s.bg := by unfold postEvent; exact foldl_keeps State.bg _ (fun t p => by split <;> simp) _ _
@[simp] theorem postEvent_flash : (postEvent s sl c lo ar).flash = s.flash := by unfold postEvent; exact foldl_keeps State.flash _ (fun t p => by split <;> simp) _ _
@[simp] theorem postEvent_fab : (postEvent s sl c lo ar).fab = s.fab := by unfold postEvent; exact foldl_keeps State.fab _ (fun t p => by split <;> simp) _ _
@[simp] theorem postEvent_conj : (postEvent s sl c lo ar).conj = s.conj := by unfold postEvent; exact foldl_keeps State.conj _ (fun t p => by split <;> simp) _ _
@[simp] theorem postEvent_orr : (postEvent s sl c lo ar).orr = s.orr := by unfold postEvent; exact foldl_keeps State.orr _ (fun t p => by split <;> simp) _ _
@[simp] theorem postEvent_node : (postEvent s sl c lo ar).node = s.node := by unfold postEvent; exact foldl_keeps State.node _ (fun t p => by split <;> simp) _ _
@[simp] theorem postEvent_drawn : (postEvent s sl c lo ar).drawn = s.drawn := by unfold postEvent; exact foldl_keeps State.drawn _ (fun t p => by split <;> simp) _ _
@[simp] theorem postEvent_pending : (postEvent s sl c lo ar).pending = s.pending := by unfold postEvent; exact foldl_keeps State.pending _ (fun t p => by split <;> simp) _ _

end

section
variable (s : State) (m c lo ar : Nat)

@[simp] theorem postTargeted_run : (postTargeted s m c lo ar).run = s.run := by simp only [postTargeted, pushEvent_run]
@[simp] theorem postTargeted_units : (postTargeted s m c lo ar).units = s.units := by simp only [postTargeted, pushEvent_units]
@[simp] theorem postTargeted_cnt : (postTargeted s m c lo ar).cnt = s.cnt := by simp only [postTargeted, pushEvent_cnt]
@[simp] theorem postTargeted_dump : (postTargeted s m c lo ar).dump = s.dump := by simp only [postTargeted, pushEvent_dump]
@[simp] theorem postTargeted_power : (postTargeted s m c lo ar).power = s.power := by simp only [postTargeted, pushEvent_power]
@[simp] theorem postTargeted_nor : (postTargeted s m c lo ar).nor = s.nor := by simp only [postTargeted, pushEvent_nor]
@[simp] theorem postTargeted_boot : (postTargeted s m c lo ar).boot = s.boot := by simp only [postTargeted, pushEvent_boot]
@[simp] theorem postTargeted_faults : (postTargeted s m c lo ar).faults = s.faults := by simp only [postTargeted, pushEvent_faults]
@[simp] theorem postTargeted_setup : (postTargeted s m c lo ar).setup = s.setup := by simp only [postTargeted, pushEvent_setup]
@[simp] theorem postTargeted_recs : (postTargeted s m c lo ar).recs = s.recs := by simp only [postTargeted, pushEvent_recs]
@[simp] theorem postTargeted_bg : (postTargeted s m c lo ar).bg = s.bg := by simp only [postTargeted, pushEvent_bg]
@[simp] theorem postTargeted_flash : (postTargeted s m c lo ar).flash = s.flash := by simp only [postTargeted, pushEvent_flash]
@[simp] theorem postTargeted_fab : (postTargeted s m c lo ar).fab = s.fab := by simp only [postTargeted, pushEvent_fab]
@[simp] theorem postTargeted_conj : (postTargeted s m c lo ar).conj = s.conj := by simp only [postTargeted, pushEvent_conj]
@[simp] theorem postTargeted_orr : (postTargeted s m c lo ar).orr = s.orr := by simp only [postTargeted, pushEvent_orr]
@[simp] theorem postTargeted_node : (postTargeted s m c lo ar).node = s.node := by simp only [postTargeted, pushEvent_node]
@[simp] theorem postTargeted_drawn : (postTargeted s m c lo ar).drawn = s.drawn := by simp only [postTargeted, pushEvent_drawn]
@[simp] theorem postTargeted_pending : (postTargeted s m c lo ar).pending = s.pending := by simp only [postTargeted, pushEvent_pending]

end

section
variable (s : State) (c lo ar : Nat)

@[simp] theorem postAll_run : (postAll s c lo ar).run = s.run := by unfold postAll; exact foldl_keeps State.run _ (fun t p => by simp) _ _
@[simp] theorem postAll_units : (postAll s c lo ar).units = s.units := by unfold postAll; exact foldl_keeps State.units _ (fun t p => by simp) _ _
@[simp] theorem postAll_cnt : (postAll s c lo ar).cnt = s.cnt := by unfold postAll; exact foldl_keeps State.cnt _ (fun t p => by simp) _ _
@[simp] theorem postAll_dump : (postAll s c lo ar).dump = s.dump := by unfold postAll; exact foldl_keeps State.dump _ (fun t p => by simp) _ _
@[simp] theorem postAll_power : (postAll s c lo ar).power = s.power := by unfold postAll; exact foldl_keeps State.power _ (fun t p => by simp) _ _
@[simp] theorem postAll_nor : (postAll s c lo ar).nor = s.nor := by unfold postAll; exact foldl_keeps State.nor _ (fun t p => by simp) _ _
@[simp] theorem postAll_boot : (postAll s c lo ar).boot = s.boot := by unfold postAll; exact foldl_keeps State.boot _ (fun t p => by simp) _ _
@[simp] theorem postAll_faults : (postAll s c lo ar).faults = s.faults := by unfold postAll; exact foldl_keeps State.faults _ (fun t p => by simp) _ _
@[simp] theorem postAll_setup : (postAll s c lo ar).setup = s.setup := by unfold postAll; exact foldl_keeps State.setup _ (fun t p => by simp) _ _
@[simp] theorem postAll_recs : (postAll s c lo ar).recs = s.recs := by unfold postAll; exact foldl_keeps State.recs _ (fun t p => by simp) _ _
@[simp] theorem postAll_bg : (postAll s c lo ar).bg = s.bg := by unfold postAll; exact foldl_keeps State.bg _ (fun t p => by simp) _ _
@[simp] theorem postAll_flash : (postAll s c lo ar).flash = s.flash := by unfold postAll; exact foldl_keeps State.flash _ (fun t p => by simp) _ _
@[simp] theorem postAll_fab : (postAll s c lo ar).fab = s.fab := by unfold postAll; exact foldl_keeps State.fab _ (fun t p => by simp) _ _
@[simp] theorem postAll_conj : (postAll s c lo ar).conj = s.conj := by unfold postAll; exact foldl_keeps State.conj _ (fun t p => by simp) _ _
@[simp] theorem postAll_orr : (postAll s c lo ar).orr = s.orr := by unfold postAll; exact foldl_keeps State.orr _ (fun t p => by simp) _ _
@[simp] theorem postAll_node : (postAll s c lo ar).node = s.node := by unfold postAll; exact foldl_keeps State.node _ (fun t p => by simp) _ _
@[simp] theorem postAll_drawn : (postAll s c lo ar).drawn = s.drawn := by unfold postAll; exact foldl_keeps State.drawn _ (fun t p => by simp) _ _
@[simp] theorem postAll_pending : (postAll s c lo ar).pending = s.pending := by unfold postAll; exact foldl_keeps State.pending _ (fun t p => by simp) _ _

end

section
variable (s : State) (st : Nat)

@[simp] theorem enterState_run : (enterState s st).run = s.run := by simp only [enterState, apply_ite State.run, raise_run, postAll_run, ite_self]
@[simp] theorem enterState_units : (enterState s st).units = s.units := by simp only [enterState, apply_ite State.units, raise_units, postAll_units, ite_self]
@[simp] theorem enterState_cnt : (enterState s st).cnt = s.cnt := by simp only [enterState, apply_ite State.cnt, raise_cnt, postAll_cnt, ite_self]
@[simp] theorem enterState_dump : (enterState s st).dump = s.dump := by simp only [enterState, apply_ite State.dump, raise_dump, postAll_dump, ite_self]
@[simp] theorem enterState_power : (enterState s st).power = s.power := by simp only [enterState, apply_ite State.power, raise_power, postAll_power, ite_self]
@[simp] theorem enterState_nor : (enterState s st).nor = s.nor := by simp only [enterState, apply_ite State.nor, raise_nor, postAll_nor, ite_self]
@[simp] theorem enterState_boot : (enterState s st).boot = s.boot := by simp only [enterState, apply_ite State.boot, raise_boot, postAll_boot, ite_self]
@[simp] theorem enterState_faults : (enterState s st).faults = s.faults := by simp only [enterState, apply_ite State.faults, raise_faults, postAll_faults, ite_self]
@[simp] theorem enterState_setup : (enterState s st).setup = s.setup := by simp only [enterState, apply_ite State.setup, raise_setup, postAll_setup, ite_self]
@[simp] theorem enterState_recs : (enterState s st).recs = s.recs := by simp only [enterState, apply_ite State.recs, raise_recs, postAll_recs, ite_self]
@[simp] theorem enterState_bg : (enterState s st).bg = s.bg := by simp only [enterState, apply_ite State.bg, raise_bg, postAll_bg, ite_self]
@[simp] theorem enterState_flash : (enterState s st).flash = s.flash := by simp only [enterState, apply_ite State.flash, raise_flash, postAll_flash, ite_self]
@[simp] theorem enterState_fab : (enterState s st).fab = s.fab := by simp only [enterState, apply_ite State.fab, raise_fab, postAll_fab, ite_self]
@[simp] theorem enterState_conj : (enterState s st).conj = s.conj := by simp only [enterState, apply_ite State.conj, raise_conj, postAll_conj, ite_self]
@[simp] theorem enterState_orr : (enterState s st).orr = s.orr := by simp only [enterState, apply_ite State.orr, raise_orr, postAll_orr, ite_self]
@[simp] theorem enterState_drawn : (enterState s st).drawn = s.drawn := by simp only [enterState, apply_ite State.drawn, raise_drawn, postAll_drawn, ite_self]
@[simp] theorem enterState_pending : (enterState s st).pending = s.pending := by simp only [enterState, apply_ite State.pending, raise_pending, postAll_pending, ite_self]

end

section
variable (s : State) (op d n c v : Nat)

@[simp] theorem orrSend_run : (orrSend s op d n c v).run = s.run := rfl
@[simp] theorem orrSend_units : (orrSend s op d n c v).units = s.units := rfl
@[simp] theorem orrSend_mem : (orrSend s op d n c v).mem = s.mem := rfl
@[simp] theorem orrSend_cnt : (orrSend s op d n c v).cnt = s.cnt := rfl
@[simp] theorem orrSend_dump : (orrSend s op d n c v).dump = s.dump := rfl
@[simp] theorem orrSend_power : (orrSend s op d n c v).power = s.power := rfl
@[simp] theorem orrSend_nor : (orrSend s op d n c v).nor = s.nor := rfl
@[simp] theorem orrSend_boot : (orrSend s op d n c v).boot = s.boot := rfl
@[simp] theorem orrSend_faults : (orrSend s op d n c v).faults = s.faults := rfl
@[simp] theorem orrSend_setup : (orrSend s op d n c v).setup = s.setup := rfl
@[simp] theorem orrSend_host : (orrSend s op d n c v).host = s.host := rfl
@[simp] theorem orrSend_recs : (orrSend s op d n c v).recs = s.recs := rfl
@[simp] theorem orrSend_bg : (orrSend s op d n c v).bg = s.bg := rfl
@[simp] theorem orrSend_flash : (orrSend s op d n c v).flash = s.flash := rfl
@[simp] theorem orrSend_conj : (orrSend s op d n c v).conj = s.conj := rfl
@[simp] theorem orrSend_node : (orrSend s op d n c v).node = s.node := rfl
@[simp] theorem orrSend_drawn : (orrSend s op d n c v).drawn = s.drawn := rfl
@[simp] theorem orrSend_pending : (orrSend s op d n c v).pending = s.pending := rfl

end

section
variable (s : State) (n : Nat) (f : FaultInfo)

@[simp] theorem logFaultFor_run : (logFaultFor s n f).run = s.run := by unfold logFaultFor; dsimp only; (repeat' split) <;> simp
@[simp] theorem logFaultFor_units : (logFaultFor s n f).units = s.units := by unfold logFaultFor; dsimp only; (repeat' split) <;> simp
@[simp] theorem logFaultFor_cnt : (logFaultFor s n f).cnt = s.cnt := by unfold logFaultFor; dsimp only; (repeat' split) <;> simp
@[simp] theorem logFaultFor_power : (logFaultFor s n f).power = s.power := by unfold logFaultFor; dsimp only; (repeat' split) <;> simp
@[simp] theorem logFaultFor_nor : (logFaultFor s n f).nor = s.nor := by unfold logFaultFor; dsimp only; (repeat' split) <;> simp
@[simp] theorem logFaultFor_boot : (logFaultFor s n f).boot = s.boot := by unfold logFaultFor; dsimp only; (repeat' split) <;> simp
@[simp] theorem logFaultFor_faults : (logFaultFor s n f).faults = s.faults := by unfold logFaultFor; dsimp only; (repeat' split) <;> simp
@[simp] theorem logFaultFor_setup : (logFaultFor s n f).setup = s.setup := by unfold logFaultFor; dsimp only; (repeat' split) <;> simp
@[simp] theorem logFaultFor_recs : (logFaultFor s n f).recs = s.recs := by unfold logFaultFor; dsimp only; (repeat' split) <;> simp
@[simp] theorem logFaultFor_bg : (logFaultFor s n f).bg = s.bg := by unfold logFaultFor; dsimp only; (repeat' split) <;> simp
@[simp] theorem logFaultFor_flash : (logFaultFor s n f).flash = s.flash := by unfold logFaultFor; dsimp only; (repeat' split) <;> simp
@[simp] theorem logFaultFor_conj : (logFaultFor s n f).conj = s.conj := by unfold logFaultFor; dsimp only; (repeat' split) <;> simp
@[simp] theorem logFaultFor_node : (logFaultFor s n f).node = s.node := by unfold logFaultFor; dsimp only; (repeat' split) <;> simp
@[simp] theorem logFaultFor_drawn : (logFaultFor s n f).drawn = s.drawn := by unfold logFaultFor; dsimp only; (repeat' split) <;> simp
@[simp] theorem logFaultFor_pending : (logFaultFor s n f).pending = s.pending := by unfold logFaultFor; dsimp only; (repeat' split) <;> simp

end

section
variable (s : State) (f : FaultInfo)

@[simp] theorem logFault_run : (logFault s f).run = s.run := logFaultFor_run ..
@[simp] theorem logFault_units : (logFault s f).units = s.units := logFaultFor_units ..
@[simp] theorem logFault_cnt : (logFault s f).cnt = s.cnt := logFaultFor_cnt ..
@[simp] theorem logFault_power : (logFault s f).power = s.power := logFaultFor_power ..
@[simp] theorem logFault_nor : (logFault s f).nor = s.nor := logFaultFor_nor ..
@[simp] theorem logFault_boot : (logFault s f).boot = s.boot := logFaultFor_boot ..
@[simp] theorem logFault_faults : (logFault s f).faults = s.faults := logFaultFor_faults ..
@[simp] theorem logFault_setup : (logFault s f).setup = s.setup := logFaultFor_setup ..
@[simp] theorem logFault_recs : (logFault s f).recs = s.recs := logFaultFor_recs ..
@[simp] theorem logFault_bg : (logFault s f).bg = s.bg := logFaultFor_bg ..
@[simp] theorem logFault_flash : (logFault s f).flash = s.flash := logFaultFor_flash ..
@[simp] theorem logFault_conj : (logFault s f).conj = s.conj := logFaultFor_conj ..
@[simp] theorem logFault_node : (logFault s f).node = s.node := logFaultFor_node ..
@[simp] theorem logFault_drawn : (logFault s f).drawn = s.drawn := logFaultFor_drawn ..
@[simp] theorem logFault_pending : (logFault s f).pending = s.pending := logFaultFor_pending ..

end

section
variable (s : State) (c : Nat) (w : Work) (l : Nat) (u : Bool) (n : Nat)

@[simp] theorem addItem_run : (addItem s c w l u n).run = s.run := by simp only [addItem]; split <;> rfl
@[simp] theorem addItem_units : (addItem s c w l u n).units = s.units := by simp only [addItem]; split <;> rfl
@[simp] theorem addItem_mem : (addItem s c w l u n).mem = s.mem := by simp only [addItem]; split <;> rfl
@[simp] theorem addItem_dump : (addItem s c w l u n).dump = s.dump := by simp only [addItem]; split <;> rfl
@[simp] theorem addItem_power : (addItem s c w l u n).power = s.power := by simp only [addItem]; split <;> rfl
@[simp] theorem addItem_nor : (addItem s c w l u n).nor = s.nor := by simp only [addItem]; split <;> rfl
@[simp] theorem addItem_boot : (addItem s c w l u n).boot = s.boot := by simp only [addItem]; split <;> rfl
@[simp] theorem addItem_faults : (addItem s c w l u n).faults = s.faults := by simp only [addItem]; split <;> rfl
@[simp] theorem addItem_setup : (addItem s c w l u n).setup = s.setup := by simp only [addItem]; split <;> rfl
@[simp] theorem addItem_host : (addItem s c w l u n).host = s.host := by simp only [addItem]; split <;> rfl
@[simp] theorem addItem_recs : (addItem s c w l u n).recs = s.recs := by simp only [addItem]; split <;> rfl
@[simp] theorem addItem_flash : (addItem s c w l u n).flash = s.flash := by simp only [addItem]; split <;> rfl
@[simp] theorem addItem_fab : (addItem s c w l u n).fab = s.fab := by simp only [addItem]; split <;> rfl
@[simp] theorem addItem_conj : (addItem s c w l u n).conj = s.conj := by simp only [addItem]; split <;> rfl
@[simp] theorem addItem_orr : (addItem s c w l u n).orr = s.orr := by simp only [addItem]; split <;> rfl
@[simp] theorem addItem_node : (addItem s c w l u n).node = s.node := by simp only [addItem]; split <;> rfl
@[simp] theorem addItem_drawn : (addItem s c w l u n).drawn = s.drawn := by simp only [addItem]; split <;> rfl
@[simp] theorem addItem_pending : (addItem s c w l u n).pending = s.pending := by simp only [addItem]; split <;> rfl

end

section
variable (s : State) (m o : Nat) (bs : Bytes)

@[simp] theorem setFrame_run : (setFrame s m o bs).run = s.run := rfl
@[simp] theorem setFrame_units : (setFrame s m o bs).units = s.units := rfl
@[simp] theorem setFrame_mem : (setFrame s m o bs).mem = s.mem := rfl
@[simp] theorem setFrame_cnt : (setFrame s m o bs).cnt = s.cnt := rfl
@[simp] theorem setFrame_dump : (setFrame s m o bs).dump = s.dump := rfl
@[simp] theorem setFrame_power : (setFrame s m o bs).power = s.power := rfl
@[simp] theorem setFrame_nor : (setFrame s m o bs).nor = s.nor := rfl
@[simp] theorem setFrame_boot : (setFrame s m o bs).boot = s.boot := rfl
@[simp] theorem setFrame_faults : (setFrame s m o bs).faults = s.faults := rfl
@[simp] theorem setFrame_setup : (setFrame s m o bs).setup = s.setup := rfl
@[simp] theorem setFrame_recs : (setFrame s m o bs).recs = s.recs := rfl
@[simp] theorem setFrame_bg : (setFrame s m o bs).bg = s.bg := rfl
@[simp] theorem setFrame_flash : (setFrame s m o bs).flash = s.flash := rfl
@[simp] theorem setFrame_fab : (setFrame s m o bs).fab = s.fab := rfl
@[simp] theorem setFrame_conj : (setFrame s m o bs).conj = s.conj := rfl
@[simp] theorem setFrame_orr : (setFrame s m o bs).orr = s.orr := rfl
@[simp] theorem setFrame_node : (setFrame s m o bs).node = s.node := rfl
@[simp] theorem setFrame_drawn : (setFrame s m o bs).drawn = s.drawn := rfl
@[simp] theorem setFrame_pending : (setFrame s m o bs).pending = s.pending := rfl

end

section
variable (s : State) (m q st : Nat) (b r : Bytes)

@[simp] theorem respond_run : (respond s m q st b r).run = s.run := by simp [respond]
@[simp] theorem respond_units : (respond s m q st b r).units = s.units := by simp [respond]
@[simp] theorem respond_cnt : (respond s m q st b r).cnt = s.cnt := by simp [respond]
@[simp] theorem respond_dump : (respond s m q st b r).dump = s.dump := by simp [respond]
@[simp] theorem respond_power : (respond s m q st b r).power = s.power := by simp [respond]
@[simp] theorem respond_nor : (respond s m q st b r).nor = s.nor := by simp [respond]
@[simp] theorem respond_boot : (respond s m q st b r).boot = s.boot := by simp [respond]
@[simp] theorem respond_faults : (respond s m q st b r).faults = s.faults := by simp [respond]
@[simp] theorem respond_setup : (respond s m q st b r).setup = s.setup := by simp [respond]
@[simp] theorem respond_recs : (respond s m q st b r).recs = s.recs := by simp [respond]
@[simp] theorem respond_bg : (respond s m q st b r).bg = s.bg := by simp [respond]
@[simp] theorem respond_flash : (respond s m q st b r).flash = s.flash := by simp [respond]
@[simp] theorem respond_fab : (respond s m q st b r).fab = s.fab := by simp [respond]
@[simp] theorem respond_conj : (respond s m q st b r).conj = s.conj := by simp [respond]
@[simp] theorem respond_orr : (respond s m q st b r).orr = s.orr := by simp [respond]
@[simp] theorem respond_node : (respond s m q st b r).node = s.node := by simp [respond]
@[simp] theorem respond_drawn : (respond s m q st b r).drawn = s.drawn := by simp [respond]
@[simp] theorem respond_pending : (respond s m q st b r).pending = s.pending := by simp [respond]

end

section
variable (s : State) (m c r q : Nat) (x : Reply)

@[simp] theorem answer_run : (answer s m c r q x).run = s.run := by simp only [answer, apply_ite State.run, respond_run, ite_self]
@[simp] theorem answer_units : (answer s m c r q x).units = s.units := by simp only [answer, apply_ite State.units, respond_units, ite_self]
@[simp] theorem answer_cnt : (answer s m c r q x).cnt = s.cnt := by simp only [answer, apply_ite State.cnt, respond_cnt, ite_self]
@[simp] theorem answer_dump : (answer s m c r q x).dump = s.dump := by simp only [answer, apply_ite State.dump, respond_dump, ite_self]
@[simp] theorem answer_power : (answer s m c r q x).power = s.power := by simp only [answer, apply_ite State.power, respond_power, ite_self]
@[simp] theorem answer_nor : (answer s m c r q x).nor = s.nor := by simp only [answer, apply_ite State.nor, respond_nor, ite_self]
@[simp] theorem answer_boot : (answer s m c r q x).boot = s.boot := by simp only [answer, apply_ite State.boot, respond_boot, ite_self]
@[simp] theorem answer_faults : (answer s m c r q x).faults = s.faults := by simp only [answer, apply_ite State.faults, respond_faults, ite_self]
@[simp] theorem answer_setup : (answer s m c r q x).setup = s.setup := by simp only [answer, apply_ite State.setup, respond_setup, ite_self]
@[simp] theorem answer_recs : (answer s m c r q x).recs = s.recs := by simp only [answer, apply_ite State.recs, respond_recs, ite_self]
@[simp] theorem answer_bg : (answer s m c r q x).bg = s.bg := by simp only [answer, apply_ite State.bg, respond_bg, ite_self]
@[simp] theorem answer_flash : (answer s m c r q x).flash = s.flash := by simp only [answer, apply_ite State.flash, respond_flash, ite_self]
@[simp] theorem answer_fab : (answer s m c r q x).fab = s.fab := by simp only [answer, apply_ite State.fab, respond_fab, ite_self]
@[simp] theorem answer_conj : (answer s m c r q x).conj = s.conj := by simp only [answer, apply_ite State.conj, respond_conj, ite_self]
@[simp] theorem answer_orr : (answer s m c r q x).orr = s.orr := by simp only [answer, apply_ite State.orr, respond_orr, ite_self]
@[simp] theorem answer_node : (answer s m c r q x).node = s.node := by simp only [answer, apply_ite State.node, respond_node, ite_self]
@[simp] theorem answer_drawn : (answer s m c r q x).drawn = s.drawn := by simp only [answer, apply_ite State.drawn, respond_drawn, ite_self]
@[simp] theorem answer_pending : (answer s m c r q x).pending = s.pending := by simp only [answer, apply_ite State.pending, respond_pending, ite_self]

end

section
variable (s : State) (m : Nat) (r : Reply)

@[simp] theorem finish_run : (finish s m r).run = s.run := by
  unfold finish
  split
  · rfl
  · split <;> simp
@[simp] theorem finish_units : (finish s m r).units = s.units := by
  unfold finish
  split
  · rfl
  · split <;> simp
@[simp] theorem finish_cnt : (finish s m r).cnt = s.cnt := by
  unfold finish
  split
  · rfl
  · split <;> simp
@[simp] theorem finish_dump : (finish s m r).dump = s.dump := by
  unfold finish
  split
  · rfl
  · split <;> simp
@[simp] theorem finish_power : (finish s m r).power = s.power := by
  unfold finish
  split
  · rfl
  · split <;> simp
@[simp] theorem finish_nor : (finish s m r).nor = s.nor := by
  unfold finish
  split
  · rfl
  · split <;> simp
@[simp] theorem finish_boot : (finish s m r).boot = s.boot := by
  unfold finish
  split
  · rfl
  · split <;> simp
@[simp] theorem finish_faults : (finish s m r).faults = s.faults := by
  unfold finish
  split
  · rfl
  · split <;> simp
@[simp] theorem finish_setup : (finish s m r).setup = s.setup := by
  unfold finish
  split
  · rfl
  · split <;> simp
@[simp] theorem finish_recs : (finish s m r).recs = s.recs := by
  unfold finish
  split
  · rfl
  · split <;> simp
@[simp] theorem finish_bg : (finish s m r).bg = s.bg := by
  unfold finish
  split
  · rfl
  · split <;> simp
@[simp] theorem finish_flash : (finish s m r).flash = s.flash := by
  unfold finish
  split
  · rfl
  · split <;> simp
@[simp] theorem finish_fab : (finish s m r).fab = s.fab := by
  unfold finish
  split
  · rfl
  · split <;> simp
@[simp] theorem finish_conj : (finish s m r).conj = s.conj := by
  unfold finish
  split
  · rfl
  · split <;> simp
@[simp] theorem finish_orr : (finish s m r).orr = s.orr := by
  unfold finish
  split
  · rfl
  · split <;> simp
@[simp] theorem finish_node : (finish s m r).node = s.node := by
  unfold finish
  split
  · rfl
  · split <;> simp
@[simp] theorem finish_drawn : (finish s m r).drawn = s.drawn := by
  unfold finish
  split
  · rfl
  · split <;> simp
@[simp] theorem finish_pending : (finish s m r).pending = s.pending := by
  unfold finish
  split
  · rfl
  · split <;> simp

end

section
variable (s : State) (p : InProg)

@[simp] theorem abort_run : (abort s p).run = s.run := by unfold abort discardNext; dsimp only; rw [finish_run]; (repeat' split) <;> rfl
@[simp] theorem abort_units : (abort s p).units = s.units := by unfold abort discardNext; dsimp only; rw [finish_units]; (repeat' split) <;> rfl
@[simp] theorem abort_cnt : (abort s p).cnt = s.cnt := by unfold abort discardNext; dsimp only; rw [finish_cnt]; (repeat' split) <;> rfl
@[simp] theorem abort_dump : (abort s p).dump = s.dump := by unfold abort discardNext; dsimp only; rw [finish_dump]; (repeat' split) <;> rfl
@[simp] theorem abort_power : (abort s p).power = s.power := by unfold abort discardNext; dsimp only; rw [finish_power]; (repeat' split) <;> rfl
@[simp] theorem abort_nor : (abort s p).nor = s.nor := by unfold abort discardNext; dsimp only; rw [finish_nor]; (repeat' split) <;> rfl
@[simp] theorem abort_boot : (abort s p).boot = s.boot := by unfold abort discardNext; dsimp only; rw [finish_boot]; (repeat' split) <;> rfl
@[simp] theorem abort_faults : (abort s p).faults = s.faults := by unfold abort discardNext; dsimp only; rw [finish_faults]; (repeat' split) <;> rfl
@[simp] theorem abort_recs : (abort s p).recs = s.recs := by unfold abort discardNext; dsimp only; rw [finish_recs]; (repeat' split) <;> rfl
@[simp] theorem abort_bg : (abort s p).bg = s.bg := by unfold abort discardNext; dsimp only; rw [finish_bg]; (repeat' split) <;> rfl
@[simp] theorem abort_flash : (abort s p).flash = s.flash := by unfold abort discardNext; dsimp only; rw [finish_flash]; (repeat' split) <;> rfl
@[simp] theorem abort_fab : (abort s p).fab = s.fab := by unfold abort discardNext; dsimp only; rw [finish_fab]; (repeat' split) <;> rfl
@[simp] theorem abort_orr : (abort s p).orr = s.orr := by unfold abort discardNext; dsimp only; rw [finish_orr]; (repeat' split) <;> rfl
@[simp] theorem abort_node : (abort s p).node = s.node := by unfold abort discardNext; dsimp only; rw [finish_node]; (repeat' split) <;> rfl
@[simp] theorem abort_drawn : (abort s p).drawn = s.drawn := by unfold abort discardNext; dsimp only; rw [finish_drawn]; (repeat' split) <;> rfl
@[simp] theorem abort_pending : (abort s p).pending = s.pending := by unfold abort discardNext; dsimp only; rw [finish_pending]; (repeat' split) <;> rfl

end

section
variable (s : State)

@[simp] theorem abortIllegal_run : (abortIllegal s).run = s.run := by unfold abortIllegal; exact foldl_keeps State.run _ (fun t p => by split <;> simp) _ _
@[simp] theorem abortIllegal_units : (abortIllegal s).units = s.units := by unfold abortIllegal; exact foldl_keeps State.units _ (fun t p => by split <;> simp) _ _
@[simp] theorem abortIllegal_cnt : (abortIllegal s).cnt = s.cnt := by unfold abortIllegal; exact foldl_keeps State.cnt _ (fun t p => by split <;> simp) _ _
@[simp] theorem abortIllegal_dump : (abortIllegal s).dump = s.dump := by unfold abortIllegal; exact foldl_keeps State.dump _ (fun t p => by split <;> simp) _ _
@[simp] theorem abortIllegal_power : (abortIllegal s).power = s.power := by unfold abortIllegal; exact foldl_keeps State.power _ (fun t p => by split <;> simp) _ _
@[simp] theorem abortIllegal_nor : (abortIllegal s).nor = s.nor := by unfold abortIllegal; exact foldl_keeps State.nor _ (fun t p => by split <;> simp) _ _
@[simp] theorem abortIllegal_boot : (abortIllegal s).boot = s.boot := by unfold abortIllegal; exact foldl_keeps State.boot _ (fun t p => by split <;> simp) _ _
@[simp] theorem abortIllegal_faults : (abortIllegal s).faults = s.faults := by unfold abortIllegal; exact foldl_keeps State.faults _ (fun t p => by split <;> simp) _ _
@[simp] theorem abortIllegal_recs : (abortIllegal s).recs = s.recs := by unfold abortIllegal; exact foldl_keeps State.recs _ (fun t p => by split <;> simp) _ _
@[simp] theorem abortIllegal_bg : (abortIllegal s).bg = s.bg := by unfold abortIllegal; exact foldl_keeps State.bg _ (fun t p => by split <;> simp) _ _
@[simp] theorem abortIllegal_flash : (abortIllegal s).flash = s.flash := by unfold abortIllegal; exact foldl_keeps State.flash _ (fun t p => by split <;> simp) _ _
@[simp] theorem abortIllegal_fab : (abortIllegal s).fab = s.fab := by unfold abortIllegal; exact foldl_keeps State.fab _ (fun t p => by split <;> simp) _ _
@[simp] theorem abortIllegal_orr : (abortIllegal s).orr = s.orr := by unfold abortIllegal; exact foldl_keeps State.orr _ (fun t p => by split <;> simp) _ _
@[simp] theorem abortIllegal_node : (abortIllegal s).node = s.node := by unfold abortIllegal; exact foldl_keeps State.node _ (fun t p => by split <;> simp) _ _
@[simp] theorem abortIllegal_drawn : (abortIllegal s).drawn = s.drawn := by unfold abortIllegal; exact foldl_keeps State.drawn _ (fun t p => by split <;> simp) _ _
@[simp] theorem abortIllegal_pending : (abortIllegal s).pending = s.pending := by unfold abortIllegal; exact foldl_keeps State.pending _ (fun t p => by split <;> simp) _ _

end

section
variable (s : State) (st : Nat)

@[simp] theorem moveTo_run : (moveTo s st).run = s.run := by unfold moveTo; split <;> simp
@[simp] theorem moveTo_units : (moveTo s st).units = s.units := by unfold moveTo; split <;> simp
@[simp] theorem moveTo_cnt : (moveTo s st).cnt = s.cnt := by unfold moveTo; split <;> simp
@[simp] theorem moveTo_dump : (moveTo s st).dump = s.dump := by unfold moveTo; split <;> simp
@[simp] theorem moveTo_power : (moveTo s st).power = s.power := by unfold moveTo; split <;> simp
@[simp] theorem moveTo_nor : (moveTo s st).nor = s.nor := by unfold moveTo; split <;> simp
@[simp] theorem moveTo_boot : (moveTo s st).boot = s.boot := by unfold moveTo; split <;> simp
@[simp] theorem moveTo_faults : (moveTo s st).faults = s.faults := by unfold moveTo; split <;> simp
@[simp] theorem moveTo_recs : (moveTo s st).recs = s.recs := by unfold moveTo; split <;> simp
@[simp] theorem moveTo_bg : (moveTo s st).bg = s.bg := by unfold moveTo; split <;> simp
@[simp] theorem moveTo_flash : (moveTo s st).flash = s.flash := by unfold moveTo; split <;> simp
@[simp] theorem moveTo_fab : (moveTo s st).fab = s.fab := by unfold moveTo; split <;> simp
@[simp] theorem moveTo_orr : (moveTo s st).orr = s.orr := by unfold moveTo; split <;> simp
@[simp] theorem moveTo_drawn : (moveTo s st).drawn = s.drawn := by unfold moveTo; split <;> simp
@[simp] theorem moveTo_pending : (moveTo s st).pending = s.pending := by unfold moveTo; split <;> simp

end

section
variable (s : State) (r : Reply)

@[simp] theorem finishTrans_run : (finishTrans s r).run = s.run := by unfold finishTrans; split <;> simp
@[simp] theorem finishTrans_units : (finishTrans s r).units = s.units := by unfold finishTrans; split <;> simp
@[simp] theorem finishTrans_cnt : (finishTrans s r).cnt = s.cnt := by unfold finishTrans; split <;> simp
@[simp] theorem finishTrans_dump : (finishTrans s r).dump = s.dump := by unfold finishTrans; split <;> simp
@[simp] theorem finishTrans_power : (finishTrans s r).power = s.power := by unfold finishTrans; split <;> simp
@[simp] theorem finishTrans_nor : (finishTrans s r).nor = s.nor := by unfold finishTrans; split <;> simp
@[simp] theorem finishTrans_boot : (finishTrans s r).boot = s.boot := by unfold finishTrans; split <;> simp
@[simp] theorem finishTrans_faults : (finishTrans s r).faults = s.faults := by unfold finishTrans; split <;> simp
@[simp] theorem finishTrans_setup : (finishTrans s r).setup = s.setup := by unfold finishTrans; split <;> simp
@[simp] theorem finishTrans_recs : (finishTrans s r).recs = s.recs := by unfold finishTrans; split <;> simp
@[simp] theorem finishTrans_bg : (finishTrans s r).bg = s.bg := by unfold finishTrans; split <;> simp
@[simp] theorem finishTrans_flash : (finishTrans s r).flash = s.flash := by unfold finishTrans; split <;> simp
@[simp] theorem finishTrans_fab : (finishTrans s r).fab = s.fab := by unfold finishTrans; split <;> simp
@[simp] theorem finishTrans_conj : (finishTrans s r).conj = s.conj := by unfold finishTrans; split <;> simp
@[simp] theorem finishTrans_orr : (finishTrans s r).orr = s.orr := by unfold finishTrans; split <;> simp
@[simp] theorem finishTrans_drawn : (finishTrans s r).drawn = s.drawn := by unfold finishTrans; split <;> simp
@[simp] theorem finishTrans_pending : (finishTrans s r).pending = s.pending := by unfold finishTrans; split <;> simp

end

section
variable (s : State) (l c n : Nat)

@[simp] theorem countLink_run : (countLink s l c n).run = s.run := rfl
@[simp] theorem countLink_units : (countLink s l c n).units = s.units := rfl
@[simp] theorem countLink_mem : (countLink s l c n).mem = s.mem := rfl
@[simp] theorem countLink_dump : (countLink s l c n).dump = s.dump := rfl
@[simp] theorem countLink_power : (countLink s l c n).power = s.power := rfl
@[simp] theorem countLink_nor : (countLink s l c n).nor = s.nor := rfl
@[simp] theorem countLink_boot : (countLink s l c n).boot = s.boot := rfl
@[simp] theorem countLink_faults : (countLink s l c n).faults = s.faults := rfl
@[simp] theorem countLink_setup : (countLink s l c n).setup = s.setup := rfl
@[simp] theorem countLink_host : (countLink s l c n).host = s.host := rfl
@[simp] theorem countLink_recs : (countLink s l c n).recs = s.recs := rfl
@[simp] theorem countLink_bg : (countLink s l c n).bg = s.bg := rfl
@[simp] theorem countLink_flash : (countLink s l c n).flash = s.flash := rfl
@[simp] theorem countLink_fab : (countLink s l c n).fab = s.fab := rfl
@[simp] theorem countLink_conj : (countLink s l c n).conj = s.conj := rfl
@[simp] theorem countLink_orr : (countLink s l c n).orr = s.orr := rfl
@[simp] theorem countLink_node : (countLink s l c n).node = s.node := rfl
@[simp] theorem countLink_drawn : (countLink s l c n).drawn = s.drawn := rfl
@[simp] theorem countLink_pending : (countLink s l c n).pending = s.pending := rfl

end

section
variable (s : State) (l : Nat) (x : Link)

@[simp] theorem setLink_run : (setLink s l x).run = s.run := rfl
@[simp] theorem setLink_units : (setLink s l x).units = s.units := rfl
@[simp] theorem setLink_mem : (setLink s l x).mem = s.mem := rfl
@[simp] theorem setLink_cnt : (setLink s l x).cnt = s.cnt := rfl
@[simp] theorem setLink_dump : (setLink s l x).dump = s.dump := rfl
@[simp] theorem setLink_power : (setLink s l x).power = s.power := rfl
@[simp] theorem setLink_nor : (setLink s l x).nor = s.nor := rfl
@[simp] theorem setLink_boot : (setLink s l x).boot = s.boot := rfl
@[simp] theorem setLink_faults : (setLink s l x).faults = s.faults := rfl
@[simp] theorem setLink_setup : (setLink s l x).setup = s.setup := rfl
@[simp] theorem setLink_host : (setLink s l x).host = s.host := rfl
@[simp] theorem setLink_recs : (setLink s l x).recs = s.recs := rfl
@[simp] theorem setLink_bg : (setLink s l x).bg = s.bg := rfl
@[simp] theorem setLink_flash : (setLink s l x).flash = s.flash := rfl
@[simp] theorem setLink_conj : (setLink s l x).conj = s.conj := rfl
@[simp] theorem setLink_orr : (setLink s l x).orr = s.orr := rfl
@[simp] theorem setLink_node : (setLink s l x).node = s.node := rfl
@[simp] theorem setLink_drawn : (setLink s l x).drawn = s.drawn := rfl
@[simp] theorem setLink_pending : (setLink s l x).pending = s.pending := rfl

end

section
variable (s : State) (l st : Nat)

@[simp] theorem dropLink_run : (dropLink s l st).run = s.run := rfl
@[simp] theorem dropLink_units : (dropLink s l st).units = s.units := rfl
@[simp] theorem dropLink_mem : (dropLink s l st).mem = s.mem := rfl
@[simp] theorem dropLink_cnt : (dropLink s l st).cnt = s.cnt := rfl
@[simp] theorem dropLink_dump : (dropLink s l st).dump = s.dump := rfl
@[simp] theorem dropLink_power : (dropLink s l st).power = s.power := rfl
@[simp] theorem dropLink_nor : (dropLink s l st).nor = s.nor := rfl
@[simp] theorem dropLink_boot : (dropLink s l st).boot = s.boot := rfl
@[simp] theorem dropLink_faults : (dropLink s l st).faults = s.faults := rfl
@[simp] theorem dropLink_setup : (dropLink s l st).setup = s.setup := rfl
@[simp] theorem dropLink_host : (dropLink s l st).host = s.host := rfl
@[simp] theorem dropLink_recs : (dropLink s l st).recs = s.recs := rfl
@[simp] theorem dropLink_bg : (dropLink s l st).bg = s.bg := rfl
@[simp] theorem dropLink_flash : (dropLink s l st).flash = s.flash := rfl
@[simp] theorem dropLink_conj : (dropLink s l st).conj = s.conj := rfl
@[simp] theorem dropLink_orr : (dropLink s l st).orr = s.orr := rfl
@[simp] theorem dropLink_node : (dropLink s l st).node = s.node := rfl
@[simp] theorem dropLink_drawn : (dropLink s l st).drawn = s.drawn := rfl
@[simp] theorem dropLink_pending : (dropLink s l st).pending = s.pending := rfl

end

section
variable (s : State) (l : Nat) (f : Bytes)

@[simp] theorem passedOn_run : (passedOn s l f).run = s.run := by unfold passedOn; split <;> rfl
@[simp] theorem passedOn_units : (passedOn s l f).units = s.units := by unfold passedOn; split <;> rfl
@[simp] theorem passedOn_mem : (passedOn s l f).mem = s.mem := by unfold passedOn; split <;> rfl
@[simp] theorem passedOn_cnt : (passedOn s l f).cnt = s.cnt := by unfold passedOn; split <;> rfl
@[simp] theorem passedOn_dump : (passedOn s l f).dump = s.dump := by unfold passedOn; split <;> rfl
@[simp] theorem passedOn_power : (passedOn s l f).power = s.power := by unfold passedOn; split <;> rfl
@[simp] theorem passedOn_nor : (passedOn s l f).nor = s.nor := by unfold passedOn; split <;> rfl
@[simp] theorem passedOn_boot : (passedOn s l f).boot = s.boot := by unfold passedOn; split <;> rfl
@[simp] theorem passedOn_faults : (passedOn s l f).faults = s.faults := by unfold passedOn; split <;> rfl
@[simp] theorem passedOn_setup : (passedOn s l f).setup = s.setup := by unfold passedOn; split <;> rfl
@[simp] theorem passedOn_host : (passedOn s l f).host = s.host := by unfold passedOn; split <;> rfl
@[simp] theorem passedOn_recs : (passedOn s l f).recs = s.recs := by unfold passedOn; split <;> rfl
@[simp] theorem passedOn_bg : (passedOn s l f).bg = s.bg := by unfold passedOn; split <;> rfl
@[simp] theorem passedOn_flash : (passedOn s l f).flash = s.flash := by unfold passedOn; split <;> rfl
@[simp] theorem passedOn_conj : (passedOn s l f).conj = s.conj := by unfold passedOn; split <;> rfl
@[simp] theorem passedOn_orr : (passedOn s l f).orr = s.orr := by unfold passedOn; split <;> rfl
@[simp] theorem passedOn_node : (passedOn s l f).node = s.node := by unfold passedOn; split <;> rfl
@[simp] theorem passedOn_drawn : (passedOn s l f).drawn = s.drawn := by unfold passedOn; split <;> rfl
@[simp] theorem passedOn_pending : (passedOn s l f).pending = s.pending := by unfold passedOn; split <;> rfl

end

section
variable (s : State) (l n : Nat)

@[simp] theorem pump_run : (pump s l n).run = s.run := pump_keeps State.run (fun _ _ _ _ => rfl) (fun _ _ _ => rfl) passedOn_run n s l
@[simp] theorem pump_units : (pump s l n).units = s.units := pump_keeps State.units (fun _ _ _ _ => rfl) (fun _ _ _ => rfl) passedOn_units n s l
@[simp] theorem pump_mem : (pump s l n).mem = s.mem := pump_keeps State.mem (fun _ _ _ _ => rfl) (fun _ _ _ => rfl) passedOn_mem n s l
@[simp] theorem pump_dump : (pump s l n).dump = s.dump := pump_keeps State.dump (fun _ _ _ _ => rfl) (fun _ _ _ => rfl) passedOn_dump n s l
@[simp] theorem pump_power : (pump s l n).power = s.power := pump_keeps State.power (fun _ _ _ _ => rfl) (fun _ _ _ => rfl) passedOn_power n s l
@[simp] theorem pump_nor : (pump s l n).nor = s.nor := pump_keeps State.nor (fun _ _ _ _ => rfl) (fun _ _ _ => rfl) passedOn_nor n s l
@[simp] theorem pump_boot : (pump s l n).boot = s.boot := pump_keeps State.boot (fun _ _ _ _ => rfl) (fun _ _ _ => rfl) passedOn_boot n s l
@[simp] theorem pump_faults : (pump s l n).faults = s.faults := pump_keeps State.faults (fun _ _ _ _ => rfl) (fun _ _ _ => rfl) passedOn_faults n s l
@[simp] theorem pump_setup : (pump s l n).setup = s.setup := pump_keeps State.setup (fun _ _ _ _ => rfl) (fun _ _ _ => rfl) passedOn_setup n s l
@[simp] theorem pump_host : (pump s l n).host = s.host := pump_keeps State.host (fun _ _ _ _ => rfl) (fun _ _ _ => rfl) passedOn_host n s l
@[simp] theorem pump_recs : (pump s l n).recs = s.recs := pump_keeps State.recs (fun _ _ _ _ => rfl) (fun _ _ _ => rfl) passedOn_recs n s l
@[simp] theorem pump_bg : (pump s l n).bg = s.bg := pump_keeps State.bg (fun _ _ _ _ => rfl) (fun _ _ _ => rfl) passedOn_bg n s l
@[simp] theorem pump_flash : (pump s l n).flash = s.flash := pump_keeps State.flash (fun _ _ _ _ => rfl) (fun _ _ _ => rfl) passedOn_flash n s l
@[simp] theorem pump_conj : (pump s l n).conj = s.conj := pump_keeps State.conj (fun _ _ _ _ => rfl) (fun _ _ _ => rfl) passedOn_conj n s l
@[simp] theorem pump_orr : (pump s l n).orr = s.orr := pump_keeps State.orr (fun _ _ _ _ => rfl) (fun _ _ _ => rfl) passedOn_orr n s l
@[simp] theorem pump_node : (pump s l n).node = s.node := pump_keeps State.node (fun _ _ _ _ => rfl) (fun _ _ _ => rfl) passedOn_node n s l
@[simp] theorem pump_drawn : (pump s l n).drawn = s.drawn := pump_keeps State.drawn (fun _ _ _ _ => rfl) (fun _ _ _ => rfl) passedOn_drawn n s l
@[simp] theorem pump_pending : (pump s l n).pending = s.pending := pump_keeps State.pending (fun _ _ _ _ => rfl) (fun _ _ _ => rfl) passedOn_pending n s l

end

section
variable (s : State) (l : Nat) (fs : List Bytes)

@[simp] theorem linkSend_run : (linkSend s l fs).run = s.run := by simp only [linkSend, pump_run, setLink_run]
@[simp] theorem linkSend_units : (linkSend s l fs).units = s.units := by simp only [linkSend, pump_units, setLink_units]
@[simp] theorem linkSend_mem : (linkSend s l fs).mem = s.mem := by simp only [linkSend, pump_mem, setLink_mem]
@[simp] theorem linkSend_dump : (linkSend s l fs).dump = s.dump := by simp only [linkSend, pump_dump, setLink_dump]
@[simp] theorem linkSend_power : (linkSend s l fs).power = s.power := by simp only [linkSend, pump_power, setLink_power]
@[simp] theorem linkSend_nor : (linkSend s l fs).nor = s.nor := by simp only [linkSend, pump_nor, setLink_nor]
@[simp] theorem linkSend_boot : (linkSend s l fs).boot = s.boot := by simp only [linkSend, pump_boot, setLink_boot]
@[simp] theorem linkSend_faults : (linkSend s l fs).faults = s.faults := by simp only [linkSend, pump_faults, setLink_faults]
@[simp] theorem linkSend_setup : (linkSend s l fs).setup = s.setup := by simp only [linkSend, pump_setup, setLink_setup]
@[simp] theorem linkSend_host : (linkSend s l fs).host = s.host := by simp only [linkSend, pump_host, setLink_host]
@[simp] theorem linkSend_recs : (linkSend s l fs).recs = s.recs := by simp only [linkSend, pump_recs, setLink_recs]
@[simp] theorem linkSend_bg : (linkSend s l fs).bg = s.bg := by simp only [linkSend, pump_bg, setLink_bg]
@[simp] theorem linkSend_flash : (linkSend s l fs).flash = s.flash := by simp only [linkSend, pump_flash, setLink_flash]
@[simp] theorem linkSend_conj : (linkSend s l fs).conj = s.conj := by simp only [linkSend, pump_conj, setLink_conj]
@[simp] theorem linkSend_orr : (linkSend s l fs).orr = s.orr := by simp only [linkSend, pump_orr, setLink_orr]
@[simp] theorem linkSend_node : (linkSend s l fs).node = s.node := by simp only [linkSend, pump_node, setLink_node]
@[simp] theorem linkSend_drawn : (linkSend s l fs).drawn = s.drawn := by simp only [linkSend, pump_drawn, setLink_drawn]
@[simp] theorem linkSend_pending : (linkSend s l fs).pending = s.pending := by simp only [linkSend, pump_pending, setLink_pending]

end

section
variable (s : State) (d : Nat) (fs : List Bytes)

@[simp] theorem routeSome_run : (routeSome s d fs).run = s.run := by
  unfold routeSome
  split
  · rfl
  · exact foldl_keeps State.run _ (fun t p => by simp) _ _
@[simp] theorem routeSome_units : (routeSome s d fs).units = s.units := by
  unfold routeSome
  split
  · rfl
  · exact foldl_keeps State.units _ (fun t p => by simp) _ _
@[simp] theorem routeSome_mem : (routeSome s d fs).mem = s.mem := by
  unfold routeSome
  split
  · rfl
  · exact foldl_keeps State.mem _ (fun t p => by simp) _ _
@[simp] theorem routeSome_dump : (routeSome s d fs).dump = s.dump := by
  unfold routeSome
  split
  · rfl
  · exact foldl_keeps State.dump _ (fun t p => by simp) _ _
@[simp] theorem routeSome_power : (routeSome s d fs).power = s.power := by
  unfold routeSome
  split
  · rfl
  · exact foldl_keeps State.power _ (fun t p => by simp) _ _
@[simp] theorem routeSome_nor : (routeSome s d fs).nor = s.nor := by
  unfold routeSome
  split
  · rfl
  · exact foldl_keeps State.nor _ (fun t p => by simp) _ _
@[simp] theorem routeSome_boot : (routeSome s d fs).boot = s.boot := by
  unfold routeSome
  split
  · rfl
  · exact foldl_keeps State.boot _ (fun t p => by simp) _ _
@[simp] theorem routeSome_faults : (routeSome s d fs).faults = s.faults := by
  unfold routeSome
  split
  · rfl
  · exact foldl_keeps State.faults _ (fun t p => by simp) _ _
@[simp] theorem routeSome_setup : (routeSome s d fs).setup = s.setup := by
  unfold routeSome
  split
  · rfl
  · exact foldl_keeps State.setup _ (fun t p => by simp) _ _
@[simp] theorem routeSome_host : (routeSome s d fs).host = s.host := by
  unfold routeSome
  split
  · rfl
  · exact foldl_keeps State.host _ (fun t p => by simp) _ _
@[simp] theorem routeSome_recs : (routeSome s d fs).recs = s.recs := by
  unfold routeSome
  split
  · rfl
  · exact foldl_keeps State.recs _ (fun t p => by simp) _ _
@[simp] theorem routeSome_bg : (routeSome s d fs).bg = s.bg := by
  unfold routeSome
  split
  · rfl
  · exact foldl_keeps State.bg _ (fun t p => by simp) _ _
@[simp] theorem routeSome_flash : (routeSome s d fs).flash = s.flash := by
  unfold routeSome
  split
  · rfl
  · exact foldl_keeps State.flash _ (fun t p => by simp) _ _
@[simp] theorem routeSome_conj : (routeSome s d fs).conj = s.conj := by
  unfold routeSome
  split
  · rfl
  · exact foldl_keeps State.conj _ (fun t p => by simp) _ _
@[simp] theorem routeSome_orr : (routeSome s d fs).orr = s.orr := by
  unfold routeSome
  split
  · rfl
  · exact foldl_keeps State.orr _ (fun t p => by simp) _ _
@[simp] theorem routeSome_node : (routeSome s d fs).node = s.node := by
  unfold routeSome
  split
  · rfl
  · exact foldl_keeps State.node _ (fun t p => by simp) _ _
@[simp] theorem routeSome_drawn : (routeSome s d fs).drawn = s.drawn := by
  unfold routeSome
  split
  · rfl
  · exact foldl_keeps State.drawn _ (fun t p => by simp) _ _
@[simp] theorem routeSome_pending : (routeSome s d fs).pending = s.pending := by
  unfold routeSome
  split
  · rfl
  · exact foldl_keeps State.pending _ (fun t p => by simp) _ _
@[simp] theorem sendOrrery_run : (sendOrrery s).run = s.run := by unfold sendOrrery; exact foldl_keeps State.run _ (fun t p => by simp) _ _
@[simp] theorem sendOrrery_units : (sendOrrery s).units = s.units := by unfold sendOrrery; exact foldl_keeps State.units _ (fun t p => by simp) _ _
@[simp] theorem sendOrrery_mem : (sendOrrery s).mem = s.mem := by unfold sendOrrery; exact foldl_keeps State.mem _ (fun t p => by simp) _ _
@[simp] theorem sendOrrery_dump : (sendOrrery s).dump = s.dump := by unfold sendOrrery; exact foldl_keeps State.dump _ (fun t p => by simp) _ _
@[simp] theorem sendOrrery_power : (sendOrrery s).power = s.power := by unfold sendOrrery; exact foldl_keeps State.power _ (fun t p => by simp) _ _
@[simp] theorem sendOrrery_nor : (sendOrrery s).nor = s.nor := by unfold sendOrrery; exact foldl_keeps State.nor _ (fun t p => by simp) _ _
@[simp] theorem sendOrrery_boot : (sendOrrery s).boot = s.boot := by unfold sendOrrery; exact foldl_keeps State.boot _ (fun t p => by simp) _ _
@[simp] theorem sendOrrery_faults : (sendOrrery s).faults = s.faults := by unfold sendOrrery; exact foldl_keeps State.faults _ (fun t p => by simp) _ _
@[simp] theorem sendOrrery_setup : (sendOrrery s).setup = s.setup := by unfold sendOrrery; exact foldl_keeps State.setup _ (fun t p => by simp) _ _
@[simp] theorem sendOrrery_host : (sendOrrery s).host = s.host := by unfold sendOrrery; exact foldl_keeps State.host _ (fun t p => by simp) _ _
@[simp] theorem sendOrrery_recs : (sendOrrery s).recs = s.recs := by unfold sendOrrery; exact foldl_keeps State.recs _ (fun t p => by simp) _ _
@[simp] theorem sendOrrery_bg : (sendOrrery s).bg = s.bg := by unfold sendOrrery; exact foldl_keeps State.bg _ (fun t p => by simp) _ _
@[simp] theorem sendOrrery_flash : (sendOrrery s).flash = s.flash := by unfold sendOrrery; exact foldl_keeps State.flash _ (fun t p => by simp) _ _
@[simp] theorem sendOrrery_conj : (sendOrrery s).conj = s.conj := by unfold sendOrrery; exact foldl_keeps State.conj _ (fun t p => by simp) _ _
@[simp] theorem sendOrrery_orr : (sendOrrery s).orr = s.orr := by unfold sendOrrery; exact foldl_keeps State.orr _ (fun t p => by simp) _ _
@[simp] theorem sendOrrery_node : (sendOrrery s).node = s.node := by unfold sendOrrery; exact foldl_keeps State.node _ (fun t p => by simp) _ _
@[simp] theorem sendOrrery_drawn : (sendOrrery s).drawn = s.drawn := by unfold sendOrrery; exact foldl_keeps State.drawn _ (fun t p => by simp) _ _
@[simp] theorem sendOrrery_pending : (sendOrrery s).pending = s.pending := by unfold sendOrrery; exact foldl_keeps State.pending _ (fun t p => by simp) _ _
@[simp] theorem routeFlits_run : (routeFlits s d fs).run = s.run := by simp [routeFlits]
@[simp] theorem routeFlits_units : (routeFlits s d fs).units = s.units := by simp [routeFlits]
@[simp] theorem routeFlits_mem : (routeFlits s d fs).mem = s.mem := by simp [routeFlits]
@[simp] theorem routeFlits_dump : (routeFlits s d fs).dump = s.dump := by simp [routeFlits]
@[simp] theorem routeFlits_power : (routeFlits s d fs).power = s.power := by simp [routeFlits]
@[simp] theorem routeFlits_nor : (routeFlits s d fs).nor = s.nor := by simp [routeFlits]
@[simp] theorem routeFlits_boot : (routeFlits s d fs).boot = s.boot := by simp [routeFlits]
@[simp] theorem routeFlits_faults : (routeFlits s d fs).faults = s.faults := by simp [routeFlits]
@[simp] theorem routeFlits_setup : (routeFlits s d fs).setup = s.setup := by simp [routeFlits]
@[simp] theorem routeFlits_host : (routeFlits s d fs).host = s.host := by simp [routeFlits]
@[simp] theorem routeFlits_recs : (routeFlits s d fs).recs = s.recs := by simp [routeFlits]
@[simp] theorem routeFlits_bg : (routeFlits s d fs).bg = s.bg := by simp [routeFlits]
@[simp] theorem routeFlits_flash : (routeFlits s d fs).flash = s.flash := by simp [routeFlits]
@[simp] theorem routeFlits_conj : (routeFlits s d fs).conj = s.conj := by simp [routeFlits]
@[simp] theorem routeFlits_orr : (routeFlits s d fs).orr = s.orr := by simp [routeFlits]
@[simp] theorem routeFlits_node : (routeFlits s d fs).node = s.node := by simp [routeFlits]
@[simp] theorem routeFlits_drawn : (routeFlits s d fs).drawn = s.drawn := by simp [routeFlits]
@[simp] theorem routeFlits_pending : (routeFlits s d fs).pending = s.pending := by simp [routeFlits]

end

section
variable (s : State) (d : Nat) (m : OutMsg) (fs : List Bytes)

@[simp] theorem sendOut_run : (sendOut s d m fs).run = s.run := by simp only [sendOut, routeFlits_run]
@[simp] theorem sendOut_units : (sendOut s d m fs).units = s.units := by simp only [sendOut, routeFlits_units]
@[simp] theorem sendOut_mem : (sendOut s d m fs).mem = s.mem := by simp only [sendOut, routeFlits_mem]
@[simp] theorem sendOut_dump : (sendOut s d m fs).dump = s.dump := by simp only [sendOut, routeFlits_dump]
@[simp] theorem sendOut_power : (sendOut s d m fs).power = s.power := by simp only [sendOut, routeFlits_power]
@[simp] theorem sendOut_nor : (sendOut s d m fs).nor = s.nor := by simp only [sendOut, routeFlits_nor]
@[simp] theorem sendOut_boot : (sendOut s d m fs).boot = s.boot := by simp only [sendOut, routeFlits_boot]
@[simp] theorem sendOut_faults : (sendOut s d m fs).faults = s.faults := by simp only [sendOut, routeFlits_faults]
@[simp] theorem sendOut_setup : (sendOut s d m fs).setup = s.setup := by simp only [sendOut, routeFlits_setup]
@[simp] theorem sendOut_host : (sendOut s d m fs).host = s.host := by simp only [sendOut, routeFlits_host]
@[simp] theorem sendOut_recs : (sendOut s d m fs).recs = s.recs := by simp only [sendOut, routeFlits_recs]
@[simp] theorem sendOut_bg : (sendOut s d m fs).bg = s.bg := by simp only [sendOut, routeFlits_bg]
@[simp] theorem sendOut_flash : (sendOut s d m fs).flash = s.flash := by simp only [sendOut, routeFlits_flash]
@[simp] theorem sendOut_conj : (sendOut s d m fs).conj = s.conj := by simp only [sendOut, routeFlits_conj]
@[simp] theorem sendOut_orr : (sendOut s d m fs).orr = s.orr := by simp only [sendOut, routeFlits_orr]
@[simp] theorem sendOut_node : (sendOut s d m fs).node = s.node := by simp only [sendOut, routeFlits_node]
@[simp] theorem sendOut_drawn : (sendOut s d m fs).drawn = s.drawn := by simp only [sendOut, routeFlits_drawn]
@[simp] theorem sendOut_pending : (sendOut s d m fs).pending = s.pending := by simp only [sendOut, routeFlits_pending]

end

section
variable (s : State) (m : ArmMsg)

@[simp] theorem sendArm_run : (sendArm s m).run = s.run := by unfold sendArm; split <;> simp
@[simp] theorem sendArm_units : (sendArm s m).units = s.units := by unfold sendArm; split <;> simp
@[simp] theorem sendArm_mem : (sendArm s m).mem = s.mem := by unfold sendArm; split <;> simp
@[simp] theorem sendArm_dump : (sendArm s m).dump = s.dump := by unfold sendArm; split <;> simp
@[simp] theorem sendArm_power : (sendArm s m).power = s.power := by unfold sendArm; split <;> simp
@[simp] theorem sendArm_nor : (sendArm s m).nor = s.nor := by unfold sendArm; split <;> simp
@[simp] theorem sendArm_boot : (sendArm s m).boot = s.boot := by unfold sendArm; split <;> simp
@[simp] theorem sendArm_faults : (sendArm s m).faults = s.faults := by unfold sendArm; split <;> simp
@[simp] theorem sendArm_setup : (sendArm s m).setup = s.setup := by unfold sendArm; split <;> simp
@[simp] theorem sendArm_host : (sendArm s m).host = s.host := by unfold sendArm; split <;> simp
@[simp] theorem sendArm_recs : (sendArm s m).recs = s.recs := by unfold sendArm; split <;> simp
@[simp] theorem sendArm_bg : (sendArm s m).bg = s.bg := by unfold sendArm; split <;> simp
@[simp] theorem sendArm_flash : (sendArm s m).flash = s.flash := by unfold sendArm; split <;> simp
@[simp] theorem sendArm_conj : (sendArm s m).conj = s.conj := by unfold sendArm; split <;> simp
@[simp] theorem sendArm_orr : (sendArm s m).orr = s.orr := by unfold sendArm; split <;> simp
@[simp] theorem sendArm_node : (sendArm s m).node = s.node := by unfold sendArm; split <;> simp
@[simp] theorem sendArm_drawn : (sendArm s m).drawn = s.drawn := by unfold sendArm; split <;> simp
@[simp] theorem sendArm_pending : (sendArm s m).pending = s.pending := by unfold sendArm; split <;> simp

end

section
variable (s : State) (b : BeatMsg)

@[simp] theorem passBeat_run : (passBeat s b).run = s.run := by unfold passBeat; exact foldl_keeps State.run _ (fun t p => by simp) _ _
@[simp] theorem passBeat_units : (passBeat s b).units = s.units := by unfold passBeat; exact foldl_keeps State.units _ (fun t p => by simp) _ _
@[simp] theorem passBeat_mem : (passBeat s b).mem = s.mem := by unfold passBeat; exact foldl_keeps State.mem _ (fun t p => by simp) _ _
@[simp] theorem passBeat_dump : (passBeat s b).dump = s.dump := by unfold passBeat; exact foldl_keeps State.dump _ (fun t p => by simp) _ _
@[simp] theorem passBeat_power : (passBeat s b).power = s.power := by unfold passBeat; exact foldl_keeps State.power _ (fun t p => by simp) _ _
@[simp] theorem passBeat_nor : (passBeat s b).nor = s.nor := by unfold passBeat; exact foldl_keeps State.nor _ (fun t p => by simp) _ _
@[simp] theorem passBeat_boot : (passBeat s b).boot = s.boot := by unfold passBeat; exact foldl_keeps State.boot _ (fun t p => by simp) _ _
@[simp] theorem passBeat_faults : (passBeat s b).faults = s.faults := by unfold passBeat; exact foldl_keeps State.faults _ (fun t p => by simp) _ _
@[simp] theorem passBeat_setup : (passBeat s b).setup = s.setup := by unfold passBeat; exact foldl_keeps State.setup _ (fun t p => by simp) _ _
@[simp] theorem passBeat_host : (passBeat s b).host = s.host := by unfold passBeat; exact foldl_keeps State.host _ (fun t p => by simp) _ _
@[simp] theorem passBeat_recs : (passBeat s b).recs = s.recs := by unfold passBeat; exact foldl_keeps State.recs _ (fun t p => by simp) _ _
@[simp] theorem passBeat_bg : (passBeat s b).bg = s.bg := by unfold passBeat; exact foldl_keeps State.bg _ (fun t p => by simp) _ _
@[simp] theorem passBeat_flash : (passBeat s b).flash = s.flash := by unfold passBeat; exact foldl_keeps State.flash _ (fun t p => by simp) _ _
@[simp] theorem passBeat_conj : (passBeat s b).conj = s.conj := by unfold passBeat; exact foldl_keeps State.conj _ (fun t p => by simp) _ _
@[simp] theorem passBeat_orr : (passBeat s b).orr = s.orr := by unfold passBeat; exact foldl_keeps State.orr _ (fun t p => by simp) _ _
@[simp] theorem passBeat_node : (passBeat s b).node = s.node := by unfold passBeat; exact foldl_keeps State.node _ (fun t p => by simp) _ _
@[simp] theorem passBeat_drawn : (passBeat s b).drawn = s.drawn := by unfold passBeat; exact foldl_keeps State.drawn _ (fun t p => by simp) _ _
@[simp] theorem passBeat_pending : (passBeat s b).pending = s.pending := by unfold passBeat; exact foldl_keeps State.pending _ (fun t p => by simp) _ _

end

section
variable (s : State)

@[simp] theorem closeRings_run : (closeRings s).run = s.run := by
  unfold closeRings
  refine foldl_keeps State.run _ (fun t r => ?_) _ _
  simp only [freeRing]
  (repeat' split) <;> simp
@[simp] theorem closeRings_units : (closeRings s).units = s.units := by
  unfold closeRings
  refine foldl_keeps State.units _ (fun t r => ?_) _ _
  simp only [freeRing]
  (repeat' split) <;> simp
@[simp] theorem closeRings_cnt : (closeRings s).cnt = s.cnt := by
  unfold closeRings
  refine foldl_keeps State.cnt _ (fun t r => ?_) _ _
  simp only [freeRing]
  (repeat' split) <;> simp
@[simp] theorem closeRings_dump : (closeRings s).dump = s.dump := by
  unfold closeRings
  refine foldl_keeps State.dump _ (fun t r => ?_) _ _
  simp only [freeRing]
  (repeat' split) <;> simp
@[simp] theorem closeRings_power : (closeRings s).power = s.power := by
  unfold closeRings
  refine foldl_keeps State.power _ (fun t r => ?_) _ _
  simp only [freeRing]
  (repeat' split) <;> simp
@[simp] theorem closeRings_nor : (closeRings s).nor = s.nor := by
  unfold closeRings
  refine foldl_keeps State.nor _ (fun t r => ?_) _ _
  simp only [freeRing]
  (repeat' split) <;> simp
@[simp] theorem closeRings_boot : (closeRings s).boot = s.boot := by
  unfold closeRings
  refine foldl_keeps State.boot _ (fun t r => ?_) _ _
  simp only [freeRing]
  (repeat' split) <;> simp
@[simp] theorem closeRings_faults : (closeRings s).faults = s.faults := by
  unfold closeRings
  refine foldl_keeps State.faults _ (fun t r => ?_) _ _
  simp only [freeRing]
  (repeat' split) <;> simp
@[simp] theorem closeRings_setup : (closeRings s).setup = s.setup := by
  unfold closeRings
  refine foldl_keeps State.setup _ (fun t r => ?_) _ _
  simp only [freeRing]
  (repeat' split) <;> simp
@[simp] theorem closeRings_recs : (closeRings s).recs = s.recs := by
  unfold closeRings
  refine foldl_keeps State.recs _ (fun t r => ?_) _ _
  simp only [freeRing]
  (repeat' split) <;> simp
@[simp] theorem closeRings_bg : (closeRings s).bg = s.bg := by
  unfold closeRings
  refine foldl_keeps State.bg _ (fun t r => ?_) _ _
  simp only [freeRing]
  (repeat' split) <;> simp
@[simp] theorem closeRings_flash : (closeRings s).flash = s.flash := by
  unfold closeRings
  refine foldl_keeps State.flash _ (fun t r => ?_) _ _
  simp only [freeRing]
  (repeat' split) <;> simp
@[simp] theorem closeRings_fab : (closeRings s).fab = s.fab := by
  unfold closeRings
  refine foldl_keeps State.fab _ (fun t r => ?_) _ _
  simp only [freeRing]
  (repeat' split) <;> simp
@[simp] theorem closeRings_conj : (closeRings s).conj = s.conj := by
  unfold closeRings
  refine foldl_keeps State.conj _ (fun t r => ?_) _ _
  simp only [freeRing]
  (repeat' split) <;> simp
@[simp] theorem closeRings_orr : (closeRings s).orr = s.orr := by
  unfold closeRings
  refine foldl_keeps State.orr _ (fun t r => ?_) _ _
  simp only [freeRing]
  (repeat' split) <;> simp
@[simp] theorem closeRings_node : (closeRings s).node = s.node := by
  unfold closeRings
  refine foldl_keeps State.node _ (fun t r => ?_) _ _
  simp only [freeRing]
  (repeat' split) <;> simp
@[simp] theorem closeRings_drawn : (closeRings s).drawn = s.drawn := by
  unfold closeRings
  refine foldl_keeps State.drawn _ (fun t r => ?_) _ _
  simp only [freeRing]
  (repeat' split) <;> simp
@[simp] theorem closeRings_pending : (closeRings s).pending = s.pending := by
  unfold closeRings
  refine foldl_keeps State.pending _ (fun t r => ?_) _ _
  simp only [freeRing]
  (repeat' split) <;> simp

end

section
variable (o s : State)

@[simp] theorem powerIbi_run : (powerIbi o s).run = s.run := by unfold powerIbi; split <;> rfl
@[simp] theorem powerIbi_units : (powerIbi o s).units = s.units := by unfold powerIbi; split <;> rfl
@[simp] theorem powerIbi_mem : (powerIbi o s).mem = s.mem := by unfold powerIbi; split <;> rfl
@[simp] theorem powerIbi_cnt : (powerIbi o s).cnt = s.cnt := by unfold powerIbi; split <;> rfl
@[simp] theorem powerIbi_dump : (powerIbi o s).dump = s.dump := by unfold powerIbi; split <;> rfl
@[simp] theorem powerIbi_nor : (powerIbi o s).nor = s.nor := by unfold powerIbi; split <;> rfl
@[simp] theorem powerIbi_boot : (powerIbi o s).boot = s.boot := by unfold powerIbi; split <;> rfl
@[simp] theorem powerIbi_faults : (powerIbi o s).faults = s.faults := by unfold powerIbi; split <;> rfl
@[simp] theorem powerIbi_setup : (powerIbi o s).setup = s.setup := by unfold powerIbi; split <;> rfl
@[simp] theorem powerIbi_host : (powerIbi o s).host = s.host := by unfold powerIbi; split <;> rfl
@[simp] theorem powerIbi_recs : (powerIbi o s).recs = s.recs := by unfold powerIbi; split <;> rfl
@[simp] theorem powerIbi_bg : (powerIbi o s).bg = s.bg := by unfold powerIbi; split <;> rfl
@[simp] theorem powerIbi_flash : (powerIbi o s).flash = s.flash := by unfold powerIbi; split <;> rfl
@[simp] theorem powerIbi_fab : (powerIbi o s).fab = s.fab := by unfold powerIbi; split <;> rfl
@[simp] theorem powerIbi_conj : (powerIbi o s).conj = s.conj := by unfold powerIbi; split <;> rfl
@[simp] theorem powerIbi_orr : (powerIbi o s).orr = s.orr := by unfold powerIbi; split <;> rfl
@[simp] theorem powerIbi_node : (powerIbi o s).node = s.node := by unfold powerIbi; split <;> rfl
@[simp] theorem powerIbi_drawn : (powerIbi o s).drawn = s.drawn := by unfold powerIbi; split <;> rfl
@[simp] theorem powerIbi_pending : (powerIbi o s).pending = s.pending := by unfold powerIbi; split <;> rfl

end

section
variable (s : State) (f : Nat)

@[simp] theorem flatFlags_run : (flatFlags s f).run = s.run := by simp only [flatFlags]; split <;> simp
@[simp] theorem flatFlags_units : (flatFlags s f).units = s.units := by simp only [flatFlags]; split <;> simp
@[simp] theorem flatFlags_cnt : (flatFlags s f).cnt = s.cnt := by simp only [flatFlags]; split <;> simp
@[simp] theorem flatFlags_nor : (flatFlags s f).nor = s.nor := by simp only [flatFlags]; split <;> simp
@[simp] theorem flatFlags_boot : (flatFlags s f).boot = s.boot := by simp only [flatFlags]; split <;> simp
@[simp] theorem flatFlags_faults : (flatFlags s f).faults = s.faults := by simp only [flatFlags]; split <;> simp
@[simp] theorem flatFlags_setup : (flatFlags s f).setup = s.setup := by simp only [flatFlags]; split <;> simp
@[simp] theorem flatFlags_recs : (flatFlags s f).recs = s.recs := by simp only [flatFlags]; split <;> simp
@[simp] theorem flatFlags_bg : (flatFlags s f).bg = s.bg := by simp only [flatFlags]; split <;> simp
@[simp] theorem flatFlags_flash : (flatFlags s f).flash = s.flash := by simp only [flatFlags]; split <;> simp
@[simp] theorem flatFlags_conj : (flatFlags s f).conj = s.conj := by simp only [flatFlags]; split <;> simp
@[simp] theorem flatFlags_node : (flatFlags s f).node = s.node := by simp only [flatFlags]; split <;> simp
@[simp] theorem flatFlags_drawn : (flatFlags s f).drawn = s.drawn := by simp only [flatFlags]; split <;> simp
@[simp] theorem flatFlags_pending : (flatFlags s f).pending = s.pending := by simp only [flatFlags]; split <;> simp

end

section
variable (s : State)

@[simp] theorem idlePower_run : (idlePower s).run = s.run := by unfold idlePower; split <;> simp [reportPower]
@[simp] theorem idlePower_units : (idlePower s).units = s.units := by unfold idlePower; split <;> simp [reportPower]
@[simp] theorem idlePower_cnt : (idlePower s).cnt = s.cnt := by unfold idlePower; split <;> simp [reportPower]
@[simp] theorem idlePower_nor : (idlePower s).nor = s.nor := by unfold idlePower; split <;> simp [reportPower]
@[simp] theorem idlePower_boot : (idlePower s).boot = s.boot := by unfold idlePower; split <;> simp [reportPower]
@[simp] theorem idlePower_faults : (idlePower s).faults = s.faults := by unfold idlePower; split <;> simp [reportPower]
@[simp] theorem idlePower_recs : (idlePower s).recs = s.recs := by unfold idlePower; split <;> simp [reportPower]
@[simp] theorem idlePower_bg : (idlePower s).bg = s.bg := by unfold idlePower; split <;> simp [reportPower]
@[simp] theorem idlePower_flash : (idlePower s).flash = s.flash := by unfold idlePower; split <;> simp [reportPower]
@[simp] theorem idlePower_conj : (idlePower s).conj = s.conj := by unfold idlePower; split <;> simp [reportPower]
@[simp] theorem idlePower_node : (idlePower s).node = s.node := by unfold idlePower; split <;> simp [reportPower]
@[simp] theorem idlePower_drawn : (idlePower s).drawn = s.drawn := by unfold idlePower; split <;> simp [reportPower]
@[simp] theorem idlePower_pending : (idlePower s).pending = s.pending := by unfold idlePower; split <;> simp [reportPower]

end

section
variable (s : State) (n t : Nat) (p : Nat → Bool)

@[simp] theorem dropSubmit_run : (dropSubmit s n t p).run = s.run := by unfold dropSubmit; dsimp only; split <;> rfl
@[simp] theorem dropSubmit_units : (dropSubmit s n t p).units = s.units := by unfold dropSubmit; dsimp only; split <;> rfl
@[simp] theorem dropSubmit_mem : (dropSubmit s n t p).mem = s.mem := by unfold dropSubmit; dsimp only; split <;> rfl
@[simp] theorem dropSubmit_cnt : (dropSubmit s n t p).cnt = s.cnt := by unfold dropSubmit; dsimp only; split <;> rfl
@[simp] theorem dropSubmit_dump : (dropSubmit s n t p).dump = s.dump := by unfold dropSubmit; dsimp only; split <;> rfl
@[simp] theorem dropSubmit_power : (dropSubmit s n t p).power = s.power := by unfold dropSubmit; dsimp only; split <;> rfl
@[simp] theorem dropSubmit_nor : (dropSubmit s n t p).nor = s.nor := by unfold dropSubmit; dsimp only; split <;> rfl
@[simp] theorem dropSubmit_boot : (dropSubmit s n t p).boot = s.boot := by unfold dropSubmit; dsimp only; split <;> rfl
@[simp] theorem dropSubmit_faults : (dropSubmit s n t p).faults = s.faults := by unfold dropSubmit; dsimp only; split <;> rfl
@[simp] theorem dropSubmit_host : (dropSubmit s n t p).host = s.host := by unfold dropSubmit; dsimp only; split <;> rfl
@[simp] theorem dropSubmit_recs : (dropSubmit s n t p).recs = s.recs := by unfold dropSubmit; dsimp only; split <;> rfl
@[simp] theorem dropSubmit_bg : (dropSubmit s n t p).bg = s.bg := by unfold dropSubmit; dsimp only; split <;> rfl
@[simp] theorem dropSubmit_flash : (dropSubmit s n t p).flash = s.flash := by unfold dropSubmit; dsimp only; split <;> rfl
@[simp] theorem dropSubmit_fab : (dropSubmit s n t p).fab = s.fab := by unfold dropSubmit; dsimp only; split <;> rfl
@[simp] theorem dropSubmit_conj : (dropSubmit s n t p).conj = s.conj := by unfold dropSubmit; dsimp only; split <;> rfl
@[simp] theorem dropSubmit_orr : (dropSubmit s n t p).orr = s.orr := by unfold dropSubmit; dsimp only; split <;> rfl
@[simp] theorem dropSubmit_node : (dropSubmit s n t p).node = s.node := by unfold dropSubmit; dsimp only; split <;> rfl
@[simp] theorem dropSubmit_drawn : (dropSubmit s n t p).drawn = s.drawn := by unfold dropSubmit; dsimp only; split <;> rfl
@[simp] theorem dropSubmit_pending : (dropSubmit s n t p).pending = s.pending := by unfold dropSubmit; dsimp only; split <;> rfl

end

section
variable (s : State)

@[simp] theorem dropTransit_run : (dropTransit s).run = s.run := by unfold dropTransit; split <;> (try rfl); dsimp only; split <;> simp
@[simp] theorem dropTransit_units : (dropTransit s).units = s.units := by unfold dropTransit; split <;> (try rfl); dsimp only; split <;> simp
@[simp] theorem dropTransit_mem : (dropTransit s).mem = s.mem := by unfold dropTransit; split <;> (try rfl); dsimp only; split <;> simp
@[simp] theorem dropTransit_cnt : (dropTransit s).cnt = s.cnt := by unfold dropTransit; split <;> (try rfl); dsimp only; split <;> simp
@[simp] theorem dropTransit_dump : (dropTransit s).dump = s.dump := by unfold dropTransit; split <;> (try rfl); dsimp only; split <;> simp
@[simp] theorem dropTransit_power : (dropTransit s).power = s.power := by unfold dropTransit; split <;> (try rfl); dsimp only; split <;> simp
@[simp] theorem dropTransit_nor : (dropTransit s).nor = s.nor := by unfold dropTransit; split <;> (try rfl); dsimp only; split <;> simp
@[simp] theorem dropTransit_boot : (dropTransit s).boot = s.boot := by unfold dropTransit; split <;> (try rfl); dsimp only; split <;> simp
@[simp] theorem dropTransit_faults : (dropTransit s).faults = s.faults := by unfold dropTransit; split <;> (try rfl); dsimp only; split <;> simp
@[simp] theorem dropTransit_host : (dropTransit s).host = s.host := by unfold dropTransit; split <;> (try rfl); dsimp only; split <;> simp
@[simp] theorem dropTransit_recs : (dropTransit s).recs = s.recs := by unfold dropTransit; split <;> (try rfl); dsimp only; split <;> simp
@[simp] theorem dropTransit_flash : (dropTransit s).flash = s.flash := by unfold dropTransit; split <;> (try rfl); dsimp only; split <;> simp
@[simp] theorem dropTransit_conj : (dropTransit s).conj = s.conj := by unfold dropTransit; split <;> (try rfl); dsimp only; split <;> simp
@[simp] theorem dropTransit_orr : (dropTransit s).orr = s.orr := by unfold dropTransit; split <;> (try rfl); dsimp only; split <;> simp
@[simp] theorem dropTransit_node : (dropTransit s).node = s.node := by unfold dropTransit; split <;> (try rfl); dsimp only; split <;> simp
@[simp] theorem dropTransit_drawn : (dropTransit s).drawn = s.drawn := by unfold dropTransit; split <;> (try rfl); dsimp only; split <;> simp
@[simp] theorem dropTransit_pending : (dropTransit s).pending = s.pending := by unfold dropTransit; split <;> (try rfl); dsimp only; split <;> simp

end

section
variable (s : State)

@[simp] theorem cancelTransit_run : (cancelTransit s).run = s.run := by unfold cancelTransit; split <;> simp [endTransit]
@[simp] theorem cancelTransit_units : (cancelTransit s).units = s.units := by unfold cancelTransit; split <;> simp [endTransit]
@[simp] theorem cancelTransit_cnt : (cancelTransit s).cnt = s.cnt := by unfold cancelTransit; split <;> simp [endTransit]
@[simp] theorem cancelTransit_dump : (cancelTransit s).dump = s.dump := by unfold cancelTransit; split <;> simp [endTransit]
@[simp] theorem cancelTransit_power : (cancelTransit s).power = s.power := by unfold cancelTransit; split <;> simp [endTransit]
@[simp] theorem cancelTransit_nor : (cancelTransit s).nor = s.nor := by unfold cancelTransit; split <;> simp [endTransit]
@[simp] theorem cancelTransit_boot : (cancelTransit s).boot = s.boot := by unfold cancelTransit; split <;> simp [endTransit]
@[simp] theorem cancelTransit_faults : (cancelTransit s).faults = s.faults := by unfold cancelTransit; split <;> simp [endTransit]
@[simp] theorem cancelTransit_flash : (cancelTransit s).flash = s.flash := by unfold cancelTransit; split <;> simp [endTransit]
@[simp] theorem cancelTransit_conj : (cancelTransit s).conj = s.conj := by unfold cancelTransit; split <;> simp [endTransit]
@[simp] theorem cancelTransit_orr : (cancelTransit s).orr = s.orr := by unfold cancelTransit; split <;> simp [endTransit]
@[simp] theorem cancelTransit_node : (cancelTransit s).node = s.node := by unfold cancelTransit; split <;> simp [endTransit]
@[simp] theorem cancelTransit_drawn : (cancelTransit s).drawn = s.drawn := by unfold cancelTransit; split <;> simp [endTransit]
@[simp] theorem cancelTransit_pending : (cancelTransit s).pending = s.pending := by unfold cancelTransit; split <;> simp [endTransit]

end

section
variable (s : State)

@[simp] theorem raiseEvents_run : (raiseEvents s).run = s.run := foldl_keeps State.run _ (fun _ _ => raise_run ..) _ _
@[simp] theorem raiseEvents_units : (raiseEvents s).units = s.units := foldl_keeps State.units _ (fun _ _ => raise_units ..) _ _
@[simp] theorem raiseEvents_cnt : (raiseEvents s).cnt = s.cnt := foldl_keeps State.cnt _ (fun _ _ => raise_cnt ..) _ _
@[simp] theorem raiseEvents_dump : (raiseEvents s).dump = s.dump := foldl_keeps State.dump _ (fun _ _ => raise_dump ..) _ _
@[simp] theorem raiseEvents_power : (raiseEvents s).power = s.power := foldl_keeps State.power _ (fun _ _ => raise_power ..) _ _
@[simp] theorem raiseEvents_nor : (raiseEvents s).nor = s.nor := foldl_keeps State.nor _ (fun _ _ => raise_nor ..) _ _
@[simp] theorem raiseEvents_boot : (raiseEvents s).boot = s.boot := foldl_keeps State.boot _ (fun _ _ => raise_boot ..) _ _
@[simp] theorem raiseEvents_faults : (raiseEvents s).faults = s.faults := foldl_keeps State.faults _ (fun _ _ => raise_faults ..) _ _
@[simp] theorem raiseEvents_setup : (raiseEvents s).setup = s.setup := foldl_keeps State.setup _ (fun _ _ => raise_setup ..) _ _
@[simp] theorem raiseEvents_recs : (raiseEvents s).recs = s.recs := foldl_keeps State.recs _ (fun _ _ => raise_recs ..) _ _
@[simp] theorem raiseEvents_bg : (raiseEvents s).bg = s.bg := foldl_keeps State.bg _ (fun _ _ => raise_bg ..) _ _
@[simp] theorem raiseEvents_flash : (raiseEvents s).flash = s.flash := foldl_keeps State.flash _ (fun _ _ => raise_flash ..) _ _
@[simp] theorem raiseEvents_fab : (raiseEvents s).fab = s.fab := foldl_keeps State.fab _ (fun _ _ => raise_fab ..) _ _
@[simp] theorem raiseEvents_conj : (raiseEvents s).conj = s.conj := foldl_keeps State.conj _ (fun _ _ => raise_conj ..) _ _
@[simp] theorem raiseEvents_orr : (raiseEvents s).orr = s.orr := foldl_keeps State.orr _ (fun _ _ => raise_orr ..) _ _
@[simp] theorem raiseEvents_node : (raiseEvents s).node = s.node := foldl_keeps State.node _ (fun _ _ => raise_node ..) _ _
@[simp] theorem raiseEvents_drawn : (raiseEvents s).drawn = s.drawn := foldl_keeps State.drawn _ (fun _ _ => raise_drawn ..) _ _
@[simp] theorem raiseEvents_pending : (raiseEvents s).pending = s.pending := foldl_keeps State.pending _ (fun _ _ => raise_pending ..) _ _

end

section
variable (s : State)

@[simp] theorem haltPlate_units : (haltPlate s).units = s.units := by simp [haltPlate]
@[simp] theorem haltPlate_cnt : (haltPlate s).cnt = s.cnt := by simp [haltPlate]
@[simp] theorem haltPlate_nor : (haltPlate s).nor = s.nor := by simp [haltPlate]
@[simp] theorem haltPlate_boot : (haltPlate s).boot = s.boot := by simp [haltPlate]
@[simp] theorem haltPlate_faults : (haltPlate s).faults = s.faults := by simp [haltPlate]
@[simp] theorem haltPlate_conj : (haltPlate s).conj = s.conj := by simp [haltPlate]
@[simp] theorem haltPlate_node : (haltPlate s).node = s.node := by simp [haltPlate]
@[simp] theorem haltPlate_drawn : (haltPlate s).drawn = s.drawn := by simp [haltPlate]
@[simp] theorem haltPlate_pending : (haltPlate s).pending = s.pending := by simp [haltPlate]

end

section
variable (s : State) (f : Tables → Tables)

@[simp] theorem setTables_run : (setTables s f).run = s.run := rfl
@[simp] theorem setTables_units : (setTables s f).units = s.units := rfl
@[simp] theorem setTables_mem : (setTables s f).mem = s.mem := rfl
@[simp] theorem setTables_cnt : (setTables s f).cnt = s.cnt := rfl
@[simp] theorem setTables_dump : (setTables s f).dump = s.dump := rfl
@[simp] theorem setTables_power : (setTables s f).power = s.power := rfl
@[simp] theorem setTables_nor : (setTables s f).nor = s.nor := rfl
@[simp] theorem setTables_boot : (setTables s f).boot = s.boot := rfl
@[simp] theorem setTables_faults : (setTables s f).faults = s.faults := rfl
@[simp] theorem setTables_setup : (setTables s f).setup = s.setup := rfl
@[simp] theorem setTables_host : (setTables s f).host = s.host := rfl
@[simp] theorem setTables_bg : (setTables s f).bg = s.bg := rfl
@[simp] theorem setTables_flash : (setTables s f).flash = s.flash := rfl
@[simp] theorem setTables_fab : (setTables s f).fab = s.fab := rfl
@[simp] theorem setTables_conj : (setTables s f).conj = s.conj := rfl
@[simp] theorem setTables_orr : (setTables s f).orr = s.orr := rfl
@[simp] theorem setTables_node : (setTables s f).node = s.node := rfl
@[simp] theorem setTables_drawn : (setTables s f).drawn = s.drawn := rfl
@[simp] theorem setTables_pending : (setTables s f).pending = s.pending := rfl

end

section
variable (s : State) (at' d : Nat) (m : Remote)

@[simp] theorem reportAt_run : (reportAt s at' d m).run = s.run := rfl
@[simp] theorem reportAt_units : (reportAt s at' d m).units = s.units := rfl
@[simp] theorem reportAt_mem : (reportAt s at' d m).mem = s.mem := rfl
@[simp] theorem reportAt_cnt : (reportAt s at' d m).cnt = s.cnt := rfl
@[simp] theorem reportAt_dump : (reportAt s at' d m).dump = s.dump := rfl
@[simp] theorem reportAt_power : (reportAt s at' d m).power = s.power := rfl
@[simp] theorem reportAt_nor : (reportAt s at' d m).nor = s.nor := rfl
@[simp] theorem reportAt_boot : (reportAt s at' d m).boot = s.boot := rfl
@[simp] theorem reportAt_faults : (reportAt s at' d m).faults = s.faults := rfl
@[simp] theorem reportAt_setup : (reportAt s at' d m).setup = s.setup := rfl
@[simp] theorem reportAt_host : (reportAt s at' d m).host = s.host := rfl
@[simp] theorem reportAt_bg : (reportAt s at' d m).bg = s.bg := rfl
@[simp] theorem reportAt_flash : (reportAt s at' d m).flash = s.flash := rfl
@[simp] theorem reportAt_fab : (reportAt s at' d m).fab = s.fab := rfl
@[simp] theorem reportAt_conj : (reportAt s at' d m).conj = s.conj := rfl
@[simp] theorem reportAt_orr : (reportAt s at' d m).orr = s.orr := rfl
@[simp] theorem reportAt_node : (reportAt s at' d m).node = s.node := rfl
@[simp] theorem reportAt_drawn : (reportAt s at' d m).drawn = s.drawn := rfl
@[simp] theorem reportAt_pending : (reportAt s at' d m).pending = s.pending := rfl

end

section
variable (s : State) (k q a : Nat) (f : InRec → InRec)

@[simp] theorem setWaiting_run : (setWaiting s k q a f).run = s.run := rfl
@[simp] theorem setWaiting_units : (setWaiting s k q a f).units = s.units := rfl
@[simp] theorem setWaiting_mem : (setWaiting s k q a f).mem = s.mem := rfl
@[simp] theorem setWaiting_cnt : (setWaiting s k q a f).cnt = s.cnt := rfl
@[simp] theorem setWaiting_dump : (setWaiting s k q a f).dump = s.dump := rfl
@[simp] theorem setWaiting_power : (setWaiting s k q a f).power = s.power := rfl
@[simp] theorem setWaiting_nor : (setWaiting s k q a f).nor = s.nor := rfl
@[simp] theorem setWaiting_boot : (setWaiting s k q a f).boot = s.boot := rfl
@[simp] theorem setWaiting_faults : (setWaiting s k q a f).faults = s.faults := rfl
@[simp] theorem setWaiting_setup : (setWaiting s k q a f).setup = s.setup := rfl
@[simp] theorem setWaiting_host : (setWaiting s k q a f).host = s.host := rfl
@[simp] theorem setWaiting_bg : (setWaiting s k q a f).bg = s.bg := rfl
@[simp] theorem setWaiting_flash : (setWaiting s k q a f).flash = s.flash := rfl
@[simp] theorem setWaiting_fab : (setWaiting s k q a f).fab = s.fab := rfl
@[simp] theorem setWaiting_conj : (setWaiting s k q a f).conj = s.conj := rfl
@[simp] theorem setWaiting_orr : (setWaiting s k q a f).orr = s.orr := rfl
@[simp] theorem setWaiting_node : (setWaiting s k q a f).node = s.node := rfl
@[simp] theorem setWaiting_drawn : (setWaiting s k q a f).drawn = s.drawn := rfl
@[simp] theorem setWaiting_pending : (setWaiting s k q a f).pending = s.pending := rfl

end

end Sys2Proof.Machine
end

