-- ==== Sys2Proof/Laws/Lanes.lean ====
section
/-!
SUPPORT. What the frame of every lane command can do: it does nothing unless it is the action the stroke holds for a free unit,
and otherwise runs on the state in which the unit is taken.
-/
namespace Sys2Proof.Machine

variable {s t : State} {lane op n : Nat} {o : OpAB} {ok : Bool} {f : State → Host.Outcome State Fault Refusal}

theorem laneRun_runs (h : laneReady s lane op o n = true) : laneRun s lane op o n f = f (ran s lane n) := by simp [laneRun, h]

theorem laneRun_waits (h : laneReady s lane op o n = false) : laneRun s lane op o n f = .next s := by simp [laneRun, h]

theorem laneChecked_runs (k : ok = true) (h : laneReady s lane op o n = true) : laneChecked s lane op o n ok f = f (ran s lane n) := by
  simp [laneChecked, laneRun, h, k]

theorem laneChecked_waits (h : laneReady s lane op o n = false) : laneChecked s lane op o n ok f = .next s := by
  cases ok <;> simp [laneChecked, laneRun, h]

/-- Operands that a load check refuses are in no record of a plate in use. -/
theorem laneChecked_none (k : ok = false) : laneChecked s lane op o n ok f = .next s := by simp [laneChecked, k]

/-- A next state is either the state as it was, or what the command does once its unit is taken. -/
theorem laneChecked_next (h : laneChecked s lane op o n ok f = .next t) :
    t = s ∨ (ok = true ∧ laneReady s lane op o n = true ∧ f (ran s lane n) = .next t) := by
  unfold laneChecked laneRun at h
  split at h
  · split at h
    · exact .inr ⟨‹_›, ‹_›, h⟩
    · cases h; exact .inl rfl
  · cases h; exact .inl rfl

theorem laneRun_next (h : laneRun s lane op o n f = .next t) : t = s ∨ (laneReady s lane op o n = true ∧ f (ran s lane n) = .next t) := by
  unfold laneRun at h
  split at h
  · exact .inr ⟨‹_›, h⟩
  · cases h; exact .inl rfl

/-- A lane is ready only where its unit is free and its stroke holds the action (R25, R36). -/
theorem laneReady_iff : laneReady s lane op o n = true ↔ laneFree s lane = true ∧ laneActs s lane op o n = true := by
  simp [laneReady]

/-- An operand with an address that exists goes on with it. -/
theorem withAddr_next {a : Option Nat} {g : Nat → Host.Outcome State Fault Refusal} (h : withAddr a g = .next t) :
    ∃ x, a = some x ∧ g x = .next t := by
  cases a with
  | none => cases h
  | some x => exact ⟨x, rfl, h⟩

end Sys2Proof.Machine
end

