-- ==== Sys2Proof/Laws/Frames.lean ====
section
/-!
SUPPORT. What lane commands change, put together from their operations: each of these lemmas adds one operation to a frame.
-/
namespace Sys2Proof.Machine

variable {s t : State} {lane n k : Nat} {ws : List Landing}

theorem LaneOnly.refl (s : State) : LaneOnly s s := rfl
theorem LaneOnly.ran (h : LaneOnly s t) (id m : Nat) : LaneOnly s (ran t id m) := by
  unfold LaneOnly at *; rw [h]; rfl
theorem LaneOnly.later (h : LaneOnly s t) (k : Nat) (w : Landing) : LaneOnly s (later t k w) := by
  unfold LaneOnly at *; rw [h]; rfl
theorem LaneOnly.count (h : LaneOnly s t) (d g i c m : Nat) : LaneOnly s (count t d g i c m) := by
  unfold LaneOnly at *; rw [h]; rfl
theorem LaneOnly.countTier (h : LaneOnly s t) (id c m : Nat) : LaneOnly s (countTier t id c m) := (h.count ..).count ..
theorem LaneOnly.countLane (h : LaneOnly s t) (id c m : Nat) : LaneOnly s (countLane t id c m) := (h.count ..).count ..
theorem LaneOnly.countArith (h : LaneOnly s t) (id c m : Nat) : LaneOnly s (countArith t id c m) := by
  unfold Machine.countArith
  split
  · exact h
  · exact h.count ..
theorem LaneOnly.countConv (h : LaneOnly s t) (id a b : Nat) : LaneOnly s (countConv t id a b) := (h.countArith ..).countArith ..

/-- The unit is taken and nothing is on its way yet. -/
theorem Lands.ran (s : State) (lane n k : Nat) : Lands lane n k [] s (ran s lane n) :=
  ⟨rfl, by simp only [Sends, List.map_nil, List.append_nil]; rfl, (LaneOnly.refl s).ran ..⟩

/-- One more write. -/
theorem Lands.later (h : Lands lane n k ws s t) (e : t.run.now = s.run.now) (w : Landing) :
    Lands lane n k (ws ++ [w]) s (later t k w) := by
  refine ⟨h.1, ?_, h.2.2.later ..⟩
  show t.run.delayed ++ [_] = _
  rw [h.2.1, e, List.map_append, List.append_assoc]; rfl

theorem Lands.countArith (h : Lands lane n k ws s t) (id c m : Nat) : Lands lane n k ws s (countArith t id c m) :=
  ⟨by simp only [Works, countArith_run]; exact h.1, by simp only [Sends, countArith_run]; exact h.2.1, h.2.2.countArith ..⟩
theorem Lands.countConv (h : Lands lane n k ws s t) (id a b : Nat) : Lands lane n k ws s (countConv t id a b) :=
  (h.countArith ..).countArith ..
theorem Lands.count (h : Lands lane n k ws s t) (d g i c m : Nat) : Lands lane n k ws s (count t d g i c m) :=
  ⟨h.1, h.2.1, h.2.2.count ..⟩
theorem Lands.countTier (h : Lands lane n k ws s t) (id c m : Nat) : Lands lane n k ws s (countTier t id c m) :=
  (h.count ..).count ..

/-- The unit taken, and one write on its way. -/
theorem Lands.one (s : State) (lane n k : Nat) (w : Landing) : Lands lane n k [w] s (Machine.later (Machine.ran s lane n) k w) :=
  (Lands.ran s lane n k).later rfl w

end Sys2Proof.Machine
end

