-- ==== Sys2Proof/Laws/Kept.lean ====
section
/-!
SUPPORT. `Kept s t`: from `s` to `t` the queue stands and soundness is kept. It composes, so that one lemma for each operation
gives it for every command.
-/
namespace Sys2Proof.Machine

/-- The queue stands, and what is sound stays sound. -/
structure Kept (s t : State) : Prop where
  pending : t.pending = s.pending
  node    : s.nodeLegal = true → t.nodeLegal = true
  power   : s.powerLegal = true → t.powerLegal = true
  boxes   : s.boxesLegal = true → t.boxesLegal = true
  canon   : s.canonical = true → t.canonical = true

theorem Kept.refl (s : State) : Kept s s := ⟨rfl, id, id, id, id⟩

theorem Kept.trans {a b c : State} (h : Kept a b) (k : Kept b c) : Kept a c :=
  ⟨k.pending.trans h.pending, k.node ∘ h.node, k.power ∘ h.power, k.boxes ∘ h.boxes, k.canon ∘ h.canon⟩

/-- A change of the other fields: the 13 on which soundness rests stand. -/
theorem Kept.upd {s t : State} {run units mem cnt dump power nor boot faults setup host recs bg flash fab conj orr node drawn}
    (h : Kept s t)
    (e : (node.state, run.stopAt, faults.test, power.state, power.fallTo, host.mstate, host.frames, units.vreg,
        mem.bytes, mem.sram, mem.sramGen, mem.poison, mem.host) =
      (t.node.state, t.run.stopAt, t.faults.test, t.power.state, t.power.fallTo, t.host.mstate, t.host.frames, t.units.vreg,
        t.mem.bytes, t.mem.sram, t.mem.sramGen, t.mem.poison, t.mem.host)) :
    Kept s ⟨run, units, mem, cnt, dump, power, nor, boot, faults, setup, host, recs, bg, flash, fab, conj, orr, node, drawn, t.pending⟩ := by
  simp only [Prod.mk.injEq] at e
  obtain ⟨hn, hr, hf, hw, hl, hb, hg, hv, h1, h2, h3, h4, h5⟩ := e
  refine h.trans ⟨rfl, ?_, ?_, ?_, ?_⟩
  · simp only [State.nodeLegal, hn, hr, hf]; exact id
  · simp only [State.powerLegal, hw, hl]; exact id
  · simp only [State.boxesLegal, hb]; exact id
  · simp only [State.canonical, Memory.wf, Units.wf, HostIf.wf, hb, hg, hv, h1, h2, h3, h4, h5]; exact id

/-- The same where one of those parts changes: what has to be shown of each. -/
theorem Kept.updWith {s t : State} {run units mem cnt dump power nor boot faults setup host recs bg flash fab conj orr node drawn}
    (h : Kept s t) (hn : t.node.state ≤ 9 → node.state ≤ 9)
    (hr : t.run.stopAt.all (fun st => decide (st ≤ 9)) = true → run.stopAt.all (fun st => decide (st ≤ 9)) = true)
    (hf : t.faults.test.all (fun t => decide (t.2.1 ≤ 9)) = true → faults.test.all (fun t => decide (t.2.1 ≤ 9)) = true)
    (hw : t.power.state ≤ 6 → t.power.fallTo ≤ 6 → power.state ≤ 6) (hl : t.power.fallTo ≤ 6 → power.fallTo ≤ 6)
    (hb : t.host.mstate.all (fun kv => decide (kv.2 ≤ 2)) = true → host.mstate.all (fun kv => decide (kv.2 ≤ 2)) = true)
    (hb' : cwf 0 t.host.mstate = true → cwf 0 host.mstate = true) (hg : cwf 0#8 t.host.frames = true → cwf 0#8 host.frames = true)
    (hv : cwf 0#32 t.units.vreg = true → cwf 0#32 units.vreg = true) (h1 : cwf 0#8 t.mem.bytes = true → cwf 0#8 mem.bytes = true)
    (h2 : cwf none t.mem.sram = true → cwf none mem.sram = true) (h3 : cwf 0 t.mem.sramGen = true → cwf 0 mem.sramGen = true)
    (h4 : cwf false t.mem.poison = true → cwf false mem.poison = true) (h5 : cwf 0#8 t.mem.host = true → cwf 0#8 mem.host = true) :
    Kept s ⟨run, units, mem, cnt, dump, power, nor, boot, faults, setup, host, recs, bg, flash, fab, conj, orr, node, drawn, t.pending⟩ := by
  refine h.trans ⟨rfl, fun k => ?_, fun k => ?_, hb, fun k => ?_⟩
  · simp only [State.nodeLegal, Bool.and_eq_true, decide_eq_true_eq] at k ⊢
    exact ⟨⟨hn k.1.1, hr k.1.2⟩, hf k.2⟩
  · simp only [State.powerLegal, Bool.and_eq_true, decide_eq_true_eq] at k ⊢
    exact ⟨hw k.1 k.2, hl k.2⟩
  · simp only [State.canonical, Memory.wf, Units.wf, HostIf.wf, Bool.and_eq_true] at k ⊢
    exact ⟨⟨⟨⟨⟨⟨h1 k.1.1.1.1.1.1, h2 k.1.1.1.1.1.2⟩, h3 k.1.1.1.1.2⟩, h4 k.1.1.1.2⟩, h5 k.1.1.2⟩, hv k.1.2⟩, hg k.2.1, hb' k.2.2⟩

/-- Every value that a write leaves in a mailbox state is one of the three. -/
theorem boxes_cset (m : Cells Nat) (k v : Nat) (hv : v ≤ 2) (h : m.all (fun kv => decide (kv.2 ≤ 2)) = true) :
    (cset 0 m k v).all (fun kv => decide (kv.2 ≤ 2)) = true := by
  induction m with
  | nil => unfold cset; split <;> simp [hv]
  | cons a r ih =>
    obtain ⟨k', v'⟩ := a
    simp only [List.all_cons, Bool.and_eq_true, decide_eq_true_eq] at h
    unfold cset
    split
    · split <;> simp [h.1, h.2, hv] <;> exact fun a b hb => by simpa using List.all_eq_true.mp h.2 (a, b) hb
    · split
      · split
        · exact h.2
        · simp only [List.all_cons, Bool.and_eq_true, decide_eq_true_eq]; exact ⟨hv, h.2⟩
      · simp only [List.all_cons, Bool.and_eq_true, decide_eq_true_eq]; exact ⟨h.1, ih h.2⟩

/-- Any change, part by part. -/
theorem Kept.parts {s t u : State} (h : Kept s t) (hp : u.pending = t.pending) (hn : t.nodeLegal = true → u.nodeLegal = true)
    (hw : t.powerLegal = true → u.powerLegal = true) (hb : t.boxesLegal = true → u.boxesLegal = true)
    (hc : t.canonical = true → u.canonical = true) : Kept s u := h.trans ⟨hp, hn, hw, hb, hc⟩

/-- A step of a definition: what is named there is kept, and then the rest. -/
theorem Kept.cut {s : State} {p : Prop} (x : State) (h : Kept s x) (k : Kept s x → p) : p := k h

/-- Either branch. -/
theorem Kept.ite {s a b : State} {c : Prop} [Decidable c] (ha : Kept s a) (hb : Kept s b) : Kept s (if c then a else b) := by
  split
  · exact ha
  · exact hb

/-- What an operation that may do nothing leaves. -/
theorem Kept.getD {s a : State} {o : Option State} (ha : Kept s a) (h : ∀ t, o = some t → Kept s t) : Kept s (o.getD a) := by
  cases o with
  | none => exact ha
  | some t => exact h t rfl

/-- A fold over a list. -/
theorem Kept.foldl {α : Type _} {s t : State} {f : State → α → State} (l : List α) (hf : ∀ x a, Kept s x → Kept s (f x a)) (h : Kept s t) :
    Kept s (l.foldl f t) := by
  induction l generalizing t with
  | nil => exact h
  | cons a l ih => exact ih (hf t a h)

/-- A fold whose function's step is kept in its first component. -/
theorem Kept.foldl_fst {α β : Type _} {s : State} {f : State × β → α → State × β} (l : List α)
    (hf : ∀ x a, Kept s x.1 → Kept s (f x a).1) {t : State × β} (h : Kept s t.1) : Kept s (l.foldl f t).1 := by
  induction l generalizing t with
  | nil => exact h
  | cons a l ih => exact ih (hf t a h)

theorem Kept.foldl_snd {α β : Type _} {s : State} {f : β × State → α → β × State} (l : List α)
    (hf : ∀ x a, Kept s x.2 → Kept s (f x a).2) {t : β × State} (h : Kept s t.2) : Kept s (l.foldl f t).2 := by
  induction l generalizing t with
  | nil => exact h
  | cons a l ih => exact ih (hf t a h)

theorem Kept.foldr {α : Type _} {s t : State} {f : α → State → State} (l : List α) (hf : ∀ x a, Kept s x → Kept s (f a x)) (h : Kept s t) :
    Kept s (l.foldr f t) := by
  induction l with
  | nil => exact h
  | cons a l ih => exact hf _ a ih

/-- An outcome whose next state, if there is one, is kept. -/
def KeptO (s : State) (o : Host.Outcome State Fault Refusal) : Prop := ∀ t, o = .next t → Kept s t

theorem KeptO.next {s t : State} (h : Kept s t) : KeptO s (.next t) := by rintro _ ⟨⟩; exact h
theorem KeptO.fault {s : State} {f : Fault} : KeptO s (.fault f) := by rintro _ ⟨⟩
theorem KeptO.refused {s : State} {f : Refusal} : KeptO s (.refused f) := by rintro _ ⟨⟩

theorem KeptO.ite {s : State} {a b : Host.Outcome State Fault Refusal} {c : Prop} [Decidable c] (ha : KeptO s a) (hb : KeptO s b) :
    KeptO s (if c then a else b) := by
  split
  · exact ha
  · exact hb

end Sys2Proof.Machine
end

