-- ==== Sys2Proof/Laws/KeptOps.lean ====
section
/-!
SUPPORT. Soundness is kept (`Kept`) by the shared operations, mailboxes, resets, power, maps, faults, health, boot and the orrery.
-/
namespace Sys2Proof.Machine

set_option linter.tactic.unusedName false

/-! ### Ops -/

theorem kept_writeMem {s0 : State} (s : State) (a : Nat) (bs : Bytes) (h : Kept s0 s) : Kept s0 (writeMem s a bs) := by
  unfold writeMem
  split
  · refine h.parts rfl id id id fun k => ?_
    simp only [State.canonical, Memory.wf, Bool.and_eq_true] at k ⊢
    exact ⟨⟨⟨⟨⟨⟨k.1.1.1.1.1.1, csetN_wf _ _ _ k.1.1.1.1.1.2⟩, k.1.1.1.1.2⟩, k.1.1.1.2⟩, k.1.1.2⟩, k.1.2⟩, k.2⟩
  · refine h.parts rfl id id id fun k => ?_
    simp only [State.canonical, Memory.wf, Bool.and_eq_true] at k ⊢
    exact ⟨⟨⟨⟨⟨⟨csetN_wf _ _ _ k.1.1.1.1.1.1, k.1.1.1.1.1.2⟩, k.1.1.1.1.2⟩, k.1.1.1.2⟩, k.1.1.2⟩, k.1.2⟩, k.2⟩
theorem gens_wf (l : List Nat) (p : Nat → Bool) (v : Nat) (m : Cells Nat) (h : cwf 0 m = true) :
    cwf 0 (l.foldl (fun m d => if p d then cset 0 m d v else m) m) = true := by
  induction l generalizing m with
  | nil => exact h
  | cons a l ih => refine ih _ ?_; dsimp only; split; exact cset_wf _ _ _ h; exact h
theorem kept_loseSram {s0 : State} (s : State) (p : Nat → Bool) (h : Kept s0 s) : Kept s0 (loseSram s p) := by
  unfold loseSram
  refine h.parts rfl id id id fun k => ?_
  simp only [State.canonical, Memory.wf, Bool.and_eq_true] at k ⊢
  exact ⟨⟨⟨⟨⟨⟨k.1.1.1.1.1.1, cdrop_wf _ _ k.1.1.1.1.1.2⟩, gens_wf _ _ _ _ k.1.1.1.1.2⟩, cdrop_wf _ _ k.1.1.1.2⟩, k.1.1.2⟩, k.1.2⟩, k.2⟩
theorem kept_writeNat {s0 : State} (s : State) (a n v : Nat) (h : Kept s0 s) : Kept s0 (writeNat s a n v) := by
  unfold writeNat
  repeat' with_reducible (first | assumption | apply kept_writeMem)
theorem kept_setMarks {s0 : State} (s : State) (a : Nat) (ms : List Bool) (h : Kept s0 s) : Kept s0 (setMarks s a ms) := by
  unfold setMarks
  refine h.parts rfl id id id fun k => ?_
  simp only [State.canonical, Memory.wf, Bool.and_eq_true] at k ⊢
  exact ⟨⟨⟨⟨⟨⟨k.1.1.1.1.1.1, k.1.1.1.1.1.2⟩, k.1.1.1.1.2⟩, csetN_wf _ _ _ k.1.1.1.2⟩, k.1.1.2⟩, k.1.2⟩, k.2⟩
theorem kept_later {s0 : State} (s : State) (k : Nat) (w : Landing) (h : Kept s0 s) : Kept s0 (later s k w) := by
  unfold later
  exact Kept.upd (by assumption) rfl
theorem kept_setVreg {s0 : State} (s : State) (cl reg : Nat) (vals : List W32) (h : Kept s0 s) : Kept s0 (setVreg s cl reg vals) := by
  unfold setVreg
  refine h.parts rfl id id id fun k => ?_
  simp only [State.canonical, Units.wf, Bool.and_eq_true] at k ⊢
  exact ⟨⟨k.1.1, csetN_wf _ _ _ k.1.2⟩, k.2⟩
theorem kept_setNbu {s0 : State} (s : State) (c : Chan) (pos : Nat) (n : Nbu) (h : Kept s0 s) : Kept s0 (setNbu s c pos n) := by
  unfold setNbu
  exact Kept.upd (by assumption) rfl
theorem kept_enqueueTask {s0 : State} (s : State) (nbu : Nat) (step : Nat) (b : Bytes) (cap : Nat) (h : Kept s0 s) : Kept s0 (enqueueTask s nbu step b cap) := by
  unfold enqueueTask
  repeat' with_reducible (first | assumption | exact Kept.upd (by assumption) rfl | (refine Kept.updWith (by assumption) ?_ ?_ ?_ ?_ ?_ ?_ ?_ ?_ ?_ ?_ ?_ ?_ ?_ ?_ <;> first | exact id | (with_unfolding_all (intros; first | assumption | rfl | exact Nat.le_of_ble_eq_true rfl | (apply cdrop_wf; assumption)))) | (extract_lets +onlyGivenNames x; refine Kept.cut (s := s0) x ?_ ?_; rotate_left; intro hx; clear_value x; rotate_right; unfold x; clear x) | extract_lets +onlyGivenNames x | refine Kept.ite ?_ ?_ | split)
theorem kept_landOne {s0 : State} (s : State) (w : Landing) (h : Kept s0 s) : Kept s0 (landOne s w) := by
  unfold landOne
  repeat' with_reducible (first | assumption | exact Kept.upd (by assumption) rfl | (refine Kept.updWith (by assumption) ?_ ?_ ?_ ?_ ?_ ?_ ?_ ?_ ?_ ?_ ?_ ?_ ?_ ?_ <;> first | exact id | (with_unfolding_all (intros; first | assumption | rfl | exact Nat.le_of_ble_eq_true rfl | (apply cdrop_wf; assumption)))) | (extract_lets +onlyGivenNames x; refine Kept.cut (s := s0) x ?_ ?_; rotate_left; intro hx; clear_value x; rotate_right; unfold x; clear x) | extract_lets +onlyGivenNames x | apply kept_writeMem | apply kept_setMarks | apply kept_setVreg | apply kept_enqueueTask | split)
theorem kept_landDue {s0 : State} (s : State) (h : Kept s0 s) : Kept s0 (landDue s) := by
  unfold landDue
  repeat' with_reducible (first | exact Kept.upd (by assumption) rfl | apply kept_landOne | refine Kept.foldl _ (fun _ _ _ => ?_) ?_)
theorem kept_writeIn {s0 : State} (s : State) (k : Nat) (a : Nat) (bs : Bytes) (h : Kept s0 s) : Kept s0 (writeIn s k a bs) := by
  unfold writeIn
  repeat' with_reducible (first | assumption | apply kept_writeMem | apply kept_later | refine Kept.ite ?_ ?_ | split)
theorem kept_draw {s0 s t : State} {x : Nat} (e : draw s = (x, t)) (h : Kept s0 s) : Kept s0 t := by
  cases e
  exact Kept.upd h rfl
theorem kept_count {s0 : State} (s : State) (dom g item c n : Nat) (h : Kept s0 s) : Kept s0 (count s dom g item c n) := by
  unfold count
  exact Kept.upd (by assumption) rfl
theorem kept_countLane {s0 : State} (s : State) (id c n : Nat) (h : Kept s0 s) : Kept s0 (countLane s id c n) := by
  unfold countLane
  repeat' with_reducible (first | assumption | apply kept_count)
theorem kept_countTier {s0 : State} (s : State) (id c n : Nat) (h : Kept s0 s) : Kept s0 (countTier s id c n) := by
  unfold countTier
  repeat' with_reducible (first | assumption | apply kept_count)
theorem kept_countArith {s0 : State} (s : State) (id c n : Nat) (h : Kept s0 s) : Kept s0 (countArith s id c n) := by
  unfold countArith
  repeat' with_reducible (first | assumption | apply kept_count | refine Kept.ite ?_ ?_)
theorem kept_countSeen {s0 : State} (s : State) (kind : Nat) (lane : Nat) (h : Kept s0 s) : Kept s0 (countSeen s kind lane) := by
  unfold countSeen
  repeat' with_reducible (first | assumption | exact Kept.upd (by assumption) rfl | (extract_lets +onlyGivenNames x; refine Kept.cut (s := s0) x ?_ ?_; rotate_left; intro hx; clear_value x; rotate_right; unfold x; clear x) | extract_lets +onlyGivenNames x)
theorem kept_countRec {s0 : State} (s : State) (slice c n : Nat) (h : Kept s0 s) : Kept s0 (countRec s slice c n) := by
  unfold countRec
  repeat' with_reducible (first | assumption | apply kept_count | refine Kept.ite ?_ ?_)
theorem kept_flushCounters {s0 : State} (s : State) (h : Kept s0 s) : Kept s0 (flushCounters s) := by
  unfold flushCounters
  exact Kept.upd (by assumption) rfl
theorem kept_ran {s0 : State} (s : State) (id n : Nat) (h : Kept s0 s) : Kept s0 (ran s id n) := by
  unfold ran
  repeat' with_reducible (first | exact Kept.upd (by assumption) rfl | apply kept_countLane)
theorem kept_hostWrite {s0 : State} (s : State) (p a : Nat) (bs : Bytes) (h : Kept s0 s) : Kept s0 (hostWrite s p a bs) := by
  unfold hostWrite
  apply kept_count
  refine h.parts rfl id id id fun k => ?_
  simp only [State.canonical, Memory.wf, Bool.and_eq_true] at k ⊢
  exact ⟨⟨⟨k.1.1.1, csetN_wf _ _ _ k.1.1.2⟩, k.1.2⟩, k.2⟩
theorem kept_sendVector {s0 : State} (s : State) (p v : Nat) (h : Kept s0 s) : Kept s0 (sendVector s p v) := by
  unfold sendVector
  skip
  refine h.parts rfl id id id fun k => ?_
  simp only [State.canonical, Memory.wf, Bool.and_eq_true] at k ⊢
  exact ⟨⟨⟨k.1.1.1, csetN_wf _ _ _ k.1.1.2⟩, k.1.2⟩, k.2⟩
theorem kept_raise {s0 : State} (s : State) (p v : Nat) (h : Kept s0 s) : Kept s0 (raise s p v) := by
  unfold raise
  repeat' with_reducible (first | exact Kept.upd (by assumption) rfl | apply kept_sendVector | refine Kept.ite ?_ ?_)
theorem kept_pushEvent {s0 : State} (s : State) (p slice : Nat) (entry : Bytes) (h : Kept s0 s) : Kept s0 (pushEvent s p slice entry) := by
  unfold pushEvent
  repeat' with_reducible (first | exact Kept.upd (by assumption) rfl
                                | (extract_lets +onlyGivenNames x; refine Kept.cut (s := s0) x ?_ ?_; rotate_left; intro hx; clear_value x; rotate_right; unfold x; clear x) | extract_lets +onlyGivenNames x | apply kept_raise | refine Kept.ite ?_ ?_)
theorem kept_postEvent {s0 : State} (s : State) (slice code argLo arg : Nat) (h : Kept s0 s) : Kept s0 (postEvent s slice code argLo arg) := by
  unfold postEvent
  repeat' with_reducible (first | assumption | apply kept_pushEvent | refine Kept.foldl _ (fun _ _ _ => ?_) ?_ | refine Kept.ite ?_ ?_)
theorem kept_postTargeted {s0 : State} (s : State) (m code argLo arg : Nat) (h : Kept s0 s) : Kept s0 (postTargeted s m code argLo arg) := by
  unfold postTargeted
  repeat' with_reducible (first | assumption | apply kept_pushEvent)
theorem kept_postAll {s0 : State} (s : State) (code argLo arg : Nat) (h : Kept s0 s) : Kept s0 (postAll s code argLo arg) := by
  unfold postAll
  repeat' with_reducible (first | assumption | apply kept_postEvent | refine Kept.foldl _ (fun _ _ _ => ?_) ?_)
theorem kept_enterState {s0 : State} (s : State) (st : Nat) (hs : s0.nodeLegal = true → st ≤ 9) (h : Kept s0 s) : Kept s0 (enterState s st) := by
  unfold enterState
  split
  · exact h
  · dsimp only
    apply kept_raise
    apply kept_raise
    apply kept_postAll
    refine ⟨h.pending, fun k => ?_, h.power, h.boxes, h.canon⟩
    have h1 := h.node k
    simp only [State.nodeLegal, Bool.and_eq_true, decide_eq_true_eq] at h1 ⊢
    exact ⟨⟨hs k, h1.1.2⟩, h1.2⟩
theorem kept_orrSendBody {s0 : State} (s : State) (op : Nat) (dst : Nat) (subject : Nat) (code : Nat) (value : Nat) (view : Nat) (frame : Nat) (body : Bytes) (h : Kept s0 s) : Kept s0 (orrSendBody s op dst subject code value view frame body) := by
  unfold orrSendBody
  repeat' with_reducible (first | assumption | exact Kept.upd (by assumption) rfl | (extract_lets +onlyGivenNames x; refine Kept.cut (s := s0) x ?_ ?_; rotate_left; intro hx; clear_value x; rotate_right; unfold x; clear x) | extract_lets +onlyGivenNames x | refine Kept.ite ?_ ?_ | split)
theorem kept_orrSend {s0 : State} (s : State) (op dst subject code value : Nat) (h : Kept s0 s) : Kept s0 (orrSend s op dst subject code value) := by
  unfold orrSend
  exact Kept.upd (by assumption) rfl
theorem kept_logFaultFor {s0 : State} (s : State) (subject : Nat) (f : FaultInfo) (h : Kept s0 s) : Kept s0 (logFaultFor s subject f) := by
  unfold logFaultFor
  repeat' with_reducible (first | exact Kept.upd (by assumption) rfl
                                | (extract_lets +onlyGivenNames x; refine Kept.cut (s := s0) x ?_ ?_; rotate_left; intro hx; clear_value x; rotate_right; unfold x; clear x) | extract_lets +onlyGivenNames x | apply kept_postEvent | apply kept_orrSend | split)
theorem kept_logFault {s0 : State} (s : State) (f : FaultInfo) (h : Kept s0 s) : Kept s0 (logFault s f) := by
  unfold logFault
  repeat' with_reducible (first | assumption | apply kept_logFaultFor)
theorem kept_addItem {s0 : State} (s : State) (cls : Nat) (w : Work) (lane : Nat) (urgent : Bool) (left : Nat) (h : Kept s0 s) : Kept s0 (addItem s cls w lane urgent left) := by
  unfold addItem
  repeat' with_reducible (first | exact Kept.upd (by assumption) rfl
                                | (extract_lets +onlyGivenNames x; refine Kept.cut (s := s0) x ?_ ?_; rotate_left; intro hx; clear_value x; rotate_right; unfold x; clear x) | apply kept_count | refine Kept.ite ?_ ?_)
theorem kept_poisonTile {s0 : State} (s : State) (obj : Nat) (tile : Nat) (lane : Nat) (k : Nat) (h : Kept s0 s) : Kept s0 (poisonTile s obj tile lane k) := by
  unfold poisonTile
  repeat' with_reducible (first | assumption | exact Kept.upd (by assumption) rfl | (extract_lets +onlyGivenNames x; refine Kept.cut (s := s0) x ?_ ?_; rotate_left; intro hx; clear_value x; rotate_right; unfold x; clear x) | extract_lets +onlyGivenNames x | apply kept_writeIn | apply kept_logFault | apply kept_addItem | refine Kept.getD ?_ (fun _ _ => ?_) | refine Kept.ite ?_ ?_ | split)
theorem kept_poisonFinding {s0 : State} (s : State) (obj : Nat) (tile : Nat) (lane : Nat) (k : Nat) (h : Kept s0 s) : Kept s0 (poisonFinding s obj tile lane k) := by
  unfold poisonFinding
  repeat' with_reducible (first | assumption | exact Kept.upd (by assumption) rfl | (extract_lets +onlyGivenNames x; refine Kept.cut (s := s0) x ?_ ?_; rotate_left; intro hx; clear_value x; rotate_right; unfold x; clear x) | extract_lets +onlyGivenNames x | apply kept_poisonTile)

/-! ### Mailbox -/

theorem kept_setFrame {s0 : State} (s : State) (m off : Nat) (bs : Bytes) (h : Kept s0 s) : Kept s0 (setFrame s m off bs) := by
  unfold setFrame
  exact Kept.updWith h id id id (fun a _ => a) id id id (fun k => csetN_wf _ _ _ k) id id id id id id
theorem kept_respond {s0 : State} (s : State) (m seq status : Nat) (block resp : Bytes) (h : Kept s0 s) :
    Kept s0 (respond s m seq status block resp) := by
  unfold respond
  extract_lets s1 s2 s3 s4
  apply kept_raise
  have h3 : Kept s0 s3 := kept_setFrame _ _ _ _ (kept_setFrame _ _ _ _ (kept_setFrame _ _ _ _ h))
  exact Kept.updWith h3 id id id (fun a _ => a) id (fun k => boxes_cset _ _ _ (by decide) k) (fun k => cset_wf _ _ _ k) id id id id id id id
theorem kept_answer {s0 : State} (s : State) (m code reqId seq : Nat) (r : Reply) (h : Kept s0 s) : Kept s0 (answer s m code reqId seq r) := by
  unfold answer
  repeat' with_reducible (first | exact Kept.upd (by assumption) rfl
                                | (extract_lets +onlyGivenNames x; refine Kept.cut (s := s0) x ?_ ?_; rotate_left; intro hx; clear_value x; rotate_right; unfold x; clear x) | extract_lets +onlyGivenNames x | apply kept_respond | refine Kept.ite ?_ ?_)
theorem kept_finish {s0 : State} (s : State) (m : Nat) (r : Reply) (h : Kept s0 s) : Kept s0 (finish s m r) := by
  unfold finish
  repeat' with_reducible (first | exact Kept.upd (by assumption) rfl | apply kept_answer | split)
theorem kept_endTransit {s0 : State} (s : State) (t : Transit) (r : Reply) (h : Kept s0 s) : Kept s0 (endTransit s t r) := by
  unfold endTransit
  repeat' with_reducible (first | exact Kept.upd (by assumption) rfl | apply kept_finish)
theorem kept_discardNext {s0 : State} (s : State) (m : Nat) (h : Kept s0 s) : Kept s0 (discardNext s m) := by
  unfold discardNext
  exact Kept.upd (by assumption) rfl
theorem kept_addNext {s0 : State} (s : State) (n : Next) (h : Kept s0 s) : Kept s0 (addNext s n) := by
  unfold addNext
  repeat' with_reducible (first | exact Kept.upd (by assumption) rfl | refine Kept.ite ?_ ?_)
theorem kept_abort {s0 : State} (s : State) (p : InProg) (h : Kept s0 s) : Kept s0 (abort s p) := by
  unfold abort
  apply kept_finish
  have h1 : Kept s0 (discardNext s p.mailbox) := kept_discardNext _ _ h
  generalize discardNext s p.mailbox = x at h1 ⊢
  have h2 : Kept s0 { x with setup := { x.setup with reshard := none } } := Kept.upd h1 rfl
  have h3 : Kept s0 { x with setup := { x.setup with change := none, next := x.setup.next.filter fun n => !n.change } } :=
    Kept.upd h1 rfl
  have h4 : Kept s0 { x with setup := { x.setup with change := none, next := x.setup.next.filter (fun n => !n.change), reshard := none } } :=
    Kept.upd h1 rfl
  split <;> split <;> (try split) <;> (try split) <;> assumption
theorem kept_abortIllegal {s0 : State} (s : State) (h : Kept s0 s) : Kept s0 (abortIllegal s) := by
  unfold abortIllegal
  repeat' with_reducible (first | assumption | apply kept_abort | refine Kept.foldl _ (fun _ _ _ => ?_) ?_ | refine Kept.ite ?_ ?_)
theorem kept_moveTo {s0 : State} (s : State) (st : Nat) (hs : s0.nodeLegal = true → st ≤ 9) (h : Kept s0 s) : Kept s0 (moveTo s st) := by
  unfold moveTo
  split
  · exact h
  · exact kept_abortIllegal _ (kept_enterState _ _ hs h)
theorem kept_finishTrans {s0 : State} (s : State) (r : Reply) (h : Kept s0 s) : Kept s0 (finishTrans s r) := by
  unfold finishTrans
  repeat' with_reducible (first | exact Kept.upd (by assumption) rfl | apply kept_finish | split)

/-! ### Resets -/

theorem kept_freeRing {s0 : State} (s : State) (num : Nat) (h : Kept s0 s) : Kept s0 (freeRing s num) := by
  unfold freeRing
  exact Kept.upd (by assumption) rfl
theorem kept_closeRings {s0 : State} (s : State) (h : Kept s0 s) : Kept s0 (closeRings s) := by
  unfold closeRings
  repeat' with_reducible (first | assumption | (extract_lets +onlyGivenNames x; refine Kept.cut (s := s0) x ?_ ?_; rotate_left; intro hx; clear_value x; rotate_right; unfold x; clear x) | apply kept_finish | apply kept_freeRing | refine Kept.foldl _ (fun _ _ _ => ?_) ?_ | split)
theorem kept_powerIbi {s0 : State} (o s : State) (h : Kept s0 s) : Kept s0 (powerIbi o s) := by
  unfold powerIbi
  split
  · exact Kept.upd h rfl
  · exact h
theorem kept_flatFlags {s0 : State} (s : State) (f : Nat) (h : Kept s0 s) : Kept s0 (flatFlags s f) := by
  unfold flatFlags
  repeat' with_reducible (first | exact Kept.upd (by assumption) rfl
                                | (extract_lets +onlyGivenNames x; refine Kept.cut (s := s0) x ?_ ?_; rotate_left; intro hx; clear_value x; rotate_right; unfold x; clear x) | extract_lets +onlyGivenNames x | apply kept_logFault | refine Kept.ite ?_ ?_)
theorem kept_reportPower {s0 : State} (s : State) (h : Kept s0 s) : Kept s0 (reportPower s) := by
  unfold reportPower
  exact Kept.upd (by assumption) rfl
theorem kept_idlePower {s0 : State} (s : State) (h : Kept s0 s) : Kept s0 (idlePower s) := by
  unfold idlePower
  repeat' with_reducible (first | exact Kept.upd (by assumption) rfl | apply kept_powerIbi | apply kept_flatFlags
                                | apply kept_reportPower | refine Kept.ite ?_ ?_)
theorem kept_dropSubmit {s0 : State} (s : State) (node : Nat) (table : Nat) (mine : Nat → Bool) (h : Kept s0 s) : Kept s0 (dropSubmit s node table mine) := by
  unfold dropSubmit
  repeat' with_reducible (first | assumption | exact Kept.upd (by assumption) rfl | (extract_lets +onlyGivenNames x; refine Kept.cut (s := s0) x ?_ ?_; rotate_left; intro hx; clear_value x; rotate_right; unfold x; clear x) | extract_lets +onlyGivenNames x | refine Kept.ite ?_ ?_ | split)
theorem kept_dropTransit {s0 : State} (s : State) (h : Kept s0 s) : Kept s0 (dropTransit s) := by
  unfold dropTransit
  repeat' with_reducible (first | assumption | exact Kept.upd (by assumption) rfl | (extract_lets +onlyGivenNames x; refine Kept.cut (s := s0) x ?_ ?_; rotate_left; intro hx; clear_value x; rotate_right; unfold x; clear x) | extract_lets +onlyGivenNames x | apply kept_dropSubmit | refine Kept.ite ?_ ?_ | split)
theorem kept_cancelTransit {s0 : State} (s : State) (h : Kept s0 s) : Kept s0 (cancelTransit s) := by
  unfold cancelTransit
  repeat' with_reducible (first | assumption | exact Kept.upd (by assumption) rfl | (extract_lets +onlyGivenNames x; refine Kept.cut (s := s0) x ?_ ?_; rotate_left; intro hx; clear_value x; rotate_right; unfold x; clear x) | extract_lets +onlyGivenNames x | apply kept_postTargeted | apply kept_endTransit | apply kept_dropTransit | split)
theorem kept_raiseEvents {s0 : State} (s : State) (h : Kept s0 s) : Kept s0 (raiseEvents s) := by
  unfold raiseEvents
  repeat' with_reducible (first | exact Kept.upd (by assumption) rfl | apply kept_raise | refine Kept.foldl _ (fun _ _ _ => ?_) ?_)
theorem kept_haltPlate {s0 : State} (s : State) (h : Kept s0 s) : Kept s0 (haltPlate s) := by
  unfold haltPlate
  repeat' with_reducible (first | assumption | exact Kept.upd (by assumption) rfl | (refine Kept.updWith (by assumption) ?_ ?_ ?_ ?_ ?_ ?_ ?_ ?_ ?_ ?_ ?_ ?_ ?_ ?_ <;> first | exact id | (with_unfolding_all (intros; first | assumption | rfl | exact Nat.le_of_ble_eq_true rfl | (apply cdrop_wf; assumption)))) | (extract_lets +onlyGivenNames x; refine Kept.cut (s := s0) x ?_ ?_; rotate_left; intro hx; clear_value x; rotate_right; unfold x; clear x) | extract_lets +onlyGivenNames x | apply kept_closeRings | apply kept_idlePower | apply kept_raiseEvents | apply kept_cancelTransit)
theorem kept_leaveLive {s0 : State} (s : State) (h : Kept s0 s) : Kept s0 (leaveLive s) := by
  unfold leaveLive
  repeat' with_reducible (first | exact Kept.upd (by assumption) rfl | refine Kept.ite ?_ ?_)
theorem kept_enterFault {s0 : State} (s : State) (h : Kept s0 s) : Kept s0 (enterFault s) := by
  unfold enterFault
  repeat' with_reducible (first | exact Kept.upd (by assumption) rfl | apply kept_orrSend | apply kept_leaveLive
                                | refine kept_moveTo _ _ (fun _ => by decide) ?_ | apply kept_haltPlate
                                | refine Kept.foldl _ (fun _ _ _ => ?_) ?_ | refine Kept.ite ?_ ?_)
theorem kept_takeDump {s0 : State} (s : State) (full : Bool) (code dom : Nat) (h : Kept s0 s) : Kept s0 (takeDump s full code dom) := by
  unfold takeDump
  repeat' with_reducible (first | exact Kept.upd (by assumption) rfl | extract_lets +onlyGivenNames x | refine Kept.ite ?_ ?_)
theorem kept_loseIncrements {s0 : State} (s : State) (dom : Nat) (h : Kept s0 s) : Kept s0 (loseIncrements s dom) := by
  unfold loseIncrements
  exact Kept.upd (by assumption) rfl
theorem kept_clearClusters {s0 : State} (s : State) (a b : Nat) (h : Kept s0 s) : Kept s0 (clearClusters s a b) := by
  unfold clearClusters
  refine Kept.updWith h id id id (fun a _ => a) id id id id (fun k => ?_) id id id id id
  dsimp only
  exact cdrop_wf _ _ k
theorem kept_resetEffects {s0 : State} (s : State) (dom : Nat) (h : Kept s0 s) : Kept s0 (resetEffects s dom) := by
  unfold resetEffects
  repeat' with_reducible (first | assumption | exact Kept.upd (by assumption) rfl | (refine Kept.updWith (by assumption) ?_ ?_ ?_ ?_ ?_ ?_ ?_ ?_ ?_ ?_ ?_ ?_ ?_ ?_ <;> first | exact id | (with_unfolding_all (intros; first | assumption | rfl | exact Nat.le_of_ble_eq_true rfl | (apply cdrop_wf; assumption)))) | (extract_lets +onlyGivenNames x; refine Kept.cut (s := s0) x ?_ ?_; rotate_left; intro hx; clear_value x; rotate_right; unfold x; clear x) | extract_lets +onlyGivenNames x | apply kept_loseSram | apply kept_later | apply kept_dropTransit | apply kept_clearClusters | refine Kept.foldl _ (fun _ _ _ => ?_) ?_ | refine Kept.foldl_fst _ (fun _ _ _ => ?_) ?_ | refine Kept.foldl_snd _ (fun _ _ _ => ?_) ?_ | refine Kept.ite ?_ ?_ | split)
theorem kept_startReset {s0 : State} (s : State) (dom : Nat) (h : Kept s0 s) : Kept s0 (startReset s dom) := by
  unfold startReset
  repeat' with_reducible (first | exact Kept.upd (by assumption) rfl
                                | (extract_lets +onlyGivenNames x; refine Kept.cut (s := s0) x ?_ ?_; rotate_left; intro hx; clear_value x; rotate_right; unfold x; clear x) | apply kept_loseIncrements | apply kept_resetEffects | refine Kept.ite ?_ ?_)
theorem kept_loseFrame {s0 : State} (s : State) (dom : Nat) (h : Kept s0 s) : Kept s0 (loseFrame s dom) := by
  unfold loseFrame
  repeat' with_reducible (first | assumption | apply kept_logFault | apply kept_enterFault | apply kept_takeDump)
theorem kept_escalate {s0 : State} (s : State) (h : Kept s0 s) : Kept s0 (escalate s) := by
  unfold escalate
  repeat' with_reducible (first | (refine Kept.updWith (by assumption) ?_ ?_ ?_ ?_ ?_ ?_ ?_ ?_ ?_ ?_ ?_ ?_ ?_ ?_ <;> first | exact id | (with_unfolding_all (intros; first | assumption | rfl | exact Nat.le_of_ble_eq_true rfl | (apply cdrop_wf; assumption)))) | (extract_lets +onlyGivenNames x; refine Kept.cut (s := s0) x ?_ ?_; rotate_left; intro hx; clear_value x; rotate_right; unfold x; clear x) | extract_lets +onlyGivenNames x | apply kept_orrSend | apply kept_logFault | refine kept_moveTo _ _ (fun _ => by decide) ?_ | apply kept_takeDump | apply kept_leaveLive | split)
theorem kept_countDomainReset {s0 : State} (s : State) (h : Kept s0 s) : Kept s0 (countDomainReset s) := by
  unfold countDomainReset
  repeat' with_reducible (first | exact Kept.upd (by assumption) rfl | apply kept_escalate | refine Kept.ite ?_ ?_)
theorem kept_nodeReset {s0 : State} (s : State) (auto : Bool) (h : Kept s0 s) : Kept s0 (nodeReset s auto) := by
  unfold nodeReset
  extract_lets s1 lost
  have h1 : Kept s0 s1 := kept_enterState _ _ (fun _ => by decide) h
  have h2 : Kept s0 lost := kept_loseSram _ _ h1
  clear_value s1 lost
  refine ⟨h1.pending, fun k => ?_, fun k => ?_, fun _ => rfl, fun k => ?_⟩
  · have := h1.node k
    simp only [State.nodeLegal, Bool.and_eq_true] at this ⊢
    exact ⟨⟨this.1.1, rfl⟩, rfl⟩
  · exact h1.power k
  · have := h2.canon k
    simp only [State.canonical, Memory.wf, Units.wf, HostIf.wf, Bool.and_eq_true] at this ⊢
    exact ⟨⟨this.1.1, rfl⟩, rfl, rfl⟩
theorem kept_losePower {s0 : State} (s : State) (p : Power) (hp : s0.powerLegal = true → (p.state ≤ 6 ∧ p.fallTo ≤ 6)) (h : Kept s0 s) :
    Kept s0 (losePower s p) := by
  unfold losePower
  have h2 : Kept s0 (loseSram s fun _ => true) := kept_loseSram _ _ h
  generalize loseSram s (fun _ => true) = lost at h2
  refine ⟨h.pending, fun _ => rfl, fun k => ?_, fun _ => rfl, fun k => ?_⟩
  · have := hp k
    simp only [State.powerLegal, Bool.and_eq_true, decide_eq_true_eq]; exact this
  · have h3 := h.canon k
    have h4 := h2.canon k
    simp only [State.canonical, Memory.wf, Units.wf, HostIf.wf, Bool.and_eq_true] at h3 h4 ⊢
    exact ⟨⟨⟨⟨⟨⟨rfl, rfl⟩, h4.1.1.1.1.2⟩, rfl⟩, h3.1.1.2⟩, rfl⟩, rfl, rfl⟩
theorem kept_powerDown {s0 : State} (s : State) (tgt : Nat) (ht : tgt ≤ 6) (h : Kept s0 s) : Kept s0 (powerDown s tgt) := by
  unfold powerDown
  exact kept_losePower _ _ (fun _ => ⟨Nat.le_of_ble_eq_true rfl, ht⟩) h

/-! ### Power -/

theorem kept_millisecond {s0 : State} (s : State) (h : Kept s0 s) : Kept s0 (millisecond s) := by
  unfold millisecond
  repeat' with_reducible (first | exact Kept.upd (by assumption) rfl | refine Kept.ite ?_ ?_)
theorem kept_seeEvent {s0 : State} (s : State) (flag code arg0 : Nat) (h : Kept s0 s) : Kept s0 (seeEvent s flag code arg0) := by
  unfold seeEvent
  exact Kept.upd (by assumption) rfl
theorem kept_latchDown {s0 : State} (s : State) (cause rail : Nat) (h : Kept s0 s) : Kept s0 (latchDown s cause rail) := by
  unfold latchDown
  repeat' with_reducible (first | (refine Kept.updWith (by assumption) ?_ ?_ ?_ ?_ ?_ ?_ ?_ ?_ ?_ ?_ ?_ ?_ ?_ ?_ <;> first | exact id | (with_unfolding_all (intros; first | assumption | rfl | exact Nat.le_of_ble_eq_true rfl | (apply cdrop_wf; assumption)))) | (extract_lets +onlyGivenNames x; refine Kept.cut (s := s0) x ?_ ?_; rotate_left; intro hx; clear_value x; rotate_right; unfold x; clear x) | extract_lets +onlyGivenNames x | refine kept_powerDown _ _ (by decide) ?_ | refine Kept.ite ?_ ?_)
theorem kept_disconnect {s0 : State} (s : State) (flag code : Nat) (h : Kept s0 s) : Kept s0 (disconnect s flag code) := by
  unfold disconnect
  repeat' with_reducible (first | exact Kept.upd (by assumption) rfl
                                | (extract_lets +onlyGivenNames x; refine Kept.cut (s := s0) x ?_ ?_; rotate_left; intro hx; clear_value x; rotate_right; unfold x; clear x) | extract_lets +onlyGivenNames x | refine kept_powerDown _ _ (by decide) ?_ | apply kept_seeEvent | refine Kept.ite ?_ ?_)
theorem kept_execInputContact {s0 : State} (s : State) (h : Kept s0 s) : KeptO s0 (execInputContact s) := by
  unfold execInputContact
  repeat' with_reducible (first | (refine Kept.updWith (by assumption) ?_ ?_ ?_ ?_ ?_ ?_ ?_ ?_ ?_ ?_ ?_ ?_ ?_ ?_ <;> first | exact id | (with_unfolding_all (intros; first | assumption | rfl | exact Nat.le_of_ble_eq_true rfl | (apply cdrop_wf; assumption)))) | apply kept_powerIbi | apply KeptO.next | refine KeptO.ite ?_ ?_)
theorem kept_execInputValid {s0 : State} (s : State) (h : Kept s0 s) : KeptO s0 (execInputValid s) := by
  unfold execInputValid
  repeat' with_reducible (first | (refine Kept.updWith (by assumption) ?_ ?_ ?_ ?_ ?_ ?_ ?_ ?_ ?_ ?_ ?_ ?_ ?_ ?_ <;> first | exact id | (with_unfolding_all (intros; first | assumption | rfl | exact Nat.le_of_ble_eq_true rfl | (apply cdrop_wf; assumption)))) | apply kept_powerIbi | apply KeptO.next | refine KeptO.ite ?_ ?_)
theorem kept_execRailSequenceStep {s0 : State} (sense : BitVec 6) (s : State) (h : Kept s0 s) : KeptO s0 (execRailSequenceStep sense s) := by
  unfold execRailSequenceStep
  split
  · extract_lets k q1 p1 p2 p3
    have h3 : p3.state = s.power.state ∧ p3.fallTo = s.power.fallTo := by
      by_cases a : k = 2 <;> by_cases b : k = 4 <;> simp only [p3, p2, p1, a, b] <;> exact ⟨rfl, rfl⟩
    clear_value p3
    split
    · refine KeptO.next (kept_powerIbi _ _ ?_)
      exact Kept.updWith h id id id (fun a _ => by rw [h3.1]; exact a) (fun a => by rw [h3.2]; exact a) id id id id id id id id id
    · refine KeptO.next (kept_powerIbi _ _ (kept_enterState _ _ (fun _ => by decide) ?_))
      exact Kept.updWith h id id id (fun _ _ => Nat.le_of_ble_eq_true rfl) (fun a => by simp only [h3.2]; exact a) id id id id id id id id id
  · exact KeptO.next h
theorem kept_execInputUv {s0 : State} (s : State) (h : Kept s0 s) : KeptO s0 (execInputUv s) := by
  unfold execInputUv
  repeat' with_reducible (first | assumption | apply kept_powerIbi | apply kept_disconnect | apply KeptO.next | refine KeptO.ite ?_ ?_)
theorem kept_execInputOv {s0 : State} (s : State) (h : Kept s0 s) : KeptO s0 (execInputOv s) := by
  unfold execInputOv
  repeat' with_reducible (first | assumption | apply kept_powerIbi | apply kept_disconnect | apply KeptO.next | refine KeptO.ite ?_ ?_)
theorem kept_execInputReturn {s0 : State} (s : State) (h : Kept s0 s) : KeptO s0 (execInputReturn s) := by
  unfold execInputReturn
  repeat' with_reducible (first | exact Kept.upd (by assumption) rfl | apply KeptO.next | refine KeptO.ite ?_ ?_)
theorem kept_execBreaker {s0 : State} (s : State) (h : Kept s0 s) : KeptO s0 (execBreaker s) := by
  unfold execBreaker
  repeat' with_reducible (first | assumption | apply kept_powerIbi | apply kept_seeEvent | apply kept_latchDown | apply KeptO.next
                                | refine KeptO.ite ?_ ?_)
theorem kept_execReverse {s0 : State} (s : State) (h : Kept s0 s) : KeptO s0 (execReverse s) := by
  unfold execReverse
  repeat' with_reducible (first | (refine Kept.updWith (by assumption) ?_ ?_ ?_ ?_ ?_ ?_ ?_ ?_ ?_ ?_ ?_ ?_ ?_ ?_ <;> first | exact id | (with_unfolding_all (intros; first | assumption | rfl | exact Nat.le_of_ble_eq_true rfl | (apply cdrop_wf; assumption)))) | apply kept_powerIbi | apply kept_seeEvent | apply KeptO.next | refine KeptO.ite ?_ ?_)
theorem kept_execRailFault {s0 : State} (rail : Fin 9) (s : State) (h : Kept s0 s) : KeptO s0 (execRailFault rail s) := by
  unfold execRailFault
  repeat' with_reducible (first | assumption | apply kept_powerIbi | apply kept_seeEvent | apply kept_latchDown | apply KeptO.next
                                | refine KeptO.ite ?_ ?_)
theorem kept_execThermtrip {s0 : State} (s : State) (h : Kept s0 s) : KeptO s0 (execThermtrip s) := by
  unfold execThermtrip
  repeat' with_reducible (first | assumption | apply kept_powerIbi | apply kept_seeEvent | apply kept_latchDown | apply KeptO.next
                                | refine KeptO.ite ?_ ?_)
theorem kept_execPowerDownComplete {s0 : State} (s : State) (h : Kept s0 s) : KeptO s0 (execPowerDownComplete s) := by
  unfold execPowerDownComplete
  repeat' with_reducible (first | (refine Kept.updWith (by assumption) ?_ ?_ ?_ ?_ ?_ ?_ ?_ ?_ ?_ ?_ ?_ ?_ ?_ ?_ <;> first | exact id | (with_unfolding_all (intros; first | assumption | rfl | exact Nat.le_of_ble_eq_true rfl | (apply cdrop_wf; assumption)))) | apply kept_powerIbi | apply KeptO.next | refine KeptO.ite ?_ ?_)
theorem kept_execControlOff {s0 : State} (s : State) (h : Kept s0 s) : KeptO s0 (execControlOff s) := by
  unfold execControlOff
  repeat' with_reducible (first | exact Kept.upd (by assumption) rfl | apply kept_powerIbi | refine kept_powerDown _ _ (by decide) ?_
                                | apply KeptO.next | refine KeptO.ite ?_ ?_)
theorem kept_execControlOn {s0 : State} (s : State) (h : Kept s0 s) : KeptO s0 (execControlOn s) := by
  unfold execControlOn
  repeat' with_reducible (first | (refine Kept.updWith (by assumption) ?_ ?_ ?_ ?_ ?_ ?_ ?_ ?_ ?_ ?_ ?_ ?_ ?_ ?_ <;> first | exact id | (with_unfolding_all (intros; first | assumption | rfl | exact Nat.le_of_ble_eq_true rfl | (apply cdrop_wf; assumption)))) | apply kept_powerIbi | apply KeptO.next | refine KeptO.ite ?_ ?_)
theorem kept_execControlRetry {s0 : State} (s : State) (h : Kept s0 s) : KeptO s0 (execControlRetry s) := by
  unfold execControlRetry
  repeat' with_reducible (first | (refine Kept.updWith (by assumption) ?_ ?_ ?_ ?_ ?_ ?_ ?_ ?_ ?_ ?_ ?_ ?_ ?_ ?_ <;> first | exact id | (with_unfolding_all (intros; first | assumption | rfl | exact Nat.le_of_ble_eq_true rfl | (apply cdrop_wf; assumption)))) | apply kept_powerIbi | apply KeptO.next | refine KeptO.ite ?_ ?_)
theorem kept_execInputLoss {s0 : State} (s : State) (h : Kept s0 s) : KeptO s0 (execInputLoss s) := by
  unfold execInputLoss
  repeat' with_reducible (first | assumption | refine kept_losePower _ _ (fun _ => ⟨by decide, by decide⟩) ?_ | apply KeptO.next
                                | refine KeptO.ite ?_ ?_)
theorem kept_execSeenFlagClear {s0 : State} (mask : W32) (s : State) (h : Kept s0 s) : KeptO s0 (execSeenFlagClear mask s) := by
  unfold execSeenFlagClear
  repeat' with_reducible (first | exact Kept.upd (by assumption) rfl | apply kept_powerIbi | apply KeptO.next | refine KeptO.ite ?_ ?_)
theorem kept_execTjLimit {s0 : State} (tj : Int) (s : State) (h : Kept s0 s) : KeptO s0 (execTjLimit tj s) := by
  unfold execTjLimit
  repeat' with_reducible (first | (refine Kept.updWith (by assumption) ?_ ?_ ?_ ?_ ?_ ?_ ?_ ?_ ?_ ?_ ?_ ?_ ?_ ?_ <;> first | exact id | (with_unfolding_all (intros; first | assumption | rfl | exact Nat.le_of_ble_eq_true rfl | (apply cdrop_wf; assumption)))) | (extract_lets +onlyGivenNames x; refine Kept.cut (s := s0) x ?_ ?_; rotate_left; intro hx; clear_value x; rotate_right; unfold x; clear x) | extract_lets +onlyGivenNames x | apply kept_logFault | apply kept_powerIbi | apply kept_enterFault | apply KeptO.next | refine KeptO.ite ?_ ?_ | refine Kept.ite ?_ ?_)
theorem kept_execTjHighClear {s0 : State} (s : State) (h : Kept s0 s) : KeptO s0 (execTjHighClear s) := by
  unfold execTjHighClear
  repeat' with_reducible (first | exact Kept.upd (by assumption) rfl | apply kept_powerIbi | apply KeptO.next | refine KeptO.ite ?_ ?_)

/-! ### Maps -/

theorem kept_writeBank {s0 : State} (s : State) (entries : List Tlv) (pendingSettings : Bool) (h : Kept s0 s) : Kept s0 (writeBank s entries pendingSettings) := by
  unfold writeBank
  exact Kept.upd (by assumption) rfl
theorem kept_writeRecord {s0 : State} (s : State) (entries : List Tlv) (pendingSettings : Bool) (h : Kept s0 s) : Kept s0 (writeRecord s entries pendingSettings) := by
  unfold writeRecord
  repeat' with_reducible (first | assumption | apply kept_writeBank)
theorem kept_retain {s0 : State} (s : State) (ts : List Tlv) (h : Kept s0 s) : Kept s0 (retain s ts) := by
  unfold retain
  repeat' with_reducible (first | exact Kept.upd (by assumption) rfl
                                | (extract_lets +onlyGivenNames x; refine Kept.cut (s := s0) x ?_ ?_; rotate_left; intro hx; clear_value x; rotate_right; unfold x; clear x) | apply kept_writeRecord)

/-! ### Sideband -/

theorem kept_execDumpClear {s0 : State} (value : W32) (s : State) (h : Kept s0 s) : KeptO s0 (execDumpClear value s) := by
  unfold execDumpClear
  repeat' with_reducible (first | exact Kept.upd (by assumption) rfl | apply KeptO.next | refine KeptO.ite ?_ ?_)
theorem kept_execDumpWindowSet {s0 : State} (value : W32) (s : State) (h : Kept s0 s) : KeptO s0 (execDumpWindowSet value s) := by
  unfold execDumpWindowSet
  repeat' with_reducible (first | exact Kept.upd (by assumption) rfl | apply KeptO.next | refine KeptO.ite ?_ ?_)
theorem kept_execDumpDataRead {s0 : State} (s : State) (h : Kept s0 s) : KeptO s0 (execDumpDataRead s) := by
  unfold execDumpDataRead
  repeat' with_reducible (first | exact Kept.upd (by assumption) rfl | apply KeptO.next | refine KeptO.ite ?_ ?_)
theorem kept_setDynamic {s0 : State} (s : State) (target : Bool) (address : Nat) (h : Kept s0 s) : Kept s0 (setDynamic s target address) := by
  unfold setDynamic
  repeat' with_reducible (first | exact Kept.upd (by assumption) rfl | refine Kept.ite ?_ ?_)
theorem kept_execEntdaa {s0 : State} (target : Bool) (address : BitVec 7) (s : State) (h : Kept s0 s) : KeptO s0 (execEntdaa target address s) := by
  unfold execEntdaa
  repeat' with_reducible (first | assumption | apply kept_setDynamic | apply KeptO.next)
theorem kept_execSetdasa {s0 : State} (target : Bool) (address : BitVec 7) (s : State) (h : Kept s0 s) : KeptO s0 (execSetdasa target address s) := by
  unfold execSetdasa
  repeat' with_reducible (first | assumption | apply kept_setDynamic | apply KeptO.next)

/-! ### Faults -/

theorem kept_openIncident {s0 : State} {s : State} {code dom : Nat} {t : State} {v1 : Bool} (e : openIncident s code dom = (t, v1))
    (h : Kept s0 s) : Kept s0 t := by
  have k : Kept s0 (openIncident s code dom).1 := by
    unfold openIncident
    repeat' with_reducible (first | exact Kept.upd (by assumption) rfl | split)
  rw [e] at k; exact k
theorem kept_endIncident {s0 : State} (s : State) (h : Kept s0 s) : Kept s0 (endIncident s) := by
  unfold endIncident
  repeat' with_reducible (first | exact Kept.upd (by assumption) rfl | refine Kept.ite ?_ ?_)
theorem kept_wardenReset {s0 : State} (s : State) (dom : Nat) (h : Kept s0 s) : Kept s0 (wardenReset s dom) := by
  unfold wardenReset
  repeat' with_reducible (first | exact Kept.upd (by assumption) rfl | apply kept_startReset | apply kept_escalate | apply kept_nodeReset
                                | refine Kept.ite ?_ ?_)
theorem kept_declare {s0 : State} (s : State) (code dom unit peer : Nat) (h : Kept s0 s) : Kept s0 (declare s code dom unit peer) := by
  unfold declare
  repeat' with_reducible (first | exact Kept.upd (by assumption) rfl
                                | (extract_lets +onlyGivenNames x; refine Kept.cut (s := s0) x ?_ ?_; rotate_left; intro hx; clear_value x; rotate_right; unfold x; clear x) | extract_lets +onlyGivenNames x | apply kept_count | apply kept_logFault | apply kept_takeDump | apply kept_loseFrame | apply kept_countDomainReset | refine kept_openIncident (by assumption) ?_ | apply kept_wardenReset | split)
theorem kept_execHangAck {s0 : State} (unit peer : BitVec 16) (s : State) (h : Kept s0 s) : KeptO s0 (execHangAck unit peer s) := by
  unfold execHangAck
  repeat' with_reducible (first | assumption | apply kept_declare | apply KeptO.next | refine KeptO.ite ?_ ?_)
theorem kept_execHangOwn {s0 : State} (unit : BitVec 16) (s : State) (h : Kept s0 s) : KeptO s0 (execHangOwn unit s) := by
  unfold execHangOwn
  repeat' with_reducible (first | assumption | apply kept_declare | apply KeptO.next | refine KeptO.ite ?_ ?_)
theorem kept_execHangWait {s0 : State} (unit peer : BitVec 16) (s : State) (h : Kept s0 s) : KeptO s0 (execHangWait unit peer s) := by
  unfold execHangWait
  repeat' with_reducible (first | assumption | apply kept_declare | apply KeptO.next | refine KeptO.ite ?_ ?_)
theorem kept_execWatchdog {s0 : State} (s : State) (h : Kept s0 s) : KeptO s0 (execWatchdog s) := by
  unfold execWatchdog
  repeat' with_reducible (first | assumption | apply kept_declare | apply KeptO.next | refine KeptO.ite ?_ ?_)
theorem kept_execDumpComplete {s0 : State} (us : W32) (unread : List Nat) (s : State) (h : Kept s0 s) : KeptO s0 (execDumpComplete us unread s) := by
  unfold execDumpComplete
  repeat' with_reducible (first | exact Kept.upd (by assumption) rfl
                                | (extract_lets +onlyGivenNames x; refine Kept.cut (s := s0) x ?_ ?_; rotate_left; intro hx; clear_value x; rotate_right; unfold x; clear x) | extract_lets +onlyGivenNames x | apply kept_wardenReset | refine Kept.foldl _ (fun _ _ _ => ?_) ?_ | apply KeptO.next | split)
theorem kept_execAutoNodeReset {s0 : State} (s : State) (h : Kept s0 s) : KeptO s0 (execAutoNodeReset s) := by
  unfold execAutoNodeReset
  repeat' with_reducible (first | exact Kept.upd (by assumption) rfl
                                | (extract_lets +onlyGivenNames x; refine Kept.cut (s := s0) x ?_ ?_; rotate_left; intro hx; clear_value x; rotate_right; unfold x; clear x) | apply kept_logFault | apply kept_endIncident | refine kept_moveTo _ _ (fun _ => by decide) ?_ | apply kept_escalate | apply kept_nodeReset | apply KeptO.next | refine KeptO.ite ?_ ?_)
theorem kept_finishResets {s0 : State} (s : State) (dom : Nat) (h : Kept s0 s) : Kept s0 (finishResets s dom) := by
  unfold finishResets
  repeat' with_reducible (first | assumption | apply kept_finish | refine Kept.foldl _ (fun _ _ _ => ?_) ?_)
theorem kept_leaveReset {s0 : State} (s : State) (d : Nat) (h : Kept s0 s) : Kept s0 (leaveReset s d) := by
  unfold leaveReset
  repeat' with_reducible (first | exact Kept.upd (by assumption) rfl
                                | (extract_lets +onlyGivenNames x; refine Kept.cut (s := s0) x ?_ ?_; rotate_left; intro hx; clear_value x; rotate_right; unfold x; clear x) | extract_lets +onlyGivenNames x | apply kept_endIncident | apply kept_finishResets | refine Kept.ite ?_ ?_)
theorem kept_execDomainResetDone {s0 : State} (dom : Fin 17) (s : State) (h : Kept s0 s) : KeptO s0 (execDomainResetDone dom s) := by
  unfold execDomainResetDone
  repeat' with_reducible (first | assumption | apply kept_leaveReset | apply KeptO.next | refine KeptO.ite ?_ ?_)
theorem kept_execBurinRestart {s0 : State} (s : State) (h : Kept s0 s) : KeptO s0 (execBurinRestart s) := by
  unfold execBurinRestart
  repeat' with_reducible (first | exact Kept.upd (by assumption) rfl | apply kept_finish | apply kept_discardNext
                                | refine Kept.foldl _ (fun _ _ _ => ?_) ?_ | apply KeptO.next | refine KeptO.ite ?_ ?_)

/-! ### Health -/

theorem kept_mapMismatch {s0 : State} (s : State) (unit arg : Nat) (h : Kept s0 s) : Kept s0 (mapMismatch s unit arg) := by
  unfold mapMismatch
  repeat' with_reducible (first | exact Kept.upd (by assumption) rfl | refine Kept.ite ?_ ?_)
theorem kept_canaryMismatch {s0 : State} (s : State) (unit arg : Nat) (h : Kept s0 s) : Kept s0 (canaryMismatch s unit arg) := by
  unfold canaryMismatch
  repeat' with_reducible (first | assumption | apply kept_logFault | apply kept_mapMismatch)
theorem kept_applyClmap {s0 : State} (s : State) (q : Nat) (v : Nat) (h : Kept s0 s) : Kept s0 (applyClmap s q v) := by
  unfold applyClmap
  repeat' with_reducible (first | assumption | exact Kept.upd (by assumption) rfl | (refine Kept.updWith (by assumption) ?_ ?_ ?_ ?_ ?_ ?_ ?_ ?_ ?_ ?_ ?_ ?_ ?_ ?_ <;> first | exact id | (with_unfolding_all (intros; first | assumption | rfl | exact Nat.le_of_ble_eq_true rfl | (apply cdrop_wf; assumption)))) | (extract_lets +onlyGivenNames x; refine Kept.cut (s := s0) x ?_ ?_; rotate_left; intro hx; clear_value x; rotate_right; unfold x; clear x) | extract_lets +onlyGivenNames x | apply kept_logFault | refine Kept.ite ?_ ?_ | split)
theorem kept_startSpareCopy {s0 : State} (s : State) (stack : Nat) (die : Nat) (target : Nat) (h : Kept s0 s) : Kept s0 (startSpareCopy s stack die target) := by
  unfold startSpareCopy
  repeat' with_reducible (first | assumption | exact Kept.upd (by assumption) rfl | (extract_lets +onlyGivenNames x; refine Kept.cut (s := s0) x ?_ ?_; rotate_left; intro hx; clear_value x; rotate_right; unfold x; clear x) | extract_lets +onlyGivenNames x | apply kept_addItem)
theorem kept_bankPairFailed {s0 : State} (s : State) (stack die pair : Nat) (h : Kept s0 s) : Kept s0 (bankPairFailed s stack die pair) := by
  unfold bankPairFailed
  repeat' with_reducible (first | exact Kept.upd (by assumption) rfl | apply kept_logFault)
theorem kept_fence {s0 s t : State} {unit arg : Nat} (e : fence s unit arg = some t) (h : Kept s0 s) : Kept s0 t := by
  unfold fence at e
  extract_lets q quad p cm spare i stack die at e
  have hq : ∀ x a b, Kept s0 x → Kept s0 (q x a b) := fun x a b k => Kept.upd k rfl
  clear_value q quad p cm spare i stack die
  split at e
  · split at e
    · cases e; exact hq _ _ _ h
    · split at e
      · cases e
      · cases e; exact kept_applyClmap _ _ _ (hq _ _ _ h)
  · split at e
    · split at e
      · cases e
      · cases e
        apply kept_startSpareCopy
        exact Kept.upd (Kept.upd (kept_addNext s _ h) rfl) rfl
    · split at e
      · cases e; exact kept_addItem _ _ _ _ _ _ (hq _ _ _ (Kept.upd h rfl))
      · split at e
        · cases e; exact hq _ _ _ (Kept.upd h rfl)
        · cases e
theorem kept_execFaultMapWrite {s0 : State} (s : State) (h : Kept s0 s) : KeptO s0 (execFaultMapWrite s) := by
  unfold execFaultMapWrite
  repeat' with_reducible (first | assumption | apply kept_writeRecord | apply KeptO.next | refine KeptO.ite ?_ ?_)
theorem kept_execBankPairCopyDone {s0 : State} (stack : Fin 6) (die : Fin 12) (s : State) (h : Kept s0 s) : KeptO s0 (execBankPairCopyDone stack die s) := by
  unfold execBankPairCopyDone
  repeat' with_reducible (first | exact Kept.upd (by assumption) rfl | apply KeptO.next | refine KeptO.ite ?_ ?_)

/-! ### Boot -/

theorem kept_applySettings {s0 : State} (s : State) (ts : List Tlv) (h : Kept s0 s) : Kept s0 (applySettings s ts) := by
  unfold applySettings
  repeat' with_reducible (first | exact Kept.upd (by assumption) rfl
                                | (extract_lets +onlyGivenNames x; refine Kept.cut (s := s0) x ?_ ?_; rotate_left; intro hx; clear_value x; rotate_right; unfold x; clear x) | extract_lets +onlyGivenNames x)
theorem kept_restore {s0 : State} (s : State) (h : Kept s0 s) : Kept s0 (restore s) := by
  unfold restore
  repeat' with_reducible (first | exact Kept.upd (by assumption) rfl | apply kept_applySettings | split)
theorem kept_logPowerEvents {s0 : State} (s : State) (h : Kept s0 s) : Kept s0 (logPowerEvents s) := by
  unfold logPowerEvents
  repeat' with_reducible (first | exact Kept.upd (by assumption) rfl
                                | (extract_lets +onlyGivenNames x; refine Kept.cut (s := s0) x ?_ ?_; rotate_left; intro hx; clear_value x; rotate_right; unfold x; clear x) | extract_lets +onlyGivenNames x | apply kept_logFault | refine Kept.foldl _ (fun _ _ _ => ?_) ?_)
theorem kept_execBoot {s0 : State} (a0 : BootIn) (s : State) (h : Kept s0 s) : KeptO s0 (execBoot a0 s) := by
  unfold execBoot
  repeat' with_reducible (first | exact Kept.upd (by assumption) rfl | split | extract_lets +onlyGivenNames x
                                | refine kept_enterState _ _ (fun _ => by decide) ?_ | apply kept_idlePower | apply kept_enterFault
                                | apply kept_restore | apply kept_logPowerEvents | apply KeptO.next)
theorem kept_execBootComplete {s0 : State} (stacksOk boardOk : Bool) (s : State) (h : Kept s0 s) : KeptO s0 (execBootComplete stacksOk boardOk s) := by
  unfold execBootComplete
  repeat' with_reducible (first | (refine Kept.updWith (by assumption) ?_ ?_ ?_ ?_ ?_ ?_ ?_ ?_ ?_ ?_ ?_ ?_ ?_ ?_ <;> first | exact id | (with_unfolding_all (intros; first | assumption | rfl | exact Nat.le_of_ble_eq_true rfl | (apply cdrop_wf; assumption)))) | refine kept_moveTo _ _ (fun _ => by decide) ?_ | apply kept_enterFault | apply KeptO.next | refine KeptO.ite ?_ ?_)
theorem kept_beginSoak {s0 : State} (s : State) (h : Kept s0 s) : Kept s0 (beginSoak s) := by
  unfold beginSoak
  exact Kept.upd (by assumption) rfl
theorem kept_mapOut {s0 s t : State} {fails : List TestFail} {b : Bool} (e : mapOut s fails = (t, b)) (h : Kept s0 s) : Kept s0 t := by
  have k : Kept s0 (mapOut s fails).1 := by
    unfold mapOut
    refine Kept.foldl_fst _ (fun x a k => ?_) h
    have k2 := kept_mapMismatch x.1 a.unit.toNat a.arg0.toNat k
    dsimp only
    split
    · exact k2
    · split
      · exact kept_fence (by assumption) k2
      · exact k2
  rw [e] at k; exact k
theorem kept_selftestFailures {s0 : State} (s : State) (fails : List TestFail) (h : Kept s0 s) : Kept s0 (selftestFailures s fails) := by
  unfold selftestFailures
  repeat' with_reducible (first | assumption | apply kept_mapMismatch | refine Kept.foldl _ (fun _ _ _ => ?_) ?_)
theorem kept_execSelftestDone {s0 : State} (fails : List TestFail) (s : State) (h : Kept s0 s) : KeptO s0 (execSelftestDone fails s) := by
  unfold execSelftestDone
  split
  · exact KeptO.next h
  · rename_i a back mbox ht
    have hb : s0.nodeLegal = true → back ≤ 9 := fun k => by
      have := h.node k
      simp only [State.nodeLegal, ht, Option.all_some, Bool.and_eq_true, decide_eq_true_eq] at this
      exact this.2
    have h1 : Kept s0 { s with faults := { s.faults with test := none } } :=
      Kept.updWith h id id (fun _ => rfl) (fun a _ => a) id id id id id id id id id id
    generalize { s with faults := { s.faults with test := none } } = x at h1
    dsimp only
    split
    · split
      · exact KeptO.next (kept_finish _ _ _ h1)
      · exact KeptO.next (kept_finish _ _ _ (kept_moveTo _ _ hb (kept_selftestFailures _ _ h1)))
    · have h2 : Kept s0 (mapOut x fails).1 := kept_mapOut (b := (mapOut x fails).2) rfl h1
      generalize mapOut x fails = y at h2 ⊢
      repeat' with_reducible (first | assumption | apply KeptO.next | apply kept_enterFault | apply kept_beginSoak
                                    | refine kept_moveTo _ _ (fun _ => by decide) ?_ | split)

/-! ### Orrery -/

theorem kept_recordDrop {s0 : State} (s : State) (f : Nat) (h : Kept s0 s) : Kept s0 (recordDrop s f) := by
  unfold recordDrop
  exact Kept.upd (by assumption) rfl
theorem kept_applyScore {s0 : State} (s : State) (n v : Nat) (h : Kept s0 s) : Kept s0 (applyScore s n v) := by
  unfold applyScore
  repeat' with_reducible (first | exact Kept.upd (by assumption) rfl
                                | (extract_lets +onlyGivenNames x; refine Kept.cut (s := s0) x ?_ ?_; rotate_left; intro hx; clear_value x; rotate_right; unfold x; clear x) | extract_lets +onlyGivenNames x | apply kept_recordDrop | refine Kept.ite ?_ ?_)
theorem kept_exitOf {s0 : State} (s : State) (n : Nat) (h : Kept s0 s) : Kept s0 (exitOf s n) := by
  unfold exitOf
  repeat' with_reducible (first | exact Kept.upd (by assumption) rfl | refine Kept.ite ?_ ?_)
theorem kept_sendScore {s0 : State} (s : State) (n v kind : Nat) (h : Kept s0 s) : Kept s0 (sendScore s n v kind) := by
  unfold sendScore
  repeat' with_reducible (first | exact Kept.upd (by assumption) rfl
                                | (extract_lets +onlyGivenNames x; refine Kept.cut (s := s0) x ?_ ?_; rotate_left; intro hx; clear_value x; rotate_right; unfold x; clear x) | extract_lets +onlyGivenNames x | apply kept_orrSend | split)
theorem kept_changeScore {s0 : State} (s : State) (n v : Nat) (h : Kept s0 s) : Kept s0 (changeScore s n v) := by
  unfold changeScore
  repeat' with_reducible (first | exact Kept.upd (by assumption) rfl
                                | (extract_lets +onlyGivenNames x; refine Kept.cut (s := s0) x ?_ ?_; rotate_left; intro hx; clear_value x; rotate_right; unfold x; clear x) | extract_lets +onlyGivenNames x | apply kept_applyScore | apply kept_sendScore | split)
theorem kept_loseNode {s0 : State} (s : State) (n : Nat) (h : Kept s0 s) : Kept s0 (loseNode s n) := by
  unfold loseNode
  repeat' with_reducible (first | exact Kept.upd (by assumption) rfl | (extract_lets +onlyGivenNames x; refine Kept.cut (s := s0) x ?_ ?_; rotate_left; intro hx; clear_value x; rotate_right; unfold x; clear x) | extract_lets +onlyGivenNames x | apply kept_recordDrop | apply kept_sendScore
                                | apply kept_exitOf | refine Kept.ite ?_ ?_)
theorem kept_execReport {s0 : State} (m : OrMsg) (s : State) (h : Kept s0 s) : KeptO s0 (execReport m s) := by
  unfold execReport
  repeat' with_reducible (first | assumption | apply kept_changeScore | apply kept_loseNode | apply KeptO.next | refine KeptO.ite ?_ ?_)
theorem kept_execScore {s0 : State} (m : OrMsg) (s : State) (h : Kept s0 s) : KeptO s0 (execScore m s) := by
  unfold execScore
  repeat' with_reducible (first | exact Kept.upd (by assumption) rfl
                                | (extract_lets +onlyGivenNames x; refine Kept.cut (s := s0) x ?_ ?_; rotate_left; intro hx; clear_value x; rotate_right; unfold x; clear x) | apply kept_orrSend | apply kept_applyScore | apply KeptO.next | refine KeptO.ite ?_ ?_ | refine Kept.ite ?_ ?_)
theorem kept_execAck {s0 : State} (m : OrMsg) (s : State) (h : Kept s0 s) : KeptO s0 (execAck m s) := by
  unfold execAck
  repeat' with_reducible (first | exact Kept.upd (by assumption) rfl
                                | (extract_lets +onlyGivenNames x; refine Kept.cut (s := s0) x ?_ ?_; rotate_left; intro hx; clear_value x; rotate_right; unfold x; clear x) | extract_lets +onlyGivenNames x | apply kept_applyScore | apply KeptO.next | split)
theorem kept_execScoreRecovery {s0 : State} (node : Fin 512) (s : State) (h : Kept s0 s) : KeptO s0 (execScoreRecovery node s) := by
  unfold execScoreRecovery
  repeat' with_reducible (first | assumption | apply kept_changeScore | apply KeptO.next | refine KeptO.ite ?_ ?_)
theorem kept_execNotice {s0 : State} (m : OrMsg) (s : State) (h : Kept s0 s) : KeptO s0 (execNotice m s) := by
  unfold execNotice
  repeat' with_reducible (first | exact Kept.upd (by assumption) rfl | extract_lets +onlyGivenNames x | apply kept_orrSend
                                | apply kept_loseNode | apply KeptO.next | split)
theorem kept_propose {s0 : State} (s : State) (v : View) (h : Kept s0 s) : Kept s0 (propose s v) := by
  unfold propose
  repeat' with_reducible (first | assumption | exact Kept.upd (by assumption) rfl | (extract_lets +onlyGivenNames x; refine Kept.cut (s := s0) x ?_ ?_; rotate_left; intro hx; clear_value x; rotate_right; unfold x; clear x) | extract_lets +onlyGivenNames x | apply kept_orrSendBody | refine Kept.foldl _ (fun _ _ _ => ?_) ?_ | refine Kept.foldl_fst _ (fun _ _ _ => ?_) ?_ | refine Kept.foldl_snd _ (fun _ _ _ => ?_) ?_)
theorem kept_execViewForm {s0 : State} (s : State) (h : Kept s0 s) : KeptO s0 (execViewForm s) := by
  unfold execViewForm
  repeat' with_reducible (first | assumption | exact Kept.upd (by assumption) rfl | refine KeptO.ite ?_ ?_ | split
                                | (extract_lets +onlyGivenNames x; refine Kept.cut (s := s0) x ?_ ?_; rotate_left; intro hx; clear_value x; rotate_right; unfold x; clear x) | extract_lets +onlyGivenNames x | apply kept_orrSend | apply kept_exitOf | apply kept_propose
                                | refine Kept.foldl _ (fun _ _ _ => ?_) ?_ | apply KeptO.next)
theorem kept_execPropose {s0 : State} (m : OrMsg) (view : Bytes) (s : State) (h : Kept s0 s) : KeptO s0 (execPropose m view s) := by
  unfold execPropose
  repeat' with_reducible (first | exact Kept.upd (by assumption) rfl | apply kept_orrSend | apply KeptO.next | refine KeptO.ite ?_ ?_)
theorem kept_execTakeover {s0 : State} (m : OrMsg) (view : Bytes) (s : State) (h : Kept s0 s) : KeptO s0 (execTakeover m view s) := by
  unfold execTakeover
  repeat' with_reducible (first | exact Kept.upd (by assumption) rfl | apply KeptO.next | split)
theorem kept_execDeputyTakeover {s0 : State} (s : State) (h : Kept s0 s) : KeptO s0 (execDeputyTakeover s) := by
  unfold execDeputyTakeover
  repeat' with_reducible (first | assumption | exact Kept.upd (by assumption) rfl | (extract_lets +onlyGivenNames x; refine Kept.cut (s := s0) x ?_ ?_; rotate_left; intro hx; clear_value x; rotate_right; unfold x; clear x) | extract_lets +onlyGivenNames x | apply kept_orrSendBody | apply kept_recordDrop | apply kept_hold | refine Kept.foldl _ (fun _ _ _ => ?_) ?_ | refine Kept.foldl_fst _ (fun _ _ _ => ?_) ?_ | refine Kept.foldl_snd _ (fun _ _ _ => ?_) ?_ | apply KeptO.next | refine KeptO.ite ?_ ?_ | refine Kept.ite ?_ ?_ | split)
theorem kept_execHoldClear {s0 : State} (s : State) (h : Kept s0 s) : KeptO s0 (execHoldClear s) := by
  unfold execHoldClear
  repeat' with_reducible (first | exact Kept.upd (by assumption) rfl | apply KeptO.next | split)
theorem kept_execDepart {s0 : State} (m : OrMsg) (s : State) (h : Kept s0 s) : KeptO s0 (execDepart m s) := by
  unfold execDepart
  repeat' with_reducible (first | exact Kept.upd (by assumption) rfl | extract_lets +onlyGivenNames x | apply kept_orrSend
                                | apply KeptO.next | split)
theorem kept_joinAt {s0 : State} (s : State) (m : OrMsg) (b : JoinBody) (h : Kept s0 s) : Kept s0 (joinAt s m b) := by
  unfold joinAt
  repeat' with_reducible (first | exact Kept.upd (by assumption) rfl | apply kept_orrSend | apply kept_sendScore | refine Kept.ite ?_ ?_)
theorem kept_execJoin {s0 : State} (m : OrMsg) (b : JoinBody) (s : State) (h : Kept s0 s) : KeptO s0 (execJoin m b s) := by
  unfold execJoin
  repeat' with_reducible (first | assumption | apply kept_joinAt | apply KeptO.next | refine KeptO.ite ?_ ?_)
theorem kept_stayEclipsed {s0 : State} (s : State) (failed : Bool) (h : Kept s0 s) : Kept s0 (stayEclipsed s failed) := by
  unfold stayEclipsed
  repeat' with_reducible (first | extract_lets +onlyGivenNames x | exact Kept.upd (by assumption) rfl | refine kept_moveTo _ _ (fun _ => by decide) ?_)
theorem kept_admissionRefused {s0 : State} (s : State) (failed : Bool) (h : Kept s0 s) : Kept s0 (admissionRefused s failed) := by
  unfold admissionRefused
  repeat' with_reducible (first | exact Kept.upd (by assumption) rfl | extract_lets +onlyGivenNames x | apply kept_finishTrans
                                | apply kept_stayEclipsed | split)
theorem kept_execRefuse {s0 : State} (m : OrMsg) (s : State) (h : Kept s0 s) : KeptO s0 (execRefuse m s) := by
  unfold execRefuse
  repeat' with_reducible (first | assumption | apply kept_finishTrans | apply kept_admissionRefused | apply KeptO.next | split)
theorem kept_execLoaded {s0 : State} (m : OrMsg) (s : State) (h : Kept s0 s) : KeptO s0 (execLoaded m s) := by
  unfold execLoaded
  repeat' with_reducible (first | exact Kept.upd (by assumption) rfl | apply KeptO.next | refine KeptO.ite ?_ ?_)
theorem kept_becomeFormer {s0 : State} (s : State) (h : Kept s0 s) : Kept s0 (becomeFormer s) := by
  unfold becomeFormer
  repeat' with_reducible (first | assumption | exact Kept.upd (by assumption) rfl | (extract_lets +onlyGivenNames x; refine Kept.cut (s := s0) x ?_ ?_; rotate_left; intro hx; clear_value x; rotate_right; unfold x; clear x) | extract_lets +onlyGivenNames x | apply kept_orrSendBody | refine Kept.foldl _ (fun _ _ _ => ?_) ?_ | refine Kept.foldl_fst _ (fun _ _ _ => ?_) ?_ | refine Kept.foldl_snd _ (fun _ _ _ => ?_) ?_)
theorem kept_execAdmissionTestEnd {s0 : State} (mismatches : Nat) (mapped : Nat) (s : State) (h : Kept s0 s) : KeptO s0 (execAdmissionTestEnd mismatches mapped s) := by
  unfold execAdmissionTestEnd
  repeat' with_reducible (first | assumption | exact Kept.upd (by assumption) rfl | (extract_lets +onlyGivenNames x; refine Kept.cut (s := s0) x ?_ ?_; rotate_left; intro hx; clear_value x; rotate_right; unfold x; clear x) | extract_lets +onlyGivenNames x | apply kept_orrSendBody | apply kept_admissionRefused | apply kept_becomeFormer | apply KeptO.next | refine KeptO.ite ?_ ?_ | refine Kept.ite ?_ ?_ | split)
theorem kept_execProbationRetest {s0 : State} (s : State) (h : Kept s0 s) : KeptO s0 (execProbationRetest s) := by
  unfold execProbationRetest
  repeat' with_reducible (first | (refine Kept.updWith (by assumption) ?_ ?_ ?_ ?_ ?_ ?_ ?_ ?_ ?_ ?_ ?_ ?_ ?_ ?_ <;> first | exact id | (with_unfolding_all (intros; first | assumption | rfl | exact Nat.le_of_ble_eq_true rfl | (apply cdrop_wf; assumption)))) | apply KeptO.next | refine KeptO.ite ?_ ?_)
theorem kept_execFormerTimeout {s0 : State} (s : State) (h : Kept s0 s) : KeptO s0 (execFormerTimeout s) := by
  unfold execFormerTimeout
  repeat' with_reducible (first | assumption | apply kept_becomeFormer | apply KeptO.next | refine KeptO.ite ?_ ?_)
theorem kept_execForm {s0 : State} (m : OrMsg) (b : JoinBody) (s : State) (h : Kept s0 s) : KeptO s0 (execForm m b s) := by
  unfold execForm
  repeat' with_reducible (first | assumption | exact Kept.upd (by assumption) rfl | (extract_lets +onlyGivenNames x; refine Kept.cut (s := s0) x ?_ ?_; rotate_left; intro hx; clear_value x; rotate_right; unfold x; clear x) | extract_lets +onlyGivenNames x | apply kept_orrSendBody | apply kept_joinAt | refine Kept.getD ?_ (fun _ _ => ?_) | refine Kept.foldl _ (fun _ _ _ => ?_) ?_ | refine Kept.foldl_fst _ (fun _ _ _ => ?_) ?_ | refine Kept.foldl_snd _ (fun _ _ _ => ?_) ?_ | apply KeptO.next | refine KeptO.ite ?_ ?_ | refine Kept.ite ?_ ?_ | split)
theorem kept_execFormationWindowEnd {s0 : State} (s : State) (h : Kept s0 s) : KeptO s0 (execFormationWindowEnd s) := by
  unfold execFormationWindowEnd
  repeat' with_reducible (first | exact Kept.upd (by assumption) rfl
                                | (extract_lets +onlyGivenNames x; refine Kept.cut (s := s0) x ?_ ?_; rotate_left; intro hx; clear_value x; rotate_right; unfold x; clear x) | extract_lets +onlyGivenNames x | apply kept_orrSend | apply kept_propose | apply kept_admissionRefused | refine Kept.foldl _ (fun _ _ _ => ?_) ?_ | apply KeptO.next | refine KeptO.ite ?_ ?_ | refine Kept.ite ?_ ?_)
theorem kept_execPartnerLoadDone {s0 : State} (s : State) (h : Kept s0 s) : KeptO s0 (execPartnerLoadDone s) := by
  unfold execPartnerLoadDone
  repeat' with_reducible (first | assumption | apply kept_orrSend | apply KeptO.next | split)
theorem kept_ownStatus {s0 : State} (s : State) (old new : Nat) (h : Kept s0 s) : Kept s0 (ownStatus s old new) := by
  unfold ownStatus
  repeat' with_reducible (first | (refine Kept.updWith (by assumption) ?_ ?_ ?_ ?_ ?_ ?_ ?_ ?_ ?_ ?_ ?_ ?_ ?_ ?_ <;> first | exact id | (with_unfolding_all (intros; first | assumption | rfl | exact Nat.le_of_ble_eq_true rfl | (apply cdrop_wf; assumption)))) | (extract_lets +onlyGivenNames x; refine Kept.cut (s := s0) x ?_ ?_; rotate_left; intro hx; clear_value x; rotate_right; unfold x; clear x) | extract_lets +onlyGivenNames x | refine kept_enterState _ _ (fun _ => by decide) ?_ | apply kept_abortIllegal | refine kept_moveTo _ _ (fun _ => by decide) ?_ | apply kept_finishTrans | apply kept_haltPlate | split)
theorem kept_shareTable {s0 : State} (s : State) (old : Option View) (h : Kept s0 s) : Kept s0 (shareTable s old) := by
  unfold shareTable
  repeat' with_reducible (first | assumption | exact Kept.upd (by assumption) rfl
                                | (extract_lets +onlyGivenNames x; refine Kept.cut (s := s0) x ?_ ?_; rotate_left; intro hx; clear_value x; rotate_right; unfold x; clear x) | extract_lets +onlyGivenNames x | apply kept_sendScore | apply kept_applyScore
                                | refine Kept.foldl _ (fun _ _ _ => ?_) ?_ | split)
theorem kept_exitsSeen {s0 : State} (s : State) (old : Option View) (v : View) (h : Kept s0 s) : Kept s0 (exitsSeen s old v) := by
  unfold exitsSeen
  repeat' with_reducible (first | assumption | extract_lets +onlyGivenNames x | apply kept_exitOf
                                | refine Kept.foldl _ (fun _ _ _ => ?_) ?_ | split)
theorem kept_adoptView {s0 : State} (s : State) (v : View) (frame : Nat) (h : Kept s0 s) : Kept s0 (adoptView s v frame) := by
  unfold adoptView
  repeat' with_reducible (first | assumption | exact Kept.upd (by assumption) rfl | (extract_lets +onlyGivenNames x; refine Kept.cut (s := s0) x ?_ ?_; rotate_left; intro hx; clear_value x; rotate_right; unfold x; clear x) | extract_lets +onlyGivenNames x | apply kept_ownStatus | apply kept_shareTable
                                | apply kept_exitsSeen | apply kept_leaveLive | refine Kept.ite ?_ ?_ | split)

end Sys2Proof.Machine
end

