-- ==== Sys2Proof/Laws/KeptLanes.lean ====
section
/-!
SUPPORT. Soundness is kept (`Kept`) by operands, the MAC arrays, the vector units, the select units and the common lane actions.
-/
namespace Sys2Proof.Machine

set_option linter.tactic.unusedName false

/-! ### Operands -/

theorem kept_laneRun {s0 : State} (s : State) (lane op : Nat) (o : OpAB) (n : Nat) (f : State → Host.Outcome State Fault Refusal)
    (hf : ∀ x, Kept s0 x → KeptO s0 (f x)) (h : Kept s0 s) : KeptO s0 (laneRun s lane op o n f) := by
  unfold laneRun
  split
  · exact hf _ (kept_ran _ _ _ h)
  · exact KeptO.next h
theorem kept_laneChecked {s0 : State} (s : State) (lane op : Nat) (o : OpAB) (n : Nat) (ok : Bool) (f : State → Host.Outcome State Fault Refusal)
    (hf : ∀ x, Kept s0 x → KeptO s0 (f x)) (h : Kept s0 s) : KeptO s0 (laneChecked s lane op o n ok f) := by
  unfold laneChecked
  split
  · exact kept_laneRun _ _ _ _ _ _ hf h
  · exact KeptO.next h
theorem kept_withAddr {s0 : State} (a : Option Nat) (f : Nat → Host.Outcome State Fault Refusal) (hf : ∀ x, KeptO s0 (f x)) :
    KeptO s0 (withAddr a f) := by
  unfold withAddr
  split
  · exact KeptO.fault
  · exact hf _

/-! ### Flags -/

theorem kept_countConv {s0 : State} (s : State) (lane sat nan : Nat) (h : Kept s0 s) : Kept s0 (countConv s lane sat nan) := by
  unfold countConv
  repeat' with_reducible (first | assumption | apply kept_countArith)

/-! ### Mac -/

theorem kept_setCols {s0 : State} (s : State) (u : MacUnit) (bank : Nat) (cs : List Col) (h : Kept s0 s) : Kept s0 (setCols s u bank cs) := by
  unfold setCols
  exact Kept.upd (by assumption) rfl
theorem kept_loadWeights {s0 : State} (s : State) (u : MacUnit) (a fmt reg : Nat) (h : Kept s0 s) : Kept s0 (loadWeights s u a fmt reg) := by
  unfold loadWeights
  repeat' with_reducible (first | exact Kept.upd (by assumption) rfl | apply kept_countArith | apply kept_logFault
                                | apply kept_poisonFinding | refine Kept.ite ?_ ?_)
theorem kept_execMload {s0 : State} (u : MacUnit) (o : OpAB) (s : State) (h : Kept s0 s) : KeptO s0 (execMload u o s) := by
  unfold execMload
  repeat' with_reducible (first | assumption | exact Kept.upd (by assumption) rfl | (extract_lets +onlyGivenNames x; refine Kept.cut (s := s0) x ?_ ?_; rotate_left; intro hx; clear_value x; rotate_right; unfold x; clear x) | extract_lets +onlyGivenNames x | refine kept_laneChecked _ _ _ _ _ _ _ (fun _ _ => ?_) ?_ | refine kept_withAddr _ _ (fun _ => ?_) | apply kept_loadWeights | apply KeptO.next)
theorem kept_clearBank {s0 : State} (s : State) (u : MacUnit) (bank : Nat) (h : Kept s0 s) : Kept s0 (clearBank s u bank) := by
  unfold clearBank
  repeat' with_reducible (first | exact Kept.upd (by assumption) rfl
                                | (extract_lets +onlyGivenNames x; refine Kept.cut (s := s0) x ?_ ?_; rotate_left; intro hx; clear_value x; rotate_right; unfold x; clear x) | apply kept_setCols)
theorem kept_addAsum {s0 : State} (s : State) (u : MacUnit) (bank : Nat) (d : Int) (h : Kept s0 s) : Kept s0 (addAsum s u bank d) := by
  unfold addAsum
  repeat' with_reducible (first | exact Kept.upd (by assumption) rfl | refine Kept.ite ?_ ?_)
theorem kept_countRisen {s0 : State} (s : State) (u : MacUnit) (old : List Col) (new : List Col) (h : Kept s0 s) : Kept s0 (countRisen s u old new) := by
  unfold countRisen
  repeat' with_reducible (first | assumption | (extract_lets +onlyGivenNames x; refine Kept.cut (s := s0) x ?_ ?_; rotate_left; intro hx; clear_value x; rotate_right; unfold x; clear x) | extract_lets +onlyGivenNames x | apply kept_countArith | refine Kept.getD ?_ (fun _ _ => ?_))
theorem kept_macStep {s0 : State} (s : State) (u : MacUnit) (a : Nat) (ta : Nat) (rows : List (Nat × Nat)) (bank : Nat) (clear : Bool) (h : Kept s0 s) : Kept s0 (macStep s u a ta rows bank clear) := by
  unfold macStep
  repeat' with_reducible (first | assumption | (extract_lets +onlyGivenNames x; refine Kept.cut (s := s0) x ?_ ?_; rotate_left; intro hx; clear_value x; rotate_right; unfold x; clear x) | extract_lets +onlyGivenNames x | apply kept_setCols | apply kept_clearBank | apply kept_addAsum | apply kept_countRisen | refine Kept.getD ?_ (fun _ _ => ?_) | refine Kept.foldl _ (fun _ _ _ => ?_) ?_ | refine Kept.foldl_fst _ (fun _ _ _ => ?_) ?_ | refine Kept.foldl_snd _ (fun _ _ _ => ?_) ?_ | refine Kept.ite ?_ ?_ | split)
theorem kept_macFree {s0 : State} (s : State) (u : MacUnit) (bank : Nat) (clear : Bool) (h : Kept s0 s) : Kept s0 (macFree s u bank clear) := by
  unfold macFree
  repeat' with_reducible (first | assumption | exact Kept.upd (by assumption) rfl | (refine Kept.updWith (by assumption) ?_ ?_ ?_ ?_ ?_ ?_ ?_ ?_ ?_ ?_ ?_ ?_ ?_ ?_ <;> first | exact id | (with_unfolding_all (intros; first | assumption | rfl | exact Nat.le_of_ble_eq_true rfl | (apply cdrop_wf; assumption)))) | (extract_lets +onlyGivenNames x; refine Kept.cut (s := s0) x ?_ ?_; rotate_left; intro hx; clear_value x; rotate_right; unfold x; clear x) | extract_lets +onlyGivenNames x | apply kept_setCols | apply kept_clearBank | refine Kept.ite ?_ ?_ | split)
theorem kept_execMmac {s0 : State} (u : MacUnit) (o : OpAB) (s : State) (h : Kept s0 s) : KeptO s0 (execMmac u o s) := by
  unfold execMmac
  repeat' with_reducible (first | assumption | exact Kept.upd (by assumption) rfl | (extract_lets +onlyGivenNames x; refine Kept.cut (s := s0) x ?_ ?_; rotate_left; intro hx; clear_value x; rotate_right; unfold x; clear x) | extract_lets +onlyGivenNames x | refine kept_laneChecked _ _ _ _ _ _ _ (fun _ _ => ?_) ?_ | refine kept_withAddr _ _ (fun _ => ?_) | apply kept_macStep | apply kept_macFree | apply KeptO.next | split)
theorem kept_execMdrain {s0 : State} (u : MacUnit) (o : OpAB) (s : State) (h : Kept s0 s) : KeptO s0 (execMdrain u o s) := by
  unfold execMdrain
  repeat' with_reducible (first | assumption | (extract_lets +onlyGivenNames x; refine Kept.cut (s := s0) x ?_ ?_; rotate_left; intro hx; clear_value x; rotate_right; unfold x; clear x) | extract_lets +onlyGivenNames x | apply kept_later | refine kept_laneChecked _ _ _ _ _ _ _ (fun _ _ => ?_) ?_ | apply KeptO.next)

/-! ### Vector -/

theorem kept_execVload {s0 : State} (cl : Fin 32) (o : OpAB) (s : State) (h : Kept s0 s) : KeptO s0 (execVload cl o s) := by
  unfold execVload
  repeat' with_reducible (first | assumption | exact Kept.upd (by assumption) rfl | (refine Kept.updWith (by assumption) ?_ ?_ ?_ ?_ ?_ ?_ ?_ ?_ ?_ ?_ ?_ ?_ ?_ ?_ <;> first | exact id | (with_unfolding_all (intros; first | assumption | rfl | exact Nat.le_of_ble_eq_true rfl | (apply cdrop_wf; assumption)))) | (extract_lets +onlyGivenNames x; refine Kept.cut (s := s0) x ?_ ?_; rotate_left; intro hx; clear_value x; rotate_right; unfold x; clear x) | extract_lets +onlyGivenNames x | apply kept_later | apply kept_poisonFinding | refine kept_laneChecked _ _ _ _ _ _ _ (fun _ _ => ?_) ?_ | refine kept_withAddr _ _ (fun _ => ?_) | apply kept_countConv | refine Kept.getD ?_ (fun _ _ => ?_) | apply KeptO.next | refine KeptO.ite ?_ ?_ | refine Kept.ite ?_ ?_ | split)
theorem kept_storeElems_fst {s0 : State} (fmt : Nat) (a : Nat) (vs : List W32) (s : State) (h : Kept s0 s) : Kept s0 (storeElems fmt a vs s).2 := by
  unfold storeElems
  repeat' with_reducible (first | assumption | exact Kept.upd (by assumption) rfl | (extract_lets +onlyGivenNames x; refine Kept.cut (s := s0) x ?_ ?_; rotate_left; intro hx; clear_value x; rotate_right; unfold x; clear x) | extract_lets +onlyGivenNames x | refine Kept.ite ?_ ?_ | split)
theorem kept_storeElems {s0 : State} {fmt : Nat} {a : Nat} {vs : List W32} {s : State} {out : State} {v : List Conv} (e : storeElems fmt a vs s = (v, out)) (h : Kept s0 s) : Kept s0 out := by
  have k := kept_storeElems_fst fmt a vs s h
  rw [e] at k; exact k
theorem kept_execVstore {s0 : State} (cl : Fin 32) (o : OpAB) (s : State) (h : Kept s0 s) : KeptO s0 (execVstore cl o s) := by
  unfold execVstore
  repeat' with_reducible (first | assumption | exact Kept.upd (by assumption) rfl | (extract_lets +onlyGivenNames x; refine Kept.cut (s := s0) x ?_ ?_; rotate_left; intro hx; clear_value x; rotate_right; unfold x; clear x) | extract_lets +onlyGivenNames x | apply kept_later | refine kept_laneChecked _ _ _ _ _ _ _ (fun _ _ => ?_) ?_ | refine kept_withAddr _ _ (fun _ => ?_) | apply kept_countConv | exact Kept.upd (kept_storeElems rfl (by assumption)) rfl | exact Kept.upd (kept_storeElems (by assumption) (by assumption)) rfl | refine kept_storeElems (by assumption) ?_ | refine kept_storeElems rfl ?_ | apply KeptO.next | split)
theorem kept_vopRun {s0 : State} (v : Vop) (fn : Nat) (immUsed : Bool) (s : State) (f : State → Host.Outcome State Fault Refusal)
    (hf : ∀ x, Kept s0 x → KeptO s0 (f x)) (h : Kept s0 s) : KeptO s0 (vopRun v fn immUsed s f) := by
  unfold vopRun
  exact kept_laneChecked _ _ _ _ _ _ _ hf h
theorem kept_vopLanes {s0 : State} (v : Vop) (fn : Nat) (s : State) (immUsed : Bool) (f : State → List W32 → List W32 → List W32 → List W32)
    (h : Kept s0 s) : KeptO s0 (vopLanes v fn s immUsed f) := by
  unfold vopLanes
  exact kept_vopRun _ _ _ _ _ (fun _ hx => KeptO.next (kept_later _ _ _ hx)) h
theorem kept_vop1 {s0 : State} (v : Vop) (fn : Nat) (s : State) (f : W32 → W32) (h : Kept s0 s) : KeptO s0 (vop1 v fn s f) := by
  unfold vop1
  repeat' with_reducible (first | assumption | apply kept_vopLanes | apply KeptO.next)
theorem kept_vop2 {s0 : State} (v : Vop) (fn : Nat) (s : State) (f : W32 → W32 → W32) (h : Kept s0 s) : KeptO s0 (vop2 v fn s f) := by
  unfold vop2
  repeat' with_reducible (first | assumption | apply kept_vopLanes | apply KeptO.next)
theorem kept_execMov {s0 : State} (v : Vop) (s : State) (h : Kept s0 s) : KeptO s0 (execMov v s) := by
  unfold execMov
  repeat' with_reducible (first | assumption | apply kept_vop1)
theorem kept_execAdd {s0 : State} (v : Vop) (s : State) (h : Kept s0 s) : KeptO s0 (execAdd v s) := by
  unfold execAdd
  repeat' with_reducible (first | assumption | apply kept_vop2)
theorem kept_execSub {s0 : State} (v : Vop) (s : State) (h : Kept s0 s) : KeptO s0 (execSub v s) := by
  unfold execSub
  repeat' with_reducible (first | assumption | apply kept_vop2)
theorem kept_execMul {s0 : State} (v : Vop) (s : State) (h : Kept s0 s) : KeptO s0 (execMul v s) := by
  unfold execMul
  repeat' with_reducible (first | assumption | apply kept_vop2)
theorem kept_execFma {s0 : State} (v : Vop) (s : State) (h : Kept s0 s) : KeptO s0 (execFma v s) := by
  unfold execFma
  repeat' with_reducible (first | assumption | apply kept_vopLanes)
theorem kept_execDiv {s0 : State} (v : Vop) (s : State) (h : Kept s0 s) : KeptO s0 (execDiv v s) := by
  unfold execDiv
  repeat' with_reducible (first | assumption | apply kept_vop2)
theorem kept_execSqrt {s0 : State} (v : Vop) (s : State) (h : Kept s0 s) : KeptO s0 (execSqrt v s) := by
  unfold execSqrt
  repeat' with_reducible (first | assumption | apply kept_vop1)
theorem kept_execMin {s0 : State} (v : Vop) (s : State) (h : Kept s0 s) : KeptO s0 (execMin v s) := by
  unfold execMin
  repeat' with_reducible (first | assumption | apply kept_vop2)
theorem kept_execMax {s0 : State} (v : Vop) (s : State) (h : Kept s0 s) : KeptO s0 (execMax v s) := by
  unfold execMax
  repeat' with_reducible (first | assumption | apply kept_vop2)
theorem kept_execAbs {s0 : State} (v : Vop) (s : State) (h : Kept s0 s) : KeptO s0 (execAbs v s) := by
  unfold execAbs
  repeat' with_reducible (first | assumption | apply kept_vop1)
theorem kept_execNeg {s0 : State} (v : Vop) (s : State) (h : Kept s0 s) : KeptO s0 (execNeg v s) := by
  unfold execNeg
  repeat' with_reducible (first | assumption | apply kept_vop1)
theorem kept_execCmplt {s0 : State} (v : Vop) (s : State) (h : Kept s0 s) : KeptO s0 (execCmplt v s) := by
  unfold execCmplt
  repeat' with_reducible (first | assumption | apply kept_vop2)
theorem kept_execSel {s0 : State} (v : Vop) (s : State) (h : Kept s0 s) : KeptO s0 (execSel v s) := by
  unfold execSel
  repeat' with_reducible (first | assumption | apply kept_vopLanes)
theorem kept_execRcp {s0 : State} (v : Vop) (s : State) (h : Kept s0 s) : KeptO s0 (execRcp v s) := by
  unfold execRcp
  repeat' with_reducible (first | assumption | apply kept_vop1)
theorem kept_execRsqrt {s0 : State} (v : Vop) (s : State) (h : Kept s0 s) : KeptO s0 (execRsqrt v s) := by
  unfold execRsqrt
  repeat' with_reducible (first | assumption | apply kept_vop1)
theorem kept_execExp {s0 : State} (v : Vop) (s : State) (h : Kept s0 s) : KeptO s0 (execExp v s) := by
  unfold execExp
  repeat' with_reducible (first | assumption | apply kept_vop1)
theorem kept_execLog {s0 : State} (v : Vop) (s : State) (h : Kept s0 s) : KeptO s0 (execLog v s) := by
  unfold execLog
  repeat' with_reducible (first | assumption | apply kept_vop1)
theorem kept_execSigmoid {s0 : State} (v : Vop) (s : State) (h : Kept s0 s) : KeptO s0 (execSigmoid v s) := by
  unfold execSigmoid
  repeat' with_reducible (first | assumption | apply kept_vop1)
theorem kept_execTanh {s0 : State} (v : Vop) (s : State) (h : Kept s0 s) : KeptO s0 (execTanh v s) := by
  unfold execTanh
  repeat' with_reducible (first | assumption | apply kept_vop1)
theorem kept_execGelu {s0 : State} (v : Vop) (s : State) (h : Kept s0 s) : KeptO s0 (execGelu v s) := by
  unfold execGelu
  repeat' with_reducible (first | assumption | apply kept_vop1)
theorem kept_execSilu {s0 : State} (v : Vop) (s : State) (h : Kept s0 s) : KeptO s0 (execSilu v s) := by
  unfold execSilu
  repeat' with_reducible (first | assumption | apply kept_vop1)
theorem kept_execCvti {s0 : State} (v : Vop) (s : State) (h : Kept s0 s) : KeptO s0 (execCvti v s) := by
  unfold execCvti
  repeat' with_reducible (first | assumption | apply kept_vop1)
theorem kept_execRoundi {s0 : State} (v : Vop) (s : State) (h : Kept s0 s) : KeptO s0 (execRoundi v s) := by
  unfold execRoundi
  repeat' with_reducible (first | assumption | (extract_lets +onlyGivenNames x; refine Kept.cut (s := s0) x ?_ ?_; rotate_left; intro hx; clear_value x; rotate_right; unfold x; clear x) | extract_lets +onlyGivenNames x | apply kept_later | apply kept_countConv | refine kept_vopRun _ _ _ _ _ (fun _ _ => ?_) ?_ | apply KeptO.next)
theorem kept_execSumreduce {s0 : State} (v : Vop) (s : State) (h : Kept s0 s) : KeptO s0 (execSumreduce v s) := by
  unfold execSumreduce
  repeat' with_reducible (first | assumption | apply kept_vopLanes)
theorem kept_execMaxreduce {s0 : State} (v : Vop) (s : State) (h : Kept s0 s) : KeptO s0 (execMaxreduce v s) := by
  unfold execMaxreduce
  repeat' with_reducible (first | assumption | apply kept_vopLanes)
theorem kept_execAddi {s0 : State} (v : Vop) (s : State) (h : Kept s0 s) : KeptO s0 (execAddi v s) := by
  unfold execAddi
  repeat' with_reducible (first | assumption | apply kept_vopLanes)
theorem kept_execMuli {s0 : State} (v : Vop) (s : State) (h : Kept s0 s) : KeptO s0 (execMuli v s) := by
  unfold execMuli
  repeat' with_reducible (first | assumption | apply kept_vopLanes)
theorem kept_execSetx {s0 : State} (v : Vop) (s : State) (h : Kept s0 s) : KeptO s0 (execSetx v s) := by
  unfold execSetx
  repeat' with_reducible (first | assumption | exact Kept.upd (by assumption) rfl | (refine Kept.updWith (by assumption) ?_ ?_ ?_ ?_ ?_ ?_ ?_ ?_ ?_ ?_ ?_ ?_ ?_ ?_ <;> first | exact id | (with_unfolding_all (intros; first | assumption | rfl | exact Nat.le_of_ble_eq_true rfl | (apply cdrop_wf; assumption)))) | (extract_lets +onlyGivenNames x; refine Kept.cut (s := s0) x ?_ ?_; rotate_left; intro hx; clear_value x; rotate_right; unfold x; clear x) | extract_lets +onlyGivenNames x | refine kept_vopRun _ _ _ _ _ (fun _ _ => ?_) ?_ | apply KeptO.next)
theorem kept_execDeq {s0 : State} (v : Vop) (s : State) (h : Kept s0 s) : KeptO s0 (execDeq v s) := by
  unfold execDeq
  repeat' with_reducible (first | assumption | apply kept_vopLanes)
theorem kept_execQuant {s0 : State} (v : Vop) (s : State) (h : Kept s0 s) : KeptO s0 (execQuant v s) := by
  unfold execQuant
  repeat' with_reducible (first | assumption | (extract_lets +onlyGivenNames x; refine Kept.cut (s := s0) x ?_ ?_; rotate_left; intro hx; clear_value x; rotate_right; unfold x; clear x) | extract_lets +onlyGivenNames x | apply kept_later | apply kept_countConv | refine kept_vopRun _ _ _ _ _ (fun _ _ => ?_) ?_ | apply KeptO.next)
theorem kept_execLsqgrad {s0 : State} (v : Vop) (s : State) (h : Kept s0 s) : KeptO s0 (execLsqgrad v s) := by
  unfold execLsqgrad
  repeat' with_reducible (first | assumption | exact Kept.upd (by assumption) rfl | (refine Kept.updWith (by assumption) ?_ ?_ ?_ ?_ ?_ ?_ ?_ ?_ ?_ ?_ ?_ ?_ ?_ ?_ <;> first | exact id | (with_unfolding_all (intros; first | assumption | rfl | exact Nat.le_of_ble_eq_true rfl | (apply cdrop_wf; assumption)))) | (extract_lets +onlyGivenNames x; refine Kept.cut (s := s0) x ?_ ?_; rotate_left; intro hx; clear_value x; rotate_right; unfold x; clear x) | extract_lets +onlyGivenNames x | apply kept_later | refine kept_vopRun _ _ _ _ _ (fun _ _ => ?_) ?_ | refine Kept.getD ?_ (fun _ _ => ?_) | apply KeptO.next | refine KeptO.ite ?_ ?_ | refine Kept.ite ?_ ?_ | split)

/-! ### Select -/

theorem kept_setSel {s0 : State} (s : State) (cl : Nat) (u : Sel) (h : Kept s0 s) : Kept s0 (setSel s cl u) := by
  unfold setSel
  exact Kept.upd (by assumption) rfl
theorem kept_offerOne {s0 : State} (cl : Nat) (child : Bool) (s : State) (e : SelEntry) (h : Kept s0 s) : Kept s0 (offerOne cl child s e) := by
  unfold offerOne
  repeat' with_reducible (first | assumption | (extract_lets +onlyGivenNames x; refine Kept.cut (s := s0) x ?_ ?_; rotate_left; intro hx; clear_value x; rotate_right; unfold x; clear x) | extract_lets +onlyGivenNames x | apply kept_countArith | apply kept_logFault | apply kept_setSel | refine Kept.ite ?_ ?_ | split)
theorem kept_offer {s0 : State} (s : State) (cl : Nat) (child : Bool) (es : List SelEntry) (h : Kept s0 s) : Kept s0 (offer s cl child es) := by
  unfold offer
  repeat' with_reducible (first | assumption | apply kept_countSeen | apply kept_offerOne | refine Kept.foldl _ (fun _ _ _ => ?_) ?_ | refine Kept.foldl_fst _ (fun _ _ _ => ?_) ?_ | refine Kept.foldl_snd _ (fun _ _ _ => ?_) ?_ | refine Kept.ite ?_ ?_ | split)
theorem kept_execSopen {s0 : State} (cl : Fin 32) (o : OpAB) (s : State) (h : Kept s0 s) : KeptO s0 (execSopen cl o s) := by
  unfold execSopen
  repeat' with_reducible (first | assumption | exact Kept.upd (by assumption) rfl | (extract_lets +onlyGivenNames x; refine Kept.cut (s := s0) x ?_ ?_; rotate_left; intro hx; clear_value x; rotate_right; unfold x; clear x) | extract_lets +onlyGivenNames x | refine kept_laneChecked _ _ _ _ _ _ _ (fun _ _ => ?_) ?_ | refine kept_withAddr _ _ (fun _ => ?_) | apply kept_setSel | apply KeptO.next | refine KeptO.ite ?_ ?_ | refine Kept.ite ?_ ?_ | split)
theorem kept_execSfeed {s0 : State} (cl : Fin 32) (o : OpAB) (s : State) (h : Kept s0 s) : KeptO s0 (execSfeed cl o s) := by
  unfold execSfeed
  repeat' with_reducible (first | assumption | exact Kept.upd (by assumption) rfl | (extract_lets +onlyGivenNames x; refine Kept.cut (s := s0) x ?_ ?_; rotate_left; intro hx; clear_value x; rotate_right; unfold x; clear x) | extract_lets +onlyGivenNames x | refine kept_laneChecked _ _ _ _ _ _ _ (fun _ _ => ?_) ?_ | refine kept_withAddr _ _ (fun _ => ?_) | apply kept_offer | apply KeptO.next)
theorem kept_execSchain {s0 : State} (cl : Fin 32) (o : OpAB) (s : State) (h : Kept s0 s) : KeptO s0 (execSchain cl o s) := by
  unfold execSchain
  repeat' with_reducible (first | assumption | exact Kept.upd (by assumption) rfl | (refine Kept.updWith (by assumption) ?_ ?_ ?_ ?_ ?_ ?_ ?_ ?_ ?_ ?_ ?_ ?_ ?_ ?_ <;> first | exact id | (with_unfolding_all (intros; first | assumption | rfl | exact Nat.le_of_ble_eq_true rfl | (apply cdrop_wf; assumption)))) | (extract_lets +onlyGivenNames x; refine Kept.cut (s := s0) x ?_ ?_; rotate_left; intro hx; clear_value x; rotate_right; unfold x; clear x) | extract_lets +onlyGivenNames x | refine kept_laneChecked _ _ _ _ _ _ _ (fun _ _ => ?_) ?_ | refine kept_withAddr _ _ (fun _ => ?_) | apply kept_offer | apply KeptO.next | split)
theorem kept_execSsumin {s0 : State} (cl : Fin 32) (o : OpAB) (s : State) (h : Kept s0 s) : KeptO s0 (execSsumin cl o s) := by
  unfold execSsumin
  repeat' with_reducible (first | assumption | exact Kept.upd (by assumption) rfl | (extract_lets +onlyGivenNames x; refine Kept.cut (s := s0) x ?_ ?_; rotate_left; intro hx; clear_value x; rotate_right; unfold x; clear x) | extract_lets +onlyGivenNames x | apply kept_countSeen | refine kept_laneChecked _ _ _ _ _ _ _ (fun _ _ => ?_) ?_ | refine kept_withAddr _ _ (fun _ => ?_) | apply kept_setSel | apply KeptO.next | refine KeptO.ite ?_ ?_ | refine Kept.ite ?_ ?_ | split)
theorem kept_execSemit {s0 : State} (cl : Fin 32) (o : OpAB) (steps : Nat) (s : State) (h : Kept s0 s) : KeptO s0 (execSemit cl o steps s) := by
  unfold execSemit
  repeat' with_reducible (first | assumption | exact Kept.upd (by assumption) rfl | (extract_lets +onlyGivenNames x; refine Kept.cut (s := s0) x ?_ ?_; rotate_left; intro hx; clear_value x; rotate_right; unfold x; clear x) | extract_lets +onlyGivenNames x | apply kept_later | apply kept_countArith | refine kept_laneChecked _ _ _ _ _ _ _ (fun _ _ => ?_) ?_ | refine kept_withAddr _ _ (fun _ => ?_) | apply KeptO.next | refine KeptO.ite ?_ ?_ | refine Kept.ite ?_ ?_ | split)
theorem kept_execSsave {s0 : State} (cl : Fin 32) (o : OpAB) (steps : Nat) (s : State) (h : Kept s0 s) : KeptO s0 (execSsave cl o steps s) := by
  unfold execSsave
  repeat' with_reducible (first | assumption | exact Kept.upd (by assumption) rfl | (refine Kept.updWith (by assumption) ?_ ?_ ?_ ?_ ?_ ?_ ?_ ?_ ?_ ?_ ?_ ?_ ?_ ?_ <;> first | exact id | (with_unfolding_all (intros; first | assumption | rfl | exact Nat.le_of_ble_eq_true rfl | (apply cdrop_wf; assumption)))) | (extract_lets +onlyGivenNames x; refine Kept.cut (s := s0) x ?_ ?_; rotate_left; intro hx; clear_value x; rotate_right; unfold x; clear x) | extract_lets +onlyGivenNames x | apply kept_later | refine kept_laneChecked _ _ _ _ _ _ _ (fun _ _ => ?_) ?_ | refine kept_withAddr _ _ (fun _ => ?_) | apply KeptO.next | refine KeptO.ite ?_ ?_ | refine Kept.ite ?_ ?_ | split)
theorem kept_imageState {s0 : State} {s : State} {a : Nat} {v0 : Sel} {t : State} (e : imageState s a = (v0, t)) (h : Kept s0 s) : Kept s0 t := by
  have k : Kept s0 (imageState s a).2 := by
    unfold imageState
    repeat' with_reducible (first | assumption | refine kept_draw (by assumption) ?_ | split)
  rw [e] at k; exact k
theorem kept_execSrestore {s0 : State} (cl : Fin 32) (o : OpAB) (steps : Nat) (s : State) (h : Kept s0 s) : KeptO s0 (execSrestore cl o steps s) := by
  unfold execSrestore
  repeat' with_reducible (first | assumption | exact Kept.upd (by assumption) rfl | (extract_lets +onlyGivenNames x; refine Kept.cut (s := s0) x ?_ ?_; rotate_left; intro hx; clear_value x; rotate_right; unfold x; clear x) | extract_lets +onlyGivenNames x | refine kept_laneChecked _ _ _ _ _ _ _ (fun _ _ => ?_) ?_ | refine kept_withAddr _ _ (fun _ => ?_) | apply kept_setSel | exact Kept.upd (kept_imageState rfl (by assumption)) rfl | exact Kept.upd (kept_imageState (by assumption) (by assumption)) rfl | refine kept_imageState (by assumption) ?_ | refine kept_imageState rfl ?_ | refine Kept.getD ?_ (fun _ _ => ?_) | apply KeptO.next | split)

/-! ### Lanes -/

theorem kept_execIdle {s0 : State} (_lane : BitVec 16) (s : State) (h : Kept s0 s) : KeptO s0 (execIdle _lane s) := by
  unfold execIdle
  repeat' with_reducible (first | assumption | apply KeptO.next)
theorem kept_refreshChannel {s0 : State} (s : State) (stack ch n : Nat) (h : Kept s0 s) : Kept s0 (refreshChannel s stack ch n) := by
  unfold refreshChannel
  repeat' with_reducible (first | exact Kept.upd (by assumption) rfl | apply kept_count)
theorem kept_execRefresh {s0 : State} (c : Chan) (hot : Bool) (temp : Int) (s : State) (h : Kept s0 s) : KeptO s0 (execRefresh c hot temp s) := by
  unfold execRefresh
  repeat' with_reducible (first | assumption | exact Kept.upd (by assumption) rfl | (refine Kept.updWith (by assumption) ?_ ?_ ?_ ?_ ?_ ?_ ?_ ?_ ?_ ?_ ?_ ?_ ?_ ?_ <;> first | exact id | (with_unfolding_all (intros; first | assumption | rfl | exact Nat.le_of_ble_eq_true rfl | (apply cdrop_wf; assumption)))) | (extract_lets +onlyGivenNames x; refine Kept.cut (s := s0) x ?_ ?_; rotate_left; intro hx; clear_value x; rotate_right; unfold x; clear x) | extract_lets +onlyGivenNames x | apply kept_countLane | apply kept_refreshChannel | apply KeptO.next | refine KeptO.ite ?_ ?_ | refine Kept.ite ?_ ?_ | split)
theorem kept_execStandaloneRefresh {s0 : State} (stack : Fin 6) (temp : Int) (s : State) (h : Kept s0 s) : KeptO s0 (execStandaloneRefresh stack temp s) := by
  unfold execStandaloneRefresh
  repeat' with_reducible (first | exact Kept.upd (by assumption) rfl | apply kept_refreshChannel
                                | refine Kept.foldl _ (fun _ _ _ => ?_) ?_ | apply KeptO.next | refine KeptO.ite ?_ ?_)

end Sys2Proof.Machine
end

