-- ==== Sys2Proof/Laws/KeptFabric.lean ====
section
/-!
SUPPORT. Soundness is kept (`Kept`) by flash, the links, the movers, the beat, objects and messages.
-/
namespace Sys2Proof.Machine

set_option linter.tactic.unusedName false

/-! ### Flash -/

theorem kept_setEntry {s0 : State} (s : State) (n e : Nat) (h : Kept s0 s) : Kept s0 (setEntry s n e) := by
  unfold setEntry
  exact Kept.upd (by assumption) rfl
theorem kept_queueStripe {s0 : State} (s : State) (stripe : Nat) (h : Kept s0 s) : Kept s0 (queueStripe s stripe) := by
  unfold queueStripe
  exact Kept.upd (by assumption) rfl
theorem kept_writeSlot {s0 : State} (s : State) (sl n : Nat) (d : Bytes) (poisoned : Bool) (h : Kept s0 s) : Kept s0 (writeSlot s sl n d poisoned) := by
  unfold writeSlot
  have k : ∀ x o, Kept s0 x → Kept s0 (
      let s := setEntry x n (mkEntry (OpenStripe.stripe o) o.used true poisoned true)
      let s := { s with flash := { s.flash with
        staged := cset [] s.flash.staged (stripeSlots * o.stripe + o.used) d
        openS := s.flash.openS.map fun p => if p.stripe = o.stripe then { p with used := p.used + 1 } else p } }
      if o.used + 1 = stripeSlots then queueStripe s o.stripe else s) := by
    intro x o hx
    have h1 := kept_setEntry x n (mkEntry o.stripe o.used true poisoned true) hx
    generalize setEntry x n (mkEntry o.stripe o.used true poisoned true) = y at h1 ⊢
    dsimp only
    split
    · apply kept_queueStripe; exact Kept.upd h1 rfl
    · exact Kept.upd h1 rfl
  split
  rename_i e
  split at e <;> cases e
  · exact k _ _ h
  · exact k _ _ (Kept.upd h rfl)
theorem kept_writeT3 {s0 : State} (s : State) (sl : Nat) (a : Nat) (bs : Bytes) (h : Kept s0 s) : Kept s0 (writeT3 s sl a bs) := by
  unfold writeT3
  repeat' with_reducible (first | assumption | (extract_lets +onlyGivenNames x; refine Kept.cut (s := s0) x ?_ ?_; rotate_left; intro hx; clear_value x; rotate_right; unfold x; clear x) | extract_lets +onlyGivenNames x | apply kept_writeSlot | refine kept_take _ _ _ _ _ (fun _ _ _ => ?_) ?_ | refine Kept.foldl _ (fun _ _ _ => ?_) ?_ | refine Kept.foldl_fst _ (fun _ _ _ => ?_) ?_ | refine Kept.foldl_snd _ (fun _ _ _ => ?_) ?_ | refine Kept.ite ?_ ?_ | split)
theorem kept_countT3 {s0 : State} (s : State) (n c bytes : Nat) (h : Kept s0 s) : Kept s0 (countT3 s n c bytes) := by
  unfold countT3
  repeat' with_reducible (first | assumption | apply kept_count)
theorem kept_countFc {s0 : State} (s : State) (fc c n : Nat) (h : Kept s0 s) : Kept s0 (countFc s fc c n) := by
  unfold countFc
  repeat' with_reducible (first | assumption | apply kept_count)
theorem kept_countUnits {s0 : State} (s : State) (ch : Nat) (but : Nat) (h : Kept s0 s) : Kept s0 (countUnits s ch but) := by
  unfold countUnits
  repeat' with_reducible (first | assumption | apply kept_countFc | refine Kept.foldl _ (fun _ _ _ => ?_) ?_ | refine Kept.foldl_fst _ (fun _ _ _ => ?_) ?_ | refine Kept.foldl_snd _ (fun _ _ _ => ?_) ?_ | refine Kept.ite ?_ ?_ | split)
theorem kept_countSlotRead {s0 : State} (s : State) (sl : Option Nat) (ch : Nat) (h : Kept s0 s) : Kept s0 (countSlotRead s sl ch) := by
  unfold countSlotRead
  repeat' with_reducible (first | assumption | exact Kept.upd (by assumption) rfl | (extract_lets +onlyGivenNames x; refine Kept.cut (s := s0) x ?_ ?_; rotate_left; intro hx; clear_value x; rotate_right; unfold x; clear x) | extract_lets +onlyGivenNames x | apply kept_count | apply kept_countFc | apply kept_countUnits | refine Kept.ite ?_ ?_ | split)
theorem kept_execStripeAgeFlush {s0 : State} (sl : Fin 16) (s : State) (h : Kept s0 s) : KeptO s0 (execStripeAgeFlush sl s) := by
  unfold execStripeAgeFlush
  repeat' with_reducible (first | assumption | apply kept_queueStripe | apply KeptO.next | split)
theorem kept_setCmds {s0 : State} (s : State) (fc : Nat) (q : List (Nat × Nat)) (h : Kept s0 s) : Kept s0 (setCmds s fc q) := by
  unfold setCmds
  exact Kept.upd (by assumption) rfl
theorem kept_setCredit {s0 : State} (s : State) (fc k v : Nat) (h : Kept s0 s) : Kept s0 (setCredit s fc k v) := by
  unfold setCredit
  repeat' with_reducible (first | exact Kept.upd (by assumption) rfl | refine Kept.ite ?_ ?_)
theorem kept_hand {s0 : State} (s : State) (fc kind arg granules k : Nat) (h : Kept s0 s) : Kept s0 (hand s fc kind arg granules k) := by
  unfold hand
  repeat' with_reducible (first | assumption | apply kept_setCmds | apply kept_setCredit)
theorem kept_execFissue {s0 : State} (fc : Fin 24) (s : State) (h : Kept s0 s) : KeptO s0 (execFissue fc s) := by
  unfold execFissue
  repeat' with_reducible (first | assumption | exact Kept.upd (by assumption) rfl | (extract_lets +onlyGivenNames x; refine Kept.cut (s := s0) x ?_ ?_; rotate_left; intro hx; clear_value x; rotate_right; unfold x; clear x) | extract_lets +onlyGivenNames x | refine kept_laneRun _ _ _ _ _ _ (fun _ _ => ?_) ?_ | apply kept_hand | apply KeptO.next | refine KeptO.ite ?_ ?_ | refine Kept.ite ?_ ?_ | split)
theorem kept_execFprog {s0 : State} (fc : Fin 24) (s : State) (h : Kept s0 s) : KeptO s0 (execFprog fc s) := by
  unfold execFprog
  repeat' with_reducible (first | assumption | exact Kept.upd (by assumption) rfl | (extract_lets +onlyGivenNames x; refine Kept.cut (s := s0) x ?_ ?_; rotate_left; intro hx; clear_value x; rotate_right; unfold x; clear x) | extract_lets +onlyGivenNames x | refine kept_laneRun _ _ _ _ _ _ (fun _ _ => ?_) ?_ | apply kept_hand | apply KeptO.next | refine KeptO.ite ?_ ?_ | refine Kept.ite ?_ ?_ | split)
theorem kept_execFerase {s0 : State} (fc : Fin 24) (s : State) (h : Kept s0 s) : KeptO s0 (execFerase fc s) := by
  unfold execFerase
  repeat' with_reducible (first | assumption | exact Kept.upd (by assumption) rfl | (extract_lets +onlyGivenNames x; refine Kept.cut (s := s0) x ?_ ?_; rotate_left; intro hx; clear_value x; rotate_right; unfold x; clear x) | extract_lets +onlyGivenNames x | refine kept_laneRun _ _ _ _ _ _ (fun _ _ => ?_) ?_ | apply kept_setCmds | apply KeptO.next | refine KeptO.ite ?_ ?_ | refine Kept.ite ?_ ?_ | split)
theorem kept_popCmd {s0 s t : State} {fc kind a b : Nat} (e : popCmd s fc kind = some (a, b, t)) (h : Kept s0 s) : Kept s0 t := by
  unfold popCmd at e
  cases hc : (cmdQueue s fc).find? fun c => c.1 == kind with
  | none => rw [hc] at e; simp at e
  | some c =>
    rw [hc] at e
    simp only [Option.map_some, Option.some.injEq, Prod.mk.injEq] at e
    rw [← e.2.2]
    exact kept_setCmds _ _ _ h
theorem kept_poisonSlot {s0 : State} (s : State) (fc : Nat) (n : Nat) (h : Kept s0 s) : Kept s0 (poisonSlot s fc n) := by
  unfold poisonSlot
  repeat' with_reducible (first | assumption | (extract_lets +onlyGivenNames x; refine Kept.cut (s := s0) x ?_ ?_; rotate_left; intro hx; clear_value x; rotate_right; unfold x; clear x) | extract_lets +onlyGivenNames x | apply kept_poisonFinding | apply kept_setEntry | refine Kept.foldl _ (fun _ _ _ => ?_) ?_ | refine Kept.foldl_fst _ (fun _ _ _ => ?_) ?_ | refine Kept.foldl_snd _ (fun _ _ _ => ?_) ?_)
theorem kept_receive {s0 : State} (s : State) (n : Nat) (d : Bytes) (h : Kept s0 s) : Kept s0 (receive s n d) := by
  unfold receive
  generalize (match s.flash.received.find? fun kv => kv.1 == n with
    | some kv => some kv.2
    | none => choosePlace (places s (stripeSlice s (seStripe (slotEntry s n))) 2 slotBytes) s.drawn) = a
  dsimp only
  split
  · exact h
  · exact Kept.upd (kept_writeMem s _ d h) rfl
theorem kept_execFlashReadDone {s0 : State} (fc : Fin 24) (r : NandRead) (s : State) (h : Kept s0 s) : KeptO s0 (execFlashReadDone fc r s) := by
  unfold execFlashReadDone
  repeat' with_reducible (first | assumption | exact Kept.upd (by assumption) rfl | (extract_lets +onlyGivenNames x; refine Kept.cut (s := s0) x ?_ ?_; rotate_left; intro hx; clear_value x; rotate_right; unfold x; clear x) | extract_lets +onlyGivenNames x | apply kept_writeMem | apply kept_addItem | apply kept_countT3 | apply kept_countFc | apply kept_countUnits | apply kept_setCredit | refine kept_popCmd (by assumption) ?_ | apply kept_poisonSlot | apply kept_receive | apply KeptO.next | refine KeptO.ite ?_ ?_ | refine Kept.ite ?_ ?_ | split)
theorem kept_execFlashProgramDone {s0 : State} (fc : Fin 24) (s : State) (h : Kept s0 s) : KeptO s0 (execFlashProgramDone fc s) := by
  unfold execFlashProgramDone
  repeat' with_reducible (first | assumption | exact Kept.upd (by assumption) rfl | (extract_lets +onlyGivenNames x; refine Kept.cut (s := s0) x ?_ ?_; rotate_left; intro hx; clear_value x; rotate_right; unfold x; clear x) | extract_lets +onlyGivenNames x | apply kept_count | apply kept_countFc | apply kept_setCredit | refine kept_popCmd (by assumption) ?_ | refine Kept.getD ?_ (fun _ _ => ?_) | refine Kept.foldl _ (fun _ _ _ => ?_) ?_ | refine Kept.foldl_fst _ (fun _ _ _ => ?_) ?_ | refine Kept.foldl_snd _ (fun _ _ _ => ?_) ?_ | apply KeptO.next | refine KeptO.ite ?_ ?_ | refine Kept.ite ?_ ?_ | split)
theorem kept_execFlashEraseDone {s0 : State} (fc : Fin 24) (s : State) (h : Kept s0 s) : KeptO s0 (execFlashEraseDone fc s) := by
  unfold execFlashEraseDone
  repeat' with_reducible (first | exact Kept.upd (by assumption) rfl
                                | (extract_lets +onlyGivenNames x; refine Kept.cut (s := s0) x ?_ ?_; rotate_left; intro hx; clear_value x; rotate_right; unfold x; clear x) | refine kept_popCmd (by assumption) ?_ | apply kept_countFc | apply KeptO.next | split)
theorem kept_loseChannel {s0 : State} (s : State) (fc : Nat) (h : Kept s0 s) : Kept s0 (loseChannel s fc) := by
  unfold loseChannel
  repeat' with_reducible (first | exact Kept.upd (by assumption) rfl | apply kept_addItem)
theorem kept_execFlashLineFault {s0 : State} (fc line : Fin 24) (s : State) (h : Kept s0 s) : KeptO s0 (execFlashLineFault fc line s) := by
  unfold execFlashLineFault
  repeat' with_reducible (first | assumption | apply kept_logFault | apply kept_loseChannel | apply KeptO.next | refine KeptO.ite ?_ ?_)
theorem kept_execNandSenseLost {s0 : State} (group : Fin 6) (s : State) (h : Kept s0 s) : KeptO s0 (execNandSenseLost group s) := by
  unfold execNandSenseLost
  repeat' with_reducible (first | exact Kept.upd (by assumption) rfl
                                | (extract_lets +onlyGivenNames x; refine Kept.cut (s := s0) x ?_ ?_; rotate_left; intro hx; clear_value x; rotate_right; unfold x; clear x) | extract_lets +onlyGivenNames x | apply kept_logFault | apply kept_powerIbi | apply kept_startReset | apply KeptO.next | refine KeptO.ite ?_ ?_)
theorem kept_execNandSenseRestored {s0 : State} (group : Fin 6) (s : State) (h : Kept s0 s) : KeptO s0 (execNandSenseRestored group s) := by
  unfold execNandSenseRestored
  repeat' with_reducible (first | exact Kept.upd (by assumption) rfl
                                | (extract_lets +onlyGivenNames x; refine Kept.cut (s := s0) x ?_ ?_; rotate_left; intro hx; clear_value x; rotate_right; unfold x; clear x) | extract_lets +onlyGivenNames x | apply kept_powerIbi | apply KeptO.next | refine KeptO.ite ?_ ?_ | refine Kept.ite ?_ ?_)
theorem kept_applyOutcome {s0 : State} (s : State) (fc : Nat) (c : ChanOutcome) (h : Kept s0 s) : Kept s0 (applyOutcome s fc c) := by
  unfold applyOutcome
  repeat' with_reducible (first | assumption | exact Kept.upd (by assumption) rfl | (extract_lets +onlyGivenNames x; refine Kept.cut (s := s0) x ?_ ?_; rotate_left; intro hx; clear_value x; rotate_right; unfold x; clear x) | extract_lets +onlyGivenNames x | apply kept_postEvent | apply kept_logFault | apply kept_addItem | refine Kept.foldl _ (fun _ _ _ => ?_) ?_ | refine Kept.foldl_fst _ (fun _ _ _ => ?_) ?_ | refine Kept.foldl_snd _ (fun _ _ _ => ?_) ?_ | refine Kept.ite ?_ ?_ | split)
theorem kept_execFlashTrainingDone {s0 : State} (results : List FlashTrain) (s : State) (h : Kept s0 s) : KeptO s0 (execFlashTrainingDone results s) := by
  unfold execFlashTrainingDone
  repeat' with_reducible (first | exact Kept.upd (by assumption) rfl
                                | (extract_lets +onlyGivenNames x; refine Kept.cut (s := s0) x ?_ ?_; rotate_left; intro hx; clear_value x; rotate_right; unfold x; clear x) | extract_lets +onlyGivenNames x | apply kept_finishResets | apply kept_applyOutcome | refine Kept.foldl _ (fun _ _ _ => ?_) ?_ | apply KeptO.next | refine KeptO.ite ?_ ?_ | refine Kept.ite ?_ ?_)

/-! ### Links -/

theorem kept_setLink {s0 : State} (s : State) (l : Nat) (a2 : Link) (h : Kept s0 s) : Kept s0 (setLink s l a2) := by
  unfold setLink
  exact Kept.upd (by assumption) rfl
theorem kept_countLink {s0 : State} (s : State) (l c n : Nat) (h : Kept s0 s) : Kept s0 (countLink s l c n) := by
  unfold countLink
  repeat' with_reducible (first | assumption | apply kept_count)
theorem kept_passedOn {s0 : State} (s : State) (l : Nat) (f : Bytes) (h : Kept s0 s) : Kept s0 (passedOn s l f) := by
  unfold passedOn
  repeat' with_reducible (first | assumption | exact Kept.upd (by assumption) rfl | (extract_lets +onlyGivenNames x; refine Kept.cut (s := s0) x ?_ ?_; rotate_left; intro hx; clear_value x; rotate_right; unfold x; clear x) | extract_lets +onlyGivenNames x | apply kept_setLink | split)
theorem kept_pump {s0 : State} (s : State) (l n : Nat) (h : Kept s0 s) : Kept s0 (pump s l n) := by
  induction n generalizing s with
  | zero => exact h
  | succ n ih =>
    unfold pump
    dsimp only
    split
    · exact h
    · split
      · exact h
      · exact ih _ (kept_passedOn _ _ _ (kept_countLink _ _ _ _ (kept_countLink _ _ _ _ (kept_setLink _ _ _ h))))
theorem kept_linkSend {s0 : State} (s : State) (l : Nat) (fs : List Bytes) (h : Kept s0 s) : Kept s0 (linkSend s l fs) := by
  unfold linkSend
  repeat' with_reducible (first | assumption | apply kept_setLink | apply kept_pump)
theorem kept_routeSome {s0 : State} (s : State) (dst : Nat) (fs : List Bytes) (h : Kept s0 s) : Kept s0 (routeSome s dst fs) := by
  unfold routeSome
  repeat' with_reducible (first | assumption | exact Kept.upd (by assumption) rfl | (extract_lets +onlyGivenNames x; refine Kept.cut (s := s0) x ?_ ?_; rotate_left; intro hx; clear_value x; rotate_right; unfold x; clear x) | extract_lets +onlyGivenNames x | apply kept_linkSend | refine Kept.getD ?_ (fun _ _ => ?_) | refine Kept.foldl _ (fun _ _ _ => ?_) ?_ | refine Kept.foldl_fst _ (fun _ _ _ => ?_) ?_ | refine Kept.foldl_snd _ (fun _ _ _ => ?_) ?_ | split)
theorem kept_sendOrrery {s0 : State} (s : State) (h : Kept s0 s) : Kept s0 (sendOrrery s) := by
  unfold sendOrrery
  repeat' with_reducible (first | assumption | exact Kept.upd (by assumption) rfl | (extract_lets +onlyGivenNames x; refine Kept.cut (s := s0) x ?_ ?_; rotate_left; intro hx; clear_value x; rotate_right; unfold x; clear x) | extract_lets +onlyGivenNames x | apply kept_routeSome | refine Kept.foldl _ (fun _ _ _ => ?_) ?_ | refine Kept.foldl_fst _ (fun _ _ _ => ?_) ?_ | refine Kept.foldl_snd _ (fun _ _ _ => ?_) ?_)
theorem kept_routeFlits {s0 : State} (s : State) (dst : Nat) (fs : List Bytes) (h : Kept s0 s) : Kept s0 (routeFlits s dst fs) := by
  unfold routeFlits
  repeat' with_reducible (first | assumption | apply kept_routeSome | apply kept_sendOrrery)
theorem kept_countSlotFlits {s0 : State} (s : State) (slot : Nat) (links : List Nat) (h : Kept s0 s) : Kept s0 (countSlotFlits s slot links) := by
  unfold countSlotFlits
  exact Kept.upd (by assumption) rfl
theorem kept_note {s0 : State} (s : State) (n : FabricNote) (h : Kept s0 s) : Kept s0 (note s n) := by
  unfold note
  repeat' with_reducible (first | assumption | exact Kept.upd (by assumption) rfl | (extract_lets +onlyGivenNames x; refine Kept.cut (s := s0) x ?_ ?_; rotate_left; intro hx; clear_value x; rotate_right; unfold x; clear x) | extract_lets +onlyGivenNames x)
theorem kept_dropLink {s0 : State} (s : State) (l st : Nat) (h : Kept s0 s) : Kept s0 (dropLink s l st) := by
  unfold dropLink
  repeat' with_reducible (first | assumption | apply kept_setLink)
theorem kept_linkGone {s0 : State} (s : State) (n : Nat) (h : Kept s0 s) : Kept s0 (linkGone s n) := by
  unfold linkGone
  repeat' with_reducible (first | assumption | (extract_lets +onlyGivenNames x; refine Kept.cut (s := s0) x ?_ ?_; rotate_left; intro hx; clear_value x; rotate_right; unfold x; clear x) | extract_lets +onlyGivenNames x | apply kept_logFault | apply kept_note | refine Kept.ite ?_ ?_ | split)
theorem kept_failLink {s0 : State} (s : State) (l : Nat) (st : Nat) (h : Kept s0 s) : Kept s0 (failLink s l st) := by
  unfold failLink
  repeat' with_reducible (first | assumption | exact Kept.upd (by assumption) rfl | (extract_lets +onlyGivenNames x; refine Kept.cut (s := s0) x ?_ ?_; rotate_left; intro hx; clear_value x; rotate_right; unfold x; clear x) | extract_lets +onlyGivenNames x | apply kept_linkSend | apply kept_dropLink | apply kept_linkGone | refine Kept.getD ?_ (fun _ _ => ?_) | refine Kept.foldl _ (fun _ _ _ => ?_) ?_ | refine Kept.foldl_fst _ (fun _ _ _ => ?_) ?_ | refine Kept.foldl_snd _ (fun _ _ _ => ?_) ?_ | refine Kept.ite ?_ ?_ | split)
theorem kept_replayLink {s0 : State} (s : State) (l : Nat) (h : Kept s0 s) : Kept s0 (replayLink s l) := by
  unfold replayLink
  repeat' with_reducible (first | assumption | exact Kept.upd (by assumption) rfl | (extract_lets +onlyGivenNames x; refine Kept.cut (s := s0) x ?_ ?_; rotate_left; intro hx; clear_value x; rotate_right; unfold x; clear x) | extract_lets +onlyGivenNames x | apply kept_logFault | apply kept_setLink | apply kept_countLink | apply kept_failLink | refine Kept.ite ?_ ?_ | split)
theorem kept_sendIdle {s0 : State} (s : State) (l : Nat) (h : Kept s0 s) : Kept s0 (sendIdle s l) := by
  unfold sendIdle
  repeat' with_reducible (first | assumption | exact Kept.upd (by assumption) rfl | (extract_lets +onlyGivenNames x; refine Kept.cut (s := s0) x ?_ ?_; rotate_left; intro hx; clear_value x; rotate_right; unfold x; clear x) | extract_lets +onlyGivenNames x | apply kept_linkSend | split)
theorem kept_answerFlit {s0 : State} (s : State) (l : Nat) (n : Nat) (idle : Bool) (h : Kept s0 s) : Kept s0 (answerFlit s l n idle) := by
  unfold answerFlit
  repeat' with_reducible (first | assumption | (extract_lets +onlyGivenNames x; refine Kept.cut (s := s0) x ?_ ?_; rotate_left; intro hx; clear_value x; rotate_right; unfold x; clear x) | extract_lets +onlyGivenNames x | apply kept_pump | apply kept_sendOrrery | apply kept_sendIdle | refine Kept.ite ?_ ?_ | split)
theorem kept_passFlit {s0 : State} (s : State) (l : Nat) (f : Bytes) (h : Kept s0 s) : Kept s0 (passFlit s l f) := by
  unfold passFlit
  repeat' with_reducible (first | assumption | exact Kept.upd (by assumption) rfl | (extract_lets +onlyGivenNames x; refine Kept.cut (s := s0) x ?_ ?_; rotate_left; intro hx; clear_value x; rotate_right; unfold x; clear x) | extract_lets +onlyGivenNames x | apply kept_setLink | apply kept_linkSend | apply kept_countSlotFlits | refine Kept.getD ?_ (fun _ _ => ?_) | refine Kept.ite ?_ ?_ | split)
theorem kept_execLinkFlitReceive {s0 : State} (link : Fin 32) (flit : Bytes) (fecOk : Bool) (s : State) (h : Kept s0 s) : KeptO s0 (execLinkFlitReceive link flit fecOk s) := by
  unfold execLinkFlitReceive
  repeat' with_reducible (first | assumption | exact Kept.upd (by assumption) rfl | (extract_lets +onlyGivenNames x; refine Kept.cut (s := s0) x ?_ ?_; rotate_left; intro hx; clear_value x; rotate_right; unfold x; clear x) | extract_lets +onlyGivenNames x | apply kept_setLink | apply kept_countLink | apply kept_replayLink | apply kept_answerFlit | apply kept_passFlit | apply kept_replay | refine Kept.foldl _ (fun _ _ _ => ?_) ?_ | refine Kept.foldl_fst _ (fun _ _ _ => ?_) ?_ | refine Kept.foldl_snd _ (fun _ _ _ => ?_) ?_ | apply KeptO.next | exact KeptO.fault | refine KeptO.ite ?_ ?_ | refine Kept.ite ?_ ?_ | split)
theorem kept_execReplayTimeout {s0 : State} (link : Fin 32) (s : State) (h : Kept s0 s) : KeptO s0 (execReplayTimeout link s) := by
  unfold execReplayTimeout
  repeat' with_reducible (first | assumption | apply kept_replayLink | apply KeptO.next | refine KeptO.ite ?_ ?_)
theorem kept_sendTrain {s0 : State} (s : State) (l : Nat) (h : Kept s0 s) : Kept s0 (sendTrain s l) := by
  unfold sendTrain
  repeat' with_reducible (first | assumption | exact Kept.upd (by assumption) rfl | (extract_lets +onlyGivenNames x; refine Kept.cut (s := s0) x ?_ ?_; rotate_left; intro hx; clear_value x; rotate_right; unfold x; clear x) | extract_lets +onlyGivenNames x)
theorem kept_execLightDetected {s0 : State} (lane : Fin 32) (s : State) (h : Kept s0 s) : KeptO s0 (execLightDetected lane s) := by
  unfold execLightDetected
  repeat' with_reducible (first | assumption | exact Kept.upd (by assumption) rfl | (refine Kept.updWith (by assumption) ?_ ?_ ?_ ?_ ?_ ?_ ?_ ?_ ?_ ?_ ?_ ?_ ?_ ?_ <;> first | exact id | (with_unfolding_all (intros; first | assumption | rfl | exact Nat.le_of_ble_eq_true rfl | (apply cdrop_wf; assumption)))) | (extract_lets +onlyGivenNames x; refine Kept.cut (s := s0) x ?_ ?_; rotate_left; intro hx; clear_value x; rotate_right; unfold x; clear x) | extract_lets +onlyGivenNames x | apply kept_setLink | apply kept_note | apply kept_sendTrain | apply KeptO.next | refine KeptO.ite ?_ ?_ | refine Kept.ite ?_ ?_ | split)
theorem kept_execPairSwapToggle {s0 : State} (lane : Fin 32) (s : State) (h : Kept s0 s) : KeptO s0 (execPairSwapToggle lane s) := by
  unfold execPairSwapToggle
  repeat' with_reducible (first | assumption | exact Kept.upd (by assumption) rfl | (refine Kept.updWith (by assumption) ?_ ?_ ?_ ?_ ?_ ?_ ?_ ?_ ?_ ?_ ?_ ?_ ?_ ?_ <;> first | exact id | (with_unfolding_all (intros; first | assumption | rfl | exact Nat.le_of_ble_eq_true rfl | (apply cdrop_wf; assumption)))) | (extract_lets +onlyGivenNames x; refine Kept.cut (s := s0) x ?_ ?_; rotate_left; intro hx; clear_value x; rotate_right; unfold x; clear x) | extract_lets +onlyGivenNames x | apply kept_setLink | apply kept_sendTrain | apply KeptO.next | refine KeptO.ite ?_ ?_ | refine Kept.ite ?_ ?_ | split)
theorem kept_execTrain {s0 : State} (rx : Fin 32) (latencyNs : Nat) (p : TrainMsg) (s : State) (h : Kept s0 s) : KeptO s0 (execTrain rx latencyNs p s) := by
  unfold execTrain
  repeat' with_reducible (first | assumption | exact Kept.upd (by assumption) rfl | (refine Kept.updWith (by assumption) ?_ ?_ ?_ ?_ ?_ ?_ ?_ ?_ ?_ ?_ ?_ ?_ ?_ ?_ <;> first | exact id | (with_unfolding_all (intros; first | assumption | rfl | exact Nat.le_of_ble_eq_true rfl | (apply cdrop_wf; assumption)))) | (extract_lets +onlyGivenNames x; refine Kept.cut (s := s0) x ?_ ?_; rotate_left; intro hx; clear_value x; rotate_right; unfold x; clear x) | extract_lets +onlyGivenNames x | apply kept_setLink | apply kept_sendTrain | apply KeptO.next | refine KeptO.ite ?_ ?_ | refine Kept.ite ?_ ?_ | split)
theorem kept_execLaneTrainingTimeout {s0 : State} (lane : Fin 32) (s : State) (h : Kept s0 s) : KeptO s0 (execLaneTrainingTimeout lane s) := by
  unfold execLaneTrainingTimeout
  repeat' with_reducible (first | assumption | exact Kept.upd (by assumption) rfl | (refine Kept.updWith (by assumption) ?_ ?_ ?_ ?_ ?_ ?_ ?_ ?_ ?_ ?_ ?_ ?_ ?_ ?_ <;> first | exact id | (with_unfolding_all (intros; first | assumption | rfl | exact Nat.le_of_ble_eq_true rfl | (apply cdrop_wf; assumption)))) | (extract_lets +onlyGivenNames x; refine Kept.cut (s := s0) x ?_ ?_; rotate_left; intro hx; clear_value x; rotate_right; unfold x; clear x) | extract_lets +onlyGivenNames x | apply kept_setLink | apply kept_note | apply KeptO.next | refine KeptO.ite ?_ ?_ | refine Kept.ite ?_ ?_ | split)
theorem kept_execFabricTrainingComplete {s0 : State} (s : State) (h : Kept s0 s) : KeptO s0 (execFabricTrainingComplete s) := by
  unfold execFabricTrainingComplete
  repeat' with_reducible (first | assumption | exact Kept.upd (by assumption) rfl | (extract_lets +onlyGivenNames x; refine Kept.cut (s := s0) x ?_ ?_; rotate_left; intro hx; clear_value x; rotate_right; unfold x; clear x) | extract_lets +onlyGivenNames x | apply kept_orrSend | apply kept_note | refine Kept.foldl _ (fun _ _ _ => ?_) ?_ | refine Kept.foldl_fst _ (fun _ _ _ => ?_) ?_ | refine Kept.foldl_snd _ (fun _ _ _ => ?_) ?_ | apply KeptO.next | exact KeptO.fault | refine KeptO.ite ?_ ?_ | refine Kept.ite ?_ ?_ | split)
theorem kept_execLaserFail {s0 : State} (lost : LaserLoss) (s : State) (h : Kept s0 s) : KeptO s0 (execLaserFail lost s) := by
  unfold execLaserFail
  repeat' with_reducible (first | assumption | (extract_lets +onlyGivenNames x; refine Kept.cut (s := s0) x ?_ ?_; rotate_left; intro hx; clear_value x; rotate_right; unfold x; clear x) | extract_lets +onlyGivenNames x | apply kept_logFault | apply kept_failLink | refine Kept.foldl _ (fun _ _ _ => ?_) ?_ | refine Kept.foldl_fst _ (fun _ _ _ => ?_) ?_ | refine Kept.foldl_snd _ (fun _ _ _ => ?_) ?_ | apply KeptO.next | exact KeptO.fault | refine KeptO.ite ?_ ?_ | refine Kept.ite ?_ ?_ | split)
theorem kept_execFabricLatency {s0 : State} (hops ns : Nat) (s : State) (h : Kept s0 s) : KeptO s0 (execFabricLatency hops ns s) := by
  unfold execFabricLatency
  repeat' with_reducible (first | exact Kept.upd (by assumption) rfl | extract_lets +onlyGivenNames x | apply kept_logFault
                                | apply KeptO.next | split)
theorem kept_tick {s0 : State} (s : State) (h : Kept s0 s) : Kept s0 (tick s) := by
  unfold tick
  repeat' with_reducible (first | exact Kept.upd (by assumption) rfl
                                | (extract_lets +onlyGivenNames x; refine Kept.cut (s := s0) x ?_ ?_; rotate_left; intro hx; clear_value x; rotate_right; unfold x; clear x) | apply kept_millisecond | refine Kept.ite ?_ ?_)
theorem kept_conjForm {s0 : State} (s : State) (h : Kept s0 s) : Kept s0 (conjForm s) := by
  unfold conjForm
  exact Kept.upd (by assumption) rfl
theorem kept_execConjJoin {s0 : State} (position : Fin 8) (serial : BitVec 64) (digest : BitVec 256) (s : State) (h : Kept s0 s) : KeptO s0 (execConjJoin position serial digest s) := by
  unfold execConjJoin
  repeat' with_reducible (first | exact Kept.upd (by assumption) rfl | apply kept_conjForm | apply KeptO.next | refine KeptO.ite ?_ ?_
                                | refine Kept.ite ?_ ?_)
theorem kept_execAccept {s0 : State} (size : Fin 9) (arrangement : Fin 3) (node : Fin 512) (epoch : W32) (s : State) (h : Kept s0 s) : KeptO s0 (execAccept size arrangement node epoch s) := by
  unfold execAccept
  repeat' with_reducible (first | exact Kept.upd (by assumption) rfl
                                | (extract_lets +onlyGivenNames x; refine Kept.cut (s := s0) x ?_ ?_; rotate_left; intro hx; clear_value x; rotate_right; unfold x; clear x) | extract_lets +onlyGivenNames x | apply KeptO.next | refine KeptO.ite ?_ ?_)
theorem kept_execConjFormTimeout {s0 : State} (s : State) (h : Kept s0 s) : KeptO s0 (execConjFormTimeout s) := by
  unfold execConjFormTimeout
  repeat' with_reducible (first | exact Kept.upd (by assumption) rfl | apply kept_postEvent | apply KeptO.next | refine KeptO.ite ?_ ?_)
theorem kept_execConjMemberLost {s0 : State} (position : Fin 8) (s : State) (h : Kept s0 s) : KeptO s0 (execConjMemberLost position s) := by
  unfold execConjMemberLost
  repeat' with_reducible (first | exact Kept.upd (by assumption) rfl
                                | (extract_lets +onlyGivenNames x; refine Kept.cut (s := s0) x ?_ ?_; rotate_left; intro hx; clear_value x; rotate_right; unfold x; clear x) | apply kept_logFault | apply kept_enterFault | apply KeptO.next | refine KeptO.ite ?_ ?_)

/-! ### Mover -/

theorem kept_execMcopy {s0 : State} (cl : Fin 32) (o : OpAB) (s : State) (h : Kept s0 s) : KeptO s0 (execMcopy cl o s) := by
  unfold execMcopy
  repeat' with_reducible (first | assumption | exact Kept.upd (by assumption) rfl | (extract_lets +onlyGivenNames x; refine Kept.cut (s := s0) x ?_ ?_; rotate_left; intro hx; clear_value x; rotate_right; unfold x; clear x) | extract_lets +onlyGivenNames x | apply kept_later | apply kept_countTier | refine kept_laneChecked _ _ _ _ _ _ _ (fun _ _ => ?_) ?_ | refine kept_withAddr _ _ (fun _ => ?_) | apply KeptO.next)
theorem kept_returnCredits {s0 : State} (s : State) (fc g n : Nat) (h : Kept s0 s) : Kept s0 (returnCredits s fc g n) := by
  unfold returnCredits
  exact Kept.upd (by assumption) rfl
theorem kept_execMxbuf {s0 : State} (cl : Fin 32) (o : OpAB) (s : State) (h : Kept s0 s) : KeptO s0 (execMxbuf cl o s) := by
  unfold execMxbuf
  repeat' with_reducible (first | assumption | exact Kept.upd (by assumption) rfl | (extract_lets +onlyGivenNames x; refine Kept.cut (s := s0) x ?_ ?_; rotate_left; intro hx; clear_value x; rotate_right; unfold x; clear x) | extract_lets +onlyGivenNames x | apply kept_later | apply kept_countTier | refine kept_laneChecked _ _ _ _ _ _ _ (fun _ _ => ?_) ?_ | refine kept_withAddr _ _ (fun _ => ?_) | apply kept_returnCredits | apply KeptO.next | refine KeptO.ite ?_ ?_ | refine Kept.ite ?_ ?_ | split)
theorem kept_tileOp {s0 : State} (cl op : Nat) (o : OpAB) (steps : Nat) (s : State) (f : State → Nat → Nat → Host.Outcome State Fault Refusal)
    (hf : ∀ x a b, Kept s0 x → KeptO s0 (f x a b)) (h : Kept s0 s) : KeptO s0 (tileOp cl op o steps s f) := by
  unfold tileOp
  refine kept_laneChecked _ _ _ _ _ _ _ (fun x hx => ?_) h
  repeat' with_reducible (first | assumption | refine kept_withAddr _ _ (fun _ => ?_) | apply hf)
theorem kept_execMclose {s0 : State} (cl : Fin 32) (o : OpAB) (steps : Nat) (s : State) (h : Kept s0 s) : KeptO s0 (execMclose cl o steps s) := by
  unfold execMclose
  repeat' with_reducible (first | assumption | (extract_lets +onlyGivenNames x; refine Kept.cut (s := s0) x ?_ ?_; rotate_left; intro hx; clear_value x; rotate_right; unfold x; clear x) | extract_lets +onlyGivenNames x | apply kept_later | apply kept_countTier | refine kept_tileOp _ _ _ _ _ _ (fun _ _ _ _ => ?_) ?_ | apply KeptO.next)
theorem kept_execMcheck {s0 : State} (cl : Fin 32) (o : OpAB) (steps : Nat) (s : State) (h : Kept s0 s) : KeptO s0 (execMcheck cl o steps s) := by
  unfold execMcheck
  repeat' with_reducible (first | assumption | (extract_lets +onlyGivenNames x; refine Kept.cut (s := s0) x ?_ ?_; rotate_left; intro hx; clear_value x; rotate_right; unfold x; clear x) | extract_lets +onlyGivenNames x | apply kept_countTier | apply kept_countArith | apply kept_logFault | apply kept_poisonFinding | refine kept_tileOp _ _ _ _ _ _ (fun _ _ _ _ => ?_) ?_ | apply KeptO.next | refine KeptO.ite ?_ ?_ | refine Kept.ite ?_ ?_ | split)
theorem kept_edgeOp {s0 : State} (op : Nat) (o : OpAB) (s : State) (f : State → Nat → Nat → Nat → Host.Outcome State Fault Refusal)
    (hf : ∀ x a b c, Kept s0 x → KeptO s0 (f x a b c)) (h : Kept s0 s) : KeptO s0 (edgeOp op o s f) := by
  unfold edgeOp
  refine kept_laneChecked _ _ _ _ _ _ _ (fun x hx => ?_) h
  repeat' with_reducible (first | assumption | refine kept_withAddr _ _ (fun _ => ?_) | apply hf)
theorem kept_execBrd {s0 : State} (o : OpAB) (s : State) (h : Kept s0 s) : KeptO s0 (execBrd o s) := by
  unfold execBrd
  repeat' with_reducible (first | assumption | apply kept_later | apply kept_countTier | refine kept_edgeOp _ _ _ _ (fun _ _ _ _ _ => ?_) ?_ | apply KeptO.next)
theorem kept_execBwr {s0 : State} (o : OpAB) (s : State) (h : Kept s0 s) : KeptO s0 (execBwr o s) := by
  unfold execBwr
  repeat' with_reducible (first | assumption | apply kept_later | apply kept_countTier | refine kept_edgeOp _ _ _ _ (fun _ _ _ _ _ => ?_) ?_ | apply KeptO.next)
theorem kept_execBgather {s0 : State} (o : OpAB) (steps : Nat) (s : State) (h : Kept s0 s) : KeptO s0 (execBgather o steps s) := by
  unfold execBgather
  repeat' with_reducible (first | assumption | exact Kept.upd (by assumption) rfl | (extract_lets +onlyGivenNames x; refine Kept.cut (s := s0) x ?_ ?_; rotate_left; intro hx; clear_value x; rotate_right; unfold x; clear x) | extract_lets +onlyGivenNames x | apply kept_later | apply kept_count | apply kept_countTier | apply kept_countSeen | refine kept_laneChecked _ _ _ _ _ _ _ (fun _ _ => ?_) ?_ | refine kept_withAddr _ _ (fun _ => ?_) | refine Kept.foldl _ (fun _ _ _ => ?_) ?_ | refine Kept.foldl_fst _ (fun _ _ _ => ?_) ?_ | refine Kept.foldl_snd _ (fun _ _ _ => ?_) ?_ | apply KeptO.next | refine KeptO.ite ?_ ?_ | refine Kept.ite ?_ ?_ | split)

/-! ### Beat -/

theorem kept_sendOut {s0 : State} (s : State) (dst : Nat) (m : OutMsg) (fs : List Bytes) (h : Kept s0 s) : Kept s0 (sendOut s dst m fs) := by
  unfold sendOut
  repeat' with_reducible (first | exact Kept.upd (by assumption) rfl | apply kept_routeFlits)
theorem kept_sendArm {s0 : State} (s : State) (m : ArmMsg) (h : Kept s0 s) : Kept s0 (sendArm s m) := by
  unfold sendArm
  repeat' with_reducible (first | assumption | exact Kept.upd (by assumption) rfl | (extract_lets +onlyGivenNames x; refine Kept.cut (s := s0) x ?_ ?_; rotate_left; intro hx; clear_value x; rotate_right; unfold x; clear x) | extract_lets +onlyGivenNames x | apply kept_sendOut | refine Kept.ite ?_ ?_ | split)
theorem kept_armStep {s0 : State} (s : State) (h : Kept s0 s) : Kept s0 (armStep s) := by
  unfold armStep
  repeat' with_reducible (first | exact Kept.upd (by assumption) rfl | apply kept_sendArm | split)
theorem kept_addArm {s0 : State} (s : State) (m : ArmMsg) (h : Kept s0 s) : Kept s0 (addArm s m) := by
  unfold addArm
  exact Kept.upd (by assumption) rfl
theorem kept_reportMissing {s0 : State} (s : State) (h : Kept s0 s) : Kept s0 (reportMissing s) := by
  unfold reportMissing
  repeat' with_reducible (first | assumption | apply kept_logFaultFor | refine Kept.foldl _ (fun _ _ _ => ?_) ?_)
theorem kept_armNow {s0 : State} (s : State) (h : Kept s0 s) : Kept s0 (armNow s) := by
  unfold armNow
  repeat' with_reducible (first | exact Kept.upd (by assumption) rfl
                                | (extract_lets +onlyGivenNames x; refine Kept.cut (s := s0) x ?_ ?_; rotate_left; intro hx; clear_value x; rotate_right; unfold x; clear x) | apply kept_armStep | apply kept_addArm | apply kept_reportMissing)
theorem kept_setRing {s0 : State} (s : State) (r : Ring) (h : Kept s0 s) : Kept s0 (setRing s r) := by
  unfold setRing
  exact Kept.upd (by assumption) rfl
theorem kept_ringError {s0 : State} (s : State) (r : Ring) (cause : Nat) (h : Kept s0 s) : Kept s0 (ringError s r cause) := by
  unfold ringError
  repeat' with_reducible (first | assumption | apply kept_pushEvent)
theorem kept_sampleRing {s0 : State} (s : State) (r : Ring) (h : Kept s0 s) : Kept s0 (sampleRing s r) := by
  unfold sampleRing
  repeat' with_reducible (first | assumption | apply kept_setRing | apply kept_ringError | refine Kept.ite ?_ ?_)
theorem kept_sampleRings {s0 : State} (s : State) (h : Kept s0 s) : Kept s0 (sampleRings s) := by
  unfold sampleRings
  repeat' with_reducible (first | assumption | apply kept_sampleRing | refine Kept.foldl _ (fun _ _ _ => ?_) ?_)
theorem kept_captureLanes {s0 : State} (s : State) (t : StepTime) (w : Nat) (h : Kept s0 s) : Kept s0 (captureLanes s t w) := by
  unfold captureLanes
  repeat' with_reducible (first | assumption | apply kept_countLane | refine Kept.foldl _ (fun _ _ _ => ?_) ?_ | refine Kept.ite ?_ ?_)
theorem kept_countStep {s0 : State} (s : State) (t : StepTime) (h : Kept s0 s) : Kept s0 (countStep s t) := by
  unfold countStep
  repeat' with_reducible (first | exact Kept.upd (by assumption) rfl
                                | (extract_lets +onlyGivenNames x; refine Kept.cut (s := s0) x ?_ ?_; rotate_left; intro hx; clear_value x; rotate_right; unfold x; clear x) | apply kept_count | apply kept_captureLanes | refine Kept.ite ?_ ?_)
theorem kept_execStepAdvance {s0 : State} (t : StepTime) (s : State) (h : Kept s0 s) : KeptO s0 (execStepAdvance t s) := by
  unfold execStepAdvance
  repeat' with_reducible (first | exact Kept.upd (by assumption) rfl
                                | (extract_lets +onlyGivenNames x; refine Kept.cut (s := s0) x ?_ ?_; rotate_left; intro hx; clear_value x; rotate_right; unfold x; clear x) | extract_lets +onlyGivenNames x | apply kept_landDue | apply kept_armNow | apply kept_sampleRings | apply kept_countStep | apply KeptO.next | split)
theorem kept_passBeat {s0 : State} (s : State) (b : BeatMsg) (h : Kept s0 s) : Kept s0 (passBeat s b) := by
  unfold passBeat
  repeat' with_reducible (first | assumption | exact Kept.upd (by assumption) rfl | (extract_lets +onlyGivenNames x; refine Kept.cut (s := s0) x ?_ ?_; rotate_left; intro hx; clear_value x; rotate_right; unfold x; clear x) | extract_lets +onlyGivenNames x | apply kept_sendOut | refine Kept.foldl _ (fun _ _ _ => ?_) ?_ | refine Kept.foldl_fst _ (fun _ _ _ => ?_) ?_ | refine Kept.foldl_snd _ (fun _ _ _ => ?_) ?_)
theorem kept_takeBeat {s0 : State} (s : State) (b : BeatMsg) (h : Kept s0 s) : Kept s0 (takeBeat s b) := by
  unfold takeBeat
  repeat' with_reducible (first | (refine Kept.updWith (by assumption) ?_ ?_ ?_ ?_ ?_ ?_ ?_ ?_ ?_ ?_ ?_ ?_ ?_ ?_ <;> first | exact id | (with_unfolding_all (intros; first | assumption | rfl | exact Nat.le_of_ble_eq_true rfl | (apply cdrop_wf; assumption)))) | (extract_lets +onlyGivenNames x; refine Kept.cut (s := s0) x ?_ ?_; rotate_left; intro hx; clear_value x; rotate_right; unfold x; clear x) | extract_lets +onlyGivenNames x | apply kept_logFault | refine Kept.ite ?_ ?_)
theorem kept_issueBeat {s0 : State} (s : State) (b : BeatMsg) (h : Kept s0 s) : Kept s0 (issueBeat s b) := by
  unfold issueBeat
  repeat' with_reducible (first | exact Kept.upd (by assumption) rfl
                                | (extract_lets +onlyGivenNames x; refine Kept.cut (s := s0) x ?_ ?_; rotate_left; intro hx; clear_value x; rotate_right; unfold x; clear x) | apply kept_passBeat | apply kept_takeBeat)
theorem kept_firstPublished {s0 : State} {s : State} {v : View} {v0 : Nat} {t : State} (e : firstPublished s v = (v0, t)) (h : Kept s0 s) : Kept s0 t := by
  have k : Kept s0 (firstPublished s v).2 := by
    unfold firstPublished
    repeat' with_reducible (first | assumption | refine kept_draw (by assumption) ?_ | split)
  rw [e] at k; exact k
theorem kept_execBeatIssue {s0 : State} (s : State) (h : Kept s0 s) : KeptO s0 (execBeatIssue s) := by
  unfold execBeatIssue
  repeat' with_reducible (first | assumption | split | apply kept_issueBeat | refine kept_firstPublished (by assumption) ?_ | apply KeptO.next)
theorem kept_execBeatDeadlineExpire {s0 : State} (s : State) (h : Kept s0 s) : KeptO s0 (execBeatDeadlineExpire s) := by
  unfold execBeatDeadlineExpire
  repeat' with_reducible (first | assumption | apply kept_loseNode | apply kept_issueBeat | refine Kept.foldl _ (fun _ _ _ => ?_) ?_
                                | apply KeptO.next | refine KeptO.ite ?_ ?_ | refine Kept.ite ?_ ?_)
theorem kept_execBeatLost {s0 : State} (s : State) (h : Kept s0 s) : KeptO s0 (execBeatLost s) := by
  unfold execBeatLost
  repeat' with_reducible (first | assumption | apply kept_logFault | apply kept_enterFault | apply KeptO.next | refine KeptO.ite ?_ ?_)
theorem kept_execBeat {s0 : State} (p : BeatMsg) (s : State) (h : Kept s0 s) : KeptO s0 (execBeat p s) := by
  unfold execBeat
  repeat' with_reducible (first | assumption | apply kept_logFault | apply kept_enterFault | apply kept_passBeat | apply kept_takeBeat
                                | apply KeptO.next | refine KeptO.ite ?_ ?_)
theorem kept_execArm {s0 : State} (src : Fin 512) (p : ArmMsg) (s : State) (h : Kept s0 s) : KeptO s0 (execArm src p s) := by
  unfold execArm
  repeat' with_reducible (first | assumption | exact Kept.upd (by assumption) rfl | (extract_lets +onlyGivenNames x; refine Kept.cut (s := s0) x ?_ ?_; rotate_left; intro hx; clear_value x; rotate_right; unfold x; clear x) | extract_lets +onlyGivenNames x | apply kept_sendArm | apply kept_armStep | apply kept_addArm | apply KeptO.next | exact KeptO.fault | refine KeptO.ite ?_ ?_ | refine Kept.ite ?_ ?_ | split)
theorem kept_execArmForwardTimeout {s0 : State} (s : State) (h : Kept s0 s) : KeptO s0 (execArmForwardTimeout s) := by
  unfold execArmForwardTimeout
  repeat' with_reducible (first | exact Kept.upd (by assumption) rfl | apply kept_sendArm | apply KeptO.next | split)

/-! ### Objects -/

theorem kept_writeAny {s0 : State} (s : State) (sl a : Nat) (bs : Bytes) (h : Kept s0 s) : Kept s0 (writeAny s sl a bs) := by
  unfold writeAny
  repeat' with_reducible (first | assumption | apply kept_writeMem | apply kept_setMarks | apply kept_writeT3 | refine Kept.ite ?_ ?_)
theorem kept_writeTile {s0 : State} (s : State) (o : Obj) (t : Nat) (hdr payload : Bytes) (h : Kept s0 s) : Kept s0 (writeTile s o t hdr payload) := by
  unfold writeTile
  repeat' with_reducible (first | assumption | apply kept_writeAny | split)
theorem kept_closeTileOf {s0 : State} (s : State) (o : Obj) (t : Nat) (h : Kept s0 s) : Kept s0 (closeTileOf s o t) := by
  unfold closeTileOf
  repeat' with_reducible (first | assumption | exact Kept.upd (by assumption) rfl | (extract_lets +onlyGivenNames x; refine Kept.cut (s := s0) x ?_ ?_; rotate_left; intro hx; clear_value x; rotate_right; unfold x; clear x) | extract_lets +onlyGivenNames x | apply kept_writeMem | apply kept_writeT3 | refine Kept.ite ?_ ?_ | split)
theorem kept_writeNode {s0 : State} (s : State) (ws : List (Nat × Bytes)) (h : Kept s0 s) : Kept s0 (writeNode s ws) := by
  unfold writeNode
  repeat' with_reducible (first | assumption | (extract_lets +onlyGivenNames x; refine Kept.cut (s := s0) x ?_ ?_; rotate_left; intro hx; clear_value x; rotate_right; unfold x; clear x) | extract_lets +onlyGivenNames x | apply kept_writeMem | apply kept_writeT3 | apply kept_closeTileOf | refine Kept.getD ?_ (fun _ _ => ?_) | refine Kept.foldl _ (fun _ _ _ => ?_) ?_ | refine Kept.foldl_fst _ (fun _ _ _ => ?_) ?_ | refine Kept.foldl_snd _ (fun _ _ _ => ?_) ?_ | refine Kept.ite ?_ ?_ | split)
theorem kept_countMoved {s0 : State} (s : State) (sl : Option Nat) (a : Nat) (n : Nat) (wr : Bool) (h : Kept s0 s) : Kept s0 (countMoved s sl a n wr) := by
  unfold countMoved
  repeat' with_reducible (first | assumption | exact Kept.upd (by assumption) rfl | (extract_lets +onlyGivenNames x; refine Kept.cut (s := s0) x ?_ ?_; rotate_left; intro hx; clear_value x; rotate_right; unfold x; clear x) | extract_lets +onlyGivenNames x | apply kept_count | refine Kept.getD ?_ (fun _ _ => ?_) | refine Kept.ite ?_ ?_ | split)
theorem kept_countTile {s0 : State} (s : State) (sl : Option Nat) (o : Obj) (t : Nat) (wr : Bool) (h : Kept s0 s) : Kept s0 (countTile s sl o t wr) := by
  unfold countTile
  repeat' with_reducible (first | assumption | exact Kept.upd (by assumption) rfl | (extract_lets +onlyGivenNames x; refine Kept.cut (s := s0) x ?_ ?_; rotate_left; intro hx; clear_value x; rotate_right; unfold x; clear x) | extract_lets +onlyGivenNames x | apply kept_countMoved | split)
theorem kept_setShardFlags {s0 : State} (s : State) (d : Desc) (shard : Nat) (owned : Bool) (arriving : Bool) (h : Kept s0 s) : Kept s0 (setShardFlags s d shard owned arriving) := by
  unfold setShardFlags
  repeat' with_reducible (first | assumption | apply kept_writeNode)

/-! ### Messages -/

theorem kept_sendEntry {s0 : State} (port slot : Nat) (s : State) (e : Nat) (h : Kept s0 s) : Kept s0 (sendEntry port slot s e) := by
  unfold sendEntry
  repeat' with_reducible (first | exact Kept.upd (by assumption) rfl
                                | (extract_lets +onlyGivenNames x; refine Kept.cut (s := s0) x ?_ ?_; rotate_left; intro hx; clear_value x; rotate_right; unfold x; clear x) | extract_lets +onlyGivenNames x | apply kept_countLink | apply kept_sendOut | apply kept_countSlotFlits | refine Kept.ite ?_ ?_)
theorem kept_execFsend {s0 : State} (port : Fin 8) (o : OpAB) (s : State) (h : Kept s0 s) : KeptO s0 (execFsend port o s) := by
  unfold execFsend
  repeat' with_reducible (first | assumption | exact Kept.upd (by assumption) rfl | (extract_lets +onlyGivenNames x; refine Kept.cut (s := s0) x ?_ ?_; rotate_left; intro hx; clear_value x; rotate_right; unfold x; clear x) | extract_lets +onlyGivenNames x | refine kept_laneChecked _ _ _ _ _ _ _ (fun _ _ => ?_) ?_ | refine kept_withAddr _ _ (fun _ => ?_) | apply kept_sendEntry | refine Kept.foldl _ (fun _ _ _ => ?_) ?_ | refine Kept.foldl_fst _ (fun _ _ _ => ?_) ?_ | refine Kept.foldl_snd _ (fun _ _ _ => ?_) ?_ | apply KeptO.next | refine KeptO.ite ?_ ?_ | refine Kept.ite ?_ ?_ | split)
theorem kept_execData {s0 : State} (p : DataMsg) (s : State) (h : Kept s0 s) : KeptO s0 (execData p s) := by
  unfold execData
  repeat' with_reducible (first | exact Kept.upd (by assumption) rfl
                                | (extract_lets +onlyGivenNames x; refine Kept.cut (s := s0) x ?_ ?_; rotate_left; intro hx; clear_value x; rotate_right; unfold x; clear x) | apply kept_writeMem | apply kept_sendOut | apply KeptO.next | refine KeptO.ite ?_ ?_)
theorem kept_execDelivered {s0 : State} (src : Fin 512) (slot : BitVec 16) (dest : BitVec 19) (s : State) (h : Kept s0 s) : KeptO s0 (execDelivered src slot dest s) := by
  unfold execDelivered
  repeat' with_reducible (first | exact Kept.upd (by assumption) rfl | extract_lets +onlyGivenNames x | apply KeptO.next | split)
theorem kept_execConfirm {s0 : State} (_home : Fin 512) (sn : BitVec 48) (vid : BitVec 64) (s : State) (h : Kept s0 s) : KeptO s0 (execConfirm _home sn vid s) := by
  unfold execConfirm
  repeat' with_reducible (first | exact Kept.upd (by assumption) rfl | apply KeptO.next)
theorem kept_sendBulk {s0 : State} (s : State) (m : BulkMsg) (h : Kept s0 s) : Kept s0 (sendBulk s m) := by
  unfold sendBulk
  repeat' with_reducible (first | assumption | exact Kept.upd (by assumption) rfl | (extract_lets +onlyGivenNames x; refine Kept.cut (s := s0) x ?_ ?_; rotate_left; intro hx; clear_value x; rotate_right; unfold x; clear x) | extract_lets +onlyGivenNames x | refine Kept.getD ?_ (fun _ _ => ?_) | refine Kept.ite ?_ ?_ | split)
theorem kept_bulkTile_fst {s0 : State} (s : State) (object : Nat) (index : Nat) (bytes : Bytes) (h : Kept s0 s) : Kept s0 (bulkTile s object index bytes).2 := by
  unfold bulkTile
  repeat' with_reducible (first | assumption | exact Kept.upd (by assumption) rfl | (extract_lets +onlyGivenNames x; refine Kept.cut (s := s0) x ?_ ?_; rotate_left; intro hx; clear_value x; rotate_right; unfold x; clear x) | extract_lets +onlyGivenNames x | apply kept_writeTile | apply kept_countTile | refine Kept.ite ?_ ?_ | split)
theorem kept_bulkTile {s0 : State} {s : State} {object : Nat} {index : Nat} {bytes : Bytes} {out : State} {v : Nat} (e : bulkTile s object index bytes = (v, out)) (h : Kept s0 s) : Kept s0 out := by
  have k := kept_bulkTile_fst s object index bytes h
  rw [e] at k; exact k
theorem kept_loadTile {s0 : State} (s : State) (object : Nat) (index : Nat) (bytes : Bytes) (h : Kept s0 s) : Kept s0 (loadTile s object index bytes) := by
  unfold loadTile
  repeat' with_reducible (first | assumption | exact Kept.upd (by assumption) rfl | (extract_lets +onlyGivenNames x; refine Kept.cut (s := s0) x ?_ ?_; rotate_left; intro hx; clear_value x; rotate_right; unfold x; clear x) | extract_lets +onlyGivenNames x | apply kept_writeTile | apply kept_countTile | refine Kept.ite ?_ ?_ | split)
theorem kept_bridgeAck {s0 : State} (s : State) (object index status : Nat) (h : Kept s0 s) : Kept s0 (bridgeAck s object index status) := by
  unfold bridgeAck
  repeat' with_reducible (first | exact Kept.upd (by assumption) rfl | extract_lets +onlyGivenNames x | apply kept_finish | split)
theorem kept_placeBlock {s0 : State} (s : State) (d : Desc) (shard : Nat) (o : Obj) (h : Kept s0 s) : Kept s0 (placeBlock s d shard o) := by
  unfold placeBlock
  repeat' with_reducible (first | assumption | exact Kept.upd (by assumption) rfl | (extract_lets +onlyGivenNames x; refine Kept.cut (s := s0) x ?_ ?_; rotate_left; intro hx; clear_value x; rotate_right; unfold x; clear x) | extract_lets +onlyGivenNames x | apply kept_writeAny | apply kept_writeNode | refine Kept.foldl _ (fun _ _ _ => ?_) ?_ | refine Kept.foldl_fst _ (fun _ _ _ => ?_) ?_ | refine Kept.foldl_snd _ (fun _ _ _ => ?_) ?_ | split)
theorem kept_makeBlock {s0 : State} (s : State) (d : Desc) (shard : Nat) (h : Kept s0 s) : Kept s0 (makeBlock s d shard) := by
  unfold makeBlock
  refine Kept.getD h fun t e => ?_
  simp only [Option.map_eq_some_iff] at e
  obtain ⟨o, -, rfl⟩ := e
  exact kept_placeBlock _ _ _ _ h
theorem kept_freeBlock {s0 : State} (s : State) (table : Nat) (shard : Nat) (h : Kept s0 s) : Kept s0 (freeBlock s table shard) := by
  unfold freeBlock
  repeat' with_reducible (first | assumption | exact Kept.upd (by assumption) rfl | (extract_lets +onlyGivenNames x; refine Kept.cut (s := s0) x ?_ ?_; rotate_left; intro hx; clear_value x; rotate_right; unfold x; clear x) | extract_lets +onlyGivenNames x | apply kept_writeNode | refine Kept.ite ?_ ?_ | split)
theorem kept_dropArrival {s0 : State} (s : State) (table : Nat) (shard : Nat) (h : Kept s0 s) : Kept s0 (dropArrival s table shard) := by
  unfold dropArrival
  repeat' with_reducible (first | assumption | exact Kept.upd (by assumption) rfl | (extract_lets +onlyGivenNames x; refine Kept.cut (s := s0) x ?_ ?_; rotate_left; intro hx; clear_value x; rotate_right; unfold x; clear x) | extract_lets +onlyGivenNames x | apply kept_freeBlock | refine Kept.ite ?_ ?_ | split)
theorem kept_bulkRow {s0 : State} (s : State) (src : Nat) (table : Nat) (shard : Nat) (place : Nat) (bytes : Bytes) (h : Kept s0 s) : Kept s0 (bulkRow s src table shard place bytes) := by
  unfold bulkRow
  repeat' with_reducible (first | assumption | exact Kept.upd (by assumption) rfl | (extract_lets +onlyGivenNames x; refine Kept.cut (s := s0) x ?_ ?_; rotate_left; intro hx; clear_value x; rotate_right; unfold x; clear x) | extract_lets +onlyGivenNames x | apply kept_writeNode | apply kept_setShardFlags | apply kept_makeBlock | refine Kept.ite ?_ ?_ | split)
theorem kept_execBulk {s0 : State} (p : BulkMsg) (s : State) (h : Kept s0 s) : KeptO s0 (execBulk p s) := by
  unfold execBulk
  repeat' with_reducible (first | assumption | exact Kept.upd (by assumption) rfl | (extract_lets +onlyGivenNames x; refine Kept.cut (s := s0) x ?_ ?_; rotate_left; intro hx; clear_value x; rotate_right; unfold x; clear x) | extract_lets +onlyGivenNames x | apply kept_sendBulk | exact Kept.upd (kept_bulkTile rfl (by assumption)) rfl | exact Kept.upd (kept_bulkTile (by assumption) (by assumption)) rfl | refine kept_bulkTile (by assumption) ?_ | refine kept_bulkTile rfl ?_ | apply kept_loadTile | apply kept_bridgeAck | apply kept_bulkRow | refine Kept.getD ?_ (fun _ _ => ?_) | apply KeptO.next | exact KeptO.fault | refine KeptO.ite ?_ ?_ | refine Kept.ite ?_ ?_ | split)
theorem kept_execBridgeTileTimeout {s0 : State} (s : State) (h : Kept s0 s) : KeptO s0 (execBridgeTileTimeout s) := by
  unfold execBridgeTileTimeout
  repeat' with_reducible (first | exact Kept.upd (by assumption) rfl | apply kept_finish | apply KeptO.next | split)

end Sys2Proof.Machine
end

