-- ==== Sys2Proof/Laws/KeptRecords.lean ====
section
/-!
SUPPORT. Soundness is kept (`Kept`) by the NBUs, the stacks, the walkers, updates and records.
-/
namespace Sys2Proof.Machine

set_option linter.tactic.unusedName false

/-! ### Nbu -/

theorem kept_columnFinding {s0 : State} (s : State) (c : Chan) (k : Nat) (a : Nat) (h : Kept s0 s) : Kept s0 (columnFinding s c k a) := by
  unfold columnFinding
  repeat' with_reducible (first | assumption | exact Kept.upd (by assumption) rfl | (extract_lets +onlyGivenNames x; refine Kept.cut (s := s0) x ?_ ?_; rotate_left; intro hx; clear_value x; rotate_right; unfold x; clear x) | extract_lets +onlyGivenNames x | apply kept_poisonFinding | split)
theorem kept_ueFindings {s0 : State} (s : State) (c : Chan) (pos : Nat) (k : Nat) (bad : List Nat) (h : Kept s0 s) : Kept s0 (ueFindings s c pos k bad) := by
  unfold ueFindings
  repeat' with_reducible (first | assumption | apply kept_columnFinding | refine Kept.foldl _ (fun _ _ _ => ?_) ?_ | refine Kept.foldl_fst _ (fun _ _ _ => ?_) ?_ | refine Kept.foldl_snd _ (fun _ _ _ => ?_) ?_)
theorem kept_readElem_fst {s0 : State} (s : State) (c : Chan) (pos : Nat) (k : Nat) (ue : List Nat) (t : NTask) (n : Nbu) (i : Nat) (h : Kept s0 s) : Kept s0 (readElem s c pos k ue t n i).1 := by
  unfold readElem
  repeat' with_reducible (first | assumption | exact Kept.upd (by assumption) rfl | (extract_lets +onlyGivenNames x; refine Kept.cut (s := s0) x ?_ ?_; rotate_left; intro hx; clear_value x; rotate_right; unfold x; clear x) | extract_lets +onlyGivenNames x | apply kept_ueFindings | refine Kept.ite ?_ ?_ | split)
theorem kept_readElem {s0 : State} {s : State} {c : Chan} {pos : Nat} {k : Nat} {ue : List Nat} {t : NTask} {n : Nbu} {i : Nat} {out : State} {v : Nbu} (e : readElem s c pos k ue t n i = (out, v)) (h : Kept s0 s) : Kept s0 out := by
  have k := kept_readElem_fst s c pos k ue t n i h
  rw [e] at k; exact k
theorem kept_segWrite {s0 : State} (s : State) (k : Nat) (a : Nat) (bs : Bytes) (marks : List Bool) (h : Kept s0 s) : Kept s0 (segWrite s k a bs marks) := by
  unfold segWrite
  repeat' with_reducible (first | assumption | exact Kept.upd (by assumption) rfl | (refine Kept.updWith (by assumption) ?_ ?_ ?_ ?_ ?_ ?_ ?_ ?_ ?_ ?_ ?_ ?_ ?_ ?_ <;> first | exact id | (with_unfolding_all (intros; first | assumption | rfl | exact Nat.le_of_ble_eq_true rfl | (apply cdrop_wf; assumption)))) | (extract_lets +onlyGivenNames x; refine Kept.cut (s := s0) x ?_ ?_; rotate_left; intro hx; clear_value x; rotate_right; unfold x; clear x) | extract_lets +onlyGivenNames x | apply kept_writeMem | apply kept_setMarks)
theorem kept_closeTile {s0 : State} (s : State) (k : Nat) (x : Option OpenTile) (h : Kept s0 s) : Kept s0 (closeTile s k x) := by
  unfold closeTile
  repeat' with_reducible (first | assumption | apply kept_segWrite | extract_lets +onlyGivenNames x | split)
theorem kept_writeUnit_fst {s0 : State} (s : State) (c : Chan) (pos : Nat) (k : Nat) (ue : List Nat) (t : NTask) (n : Nbu) (u : Nat) (h : Kept s0 s) : Kept s0 (writeUnit s c pos k ue t n u).1 := by
  unfold writeUnit
  repeat' with_reducible (first | assumption | exact Kept.upd (by assumption) rfl | (extract_lets +onlyGivenNames x; refine Kept.cut (s := s0) x ?_ ?_; rotate_left; intro hx; clear_value x; rotate_right; unfold x; clear x) | extract_lets +onlyGivenNames x | apply kept_ueFindings | apply kept_segWrite | refine Kept.ite ?_ ?_ | split)
theorem kept_writeUnit {s0 : State} {s : State} {c : Chan} {pos : Nat} {k : Nat} {ue : List Nat} {t : NTask} {n : Nbu} {u : Nat} {out : State} {v : Nbu × Bool} (e : writeUnit s c pos k ue t n u = (out, v)) (h : Kept s0 s) : Kept s0 out := by
  have k := kept_writeUnit_fst s c pos k ue t n u h
  rw [e] at k; exact k
theorem kept_readRun_fst {s0 : State} (c : Chan) (pos len : Nat) (ue : List Nat) (t : NTask) (k : Nat) (s : State) (n : Nbu) (left : Nat)
    (h : Kept s0 s) : Kept s0 (readRun c pos len ue t k s n left).1 := by
  induction k generalizing s n left with
  | zero => exact h
  | succ k ih =>
    unfold readRun
    dsimp only
    split
    · exact ih _ _ _ (kept_readElem rfl h)
    · exact h
theorem kept_readRun {s0 s r : State} {c : Chan} {pos len : Nat} {ue : List Nat} {t : NTask} {k : Nat} {n m : Nbu} {left l : Nat}
    (e : readRun c pos len ue t k s n left = (r, m, l)) (h : Kept s0 s) : Kept s0 r := by
  have := kept_readRun_fst c pos len ue t k s n left h
  rw [e] at this; exact this
theorem kept_writeRun_fst {s0 : State} (c : Chan) (pos len : Nat) (ue : List Nat) (t : NTask) (k : Nat) (s : State) (n : Nbu) (left : Nat)
    (o : Option OpenTile) (h : Kept s0 s) : Kept s0 (writeRun c pos len ue t k s n left o).1 := by
  induction k generalizing s n left o with
  | zero => exact kept_closeTile _ _ _ h
  | succ k ih =>
    unfold writeRun
    extract_lets tile change need s1 keep p
    have h1 : Kept s0 s1 := by
      simp only [s1]
      split
      · exact kept_closeTile _ _ _ h
      · exact h
    clear_value s1 change need keep p
    generalize (need + if tile.isSome = true then 2 else 0) = q
    by_cases c1 : q ≤ left
    · rw [if_pos c1]
      generalize len - (left - need) = at'
      cases hw : writeUnit s1 c pos at' ue t n n.units with
      | mk a b => exact ih _ _ _ _ (kept_writeUnit (v := b) hw h1)
    · rw [if_neg c1]; exact kept_closeTile _ _ _ h
theorem kept_writeRun {s0 s r : State} {c : Chan} {pos len : Nat} {ue : List Nat} {t : NTask} {k : Nat} {n m : Nbu} {left l : Nat}
    {o : Option OpenTile} (e : writeRun c pos len ue t k s n left o = (r, m, l)) (h : Kept s0 s) : Kept s0 r := by
  have := kept_writeRun_fst c pos len ue t k s n left o h
  rw [e] at this; exact this
theorem kept_runNbu_fst {s0 : State} (c : Chan) (pos len : Nat) (ue : List Nat) (k : Nat) (s : State) (n : Nbu) (left : Nat)
    (h : Kept s0 s) : Kept s0 (runNbu c pos len ue k s n left).1 := by
  induction k generalizing s n left with
  | zero => exact h
  | succ k ih =>
    unfold runNbu
    split
    · exact h
    · dsimp only
      split
      · exact h
      · split
        · split
          · exact ih _ _ _ h
          · exact h
        · rename_i tk _ _ _ _
          generalize (if tReads tk.bytes = true then tCount tk.bytes else writeUnits tk.bytes) = total
          have hr : Kept s0 (if n.units = total then (s, n, left)
              else if tReads tk.bytes = true then readRun c pos len ue tk (total - n.units) s n left
              else writeRun c pos len ue tk (total - n.units) s n left none).1 := by
            by_cases c1 : n.units = total
            · rw [if_pos c1]; exact h
            · rw [if_neg c1]
              by_cases c2 : tReads tk.bytes = true
              · rw [if_pos c2]; exact kept_readRun_fst _ _ _ _ _ _ _ _ _ h
              · rw [if_neg c2]; exact kept_writeRun_fst _ _ _ _ _ _ _ _ _ _ h
          revert hr
          generalize (if n.units = total then (s, n, left)
              else if tReads tk.bytes = true then readRun c pos len ue tk (total - n.units) s n left
              else writeRun c pos len ue tk (total - n.units) s n left none) = y
          intro hr
          obtain ⟨y1, y2, y3⟩ := y
          dsimp only at hr ⊢
          split
          · exact hr
          · split
            · exact ih _ _ _ hr
            · exact hr
theorem kept_runNbu {s0 s r : State} {c : Chan} {pos len : Nat} {ue : List Nat} {k : Nat} {n m : Nbu} {left : Nat}
    (e : runNbu c pos len ue k s n left = (r, m)) (h : Kept s0 s) : Kept s0 r := by
  have := kept_runNbu_fst c pos len ue k s n left h
  rw [e] at this; exact this
theorem kept_emitDone {s0 : State} (s : State) (d : NDone) (h : Kept s0 s) : Kept s0 (emitDone s d) := by
  unfold emitDone
  repeat' with_reducible (first | assumption | exact Kept.upd (by assumption) rfl | (refine Kept.updWith (by assumption) ?_ ?_ ?_ ?_ ?_ ?_ ?_ ?_ ?_ ?_ ?_ ?_ ?_ ?_ <;> first | exact id | (with_unfolding_all (intros; first | assumption | rfl | exact Nat.le_of_ble_eq_true rfl | (apply cdrop_wf; assumption)))) | (extract_lets +onlyGivenNames x; refine Kept.cut (s := s0) x ?_ ?_; rotate_left; intro hx; clear_value x; rotate_right; unfold x; clear x) | extract_lets +onlyGivenNames x | refine Kept.getD ?_ (fun _ _ => ?_) | refine Kept.ite ?_ ?_ | split)
theorem kept_execNbuTaskEnd {s0 : State} (c : Chan) (pos : Fin 24) (s : State) (h : Kept s0 s) : KeptO s0 (execNbuTaskEnd c pos s) := by
  unfold execNbuTaskEnd
  repeat' with_reducible (first | assumption | extract_lets +onlyGivenNames x | apply kept_setNbu | apply kept_emitDone
                                | apply KeptO.next | exact KeptO.fault | split)

/-! ### Stack -/

theorem kept_srdData {s0 s t : State} {a n ue : Nat} {b : Bytes} (e : srdData s a n ue = (b, t)) (h : Kept s0 s) : Kept s0 t := by
  have k : Kept s0 (srdData s a n ue).2 := by
    unfold srdData
    refine Kept.foldl_snd _ (fun x i hx => ?_) h
    dsimp only
    split
    · exact kept_draw (x := (draw x.2).1) rfl hx
    · exact hx
  rw [e] at k; exact k
theorem kept_execSrd {s0 : State} (c : Chan) (o : OpAB) (ecc : Ecc) (s : State) (h : Kept s0 s) : KeptO s0 (execSrd c o ecc s) := by
  unfold execSrd
  repeat' with_reducible (first | assumption | exact Kept.upd (by assumption) rfl | (extract_lets +onlyGivenNames x; refine Kept.cut (s := s0) x ?_ ?_; rotate_left; intro hx; clear_value x; rotate_right; unfold x; clear x) | extract_lets +onlyGivenNames x | apply kept_later | apply kept_count | apply kept_countTier | refine kept_laneChecked _ _ _ _ _ _ _ (fun _ _ => ?_) ?_ | refine kept_withAddr _ _ (fun _ => ?_) | exact Kept.upd (kept_srdData rfl (by assumption)) rfl | exact Kept.upd (kept_srdData (by assumption) (by assumption)) rfl | refine kept_srdData (by assumption) ?_ | refine kept_srdData rfl ?_ | apply KeptO.next | split)
theorem kept_execSwr {s0 : State} (c : Chan) (o : OpAB) (s : State) (h : Kept s0 s) : KeptO s0 (execSwr c o s) := by
  unfold execSwr
  repeat' with_reducible (first | assumption | exact Kept.upd (by assumption) rfl | (extract_lets +onlyGivenNames x; refine Kept.cut (s := s0) x ?_ ?_; rotate_left; intro hx; clear_value x; rotate_right; unfold x; clear x) | extract_lets +onlyGivenNames x | apply kept_later | apply kept_count | apply kept_countTier | refine kept_laneChecked _ _ _ _ _ _ _ (fun _ _ => ?_) ?_ | refine kept_withAddr _ _ (fun _ => ?_) | apply KeptO.next)
theorem kept_segNbu {s0 : State} (c : Chan) (steps : Nat) (ue : List Nat) (s : State) (pos : Nat) (h : Kept s0 s) : Kept s0 (segNbu c steps ue s pos) := by
  unfold segNbu
  repeat' with_reducible (first | assumption | split | extract_lets +onlyGivenNames x | refine kept_runNbu (by assumption) ?_
                                | apply kept_setNbu)
theorem kept_segment {s0 : State} (c : Chan) (steps mask : Nat) (ue : List Nat) (s : State) (h : Kept s0 s) : Kept s0 (segment c steps mask ue s) := by
  unfold segment
  have k : Kept s0 (((List.range 24).filter (bit mask)).foldl (segNbu c steps ue) s) := Kept.foldl _ (fun _ _ hx => kept_segNbu _ _ _ _ _ hx) h
  generalize ((List.range 24).filter (bit mask)).foldl (segNbu c steps ue) s = t at k
  refine ⟨k.pending, k.node, k.power, k.boxes, fun c0 => ?_⟩
  have a := h.canon c0
  have b := k.canon c0
  simp only [State.canonical, Memory.wf, Bool.and_eq_true] at a b ⊢
  exact ⟨⟨⟨⟨⟨⟨a.1.1.1.1.1.1, b.1.1.1.1.1.2⟩, b.1.1.1.1.2⟩, a.1.1.1.2⟩, b.1.1.2⟩, b.1.2⟩, b.2⟩
theorem kept_execNseg {s0 : State} (c : Chan) (o : OpAB) (steps : Nat) (ue : List (BitVec 27)) (corrected : Nat) (s : State) (h : Kept s0 s) : KeptO s0 (execNseg c o steps ue corrected s) := by
  unfold execNseg
  repeat' with_reducible (first | assumption | exact Kept.upd (by assumption) rfl | (refine Kept.updWith (by assumption) ?_ ?_ ?_ ?_ ?_ ?_ ?_ ?_ ?_ ?_ ?_ ?_ ?_ ?_ <;> first | exact id | (with_unfolding_all (intros; first | assumption | rfl | exact Nat.le_of_ble_eq_true rfl | (apply cdrop_wf; assumption)))) | (extract_lets +onlyGivenNames x; refine Kept.cut (s := s0) x ?_ ?_; rotate_left; intro hx; clear_value x; rotate_right; unfold x; clear x) | extract_lets +onlyGivenNames x | apply kept_count | apply kept_countTier | refine kept_laneChecked _ _ _ _ _ _ _ (fun _ _ => ?_) ?_ | apply kept_segment | apply KeptO.next | split)

/-! ### Walker -/

theorem kept_execTwalk {s0 : State} (quad : Fin 4) (o : OpAB) (steps : Nat) (s : State) (h : Kept s0 s) : KeptO s0 (execTwalk quad o steps s) := by
  unfold execTwalk
  repeat' with_reducible (first | assumption | exact Kept.upd (by assumption) rfl | (extract_lets +onlyGivenNames x; refine Kept.cut (s := s0) x ?_ ?_; rotate_left; intro hx; clear_value x; rotate_right; unfold x; clear x) | extract_lets +onlyGivenNames x | apply kept_later | apply kept_countArith | refine kept_laneChecked _ _ _ _ _ _ _ (fun _ _ => ?_) ?_ | refine kept_withAddr _ _ (fun _ => ?_) | apply KeptO.next | exact KeptO.fault | refine KeptO.ite ?_ ?_ | refine Kept.ite ?_ ?_ | split)
theorem kept_execTsketch {s0 : State} (quad : Fin 4) (o : OpAB) (steps : Nat) (s : State) (h : Kept s0 s) : KeptO s0 (execTsketch quad o steps s) := by
  unfold execTsketch
  repeat' with_reducible (first | assumption | exact Kept.upd (by assumption) rfl | (extract_lets +onlyGivenNames x; refine Kept.cut (s := s0) x ?_ ?_; rotate_left; intro hx; clear_value x; rotate_right; unfold x; clear x) | extract_lets +onlyGivenNames x | apply kept_later | apply kept_countArith | refine kept_laneChecked _ _ _ _ _ _ _ (fun _ _ => ?_) ?_ | refine kept_withAddr _ _ (fun _ => ?_) | apply KeptO.next | refine KeptO.ite ?_ ?_ | refine Kept.ite ?_ ?_ | split)
theorem kept_writeTask {s0 : State} (s : State) (pl : PlanLane) (left : Nat) (c : Chan) (pos : Nat) (b : Bytes) (cap : Nat) (h : Kept s0 s) : Kept s0 (writeTask s pl left c pos b cap) := by
  unfold writeTask
  repeat' with_reducible (first | assumption | apply kept_later)
theorem kept_planLeaf {s0 s out : State} {x : PlanCtx} {pl : PlanLane} {node leaf num left : Nat} {p : PlanLeaf} {a : Nat} {b : Bool}
    (e : planLeaf s x pl node leaf num left = some (out, p, a, b)) (h : Kept s0 s) : Kept s0 out := by
  unfold planLeaf at e
  split at e
  · cases e
  · dsimp only at e
    split at e
    · cases e; exact kept_writeTask _ _ _ _ _ _ _ h
    · split at e
      · cases e; exact kept_writeTask _ _ _ _ _ _ _ h
      · cases e; exact kept_writeTask _ _ _ _ _ _ _ (kept_writeTask _ _ _ _ _ _ _ h)
theorem kept_planLeaves_fst {s0 : State} (x : PlanCtx) (pl : PlanLane) (l : List (Nat × Nat)) (s : State) (num left : Nat) (h : Kept s0 s) :
    Kept s0 (planLeaves x pl l s num left).1 := by
  induction l generalizing s num left with
  | nil => exact h
  | cons a l ih =>
    unfold planLeaves
    split
    · exact h
    · dsimp only
      have k := kept_planLeaf (by assumption) h
      split
      · exact k
      · exact ih _ _ _ k
theorem kept_planLeaves {s0 s out : State} {x : PlanCtx} {pl : PlanLane} {l : List (Nat × Nat)} {num left : Nat} {v : List PlanLeaf × Nat × Nat × Bool}
    (e : planLeaves x pl l s num left = (out, v)) (h : Kept s0 s) : Kept s0 out := by
  have := kept_planLeaves_fst x pl l s num left h
  rw [e] at this; exact this
theorem kept_planShare {s0 s out : State} {x : PlanCtx} {pl : PlanLane} {planned reserve : List Nat} {cost num left : Nat} {v : PlanShare × Nat × Nat × Bool}
    (e : planShare s x pl planned reserve cost num left = (out, v)) (h : Kept s0 s) : Kept s0 out := by
  unfold planShare at e
  split at e
  · cases e; exact h
  · cases e; exact kept_planLeaves_fst _ _ _ _ _ _ h
theorem kept_planShares {s0 : State} {x : PlanCtx} {pl : PlanLane} {l : List (Option (List Nat × List Nat × Nat))} {s out : State} {num left : Nat}
    {v : List PlanShare × Nat × Bool} (e : planShares x pl l s num left = some (out, v)) (h : Kept s0 s) : Kept s0 out := by
  induction l generalizing s num left v with
  | nil => unfold planShares at e; cases e; exact h
  | cons p r ih =>
    rcases p with _ | ⟨a, b, cost⟩
    · unfold planShares at e; cases e
    · unfold planShares at e
      cases k : planShare s x pl a b cost num left with
      | mk s1 v1 =>
        obtain ⟨sh, n1, l1, all⟩ := v1
        have k1 := kept_planShare k h
        simp only [k] at e
        split at e
        · cases e; exact k1
        · simp only [Option.map_eq_some_iff] at e
          obtain ⟨⟨t1, t2, t3, t4⟩, e1, e2⟩ := e
          cases e2
          exact ih e1 k1
theorem kept_markAbandoned {s0 : State} (s : State) (a steps : Nat) (all : Bool) (h : Kept s0 s) : Kept s0 (markAbandoned s a steps all) := by
  unfold markAbandoned
  repeat' with_reducible (first | assumption | apply kept_later | refine Kept.ite ?_ ?_)
theorem kept_execTplan {s0 : State} (quad : Fin 4) (o : OpAB) (steps : Nat) (s : State) (h : Kept s0 s) : KeptO s0 (execTplan quad o steps s) := by
  unfold execTplan
  repeat' with_reducible (first | assumption | exact Kept.upd (by assumption) rfl | (refine Kept.updWith (by assumption) ?_ ?_ ?_ ?_ ?_ ?_ ?_ ?_ ?_ ?_ ?_ ?_ ?_ ?_ <;> first | exact id | (with_unfolding_all (intros; first | assumption | rfl | exact Nat.le_of_ble_eq_true rfl | (apply cdrop_wf; assumption)))) | (extract_lets +onlyGivenNames x; refine Kept.cut (s := s0) x ?_ ?_; rotate_left; intro hx; clear_value x; rotate_right; unfold x; clear x) | extract_lets +onlyGivenNames x | refine kept_laneChecked _ _ _ _ _ _ _ (fun _ _ => ?_) ?_ | refine kept_withAddr _ _ (fun _ => ?_) | exact Kept.upd (kept_planShares (by assumption) (by assumption)) rfl | exact Kept.upd (kept_planShares rfl (by assumption)) rfl | refine kept_planShares (by assumption) ?_ | refine kept_planShares rfl ?_ | apply kept_markAbandoned | apply KeptO.next | exact KeptO.fault | refine KeptO.ite ?_ ?_ | refine Kept.ite ?_ ?_ | split)
theorem kept_widenShares_fst {s0 : State} (x : PlanCtx) (pl : PlanLane) (l : List PlanShare) (s : State) (num left : Nat) (h : Kept s0 s) :
    Kept s0 (widenShares x pl l s num left).1 := by
  induction l generalizing s num left with
  | nil => exact h
  | cons sh r ih =>
    unfold widenShares
    extract_lets t ls
    split
    · exact ih _ _ _ h
    · split
      have k := kept_planLeaves (by assumption) h
      dsimp only
      split
      · exact ih _ _ _ k
      · exact k
theorem kept_widenShares {s0 s out : State} {x : PlanCtx} {pl : PlanLane} {l : List PlanShare} {num left : Nat} {v : List PlanShare × Nat × Bool}
    (e : widenShares x pl l s num left = (out, v)) (h : Kept s0 s) : Kept s0 out := by
  have := kept_widenShares_fst x pl l s num left h
  rw [e] at this; exact this
theorem kept_execTplanWiden {s0 : State} (quad : Fin 4) (o : OpAB) (steps : Nat) (s : State) (h : Kept s0 s) : KeptO s0 (execTplanWiden quad o steps s) := by
  unfold execTplanWiden
  repeat' with_reducible (first | assumption | exact Kept.upd (by assumption) rfl | (refine Kept.updWith (by assumption) ?_ ?_ ?_ ?_ ?_ ?_ ?_ ?_ ?_ ?_ ?_ ?_ ?_ ?_ <;> first | exact id | (with_unfolding_all (intros; first | assumption | rfl | exact Nat.le_of_ble_eq_true rfl | (apply cdrop_wf; assumption)))) | (extract_lets +onlyGivenNames x; refine Kept.cut (s := s0) x ?_ ?_; rotate_left; intro hx; clear_value x; rotate_right; unfold x; clear x) | extract_lets +onlyGivenNames x | refine kept_laneChecked _ _ _ _ _ _ _ (fun _ _ => ?_) ?_ | apply kept_markAbandoned | exact Kept.upd (kept_widenShares (by assumption) (by assumption)) rfl | exact Kept.upd (kept_widenShares rfl (by assumption)) rfl | refine kept_widenShares (by assumption) ?_ | refine kept_widenShares rfl ?_ | apply KeptO.next | refine KeptO.ite ?_ ?_ | refine Kept.ite ?_ ?_ | split)

/-! ### Search -/

theorem kept_setRec {s0 : State} (s : State) (r : InRec) (h : Kept s0 s) : Kept s0 (setRec s r) := by
  unfold setRec
  exact Kept.upd (by assumption) rfl
theorem kept_sendRemote {s0 : State} (s : State) (dst : Nat) (m : Remote) (h : Kept s0 s) : Kept s0 (sendRemote s dst m) := by
  unfold sendRemote
  repeat' with_reducible (first | exact Kept.upd (by assumption) rfl | refine Kept.ite ?_ ?_)
theorem kept_dropScans {s0 : State} (s : State) (at' : Nat) (p : Plan) (h : Kept s0 s) : Kept s0 (dropScans s at' p) := by
  unfold dropScans
  repeat' with_reducible (first | assumption | exact Kept.upd (by assumption) rfl | (refine Kept.updWith (by assumption) ?_ ?_ ?_ ?_ ?_ ?_ ?_ ?_ ?_ ?_ ?_ ?_ ?_ ?_ <;> first | exact id | (with_unfolding_all (intros; first | assumption | rfl | exact Nat.le_of_ble_eq_true rfl | (apply cdrop_wf; assumption)))) | (extract_lets +onlyGivenNames x; refine Kept.cut (s := s0) x ?_ ?_; rotate_left; intro hx; clear_value x; rotate_right; unfold x; clear x) | extract_lets +onlyGivenNames x)
theorem kept_setShare {s0 : State} (s : State) (home : Nat) (req : Nat) (f : Share → Share) (h : Kept s0 s) : Kept s0 (setShare s home req f) := by
  unfold setShare
  repeat' with_reducible (first | assumption | exact Kept.upd (by assumption) rfl | (extract_lets +onlyGivenNames x; refine Kept.cut (s := s0) x ?_ ?_; rotate_left; intro hx; clear_value x; rotate_right; unfold x; clear x) | extract_lets +onlyGivenNames x | refine Kept.ite ?_ ?_ | split)
theorem kept_setQuery {s0 : State} (s : State) (r : InRec) (f : QueryWork → QueryWork) (h : Kept s0 s) : Kept s0 (setQuery s r f) := by
  unfold setQuery
  repeat' with_reducible (first | assumption | exact Kept.upd (by assumption) rfl | (extract_lets +onlyGivenNames x; refine Kept.cut (s := s0) x ?_ ?_; rotate_left; intro hx; clear_value x; rotate_right; unfold x; clear x) | extract_lets +onlyGivenNames x | refine Kept.ite ?_ ?_ | split)
theorem kept_toMember {s0 : State} (s : State) (p : Nat) (m : Remote) (h : Kept s0 s) : Kept s0 (toMember s p m) := by
  unfold toMember
  repeat' with_reducible (first | assumption | exact Kept.upd (by assumption) rfl | (extract_lets +onlyGivenNames x; refine Kept.cut (s := s0) x ?_ ?_; rotate_left; intro hx; clear_value x; rotate_right; unfold x; clear x) | extract_lets +onlyGivenNames x)
theorem kept_toMembers {s0 : State} (s : State) (m : Remote) (h : Kept s0 s) : Kept s0 (toMembers s m) := by
  unfold toMembers
  repeat' with_reducible (first | assumption | apply kept_toMember | refine Kept.foldl _ (fun _ _ _ => ?_) ?_ | refine Kept.foldl_fst _ (fun _ _ _ => ?_) ?_ | refine Kept.foldl_snd _ (fun _ _ _ => ?_) ?_)
theorem kept_toPrimary {s0 : State} (s : State) (m : Remote) (h : Kept s0 s) : Kept s0 (toPrimary s m) := by
  unfold toPrimary
  repeat' with_reducible (first | assumption | apply kept_toMember)
theorem kept_takeQuery {s0 : State} {s : State} {m : Remote} {t : State} (e : takeQuery s m = some t) (h : Kept s0 s) : Kept s0 t := by
  unfold takeQuery at e
  repeat' (split at e)
  all_goals (cases e)
  all_goals
    repeat' with_reducible (first | assumption | exact Kept.upd (by assumption) rfl | (refine Kept.updWith (by assumption) ?_ ?_ ?_ ?_ ?_ ?_ ?_ ?_ ?_ ?_ ?_ ?_ ?_ ?_ <;> first | exact id | (with_unfolding_all (intros; first | assumption | rfl | exact Nat.le_of_ble_eq_true rfl | (apply cdrop_wf; assumption)))) | (extract_lets +onlyGivenNames x; refine Kept.cut (s := s0) x ?_ ?_; rotate_left; intro hx; clear_value x; rotate_right; unfold x; clear x) | extract_lets +onlyGivenNames x | apply kept_setShare | apply kept_setQuery | apply kept_toMember | apply kept_toMembers | refine Kept.ite ?_ ?_ | split)
theorem kept_tell {s0 : State} (s : State) (dst : Nat) (m : Remote) (h : Kept s0 s) : Kept s0 (tell s dst m) := by
  unfold tell
  repeat' with_reducible (first | assumption | exact Kept.upd (by assumption) rfl | (extract_lets +onlyGivenNames x; refine Kept.cut (s := s0) x ?_ ?_; rotate_left; intro hx; clear_value x; rotate_right; unfold x; clear x) | extract_lets +onlyGivenNames x | apply kept_sendRemote | apply kept_toPrimary | refine kept_takeQuery (by assumption) ?_ | refine Kept.getD ?_ (fun _ _ => ?_) | refine Kept.ite ?_ ?_ | split)
theorem kept_strokeWalk {s0 : State} (s : State) (r : InRec) (block : Nat) (values : Nat) (h : Kept s0 s) : Kept s0 (strokeWalk s r block values) := by
  unfold strokeWalk
  repeat' with_reducible (first | assumption | exact Kept.upd (by assumption) rfl | (extract_lets +onlyGivenNames x; refine Kept.cut (s := s0) x ?_ ?_; rotate_left; intro hx; clear_value x; rotate_right; unfold x; clear x) | extract_lets +onlyGivenNames x | apply kept_setQuery | apply kept_tell | refine Kept.foldl _ (fun _ _ _ => ?_) ?_ | refine Kept.foldl_fst _ (fun _ _ _ => ?_) ?_ | refine Kept.foldl_snd _ (fun _ _ _ => ?_) ?_ | split)
theorem kept_strokePool {s0 : State} (s : State) (q : Share) (step : Nat) (h : Kept s0 s) : Kept s0 (strokePool s q step) := by
  unfold strokePool
  repeat' with_reducible (first | assumption | exact Kept.upd (by assumption) rfl | (refine Kept.updWith (by assumption) ?_ ?_ ?_ ?_ ?_ ?_ ?_ ?_ ?_ ?_ ?_ ?_ ?_ ?_ <;> first | exact id | (with_unfolding_all (intros; first | assumption | rfl | exact Nat.le_of_ble_eq_true rfl | (apply cdrop_wf; assumption)))) | (extract_lets +onlyGivenNames x; refine Kept.cut (s := s0) x ?_ ?_; rotate_left; intro hx; clear_value x; rotate_right; unfold x; clear x) | extract_lets +onlyGivenNames x | apply kept_dropScans | apply kept_setShare | apply kept_toPrimary | refine Kept.getD ?_ (fun _ _ => ?_) | refine Kept.foldl _ (fun _ _ _ => ?_) ?_ | refine Kept.foldl_fst _ (fun _ _ _ => ?_) ?_ | refine Kept.foldl_snd _ (fun _ _ _ => ?_) ?_ | refine Kept.ite ?_ ?_ | split)
theorem kept_tellList {s0 : State} (s : State) (q : Share) (l : HolderList) (h : Kept s0 s) : Kept s0 (tellList s q l) := by
  unfold tellList
  repeat' with_reducible (first | assumption | apply kept_tell)
theorem kept_deepenStep {s0 : State} (s : State) (home : Nat) (req : Nat) (h : Kept s0 s) : Kept s0 (deepenStep s home req) := by
  unfold deepenStep
  repeat' with_reducible (first | assumption | exact Kept.upd (by assumption) rfl | (extract_lets +onlyGivenNames x; refine Kept.cut (s := s0) x ?_ ?_; rotate_left; intro hx; clear_value x; rotate_right; unfold x; clear x) | extract_lets +onlyGivenNames x | apply kept_setShare | apply kept_tellList | refine Kept.ite ?_ ?_ | split)
theorem kept_strokeScore {s0 : State} (s : State) (q : Share) (h : Kept s0 s) : Kept s0 (strokeScore s q) := by
  unfold strokeScore
  repeat' with_reducible (first | assumption | exact Kept.upd (by assumption) rfl | (extract_lets +onlyGivenNames x; refine Kept.cut (s := s0) x ?_ ?_; rotate_left; intro hx; clear_value x; rotate_right; unfold x; clear x) | extract_lets +onlyGivenNames x | apply kept_setShare | apply kept_toPrimary | apply kept_tellList | apply kept_deepenStep | refine kept_take _ _ _ _ _ (fun _ _ _ => ?_) ?_ | refine Kept.ite ?_ ?_ | split)
theorem kept_takeMember {s0 : State} {s : State} {m : Remote} {t : State} (e : takeMember s m = some t) (h : Kept s0 s) : Kept s0 t := by
  unfold takeMember at e
  repeat' (split at e)
  all_goals (cases e)
  all_goals
    repeat' with_reducible (first | assumption | exact Kept.upd (by assumption) rfl | (extract_lets +onlyGivenNames x; refine Kept.cut (s := s0) x ?_ ?_; rotate_left; intro hx; clear_value x; rotate_right; unfold x; clear x) | extract_lets +onlyGivenNames x | apply kept_setShare | apply kept_deepenStep | split)
theorem kept_strokeMerge {s0 : State} (s : State) (r : InRec) (h : Kept s0 s) : Kept s0 (strokeMerge s r) := by
  unfold strokeMerge
  repeat' with_reducible (first | assumption | exact Kept.upd (by assumption) rfl | (extract_lets +onlyGivenNames x; refine Kept.cut (s := s0) x ?_ ?_; rotate_left; intro hx; clear_value x; rotate_right; unfold x; clear x) | extract_lets +onlyGivenNames x | apply kept_setQuery | apply kept_tell | refine Kept.getD ?_ (fun _ _ => ?_) | refine Kept.foldl _ (fun _ _ _ => ?_) ?_ | refine Kept.foldl_fst _ (fun _ _ _ => ?_) ?_ | refine Kept.foldl_snd _ (fun _ _ _ => ?_) ?_ | refine Kept.ite ?_ ?_ | split)
theorem kept_strokeWindow {s0 : State} (s : State) (q : Share) (h : Kept s0 s) : Kept s0 (strokeWindow s q) := by
  unfold strokeWindow
  repeat' with_reducible (first | assumption | exact Kept.upd (by assumption) rfl | (extract_lets +onlyGivenNames x; refine Kept.cut (s := s0) x ?_ ?_; rotate_left; intro hx; clear_value x; rotate_right; unfold x; clear x) | extract_lets +onlyGivenNames x | refine Kept.foldl _ (fun _ _ _ => ?_) ?_ | refine Kept.foldl_fst _ (fun _ _ _ => ?_) ?_ | refine Kept.foldl_snd _ (fun _ _ _ => ?_) ?_ | split)
theorem kept_strokeExact {s0 : State} (s : State) (q : Share) (h : Kept s0 s) : Kept s0 (strokeExact s q) := by
  unfold strokeExact
  repeat' with_reducible (first | assumption | (extract_lets +onlyGivenNames x; refine Kept.cut (s := s0) x ?_ ?_; rotate_left; intro hx; clear_value x; rotate_right; unfold x; clear x) | extract_lets +onlyGivenNames x | apply kept_toPrimary | apply kept_tell | refine Kept.ite ?_ ?_ | split)
theorem kept_strokeFinal {s0 : State} (s : State) (r : InRec) (h : Kept s0 s) : Kept s0 (strokeFinal s r) := by
  unfold strokeFinal
  repeat' with_reducible (first | assumption | exact Kept.upd (by assumption) rfl | (extract_lets +onlyGivenNames x; refine Kept.cut (s := s0) x ?_ ?_; rotate_left; intro hx; clear_value x; rotate_right; unfold x; clear x) | extract_lets +onlyGivenNames x | apply kept_setQuery | split)
theorem kept_takeStroke {s0 : State} (s : State) (x : Stroke) (h : Kept s0 s) : Kept s0 (takeStroke s x) := by
  unfold takeStroke
  repeat' with_reducible (first | assumption | exact Kept.upd (by assumption) rfl | (extract_lets +onlyGivenNames x; refine Kept.cut (s := s0) x ?_ ?_; rotate_left; intro hx; clear_value x; rotate_right; unfold x; clear x) | extract_lets +onlyGivenNames x | apply kept_setShare | apply kept_strokeWalk | apply kept_strokePool | apply kept_strokeScore | apply kept_strokeMerge | apply kept_strokeWindow | apply kept_strokeExact | apply kept_strokeFinal | split)
theorem kept_endRead {s0 : State} (s : State) (r : FRead) (late : Bool) (h : Kept s0 s) : Kept s0 (endRead s r late) := by
  unfold endRead
  repeat' with_reducible (first | assumption | exact Kept.upd (by assumption) rfl | (extract_lets +onlyGivenNames x; refine Kept.cut (s := s0) x ?_ ?_; rotate_left; intro hx; clear_value x; rotate_right; unfold x; clear x) | extract_lets +onlyGivenNames x | refine Kept.ite ?_ ?_ | split)

/-! ### Updates -/

theorem kept_writeEntry {s0 : State} (s : State) (a : Nat) (vid : Nat) (leaf : Nat) (node : Nat) (valid : Bool) (h : Kept s0 s) : Kept s0 (writeEntry s a vid leaf node valid) := by
  unfold writeEntry
  repeat' with_reducible (first | assumption | apply kept_writeNode)
theorem kept_eraseElem {s0 : State} (s : State) (b : Block) (i : Nat) (sn : Nat) (h : Kept s0 s) : Kept s0 (eraseElem s b i sn) := by
  unfold eraseElem
  repeat' with_reducible (first | assumption | apply kept_writeNode)
theorem kept_unerase {s0 : State} (s : State) (b : Block) (i : Nat) (h : Kept s0 s) : Kept s0 (unerase s b i) := by
  unfold unerase
  repeat' with_reducible (first | assumption | apply kept_writeNode)
theorem kept_noteDelta {s0 : State} (s : State) (a : Nat) (h : Kept s0 s) : Kept s0 (noteDelta s a) := by
  unfold noteDelta
  repeat' with_reducible (first | exact Kept.upd (by assumption) rfl | split)
theorem kept_noteWrote {s0 : State} (s : State) (w : Wrote) (h : Kept s0 s) : Kept s0 (noteWrote s w) := by
  unfold noteWrote
  repeat' with_reducible (first | assumption | exact Kept.upd (by assumption) rfl | (extract_lets +onlyGivenNames x; refine Kept.cut (s := s0) x ?_ ?_; rotate_left; intro hx; clear_value x; rotate_right; unfold x; clear x) | extract_lets +onlyGivenNames x | refine Kept.ite ?_ ?_ | split)
theorem kept_applyErase {s0 : State} (s : State) (d : Desc) (sn vid node leaf : Nat) (h : Kept s0 s) : Kept s0 (applyErase s d sn vid node leaf) := by
  unfold applyErase
  split
  · exact h
  · extract_lets c best done
    clear_value c best done
    split
    · exact h
    · split
      · exact kept_noteWrote _ _ (kept_noteDelta _ _ (kept_eraseElem _ _ _ _ h))
      · exact h
theorem kept_applyUndo {s0 : State} (s : State) (d : Desc) (sn vid node leaf : Nat) (h : Kept s0 s) : Kept s0 (applyUndo s d sn vid node leaf) := by
  unfold applyUndo
  repeat' with_reducible (first | assumption | apply kept_eraseElem | apply kept_unerase | refine Kept.foldl _ (fun _ _ _ => ?_) ?_
                                | refine Kept.ite ?_ ?_)
theorem kept_undoWrites {s0 : State} (s : State) (ix : Nat) (sn : Nat) (vid : Nat) (h : Kept s0 s) : Kept s0 (undoWrites s ix sn vid) := by
  unfold undoWrites
  repeat' with_reducible (first | assumption | exact Kept.upd (by assumption) rfl | (extract_lets +onlyGivenNames x; refine Kept.cut (s := s0) x ?_ ?_; rotate_left; intro hx; clear_value x; rotate_right; unfold x; clear x) | extract_lets +onlyGivenNames x | apply kept_applyUndo | refine Kept.foldl _ (fun _ _ _ => ?_) ?_ | refine Kept.foldl_fst _ (fun _ _ _ => ?_) ?_ | refine Kept.foldl_snd _ (fun _ _ _ => ?_) ?_ | split)
theorem kept_widenBy {s0 : State} (s : State) (d : Desc) (node : Nat) (slot : Nat) (or' : Nat) (and' : Nat) (h : Kept s0 s) : Kept s0 (widenBy s d node slot or' and') := by
  unfold widenBy
  repeat' with_reducible (first | assumption | (extract_lets +onlyGivenNames x; refine Kept.cut (s := s0) x ?_ ?_; rotate_left; intro hx; clear_value x; rotate_right; unfold x; clear x) | extract_lets +onlyGivenNames x | apply kept_writeNode)
theorem kept_widenSlot {s0 : State} (s : State) (d : Desc) (node : Nat) (slot : Nat) (attr : Nat) (h : Kept s0 s) : Kept s0 (widenSlot s d node slot attr) := by
  unfold widenSlot
  repeat' with_reducible (first | assumption | apply kept_widenBy | refine Kept.ite ?_ ?_ | split)
theorem kept_widenSubtree {s0 : State} (s : State) (d : Desc) (ptr node leaf attr : Nat) (h : Kept s0 s) : Kept s0 (widenSubtree s d ptr node leaf attr) := by
  unfold widenSubtree
  repeat' with_reducible (first | assumption | extract_lets +onlyGivenNames x | apply kept_widenSlot
                                | refine Kept.foldl _ (fun _ _ _ => ?_) ?_ | split)
theorem kept_setConstant {s0 : State} (s : State) (a : Nat) (on : Bool) (h : Kept s0 s) : Kept s0 (setConstant s a on) := by
  unfold setConstant
  repeat' with_reducible (first | assumption | exact Kept.upd (by assumption) rfl | (extract_lets +onlyGivenNames x; refine Kept.cut (s := s0) x ?_ ?_; rotate_left; intro hx; clear_value x; rotate_right; unfold x; clear x) | extract_lets +onlyGivenNames x)
theorem kept_noteConstant {s0 : State} (s : State) (slice : Nat) (a : Nat) (scale : Nat) (h : Kept s0 s) : Kept s0 (noteConstant s slice a scale) := by
  unfold noteConstant
  repeat' with_reducible (first | assumption | (extract_lets +onlyGivenNames x; refine Kept.cut (s := s0) x ?_ ?_; rotate_left; intro hx; clear_value x; rotate_right; unfold x; clear x) | extract_lets +onlyGivenNames x | apply kept_count | apply kept_setConstant | refine Kept.ite ?_ ?_ | split)
theorem kept_appendElem {s0 : State} (s : State) (d : Desc) (b : Block) (head : Nat) (sn : Nat) (vid : Nat) (attr : Nat) (sketch : Bytes) (code : Bytes) (vector : Bytes) (h : Kept s0 s) : Kept s0 (appendElem s d b head sn vid attr sketch code vector) := by
  unfold appendElem
  repeat' with_reducible (first | assumption | (extract_lets +onlyGivenNames x; refine Kept.cut (s := s0) x ?_ ?_; rotate_left; intro hx; clear_value x; rotate_right; unfold x; clear x) | extract_lets +onlyGivenNames x | apply kept_writeNode | apply kept_noteDelta | apply kept_noteConstant | refine Kept.getD ?_ (fun _ _ => ?_))
theorem kept_markBusy {s0 : State} (s : State) (ix : Nat) (ptr : Nat) (on : Bool) (h : Kept s0 s) : Kept s0 (markBusy s ix ptr on) := by
  unfold markBusy
  repeat' with_reducible (first | assumption | exact Kept.upd (by assumption) rfl | (extract_lets +onlyGivenNames x; refine Kept.cut (s := s0) x ?_ ?_; rotate_left; intro hx; clear_value x; rotate_right; unfold x; clear x) | extract_lets +onlyGivenNames x | refine Kept.ite ?_ ?_ | split)
theorem kept_placeUpsert_fst {s0 : State} (s : State) (d : Desc) (ptr : Nat) (sn : Nat) (vid : Nat) (attr : Nat) (sketch : Bytes) (code : Bytes) (vector : Bytes) (h : Kept s0 s) : Kept s0 (placeUpsert s d ptr sn vid attr sketch code vector).1 := by
  unfold placeUpsert
  repeat' with_reducible (first | assumption | exact Kept.upd (by assumption) rfl | (extract_lets +onlyGivenNames x; refine Kept.cut (s := s0) x ?_ ?_; rotate_left; intro hx; clear_value x; rotate_right; unfold x; clear x) | extract_lets +onlyGivenNames x | apply kept_logFault | apply kept_noteWrote | apply kept_widenSubtree | apply kept_appendElem | apply kept_markBusy | refine Kept.ite ?_ ?_ | split)
theorem kept_placeUpsert {s0 : State} {s : State} {d : Desc} {ptr : Nat} {sn : Nat} {vid : Nat} {attr : Nat} {sketch : Bytes} {code : Bytes} {vector : Bytes} {out : State} {v : Option PlaceOut} (e : placeUpsert s d ptr sn vid attr sketch code vector = (out, v)) (h : Kept s0 s) : Kept s0 out := by
  have k := kept_placeUpsert_fst s d ptr sn vid attr sketch code vector h
  rw [e] at k; exact k
theorem kept_noteSn {s0 : State} (s : State) (ix : Nat) (sn : Nat) (h : Kept s0 s) : Kept s0 (noteSn s ix sn) := by
  unfold noteSn
  repeat' with_reducible (first | assumption | exact Kept.upd (by assumption) rfl | (extract_lets +onlyGivenNames x; refine Kept.cut (s := s0) x ?_ ?_; rotate_left; intro hx; clear_value x; rotate_right; unfold x; clear x) | extract_lets +onlyGivenNames x)
theorem kept_forgetWrites {s0 : State} (s : State) (h : Kept s0 s) : Kept s0 (forgetWrites s) := by
  unfold forgetWrites
  repeat' with_reducible (first | assumption | exact Kept.upd (by assumption) rfl | (extract_lets +onlyGivenNames x; refine Kept.cut (s := s0) x ?_ ?_; rotate_left; intro hx; clear_value x; rotate_right; unfold x; clear x) | extract_lets +onlyGivenNames x | apply kept_noteSn | refine Kept.foldl _ (fun _ _ _ => ?_) ?_ | refine Kept.foldl_fst _ (fun _ _ _ => ?_) ?_ | refine Kept.foldl_snd _ (fun _ _ _ => ?_) ?_)
theorem kept_notYet {s0 : State} (s : State) (sn vid : Nat) (h : Kept s0 s) : Kept s0 (notYet s sn vid) := by
  unfold notYet
  repeat' with_reducible (first | exact Kept.upd (by assumption) rfl | refine Kept.ite ?_ ?_)
theorem kept_reportTo {s0 : State} (s : State) (sn vid leaf node : Nat) (fallback full : Bool) (h : Kept s0 s) : Kept s0 (reportTo s sn vid leaf node fallback full) := by
  unfold reportTo
  exact Kept.upd (by assumption) rfl
theorem kept_holdUpsert {s0 : State} (s : State) (d : Desc) (sn : Nat) (vid : Nat) (attr : Nat) (ptr : Nat) (sketch : Bytes) (code : Bytes) (vector : Bytes) (h : Kept s0 s) : Kept s0 (holdUpsert s d sn vid attr ptr sketch code vector) := by
  unfold holdUpsert
  repeat' with_reducible (first | assumption | exact Kept.upd (by assumption) rfl | (extract_lets +onlyGivenNames x; refine Kept.cut (s := s0) x ?_ ?_; rotate_left; intro hx; clear_value x; rotate_right; unfold x; clear x) | extract_lets +onlyGivenNames x | exact Kept.upd (kept_placeUpsert rfl (by assumption)) rfl | exact Kept.upd (kept_placeUpsert (by assumption) (by assumption)) rfl | refine kept_placeUpsert (by assumption) ?_ | refine kept_placeUpsert rfl ?_ | apply kept_reportTo | refine Kept.ite ?_ ?_ | split)
theorem kept_sendReports {s0 : State} (s : State) (h : Kept s0 s) : Kept s0 (sendReports s) := by
  unfold sendReports
  repeat' with_reducible (first | assumption | exact Kept.upd (by assumption) rfl | (extract_lets +onlyGivenNames x; refine Kept.cut (s := s0) x ?_ ?_; rotate_left; intro hx; clear_value x; rotate_right; unfold x; clear x) | extract_lets +onlyGivenNames x | apply kept_sendRemote | refine Kept.foldl _ (fun _ _ _ => ?_) ?_ | refine Kept.foldl_fst _ (fun _ _ _ => ?_) ?_ | refine Kept.foldl_snd _ (fun _ _ _ => ?_) ?_)
theorem kept_takeUpdate {s0 : State} {s : State} {m : Remote} {t : State} (e : takeUpdate s m = some t) (h : Kept s0 s) : Kept s0 t := by
  unfold takeUpdate at e
  repeat' (split at e)
  all_goals (cases e)
  all_goals
    repeat' with_reducible (first | assumption | exact Kept.upd (by assumption) rfl | (refine Kept.updWith (by assumption) ?_ ?_ ?_ ?_ ?_ ?_ ?_ ?_ ?_ ?_ ?_ ?_ ?_ ?_ <;> first | exact id | (with_unfolding_all (intros; first | assumption | rfl | exact Nat.le_of_ble_eq_true rfl | (apply cdrop_wf; assumption)))) | (extract_lets +onlyGivenNames x; refine Kept.cut (s := s0) x ?_ ?_; rotate_left; intro hx; clear_value x; rotate_right; unfold x; clear x) | extract_lets +onlyGivenNames x | apply kept_writeEntry | apply kept_applyErase | apply kept_undoWrites | apply kept_widenBy | apply kept_noteSn | apply kept_notYet | apply kept_reportTo | apply kept_holdUpsert | refine Kept.ite ?_ ?_ | split)
theorem kept_applyMarks {s0 : State} (s : State) (h : Kept s0 s) : Kept s0 (applyMarks s) := by
  unfold applyMarks
  exact Kept.upd (by assumption) rfl
theorem kept_homeSend {s0 : State} (s : State) (d : Desc) (r : InRec) (h : Kept s0 s) : Kept s0 (homeSend s d r) := by
  unfold homeSend
  repeat' with_reducible (first | assumption | apply kept_sendRemote | refine Kept.foldl _ (fun _ _ _ => ?_) ?_ | split)
theorem kept_homeWrite {s0 : State} (s : State) (d : Desc) (r : InRec) (h : Kept s0 s) : Kept s0 (homeWrite s d r) := by
  unfold homeWrite
  repeat' with_reducible (first | assumption | exact Kept.upd (by assumption) rfl | (extract_lets +onlyGivenNames x; refine Kept.cut (s := s0) x ?_ ?_; rotate_left; intro hx; clear_value x; rotate_right; unfold x; clear x) | extract_lets +onlyGivenNames x | apply kept_applyErase | apply kept_widenSlot | apply kept_holdUpsert | refine Kept.foldl _ (fun _ _ _ => ?_) ?_ | refine Kept.foldl_fst _ (fun _ _ _ => ?_) ?_ | refine Kept.foldl_snd _ (fun _ _ _ => ?_) ?_ | refine Kept.ite ?_ ?_ | split)
theorem kept_homeConfirm {s0 : State} (s : State) (r : InRec) (h : Kept s0 s) : Kept s0 (homeConfirm s r) := by
  unfold homeConfirm
  repeat' with_reducible (first | exact Kept.upd (by assumption) rfl
                                | (extract_lets +onlyGivenNames x; refine Kept.cut (s := s0) x ?_ ?_; rotate_left; intro hx; clear_value x; rotate_right; unfold x; clear x) | extract_lets +onlyGivenNames x | apply kept_setRec | refine Kept.foldl _ (fun _ _ _ => ?_) ?_ | refine Kept.ite ?_ ?_)
theorem kept_sendUndo {s0 : State} (s : State) (d : Desc) (r : InRec) (h : Kept s0 s) : Kept s0 (sendUndo s d r) := by
  unfold sendUndo
  repeat' with_reducible (first | assumption | exact Kept.upd (by assumption) rfl | (extract_lets +onlyGivenNames x; refine Kept.cut (s := s0) x ?_ ?_; rotate_left; intro hx; clear_value x; rotate_right; unfold x; clear x) | extract_lets +onlyGivenNames x | apply kept_sendRemote | refine Kept.foldl _ (fun _ _ _ => ?_) ?_ | refine Kept.foldl_fst _ (fun _ _ _ => ?_) ?_ | refine Kept.foldl_snd _ (fun _ _ _ => ?_) ?_ | split)
theorem kept_homeDirectory {s0 : State} (s : State) (d : Desc) (r : InRec) (h : Kept s0 s) : Kept s0 (homeDirectory s d r) := by
  unfold homeDirectory
  repeat' with_reducible (first | assumption | exact Kept.upd (by assumption) rfl | (extract_lets +onlyGivenNames x; refine Kept.cut (s := s0) x ?_ ?_; rotate_left; intro hx; clear_value x; rotate_right; unfold x; clear x) | extract_lets +onlyGivenNames x | apply kept_setRec | apply kept_sendRemote | apply kept_writeEntry | apply kept_noteSn | apply kept_sendUndo | refine Kept.ite ?_ ?_ | split)
theorem kept_dropWrites {s0 : State} (s : State) (r : InRec) (h : Kept s0 s) : Kept s0 (dropWrites s r) := by
  unfold dropWrites
  exact Kept.upd (by assumption) rfl
theorem kept_homeFrame {s0 : State} (s : State) (r0 : InRec) (h : Kept s0 s) : Kept s0 (homeFrame s r0) := by
  unfold homeFrame
  repeat' with_reducible (first | assumption | exact Kept.upd (by assumption) rfl | (extract_lets +onlyGivenNames x; refine Kept.cut (s := s0) x ?_ ?_; rotate_left; intro hx; clear_value x; rotate_right; unfold x; clear x) | extract_lets +onlyGivenNames x | apply kept_undoWrites | apply kept_homeSend | apply kept_homeWrite | apply kept_homeConfirm | apply kept_homeDirectory | apply kept_dropWrites | refine Kept.ite ?_ ?_ | split)
theorem kept_homeFrames {s0 : State} (s : State) (h : Kept s0 s) : Kept s0 (homeFrames s) := by
  unfold homeFrames
  repeat' with_reducible (first | assumption | apply kept_homeFrame | refine Kept.foldl _ (fun _ _ _ => ?_) ?_ | refine Kept.foldl_fst _ (fun _ _ _ => ?_) ?_ | refine Kept.foldl_snd _ (fun _ _ _ => ?_) ?_)

/-! ### Tables -/

theorem kept_setTables {s0 : State} (s : State) (f : Tables → Tables) (h : Kept s0 s) : Kept s0 (setTables s f) := by
  unfold setTables
  repeat' with_reducible (first | assumption | exact Kept.upd (by assumption) rfl | (extract_lets +onlyGivenNames x; refine Kept.cut (s := s0) x ?_ ?_; rotate_left; intro hx; clear_value x; rotate_right; unfold x; clear x) | extract_lets +onlyGivenNames x)
theorem kept_reportAt {s0 : State} (s : State) (at' : Nat) (dst : Nat) (m : Remote) (h : Kept s0 s) : Kept s0 (reportAt s at' dst m) := by
  unfold reportAt
  repeat' with_reducible (first | assumption | exact Kept.upd (by assumption) rfl | (extract_lets +onlyGivenNames x; refine Kept.cut (s := s0) x ?_ ?_; rotate_left; intro hx; clear_value x; rotate_right; unfold x; clear x) | extract_lets +onlyGivenNames x)
theorem kept_setWaiting {s0 : State} (s : State) (kind : Nat) (req : Nat) (admitAt : Nat) (f : InRec → InRec) (h : Kept s0 s) : Kept s0 (setWaiting s kind req admitAt f) := by
  unfold setWaiting
  repeat' with_reducible (first | assumption | exact Kept.upd (by assumption) rfl | (extract_lets +onlyGivenNames x; refine Kept.cut (s := s0) x ?_ ?_; rotate_left; intro hx; clear_value x; rotate_right; unfold x; clear x) | extract_lets +onlyGivenNames x | refine Kept.ite ?_ ?_ | split)
theorem kept_takePartial {s0 : State} (s : State) (p : Partial) (h : Kept s0 s) : Kept s0 (takePartial s p) := by
  unfold takePartial
  repeat' with_reducible (first | assumption | exact Kept.upd (by assumption) rfl | (extract_lets +onlyGivenNames x; refine Kept.cut (s := s0) x ?_ ?_; rotate_left; intro hx; clear_value x; rotate_right; unfold x; clear x) | extract_lets +onlyGivenNames x | apply kept_setWaiting)
theorem kept_takeDone {s0 : State} (s : State) (g : GradDone) (h : Kept s0 s) : Kept s0 (takeDone s g) := by
  unfold takeDone
  repeat' with_reducible (first | assumption | exact Kept.upd (by assumption) rfl | (extract_lets +onlyGivenNames x; refine Kept.cut (s := s0) x ?_ ?_; rotate_left; intro hx; clear_value x; rotate_right; unfold x; clear x) | extract_lets +onlyGivenNames x | apply kept_setWaiting)
theorem kept_tellPartial {s0 : State} (s : State) (home : Nat) (p : Partial) (h : Kept s0 s) : Kept s0 (tellPartial s home p) := by
  unfold tellPartial
  repeat' with_reducible (first | assumption | apply kept_reportAt | apply kept_takePartial | refine Kept.ite ?_ ?_ | split)
theorem kept_tellDone {s0 : State} (s : State) (home : Nat) (g : GradDone) (h : Kept s0 s) : Kept s0 (tellDone s home g) := by
  unfold tellDone
  repeat' with_reducible (first | assumption | apply kept_reportAt | apply kept_takeDone | refine Kept.ite ?_ ?_ | split)
theorem kept_takeGrad {s0 : State} (s : State) (p : GradPart) (got : Nat) (h : Kept s0 s) : Kept s0 (takeGrad s p got) := by
  unfold takeGrad
  repeat' with_reducible (first | assumption | exact Kept.upd (by assumption) rfl | (extract_lets +onlyGivenNames x; refine Kept.cut (s := s0) x ?_ ?_; rotate_left; intro hx; clear_value x; rotate_right; unfold x; clear x) | extract_lets +onlyGivenNames x | apply kept_setTables | apply kept_reportAt | apply kept_tellDone | refine Kept.foldl _ (fun _ _ _ => ?_) ?_ | refine Kept.foldl_fst _ (fun _ _ _ => ?_) ?_ | refine Kept.foldl_snd _ (fun _ _ _ => ?_) ?_ | split)
theorem kept_takeTable {s0 : State} {s : State} {m : Remote} {t : State} (e : takeTable s m = some t) (h : Kept s0 s) : Kept s0 t := by
  unfold takeTable at e
  repeat' (split at e)
  all_goals (cases e)
  all_goals
    repeat' with_reducible (first | assumption | exact Kept.upd (by assumption) rfl | (extract_lets +onlyGivenNames x; refine Kept.cut (s := s0) x ?_ ?_; rotate_left; intro hx; clear_value x; rotate_right; unfold x; clear x) | extract_lets +onlyGivenNames x | apply kept_logFaultFor | apply kept_dropSubmit | apply kept_writeNode | apply kept_toMember | apply kept_setTables | apply kept_takePartial | apply kept_takeDone | apply kept_takeGrad | refine kept_take _ _ _ _ _ (fun _ _ _ => ?_) ?_ | refine Kept.getD ?_ (fun _ _ => ?_) | refine Kept.foldl _ (fun _ _ _ => ?_) ?_ | refine Kept.foldl_fst _ (fun _ _ _ => ?_) ?_ | refine Kept.foldl_snd _ (fun _ _ _ => ?_) ?_ | refine Kept.ite ?_ ?_ | split)
theorem kept_sendParts {s0 : State} (s : State) (ps : List (Nat × LookPart)) (h : Kept s0 s) : Kept s0 (sendParts s ps) := by
  unfold sendParts
  repeat' with_reducible (first | assumption | exact Kept.upd (by assumption) rfl | (extract_lets +onlyGivenNames x; refine Kept.cut (s := s0) x ?_ ?_; rotate_left; intro hx; clear_value x; rotate_right; unfold x; clear x) | extract_lets +onlyGivenNames x | apply kept_setTables | apply kept_reportAt | refine Kept.foldl _ (fun _ _ _ => ?_) ?_ | refine Kept.foldl_fst _ (fun _ _ _ => ?_) ?_ | refine Kept.foldl_snd _ (fun _ _ _ => ?_) ?_ | refine Kept.ite ?_ ?_ | split)
theorem kept_countLoad {s0 : State} (s : State) (table : Nat) (shard : Nat) (c : Nat) (n : Nat) (h : Kept s0 s) : Kept s0 (countLoad s table shard c n) := by
  unfold countLoad
  repeat' with_reducible (first | assumption | exact Kept.upd (by assumption) rfl | (extract_lets +onlyGivenNames x; refine Kept.cut (s := s0) x ?_ ?_; rotate_left; intro hx; clear_value x; rotate_right; unfold x; clear x) | extract_lets +onlyGivenNames x)
theorem kept_poolPart {s0 : State} (s : State) (d : Desc) (p : LookPart) (h : Kept s0 s) : Kept s0 (poolPart s d p) := by
  unfold poolPart
  repeat' with_reducible (first | assumption | exact Kept.upd (by assumption) rfl | (extract_lets +onlyGivenNames x; refine Kept.cut (s := s0) x ?_ ?_; rotate_left; intro hx; clear_value x; rotate_right; unfold x; clear x) | extract_lets +onlyGivenNames x | apply kept_setTables | apply kept_tellPartial | apply kept_countLoad | refine Kept.foldl _ (fun _ _ _ => ?_) ?_ | refine Kept.foldl_fst _ (fun _ _ _ => ?_) ?_ | refine Kept.foldl_snd _ (fun _ _ _ => ?_) ?_ | refine Kept.ite ?_ ?_ | split)
theorem kept_gatherPart {s0 : State} (s : State) (w : WaitPart) (h : Kept s0 s) : Kept s0 (gatherPart s w) := by
  unfold gatherPart
  repeat' with_reducible (first | assumption | exact Kept.upd (by assumption) rfl | (extract_lets +onlyGivenNames x; refine Kept.cut (s := s0) x ?_ ?_; rotate_left; intro hx; clear_value x; rotate_right; unfold x; clear x) | extract_lets +onlyGivenNames x | apply kept_poisonFinding | apply kept_setTables | apply kept_reportAt | apply kept_tellPartial | apply kept_poolPart | refine Kept.foldl _ (fun _ _ _ => ?_) ?_ | refine Kept.foldl_fst _ (fun _ _ _ => ?_) ?_ | refine Kept.foldl_snd _ (fun _ _ _ => ?_) ?_ | refine Kept.ite ?_ ?_ | split)
theorem kept_gatherStep {s0 : State} (s : State) (h : Kept s0 s) : Kept s0 (gatherStep s) := by
  unfold gatherStep
  repeat' with_reducible (first | assumption | apply kept_gatherPart | refine Kept.foldl _ (fun _ _ _ => ?_) ?_ | refine Kept.foldl_fst _ (fun _ _ _ => ?_) ?_ | refine Kept.foldl_snd _ (fun _ _ _ => ?_) ?_)
theorem kept_sendGrad_fst {s0 : State} (s : State) (d : Desc) (row : List W32) (h : Kept s0 s) : Kept s0 (sendGrad s d row).2 := by
  unfold sendGrad
  repeat' with_reducible (first | assumption | exact Kept.upd (by assumption) rfl | (extract_lets +onlyGivenNames x; refine Kept.cut (s := s0) x ?_ ?_; rotate_left; intro hx; clear_value x; rotate_right; unfold x; clear x) | extract_lets +onlyGivenNames x | apply kept_setTables | refine kept_take _ _ _ _ _ (fun _ _ _ => ?_) ?_ | refine Kept.foldl _ (fun _ _ _ => ?_) ?_ | refine Kept.foldl_fst _ (fun _ _ _ => ?_) ?_ | refine Kept.foldl_snd _ (fun _ _ _ => ?_) ?_ | refine Kept.ite ?_ ?_ | split)
theorem kept_sendGrad {s0 : State} {s : State} {d : Desc} {row : List W32} {out : State} {v : List W32} (e : sendGrad s d row = (v, out)) (h : Kept s0 s) : Kept s0 out := by
  have k := kept_sendGrad_fst s d row h
  rw [e] at k; exact k
theorem kept_gradParts_fst {s0 : State} (s : State) (d : Desc) (r : InRec) (t : TrainState) (h : Kept s0 s) : Kept s0 (gradParts s d r t).2 := by
  unfold gradParts
  repeat' with_reducible (first | assumption | (extract_lets +onlyGivenNames x; refine Kept.cut (s := s0) x ?_ ?_; rotate_left; intro hx; clear_value x; rotate_right; unfold x; clear x) | extract_lets +onlyGivenNames x | exact Kept.upd (kept_sendGrad rfl (by assumption)) rfl | exact Kept.upd (kept_sendGrad (by assumption) (by assumption)) rfl | refine kept_sendGrad (by assumption) ?_ | refine kept_sendGrad rfl ?_ | refine Kept.getD ?_ (fun _ _ => ?_) | refine Kept.foldl _ (fun _ _ _ => ?_) ?_ | refine Kept.foldl_fst _ (fun _ _ _ => ?_) ?_ | refine Kept.foldl_snd _ (fun _ _ _ => ?_) ?_ | split)
theorem kept_gradParts {s0 : State} {s : State} {d : Desc} {r : InRec} {t : TrainState} {out : State} {v : List (Nat × GradPart)} (e : gradParts s d r t = (v, out)) (h : Kept s0 s) : Kept s0 out := by
  have k := kept_gradParts_fst s d r t h
  rw [e] at k; exact k
theorem kept_sendGrads {s0 : State} (s : State) (ps : List (Nat × GradPart)) (h : Kept s0 s) : Kept s0 (sendGrads s ps) := by
  unfold sendGrads
  repeat' with_reducible (first | assumption | apply kept_reportAt | apply kept_takeGrad | refine Kept.foldl _ (fun _ _ _ => ?_) ?_ | refine Kept.foldl_fst _ (fun _ _ _ => ?_) ?_ | refine Kept.foldl_snd _ (fun _ _ _ => ?_) ?_ | refine Kept.ite ?_ ?_ | split)
theorem kept_shareRow {s0 : State} (s : State) (d : Desc) (r : Nat) (bytes : Bytes) (h : Kept s0 s) : Kept s0 (shareRow s d r bytes) := by
  unfold shareRow
  repeat' with_reducible (first | assumption | exact Kept.upd (by assumption) rfl | (extract_lets +onlyGivenNames x; refine Kept.cut (s := s0) x ?_ ?_; rotate_left; intro hx; clear_value x; rotate_right; unfold x; clear x) | extract_lets +onlyGivenNames x | apply kept_sendBulk | apply kept_reportAt | refine Kept.foldl _ (fun _ _ _ => ?_) ?_ | refine Kept.foldl_fst _ (fun _ _ _ => ?_) ?_ | refine Kept.foldl_snd _ (fun _ _ _ => ?_) ?_ | refine Kept.ite ?_ ?_ | split)
theorem kept_stepRow {s0 : State} (s : State) (d : Desc) (b : Betas) (r : Nat) (g : List W32) (h : Kept s0 s) : Kept s0 (stepRow s d b r g) := by
  unfold stepRow
  repeat' with_reducible (first | assumption | (extract_lets +onlyGivenNames x; refine Kept.cut (s := s0) x ?_ ?_; rotate_left; intro hx; clear_value x; rotate_right; unfold x; clear x) | extract_lets +onlyGivenNames x | apply kept_count | apply kept_writeNode | apply kept_noteConstant | apply kept_countLoad | apply kept_shareRow | refine Kept.getD ?_ (fun _ _ => ?_) | refine Kept.ite ?_ ?_ | split)
theorem kept_markApplied {s0 : State} (s : State) (p : GradPart) (h : Kept s0 s) : Kept s0 (markApplied s p) := by
  unfold markApplied
  repeat' with_reducible (first | assumption | exact Kept.upd (by assumption) rfl | (extract_lets +onlyGivenNames x; refine Kept.cut (s := s0) x ?_ ?_; rotate_left; intro hx; clear_value x; rotate_right; unfold x; clear x) | extract_lets +onlyGivenNames x | apply kept_setTables | apply kept_tellDone | refine Kept.ite ?_ ?_ | split)
theorem kept_tableStep {s0 : State} (s : State) (d : Desc) (frame : Nat) (ps : List GradPart) (h : Kept s0 s) : Kept s0 (tableStep s d frame ps) := by
  unfold tableStep
  repeat' with_reducible (first | assumption | exact Kept.upd (by assumption) rfl | (extract_lets +onlyGivenNames x; refine Kept.cut (s := s0) x ?_ ?_; rotate_left; intro hx; clear_value x; rotate_right; unfold x; clear x) | extract_lets +onlyGivenNames x | apply kept_setTables | apply kept_stepRow | apply kept_markApplied | refine Kept.foldl _ (fun _ _ _ => ?_) ?_ | refine Kept.foldl_fst _ (fun _ _ _ => ?_) ?_ | refine Kept.foldl_snd _ (fun _ _ _ => ?_) ?_ | refine Kept.ite ?_ ?_ | split)
theorem kept_optimiserStep {s0 : State} (s : State) (h : Kept s0 s) : Kept s0 (optimiserStep s) := by
  unfold optimiserStep
  repeat' with_reducible (first | assumption | exact Kept.upd (by assumption) rfl | (extract_lets +onlyGivenNames x; refine Kept.cut (s := s0) x ?_ ?_; rotate_left; intro hx; clear_value x; rotate_right; unfold x; clear x) | extract_lets +onlyGivenNames x | apply kept_setTables | apply kept_tableStep | refine Kept.foldl _ (fun _ _ _ => ?_) ?_ | refine Kept.foldl_fst _ (fun _ _ _ => ?_) ?_ | refine Kept.foldl_snd _ (fun _ _ _ => ?_) ?_ | split)
theorem kept_copyTraining {s0 : State} (s : State) (h : Kept s0 s) : Kept s0 (copyTraining s) := by
  unfold copyTraining
  repeat' with_reducible (first | assumption | exact Kept.upd (by assumption) rfl | (extract_lets +onlyGivenNames x; refine Kept.cut (s := s0) x ?_ ?_; rotate_left; intro hx; clear_value x; rotate_right; unfold x; clear x) | extract_lets +onlyGivenNames x | apply kept_sendRemote | refine Kept.foldl _ (fun _ _ _ => ?_) ?_ | refine Kept.foldl_fst _ (fun _ _ _ => ?_) ?_ | refine Kept.foldl_snd _ (fun _ _ _ => ?_) ?_ | split)
theorem kept_tellTransit {s0 : State} (s : State) (table : Nat) (on : Bool) (h : Kept s0 s) : Kept s0 (tellTransit s table on) := by
  unfold tellTransit
  repeat' with_reducible (first | assumption | apply kept_sendRemote | refine Kept.foldl _ (fun _ _ _ => ?_) ?_ | refine Kept.foldl_fst _ (fun _ _ _ => ?_) ?_ | refine Kept.foldl_snd _ (fun _ _ _ => ?_) ?_)
theorem kept_giveShard {s0 : State} (s : State) (d : Desc) (shard : Nat) (owner : Nat) (h : Kept s0 s) : Kept s0 (giveShard s d shard owner) := by
  unfold giveShard
  repeat' with_reducible (first | assumption | exact Kept.upd (by assumption) rfl | (extract_lets +onlyGivenNames x; refine Kept.cut (s := s0) x ?_ ?_; rotate_left; intro hx; clear_value x; rotate_right; unfold x; clear x) | extract_lets +onlyGivenNames x | apply kept_reportAt | refine Kept.foldl _ (fun _ _ _ => ?_) ?_ | refine Kept.foldl_fst _ (fun _ _ _ => ?_) ?_ | refine Kept.foldl_snd _ (fun _ _ _ => ?_) ?_ | refine Kept.ite ?_ ?_ | split)
theorem kept_expectOwner {s0 : State} (s : State) (d : Desc) (shard : Nat) (giver : Nat) (owner : Nat) (h : Kept s0 s) : Kept s0 (expectOwner s d shard giver owner) := by
  unfold expectOwner
  repeat' with_reducible (first | assumption | exact Kept.upd (by assumption) rfl | (extract_lets +onlyGivenNames x; refine Kept.cut (s := s0) x ?_ ?_; rotate_left; intro hx; clear_value x; rotate_right; unfold x; clear x) | extract_lets +onlyGivenNames x | refine Kept.ite ?_ ?_ | split)
theorem kept_moveShard {s0 : State} (s : State) (d : Desc) (shard : Nat) (giver : Nat) (owner : Nat) (h : Kept s0 s) : Kept s0 (moveShard s d shard giver owner) := by
  unfold moveShard
  repeat' with_reducible (first | assumption | exact Kept.upd (by assumption) rfl | (extract_lets +onlyGivenNames x; refine Kept.cut (s := s0) x ?_ ?_; rotate_left; intro hx; clear_value x; rotate_right; unfold x; clear x) | extract_lets +onlyGivenNames x | apply kept_setShardFlags | apply kept_setTables | apply kept_giveShard | apply kept_expectOwner | refine Kept.ite ?_ ?_ | split)
theorem kept_dropShards {s0 : State} (s : State) (h : Kept s0 s) : Kept s0 (dropShards s) := by
  unfold dropShards
  repeat' with_reducible (first | assumption | exact Kept.upd (by assumption) rfl | (extract_lets +onlyGivenNames x; refine Kept.cut (s := s0) x ?_ ?_; rotate_left; intro hx; clear_value x; rotate_right; unfold x; clear x) | extract_lets +onlyGivenNames x | apply kept_freeBlock | apply kept_setTables | refine Kept.foldl _ (fun _ _ _ => ?_) ?_ | refine Kept.foldl_fst _ (fun _ _ _ => ?_) ?_ | refine Kept.foldl_snd _ (fun _ _ _ => ?_) ?_)
theorem kept_tablesStep {s0 : State} (s : State) (h : Kept s0 s) : Kept s0 (tablesStep s) := by
  unfold tablesStep
  repeat' with_reducible (first | assumption | apply kept_gatherStep | apply kept_optimiserStep | apply kept_copyTraining | apply kept_dropShards)

/-! ### Records -/

theorem kept_addHint {s0 : State} (s : State) (sl : Nat) (e : Bytes) (h : Kept s0 s) : Kept s0 (addHint s sl e) := by
  unfold addHint
  repeat' with_reducible (first | exact Kept.upd (by assumption) rfl | refine Kept.ite ?_ ?_)
theorem kept_redirect {s0 : State} (s : State) (r : InRec) (h : Kept s0 s) : Kept s0 (redirect s r) := by
  unfold redirect
  repeat' with_reducible (first | assumption | apply kept_addHint)
theorem kept_countDrops {s0 : State} (s : State) (d : Desc) (slice : Nat) (n : Nat × Nat × Nat) (h : Kept s0 s) : Kept s0 (countDrops s d slice n) := by
  unfold countDrops
  exact Kept.upd (by assumption) rfl
theorem kept_addCustody {s0 : State} (s : State) (req slice kind object : Nat) (h : Kept s0 s) : Kept s0 (addCustody s req slice kind object) := by
  unfold addCustody
  exact Kept.upd (by assumption) rfl
theorem kept_dropCustody {s0 : State} (s : State) (req kind : Nat) (h : Kept s0 s) : Kept s0 (dropCustody s req kind) := by
  unfold dropCustody
  exact Kept.upd (by assumption) rfl
theorem kept_takeIn {s0 : State} (s : State) (r : InRec) (h : Kept s0 s) : Kept s0 (takeIn s r) := by
  unfold takeIn
  exact Kept.upd (by assumption) rfl
theorem kept_failRec {s0 : State} (s : State) (r : InRec) (st : Nat) (h : Kept s0 s) : Kept s0 (failRec s r st) := by
  unfold failRec
  repeat' with_reducible (first | assumption | apply kept_redirect | apply kept_takeIn | refine Kept.ite ?_ ?_)
theorem kept_startUpdate {s0 : State} (s : State) (r : InRec) (h : Kept s0 s) : Kept s0 (startUpdate s r) := by
  unfold startUpdate
  repeat' with_reducible (first | exact Kept.upd (by assumption) rfl
                                | (extract_lets +onlyGivenNames x; refine Kept.cut (s := s0) x ?_ ?_; rotate_left; intro hx; clear_value x; rotate_right; unfold x; clear x) | apply kept_notYet | split)
theorem kept_admitWrite {s0 : State} (x : List Encoding) (s : State) (d : Desc) (r : InRec) (h : Kept s0 s) : Kept s0 (admitWrite x s d r) := by
  unfold admitWrite
  repeat' with_reducible (first | assumption | exact Kept.upd (by assumption) rfl | (extract_lets +onlyGivenNames x; refine Kept.cut (s := s0) x ?_ ?_; rotate_left; intro hx; clear_value x; rotate_right; unfold x; clear x) | extract_lets +onlyGivenNames x | apply kept_takeIn | apply kept_failRec | apply kept_startUpdate | refine Kept.getD ?_ (fun _ _ => ?_) | refine Kept.ite ?_ ?_ | split)
theorem kept_admitUpdate {s0 : State} (x : List Encoding) (s : State) (r : InRec) (again : Bool) (h : Kept s0 s) : Kept s0 (admitUpdate x s r again) := by
  unfold admitUpdate
  repeat' with_reducible (first | assumption | exact Kept.upd (by assumption) rfl | (extract_lets +onlyGivenNames x; refine Kept.cut (s := s0) x ?_ ?_; rotate_left; intro hx; clear_value x; rotate_right; unfold x; clear x) | extract_lets +onlyGivenNames x | apply kept_addCustody | apply kept_failRec | apply kept_admitWrite | refine Kept.ite ?_ ?_ | split)
theorem kept_failStale {s0 : State} (s : State) (r : InRec) (h : Kept s0 s) : Kept s0 (failStale s r) := by
  unfold failStale
  repeat' with_reducible (first | assumption | exact Kept.upd (by assumption) rfl | (extract_lets +onlyGivenNames x; refine Kept.cut (s := s0) x ?_ ?_; rotate_left; intro hx; clear_value x; rotate_right; unfold x; clear x) | extract_lets +onlyGivenNames x | apply kept_failRec | split)
theorem kept_lendRec {s0 : State} (s : State) (r : InRec) (p : Nat) (h : Kept s0 s) : Kept s0 (lendRec s r p) := by
  unfold lendRec
  repeat' with_reducible (first | assumption | apply kept_toMember)
theorem kept_admitLookup {s0 : State} (s : State) (r : InRec) (h : Kept s0 s) : Kept s0 (admitLookup s r) := by
  unfold admitLookup
  repeat' with_reducible (first | assumption | exact Kept.upd (by assumption) rfl | (extract_lets +onlyGivenNames x; refine Kept.cut (s := s0) x ?_ ?_; rotate_left; intro hx; clear_value x; rotate_right; unfold x; clear x) | extract_lets +onlyGivenNames x | apply kept_sendParts | apply kept_countDrops | apply kept_addCustody | apply kept_takeIn | apply kept_failRec | apply kept_lendRec | refine Kept.ite ?_ ?_ | split)
theorem kept_admitGradient {s0 : State} (s : State) (r : InRec) (h : Kept s0 s) : Kept s0 (admitGradient s r) := by
  unfold admitGradient
  repeat' with_reducible (first | assumption | exact Kept.upd (by assumption) rfl | (extract_lets +onlyGivenNames x; refine Kept.cut (s := s0) x ?_ ?_; rotate_left; intro hx; clear_value x; rotate_right; unfold x; clear x) | extract_lets +onlyGivenNames x | exact Kept.upd (kept_gradParts rfl (by assumption)) rfl | exact Kept.upd (kept_gradParts (by assumption) (by assumption)) rfl | refine kept_gradParts (by assumption) ?_ | refine kept_gradParts rfl ?_ | apply kept_sendGrads | apply kept_takeIn | apply kept_failRec | refine Kept.ite ?_ ?_ | split)
theorem kept_admitOne {s0 : State} (x : List Encoding) (s : State) (r : InRec) (again : Bool) (h : Kept s0 s) : Kept s0 (admitOne x s r again) := by
  unfold admitOne
  repeat' with_reducible (first | assumption | exact Kept.upd (by assumption) rfl | (extract_lets +onlyGivenNames x; refine Kept.cut (s := s0) x ?_ ?_; rotate_left; intro hx; clear_value x; rotate_right; unfold x; clear x) | extract_lets +onlyGivenNames x | apply kept_countRec | apply kept_takeIn | apply kept_failRec | apply kept_admitUpdate | apply kept_failStale | apply kept_lendRec | apply kept_admitLookup | apply kept_admitGradient | refine Kept.ite ?_ ?_ | split)
theorem kept_admitRing_fst {s0 : State} (x : List Encoding) (num fuel n : Nat) (s : State) (u : Used) (h : Kept s0 s) :
    Kept s0 (admitRing x num fuel n s u).1 := by
  induction fuel generalizing n s u with
  | zero => exact h
  | succ k ih =>
    unfold admitRing
    split
    · exact h
    · split
      · exact h
      · extract_lets room bad key past bytes q paused s1 u1
        have h1 : Kept s0 s1 := kept_setRing _ _ h
        clear_value room bad key past bytes q paused s1 u1
        by_cases c : (past || paused) = true
        · rw [if_pos c]
          by_cases c2 : paused = true
          · rw [if_pos c2]; exact kept_setRing _ _ h
          · rw [if_neg c2]; exact h
        · rw [if_neg c]; exact ih _ _ _ (kept_admitOne _ _ _ _ h1)
theorem kept_admitRing {s0 s out : State} {x : List Encoding} {num fuel n : Nat} {u v : Used} (e : admitRing x num fuel n s u = (out, v)) (h : Kept s0 s) :
    Kept s0 out := by
  have := kept_admitRing_fst x num fuel n s u h
  rw [e] at this; exact this
theorem kept_admitRings_fst {s0 : State} (x : List Encoding) (s : State) (u : Used) (h : Kept s0 s) : Kept s0 (admitRings x s u).1 := by
  unfold admitRings
  refine Kept.foldl_fst _ (fun x a hx => ?_) h
  split
  · exact hx
  · split
    · exact hx
    · split
      · exact kept_setRing _ _ hx
      · exact kept_admitRing_fst _ _ _ _ _ _ (kept_setRing _ _ hx)
theorem kept_admitRings {s0 s out : State} {x : List Encoding} {u v : Used} (e : admitRings x s u = (out, v)) (h : Kept s0 s) : Kept s0 out := by
  have := kept_admitRings_fst x s u h
  rw [e] at this; exact this
theorem kept_releaseDeferred_fst {s0 : State} (x : List Encoding) (s : State) (u : Used) (h : Kept s0 s) : Kept s0 (releaseDeferred x s u).1 := by
  unfold releaseDeferred
  refine Kept.foldl_fst _ (fun x a hx => ?_) h
  dsimp only
  split
  · exact kept_admitOne _ _ _ _ (kept_dropCustody _ _ _ (Kept.upd hx rfl))
  · exact hx
theorem kept_releaseDeferred {s0 s out : State} {x : List Encoding} {u v : Used} (e : releaseDeferred x s u = (out, v)) (h : Kept s0 s) : Kept s0 out := by
  have := kept_releaseDeferred_fst x s u h
  rw [e] at this; exact this
theorem kept_readmit_fst {s0 : State} (x : List Encoding) (s : State) (u : Used) (h : Kept s0 s) : Kept s0 (readmit x s u).1 := by
  unfold readmit
  refine Kept.upd (t := Prod.fst _) ?_ rfl
  refine Kept.foldl_fst _ (fun x a hx => ?_) h
  dsimp only
  split
  · exact hx
  · exact kept_admitOne _ _ _ _ (kept_dropCustody _ _ _ (Kept.upd hx rfl))
theorem kept_readmit {s0 s out : State} {x : List Encoding} {u v : Used} (e : readmit x s u = (out, v)) (h : Kept s0 s) : Kept s0 out := by
  have := kept_readmit_fst x s u h
  rw [e] at this; exact this
theorem kept_admission {s0 : State} (x : List Encoding) (s : State) (h : Kept s0 s) : Kept s0 (admission x s) := by
  unfold admission
  have h1 : Kept s0 { s with recs := { s.recs with admitted := [] } } := Kept.upd h rfl
  generalize { s with recs := { s.recs with admitted := [] } } = y at h1
  dsimp only
  have h2 := kept_releaseDeferred_fst x _ (readmit x y ⟨0, 0, []⟩).2 (kept_readmit_fst x y ⟨0, 0, []⟩ h1)
  split
  · exact kept_admitRings_fst _ _ _ h2
  · exact h2
theorem kept_execSadmit {s0 : State} (port : Fin 2) (o : OpAB) (steps : Nat) (s : State) (h : Kept s0 s) : KeptO s0 (execSadmit port o steps s) := by
  unfold execSadmit
  repeat' with_reducible (first | assumption | exact Kept.upd (by assumption) rfl | (extract_lets +onlyGivenNames x; refine Kept.cut (s := s0) x ?_ ?_; rotate_left; intro hx; clear_value x; rotate_right; unfold x; clear x) | extract_lets +onlyGivenNames x | apply kept_later | refine kept_laneChecked _ _ _ _ _ _ _ (fun _ _ => ?_) ?_ | refine kept_withAddr _ _ (fun _ => ?_) | refine Kept.getD ?_ (fun _ _ => ?_) | refine Kept.foldl _ (fun _ _ _ => ?_) ?_ | refine Kept.foldl_fst _ (fun _ _ _ => ?_) ?_ | refine Kept.foldl_snd _ (fun _ _ _ => ?_) ?_ | apply KeptO.next | split)
theorem kept_countResult {s0 : State} (s : State) (slice st : Nat) (bytes : Bytes) (h : Kept s0 s) : Kept s0 (countResult s slice st bytes) := by
  unfold countResult
  repeat' with_reducible (first | assumption | apply kept_countRec | refine Kept.ite ?_ ?_)
theorem kept_writeResult {s0 : State} (s : State) (num j st : Nat) (bytes : Bytes) (h : Kept s0 s) : Kept s0 (writeResult s num j st bytes) := by
  unfold writeResult
  repeat' with_reducible (first | exact Kept.upd (by assumption) rfl
                                | (extract_lets +onlyGivenNames x; refine Kept.cut (s := s0) x ?_ ?_; rotate_left; intro hx; clear_value x; rotate_right; unfold x; clear x) | apply kept_hostWrite | apply kept_setRing | apply kept_countResult | split)
theorem kept_returnLent {s0 : State} (s : State) (r : InRec) (h : Kept s0 s) : Kept s0 (returnLent s r) := by
  unfold returnLent
  repeat' with_reducible (first | assumption | (extract_lets +onlyGivenNames x; refine Kept.cut (s := s0) x ?_ ?_; rotate_left; intro hx; clear_value x; rotate_right; unfold x; clear x) | extract_lets +onlyGivenNames x | apply kept_toPrimary)
theorem kept_answerRec {s0 : State} (s : State) (r : InRec) (h : Kept s0 s) : Kept s0 (answerRec s r) := by
  unfold answerRec
  repeat' with_reducible (first | assumption | exact Kept.upd (by assumption) rfl | (refine Kept.updWith (by assumption) ?_ ?_ ?_ ?_ ?_ ?_ ?_ ?_ ?_ ?_ ?_ ?_ ?_ ?_ <;> first | exact id | (with_unfolding_all (intros; first | assumption | rfl | exact Nat.le_of_ble_eq_true rfl | (apply cdrop_wf; assumption)))) | (extract_lets +onlyGivenNames x; refine Kept.cut (s := s0) x ?_ ?_; rotate_left; intro hx; clear_value x; rotate_right; unfold x; clear x) | extract_lets +onlyGivenNames x | apply kept_writeResult | apply kept_returnLent | refine Kept.getD ?_ (fun _ _ => ?_) | refine Kept.ite ?_ ?_ | split)
theorem kept_takeRun {s0 : State} {s : State} {m : Remote} {t : State} (e : takeRun s m = some t) (h : Kept s0 s) : Kept s0 t := by
  unfold takeRun at e
  repeat' (split at e)
  all_goals (cases e)
  all_goals
    repeat' with_reducible (first | assumption | exact Kept.upd (by assumption) rfl | (refine Kept.updWith (by assumption) ?_ ?_ ?_ ?_ ?_ ?_ ?_ ?_ ?_ ?_ ?_ ?_ ?_ ?_ <;> first | exact id | (with_unfolding_all (intros; first | assumption | rfl | exact Nat.le_of_ble_eq_true rfl | (apply cdrop_wf; assumption)))) | (extract_lets +onlyGivenNames x; refine Kept.cut (s := s0) x ?_ ?_; rotate_left; intro hx; clear_value x; rotate_right; unfold x; clear x) | extract_lets +onlyGivenNames x | apply kept_admitLookup | refine Kept.ite ?_ ?_ | split)
theorem kept_closeLookup {s0 : State} (s : State) (r : InRec) (h : Kept s0 s) : Kept s0 (closeLookup s r) := by
  unfold closeLookup
  repeat' with_reducible (first | assumption | exact Kept.upd (by assumption) rfl | (extract_lets +onlyGivenNames x; refine Kept.cut (s := s0) x ?_ ?_; rotate_left; intro hx; clear_value x; rotate_right; unfold x; clear x) | extract_lets +onlyGivenNames x | apply kept_dropCustody | refine Kept.ite ?_ ?_ | split)
theorem kept_closeGradient {s0 : State} (s : State) (r : InRec) (h : Kept s0 s) : Kept s0 (closeGradient s r) := by
  unfold closeGradient
  repeat' with_reducible (first | assumption | exact Kept.upd (by assumption) rfl | (extract_lets +onlyGivenNames x; refine Kept.cut (s := s0) x ?_ ?_; rotate_left; intro hx; clear_value x; rotate_right; unfold x; clear x) | extract_lets +onlyGivenNames x | refine Kept.foldl _ (fun _ _ _ => ?_) ?_ | refine Kept.foldl_fst _ (fun _ _ _ => ?_) ?_ | refine Kept.foldl_snd _ (fun _ _ _ => ?_) ?_ | refine Kept.ite ?_ ?_ | split)
theorem kept_resultsDue {s0 : State} (s : State) (h : Kept s0 s) : Kept s0 (resultsDue s) := by
  unfold resultsDue
  repeat' with_reducible (first | assumption | exact Kept.upd (by assumption) rfl | (extract_lets +onlyGivenNames x; refine Kept.cut (s := s0) x ?_ ?_; rotate_left; intro hx; clear_value x; rotate_right; unfold x; clear x) | extract_lets +onlyGivenNames x | apply kept_setRec | apply kept_answerRec | apply kept_closeLookup | apply kept_closeGradient | refine Kept.foldl _ (fun _ _ _ => ?_) ?_ | refine Kept.foldl_fst _ (fun _ _ _ => ?_) ?_ | refine Kept.foldl_snd _ (fun _ _ _ => ?_) ?_ | refine Kept.ite ?_ ?_ | split)
theorem kept_dropParts {s0 : State} (s : State) (r : InRec) (h : Kept s0 s) : Kept s0 (dropParts s r) := by
  unfold dropParts
  repeat' with_reducible (first | assumption | exact Kept.upd (by assumption) rfl | (extract_lets +onlyGivenNames x; refine Kept.cut (s := s0) x ?_ ?_; rotate_left; intro hx; clear_value x; rotate_right; unfold x; clear x) | extract_lets +onlyGivenNames x | split)
theorem kept_withdraw {s0 : State} (s : State) (h : Kept s0 s) : Kept s0 (withdraw s) := by
  unfold withdraw
  repeat' with_reducible (first | assumption | exact Kept.upd (by assumption) rfl | (extract_lets +onlyGivenNames x; refine Kept.cut (s := s0) x ?_ ?_; rotate_left; intro hx; clear_value x; rotate_right; unfold x; clear x) | extract_lets +onlyGivenNames x | apply kept_undoWrites | apply kept_sendUndo | apply kept_dropWrites | apply kept_addCustody | apply kept_dropCustody | apply kept_answerRec | apply kept_dropParts | refine Kept.foldl _ (fun _ _ _ => ?_) ?_ | refine Kept.foldl_fst _ (fun _ _ _ => ?_) ?_ | refine Kept.foldl_snd _ (fun _ _ _ => ?_) ?_ | refine Kept.ite ?_ ?_ | split)
theorem kept_poisonOut {s0 : State} (s : State) (p : InRec → Bool) (h : Kept s0 s) : Kept s0 (poisonOut s p) := by
  unfold poisonOut
  repeat' with_reducible (first | assumption | exact Kept.upd (by assumption) rfl | (extract_lets +onlyGivenNames x; refine Kept.cut (s := s0) x ?_ ?_; rotate_left; intro hx; clear_value x; rotate_right; unfold x; clear x) | extract_lets +onlyGivenNames x | apply kept_dropCustody | apply kept_answerRec | refine Kept.foldl _ (fun _ _ _ => ?_) ?_ | refine Kept.foldl_fst _ (fun _ _ _ => ?_) ?_ | refine Kept.foldl_snd _ (fun _ _ _ => ?_) ?_)
theorem kept_execPoisonSlackExpire {s0 : State} (s : State) (h : Kept s0 s) : KeptO s0 (execPoisonSlackExpire s) := by
  unfold execPoisonSlackExpire
  repeat' with_reducible (first | assumption | apply kept_poisonOut | apply KeptO.next | refine KeptO.ite ?_ ?_)
theorem kept_execTrainingStateExpire {s0 : State} (s : State) (h : Kept s0 s) : KeptO s0 (execTrainingStateExpire s) := by
  unfold execTrainingStateExpire
  repeat' with_reducible (first | exact Kept.upd (by assumption) rfl
                                | (extract_lets +onlyGivenNames x; refine Kept.cut (s := s0) x ?_ ?_; rotate_left; intro hx; clear_value x; rotate_right; unfold x; clear x) | extract_lets +onlyGivenNames x | apply kept_dropCustody | refine Kept.foldl _ (fun _ _ _ => ?_) ?_ | apply KeptO.next | refine KeptO.ite ?_ ?_)
theorem kept_releaseCustody {s0 : State} (s : State) (h : Kept s0 s) : Kept s0 (releaseCustody s) := by
  unfold releaseCustody
  exact Kept.upd (by assumption) rfl
theorem kept_claimCustody {s0 : State} (s : State) (h : Kept s0 s) : Kept s0 (claimCustody s) := by
  unfold claimCustody
  exact Kept.upd (by assumption) rfl
theorem kept_orphanIn {s0 : State} (s : State) (c : Custody) (slice : Nat) (h : Kept s0 s) : Kept s0 (orphanIn s c slice) := by
  unfold orphanIn
  extract_lets held ofSlice tr r cls slot
  clear_value held ofSlice tr r cls slot
  split
  · exact h
  · exact kept_answerRec _ _ h
theorem kept_execCustodyOrphan {s0 : State} (s : State) (h : Kept s0 s) : KeptO s0 (execCustodyOrphan s) := by
  unfold execCustodyOrphan
  repeat' with_reducible (first | assumption | exact Kept.upd (by assumption) rfl | (extract_lets +onlyGivenNames x; refine Kept.cut (s := s0) x ?_ ?_; rotate_left; intro hx; clear_value x; rotate_right; unfold x; clear x) | extract_lets +onlyGivenNames x | apply kept_cancelTransit | apply kept_orphanIn | refine Kept.foldl _ (fun _ _ _ => ?_) ?_ | refine Kept.foldl_fst _ (fun _ _ _ => ?_) ?_ | refine Kept.foldl_snd _ (fun _ _ _ => ?_) ?_ | apply KeptO.next | refine KeptO.ite ?_ ?_ | refine Kept.ite ?_ ?_ | split)
theorem kept_execResultsWritten {s0 : State} (ring : Fin 64) (s : State) (h : Kept s0 s) : KeptO s0 (execResultsWritten ring s) := by
  unfold execResultsWritten
  repeat' with_reducible (first | exact Kept.upd (by assumption) rfl
                                | (extract_lets +onlyGivenNames x; refine Kept.cut (s := s0) x ?_ ?_; rotate_left; intro hx; clear_value x; rotate_right; unfold x; clear x) | extract_lets +onlyGivenNames x | apply kept_hostWrite | apply kept_raise | apply KeptO.next | split)
theorem kept_execRingCloseDone {s0 : State} (ring : Fin 64) (s : State) (h : Kept s0 s) : KeptO s0 (execRingCloseDone ring s) := by
  unfold execRingCloseDone
  repeat' with_reducible (first | assumption | (extract_lets +onlyGivenNames x; refine Kept.cut (s := s0) x ?_ ?_; rotate_left; intro hx; clear_value x; rotate_right; unfold x; clear x) | apply kept_finish | apply kept_freeRing | apply KeptO.next | split)
theorem kept_execDrainComplete {s0 : State} (s : State) (h : Kept s0 s) : KeptO s0 (execDrainComplete s) := by
  unfold execDrainComplete
  repeat' with_reducible (first | assumption | refine kept_enterState _ _ (fun _ => by decide) ?_ | apply kept_abortIllegal
                                | refine kept_moveTo _ _ (fun _ => by decide) ?_ | apply kept_finishTrans | apply KeptO.next | split)

end Sys2Proof.Machine
end

