-- ==== Sys2Proof/Laws/KeptFrame.lean ====
section
/-!
SUPPORT. Soundness is kept (`Kept`) by set-up, background work and the frame boundary.
-/
namespace Sys2Proof.Machine

set_option linter.tactic.unusedName false

/-! ### Setup -/

theorem kept_postRefused {s0 : State} (s : State) (m : Nat) (n : NextObj) (reason : Nat) (h : Kept s0 s) : Kept s0 (postRefused s m n reason) := by
  unfold postRefused
  repeat' with_reducible (first | exact Kept.upd (by assumption) rfl | apply kept_postTargeted)
theorem kept_dropChange {s0 : State} (s : State) (h : Kept s0 s) : Kept s0 (dropChange s) := by
  unfold dropChange
  exact Kept.upd (by assumption) rfl
theorem kept_refuseNext {s0 : State} (s : State) (n : Next) (reason : Nat) (h : Kept s0 s) : Kept s0 (refuseNext s n reason) := by
  unfold refuseNext
  repeat' with_reducible (first | exact Kept.upd (by assumption) rfl
                                | (extract_lets +onlyGivenNames x; refine Kept.cut (s := s0) x ?_ ?_; rotate_left; intro hx; clear_value x; rotate_right; unfold x; clear x) | (extract_lets +onlyGivenNames x; clear_value x) | apply kept_finish | apply kept_postRefused | apply kept_dropChange | split)
theorem kept_refuseBad {s0 : State} (n : Nat) (s : State) (h : Kept s0 s) : Kept s0 (refuseBad n s) := by
  induction n generalizing s with
  | zero => exact h
  | succ k ih =>
    unfold refuseBad
    split
    · exact h
    · exact ih _ (kept_refuseNext _ _ _ h)
theorem kept_loadStrokes {s0 : State} (s : State) (image : Bytes) (h : Kept s0 s) : Kept s0 (loadStrokes s image) := by
  unfold loadStrokes
  repeat' with_reducible (first | assumption | exact Kept.upd (by assumption) rfl | (refine Kept.updWith (by assumption) ?_ ?_ ?_ ?_ ?_ ?_ ?_ ?_ ?_ ?_ ?_ ?_ ?_ ?_ <;> first | exact id | (with_unfolding_all (intros; first | assumption | rfl | exact Nat.le_of_ble_eq_true rfl | (apply cdrop_wf; assumption)))) | (extract_lets +onlyGivenNames x; refine Kept.cut (s := s0) x ?_ ?_; rotate_left; intro hx; clear_value x; rotate_right; unfold x; clear x) | extract_lets +onlyGivenNames x | apply kept_writeMem | refine kept_take _ _ _ _ _ (fun _ _ _ => ?_) ?_ | refine Kept.foldl _ (fun _ _ _ => ?_) ?_ | refine Kept.foldl_fst _ (fun _ _ _ => ?_) ?_ | refine Kept.foldl_snd _ (fun _ _ _ => ?_) ?_)
theorem kept_applyPlate {s0 : State} (s : State) (image : Bytes) (h : Kept s0 s) : Kept s0 (applyPlate s image) := by
  unfold applyPlate
  exact Kept.upd (by assumption) rfl
theorem kept_dropMoved {s0 : State} (old : State) (s : State) (q : Nat) (v : Nat) (h : Kept s0 s) : Kept s0 (dropMoved old s q v) := by
  unfold dropMoved
  repeat' with_reducible (first | assumption | exact Kept.upd (by assumption) rfl | (refine Kept.updWith (by assumption) ?_ ?_ ?_ ?_ ?_ ?_ ?_ ?_ ?_ ?_ ?_ ?_ ?_ ?_ <;> first | exact id | (with_unfolding_all (intros; first | assumption | rfl | exact Nat.le_of_ble_eq_true rfl | (apply cdrop_wf; assumption)))) | (extract_lets +onlyGivenNames x; refine Kept.cut (s := s0) x ?_ ?_; rotate_left; intro hx; clear_value x; rotate_right; unfold x; clear x) | extract_lets +onlyGivenNames x)
theorem kept_moveClusters {s0 : State} (s : State) (q : Nat) (v : Nat) (h : Kept s0 s) : Kept s0 (moveClusters s q v) := by
  unfold moveClusters
  repeat' with_reducible (first | assumption | apply kept_applyClmap | apply kept_dropMoved)
theorem kept_putDesc {s0 : State} (s : State) (kind : Nat) (b block : Bytes) (h : Kept s0 s) : Kept s0 (putDesc s kind b block) := by
  unfold putDesc
  exact Kept.upd (by assumption) rfl
theorem kept_endMerges {s0 : State} (s : State) (ix : Nat) (h : Kept s0 s) : Kept s0 (endMerges s ix) := by
  unfold endMerges
  exact Kept.upd (by assumption) rfl
theorem kept_resketch {s0 : State} (s : State) (kind : Nat) (old : Option Desc) (b : Bytes) (h : Kept s0 s) : Kept s0 (resketch s kind old b) := by
  unfold resketch
  repeat' with_reducible (first | assumption | extract_lets +onlyGivenNames x | apply kept_addItem
                                | refine Kept.foldl _ (fun _ _ _ => ?_) ?_ | split)
theorem kept_openRing {s0 : State} (s : State) (b : Bytes) (slice backing : Nat) (h : Kept s0 s) : Kept s0 (openRing s b slice backing) := by
  unfold openRing
  exact Kept.upd (by assumption) rfl
theorem kept_openAt {s0 : State} (s : State) (b : Bytes) (slice : Nat) (backing : Option Nat) (h : Kept s0 s) : Kept s0 (openAt s b slice backing) := by
  unfold openAt
  repeat' with_reducible (first | assumption | apply kept_openRing | split)
theorem kept_applyOwner {s0 : State} (s : State) (table : Nat) (shard : Nat) (owner : Nat) (h : Kept s0 s) : Kept s0 (applyOwner s table shard owner) := by
  unfold applyOwner
  repeat' with_reducible (first | assumption | exact Kept.upd (by assumption) rfl | (extract_lets +onlyGivenNames x; refine Kept.cut (s := s0) x ?_ ?_; rotate_left; intro hx; clear_value x; rotate_right; unfold x; clear x) | extract_lets +onlyGivenNames x | apply kept_writeNode | split)
theorem kept_applyObj_bpmap {s0 : State} (s : State) (st die v : Nat) (h : Kept s0 s) : Kept s0 (applyObj s (.bpmap st die v)) := by
  unfold applyObj
  dsimp only
  refine Kept.upd (t := ite _ _ _) (Kept.ite (kept_logFault _ _ h) h) rfl
theorem kept_applyObj_sliceMap {s0 : State} (s : State) (m : Bytes) (h : Kept s0 s) : Kept s0 (applyObj s (.sliceMap m)) := by
  unfold applyObj; exact Kept.upd h rfl
theorem kept_applyObj_quota {s0 : State} (s : State) (i : Nat) (b : Bytes) (h : Kept s0 s) : Kept s0 (applyObj s (.quota i b)) := by
  unfold applyObj; exact Kept.upd h rfl
theorem kept_applyObj_remove {s0 : State} (s : State) (k id : Nat) (h : Kept s0 s) : Kept s0 (applyObj s (.remove k id)) := by
  unfold applyObj; exact Kept.upd h rfl
theorem kept_applyObj_shard {s0 : State} (s : State) (e : Bytes) (h : Kept s0 s) : Kept s0 (applyObj s (.shard e)) := by
  unfold applyObj; exact Kept.upd h rfl
theorem kept_applyObj_version {s0 : State} (s : State) (k : Nat) (b u : Bytes) (h : Kept s0 s) : Kept s0 (applyObj s (.version k b u)) := by
  unfold applyObj
  apply kept_resketch
  split
  · exact kept_endMerges _ _ (kept_putDesc _ _ _ _ h)
  · exact kept_putDesc _ _ _ _ h
theorem kept_applyObj_ring {s0 : State} (s : State) (b : Bytes) (sl : Nat) (h : Kept s0 s) : Kept s0 (applyObj s (.ring b sl)) := by
  exact kept_openAt s b sl _ h
theorem kept_applyObj_transitOwner {s0 : State} (s : State) (t q o : Nat) (h : Kept s0 s) : Kept s0 (applyObj s (.transitOwner t q o)) := by
  exact kept_applyOwner s t q o h
theorem kept_applyObj {s0 : State} (s : State) (o : NextObj) (h : Kept s0 s) : Kept s0 (applyObj s o) := by
  cases o
  case plate image => exact kept_applyPlate _ _ h
  case clmap q v => exact kept_moveClusters _ _ _ h
  case desc k b u => exact kept_putDesc _ _ _ _ h
  case bpmap st die v => exact kept_applyObj_bpmap s st die v h
  case sliceMap m => exact kept_applyObj_sliceMap s m h
  case quota i b => exact kept_applyObj_quota s i b h
  case remove k id => exact kept_applyObj_remove s k id h
  case shard e => exact kept_applyObj_shard s e h
  case version k b u => exact kept_applyObj_version s k b u h
  case ring b sl => exact kept_applyObj_ring s b sl h
  case transitOwner t q o => exact kept_applyObj_transitOwner s t q o h
theorem kept_applyItem {s0 : State} (s : State) (n : Next) (h : Kept s0 s) : Kept s0 (applyItem s n) := by
  unfold applyItem
  repeat' with_reducible (first | assumption | apply kept_finish | apply kept_retain | apply kept_refuseNext | apply kept_applyObj | split)
theorem kept_acceptChange {s0 : State} (s : State) (epoch : Nat) (mailbox : Option Nat) (ns : List Next) (h : Kept s0 s) : Kept s0 (acceptChange s epoch mailbox ns) := by
  unfold acceptChange
  repeat' with_reducible (first | assumption | exact Kept.upd (by assumption) rfl | (extract_lets +onlyGivenNames x; refine Kept.cut (s := s0) x ?_ ?_; rotate_left; intro hx; clear_value x; rotate_right; unfold x; clear x) | extract_lets +onlyGivenNames x | apply kept_loadStrokes | refine Kept.foldl _ (fun _ _ _ => ?_) ?_ | refine Kept.foldl_fst _ (fun _ _ _ => ?_) ?_ | refine Kept.foldl_snd _ (fun _ _ _ => ?_) ?_ | split)
theorem kept_closeLostRings {s0 : State} (s : State) (h : Kept s0 s) : Kept s0 (closeLostRings s) := by
  unfold closeLostRings
  repeat' with_reducible (first | assumption | apply kept_setRing | apply kept_ringError | refine Kept.foldl _ (fun _ _ _ => ?_) ?_
                                | refine Kept.ite ?_ ?_)
theorem kept_endChange {s0 : State} (s : State) (c : Change) (ns : List Next) (h : Kept s0 s) : Kept s0 (endChange s c ns) := by
  unfold endChange
  repeat' with_reducible (first | exact Kept.upd (by assumption) rfl
                                | (extract_lets +onlyGivenNames x; refine Kept.cut (s := s0) x ?_ ?_; rotate_left; intro hx; clear_value x; rotate_right; unfold x; clear x) | apply kept_postAll | apply kept_retain | apply kept_releaseCustody | apply kept_closeLostRings | refine Kept.foldl _ (fun _ _ _ => ?_) ?_)
theorem kept_takeMap {s0 : State} (s : State) (b : Bytes) (h : Kept s0 s) : Kept s0 (takeMap s b) := by
  unfold takeMap
  repeat' with_reducible (first | assumption | exact Kept.upd (by assumption) rfl | (extract_lets +onlyGivenNames x; refine Kept.cut (s := s0) x ?_ ?_; rotate_left; intro hx; clear_value x; rotate_right; unfold x; clear x) | extract_lets +onlyGivenNames x | apply kept_loadStrokes | apply kept_applyPlate | apply kept_applyObj | refine Kept.foldl _ (fun _ _ _ => ?_) ?_ | refine Kept.foldl_fst _ (fun _ _ _ => ?_) ?_ | refine Kept.foldl_snd _ (fun _ _ _ => ?_) ?_ | refine Kept.ite ?_ ?_ | split)
theorem kept_startMoves {s0 : State} (s : State) (r : Reshard) (h : Kept s0 s) : Kept s0 (startMoves s r) := by
  unfold startMoves
  repeat' with_reducible (first | exact Kept.upd (by assumption) rfl | apply kept_addItem | refine Kept.foldl _ (fun _ _ _ => ?_) ?_)
theorem kept_closeTransit {s0 : State} (s : State) (table : Nat) (shard : Nat) (h : Kept s0 s) : Kept s0 (closeTransit s table shard) := by
  unfold closeTransit
  repeat' with_reducible (first | assumption | exact Kept.upd (by assumption) rfl | (extract_lets +onlyGivenNames x; refine Kept.cut (s := s0) x ?_ ?_; rotate_left; intro hx; clear_value x; rotate_right; unfold x; clear x) | extract_lets +onlyGivenNames x | apply kept_endTransit | apply kept_tellTransit | refine Kept.ite ?_ ?_ | split)
theorem kept_applyTransit {s0 : State} (s : State) (ms : List (Desc × Nat × Nat × Nat)) (h : Kept s0 s) : Kept s0 (applyTransit s ms) := by
  unfold applyTransit
  repeat' with_reducible (first | assumption | apply kept_moveShard | apply kept_closeTransit | refine Kept.foldl _ (fun _ _ _ => ?_) ?_ | refine Kept.foldl_fst _ (fun _ _ _ => ?_) ?_ | refine Kept.foldl_snd _ (fun _ _ _ => ?_) ?_)
theorem kept_applyNext {s0 : State} (s : State) (h : Kept s0 s) : Kept s0 (applyNext s) := by
  unfold applyNext
  extract_lets ns c q s1 q2 s2 ms s3
  have h1 : Kept s0 s1 := Kept.upd h rfl
  clear_value s1 ns c
  have h2 : Kept s0 s2 := by
    cases c
    · exact h1
    · exact Kept.upd h1 rfl
  clear_value s2 ms
  have h3 : Kept s0 s3 := Kept.foldl _ (fun _ _ hx => kept_applyItem _ _ hx) h2
  clear_value s3
  cases c with
  | none => exact h3
  | some c =>
    have h4 := kept_applyTransit _ ms (kept_endChange _ c ns h3)
    dsimp only
    generalize applyTransit (endChange s3 c ns) ms = s4 at h4
    split
    · split
      · exact kept_finish _ _ _ (Kept.upd h4 rfl)
      · exact kept_startMoves _ _ h4
    · split
      · exact kept_finish _ _ _ h4
      · exact h4
theorem kept_markSet {s0 : State} (s : State) (h : Kept s0 s) : Kept s0 (markSet s) := by
  unfold markSet
  repeat' with_reducible (first | exact Kept.upd (by assumption) rfl
                                | (extract_lets +onlyGivenNames x; refine Kept.cut (s := s0) x ?_ ?_; rotate_left; intro hx; clear_value x; rotate_right; unfold x; clear x) | apply kept_refuseBad | apply kept_applyNext | refine Kept.ite ?_ ?_)
theorem kept_execSetupMarkComplete {s0 : State} (s : State) (h : Kept s0 s) : KeptO s0 (execSetupMarkComplete s) := by
  unfold execSetupMarkComplete
  repeat' with_reducible (first | assumption | apply kept_refuseBad | apply kept_markSet | apply KeptO.next | refine KeptO.ite ?_ ?_)
theorem kept_execSliceQuiet {s0 : State} (s : State) (h : Kept s0 s) : KeptO s0 (execSliceQuiet s) := by
  unfold execSliceQuiet
  repeat' with_reducible (first | assumption | apply kept_markSet | apply KeptO.next | split)
theorem kept_execComposeAbandon {s0 : State} (s : State) (h : Kept s0 s) : KeptO s0 (execComposeAbandon s) := by
  unfold execComposeAbandon
  repeat' with_reducible (first | assumption | exact Kept.upd (by assumption) rfl | (extract_lets +onlyGivenNames x; refine Kept.cut (s := s0) x ?_ ?_; rotate_left; intro hx; clear_value x; rotate_right; unfold x; clear x) | extract_lets +onlyGivenNames x | apply KeptO.next | refine KeptO.ite ?_ ?_ | refine Kept.ite ?_ ?_ | split)
theorem kept_dropAbandoned {s0 : State} (s : State) (h : Kept s0 s) : Kept s0 (dropAbandoned s) := by
  unfold dropAbandoned
  split
  · exact h
  · split
    · exact h
    · extract_lets m
      clear_value m
      split
      · exact kept_finish _ _ _ (kept_dropChange _ h)
      · exact kept_dropChange _ h
theorem kept_execReshardMovesDone {s0 : State} (s : State) (h : Kept s0 s) : KeptO s0 (execReshardMovesDone s) := by
  unfold execReshardMovesDone
  repeat' with_reducible (first | assumption | extract_lets +onlyGivenNames x | apply kept_acceptChange | apply KeptO.next | split)

/-! ### Quarantine -/

theorem kept_fenceNow {s0 s t : State} {unit arg : Nat} (e : fenceNow s unit arg = some t) (h : Kept s0 s) : Kept s0 t := by
  unfold fenceNow at e
  extract_lets q at e
  have hq : ∀ x, Kept s0 x → Kept s0 (q x) := fun x k => Kept.upd k rfl
  clear_value q
  split at e
  · injection e with e; subst e; exact kept_loseChannel _ _ (hq _ h)
  · split at e
    · injection e with e; subst e
      refine Kept.foldl _ (fun x i hx => ?_) (hq _ h)
      dsimp only
      split
      · exact kept_failLink _ _ _ hx
      · exact hx
    · split at e
      · simp only [Option.map_eq_some_iff] at e
        obtain ⟨y, e1, e2⟩ := e
        subst e2
        have hy := kept_fence e1 h
        split
        · exact hy
        · exact kept_dropMoved _ _ _ _ hy
      · exact kept_fence e h
theorem kept_testEntry {s0 : State} (s : State) (e : FaultEntry) (h : Kept s0 s) : Kept s0 (testEntry s e) := by
  unfold testEntry
  repeat' with_reducible (first | assumption | exact Kept.upd (by assumption) rfl | (refine Kept.updWith (by assumption) ?_ ?_ ?_ ?_ ?_ ?_ ?_ ?_ ?_ ?_ ?_ ?_ ?_ ?_ <;> first | exact id | (with_unfolding_all (intros; first | assumption | rfl | exact Nat.le_of_ble_eq_true rfl | (apply cdrop_wf; assumption)))) | (extract_lets +onlyGivenNames x; refine Kept.cut (s := s0) x ?_ ?_; rotate_left; intro hx; clear_value x; rotate_right; unfold x; clear x) | extract_lets +onlyGivenNames x | apply kept_logFault | apply kept_bankPairFailed | refine kept_fenceNow (by assumption) ?_ | refine Kept.ite ?_ ?_ | split)
theorem kept_quarantineStep {s0 : State} (s : State) (h : Kept s0 s) : Kept s0 (quarantineStep s) := by
  unfold quarantineStep
  repeat' with_reducible (first | exact Kept.upd (by assumption) rfl
                                | (extract_lets +onlyGivenNames x; refine Kept.cut (s := s0) x ?_ ?_; rotate_left; intro hx; clear_value x; rotate_right; unfold x; clear x) | apply kept_testEntry | refine Kept.foldl _ (fun _ _ _ => ?_) ?_)
theorem kept_execQuarantineLift {s0 : State} (unit : BitVec 16) (s : State) (h : Kept s0 s) : KeptO s0 (execQuarantineLift unit s) := by
  unfold execQuarantineLift
  repeat' with_reducible (first | assumption | exact Kept.upd (by assumption) rfl | (refine Kept.updWith (by assumption) ?_ ?_ ?_ ?_ ?_ ?_ ?_ ?_ ?_ ?_ ?_ ?_ ?_ ?_ <;> first | exact id | (with_unfolding_all (intros; first | assumption | rfl | exact Nat.le_of_ble_eq_true rfl | (apply cdrop_wf; assumption)))) | (extract_lets +onlyGivenNames x; refine Kept.cut (s := s0) x ?_ ?_; rotate_left; intro hx; clear_value x; rotate_right; unfold x; clear x) | extract_lets +onlyGivenNames x | apply kept_logFault | apply kept_moveClusters | refine Kept.foldl _ (fun _ _ _ => ?_) ?_ | refine Kept.foldl_fst _ (fun _ _ _ => ?_) ?_ | refine Kept.foldl_snd _ (fun _ _ _ => ?_) ?_ | apply KeptO.next | exact KeptO.fault | refine KeptO.ite ?_ ?_ | refine Kept.ite ?_ ?_ | split)

/-! ### Background -/

theorem kept_checkTile {s0 : State} (s : State) (o : Obj) (t : Nat) (lane : Nat) (k : Nat) (h : Kept s0 s) : Kept s0 (checkTile s o t lane k) := by
  unfold checkTile
  repeat' with_reducible (first | assumption | apply kept_poisonFinding | refine Kept.ite ?_ ?_ | split)
theorem kept_copyMarked {s0 : State} (s : State) (from' tgt n : Nat) (h : Kept s0 s) : Kept s0 (copyMarked s from' tgt n) := by
  unfold copyMarked
  repeat' with_reducible (first | assumption | apply kept_writeMem | apply kept_setMarks)
theorem kept_copyCounted {s0 : State} (s : State) (sl : Nat) (from' : Nat) (tgt : Nat) (n : Nat) (h : Kept s0 s) : Kept s0 (copyCounted s sl from' tgt n) := by
  unfold copyCounted
  repeat' with_reducible (first | assumption | apply kept_countMoved | apply kept_copyMarked)
theorem kept_moveTile {s0 : State} (s : State) (target : Bytes) (obj t : Nat) (h : Kept s0 s) : Kept s0 (moveTile s target obj t) := by
  unfold moveTile
  split
  · exact h
  · split
    · exact h
    · rename_i a b c
      refine Kept.ite h ?_
      extract_lets x s' put
      have hp : ∀ x es, Kept s0 x → Kept s0 (put x es) := fun x es hx => Kept.upd hx rfl
      clear_value put s'
      repeat' with_reducible (first | assumption | apply hp | apply kept_copyCounted | split)
theorem kept_landMoves {s0 : State} (s : State) (h : Kept s0 s) : Kept s0 (landMoves s) := by
  unfold landMoves
  repeat' with_reducible (first | assumption | exact Kept.upd (by assumption) rfl | (extract_lets +onlyGivenNames x; refine Kept.cut (s := s0) x ?_ ?_; rotate_left; intro hx; clear_value x; rotate_right; unfold x; clear x) | extract_lets +onlyGivenNames x | apply kept_count | apply kept_checkTile | apply kept_moveTile | refine Kept.foldl _ (fun _ _ _ => ?_) ?_ | refine Kept.foldl_fst _ (fun _ _ _ => ?_) ?_ | refine Kept.foldl_snd _ (fun _ _ _ => ?_) ?_ | split)
theorem kept_sendRow {s0 : State} (s : State) (t : Transit) (d : Desc) (place : Nat) (h : Kept s0 s) : Kept s0 (sendRow s t d place) := by
  unfold sendRow
  repeat' with_reducible (first | assumption | exact Kept.upd (by assumption) rfl | (extract_lets +onlyGivenNames x; refine Kept.cut (s := s0) x ?_ ?_; rotate_left; intro hx; clear_value x; rotate_right; unfold x; clear x) | extract_lets +onlyGivenNames x | apply kept_sendBulk | refine Kept.foldl _ (fun _ _ _ => ?_) ?_ | refine Kept.foldl_fst _ (fun _ _ _ => ?_) ?_ | refine Kept.foldl_snd _ (fun _ _ _ => ?_) ?_)
theorem kept_transitStep {s0 : State} (s : State) (table : Nat) (shard : Nat) (h : Kept s0 s) : Kept s0 (transitStep s table shard) := by
  unfold transitStep
  repeat' with_reducible (first | assumption | exact Kept.upd (by assumption) rfl | (extract_lets +onlyGivenNames x; refine Kept.cut (s := s0) x ?_ ?_; rotate_left; intro hx; clear_value x; rotate_right; unfold x; clear x) | extract_lets +onlyGivenNames x | apply kept_countMoved | apply kept_sendRow | refine Kept.ite ?_ ?_ | split)
theorem kept_endItem {s0 : State} (s : State) (i : Item) (h : Kept s0 s) : Kept s0 (endItem s i) := by
  unfold endItem
  repeat' with_reducible (first | exact Kept.upd (by assumption) rfl | apply kept_count)
theorem kept_writeFree {s0 : State} (s : State) (a n : Nat) (h : Kept s0 s) : Kept s0 (writeFree s a n) := by
  unfold writeFree
  repeat' with_reducible (first | exact Kept.upd (by assumption) rfl
                                | (extract_lets +onlyGivenNames x; refine Kept.cut (s := s0) x ?_ ?_; rotate_left; intro hx; clear_value x; rotate_right; unfold x; clear x) | apply kept_writeMem)
theorem kept_writeNodeIn {s0 : State} (s : State) (k : Nat) (ws : List (Nat × Bytes)) (h : Kept s0 s) : Kept s0 (writeNodeIn s k ws) := by
  unfold writeNodeIn
  repeat' with_reducible (first | assumption | (extract_lets +onlyGivenNames x; refine Kept.cut (s := s0) x ?_ ?_; rotate_left; intro hx; clear_value x; rotate_right; unfold x; clear x) | extract_lets +onlyGivenNames x | apply kept_later | apply kept_writeNode | refine Kept.foldl _ (fun _ _ _ => ?_) ?_ | refine Kept.foldl_fst _ (fun _ _ _ => ?_) ?_ | refine Kept.foldl_snd _ (fun _ _ _ => ?_) ?_)
theorem kept_rewriteSlots {s0 : State} (s : State) (serves : Bool) (p : Nat → Bool) (h : Kept s0 s) : Kept s0 (rewriteSlots s serves p) := by
  unfold rewriteSlots
  repeat' with_reducible (first | assumption | exact Kept.upd (by assumption) rfl | (extract_lets +onlyGivenNames x; refine Kept.cut (s := s0) x ?_ ?_; rotate_left; intro hx; clear_value x; rotate_right; unfold x; clear x) | extract_lets +onlyGivenNames x | apply kept_writeSlot | apply kept_countSlotRead | refine Kept.foldl _ (fun _ _ _ => ?_) ?_ | refine Kept.foldl_fst _ (fun _ _ _ => ?_) ?_ | refine Kept.foldl_snd _ (fun _ _ _ => ?_) ?_ | refine Kept.ite ?_ ?_ | split)
theorem kept_sendTile {s0 : State} (s : State) (obj : Nat) (t : Nat) (h : Kept s0 s) : Kept s0 (sendTile s obj t) := by
  unfold sendTile
  repeat' with_reducible (first | assumption | exact Kept.upd (by assumption) rfl | (extract_lets +onlyGivenNames x; refine Kept.cut (s := s0) x ?_ ?_; rotate_left; intro hx; clear_value x; rotate_right; unfold x; clear x) | extract_lets +onlyGivenNames x | apply kept_countTile | apply kept_sendBulk | split)
theorem kept_finishWork {s0 : State} (s : State) (w : Work) (lane : Nat) (h : Kept s0 s) : Kept s0 (finishWork s w lane) := by
  unfold finishWork
  repeat' with_reducible (first | assumption | exact Kept.upd (by assumption) rfl | (extract_lets +onlyGivenNames x; refine Kept.cut (s := s0) x ?_ ?_; rotate_left; intro hx; clear_value x; rotate_right; unfold x; clear x) | extract_lets +onlyGivenNames x | apply kept_countMoved | apply kept_resketch | apply kept_checkTile | apply kept_writeNodeIn | apply kept_rewriteSlots | apply kept_sendTile | refine Kept.ite ?_ ?_ | split)
theorem kept_readStack {s0 : State} (s : State) (lane : Nat) (a : Nat) (ecc : Ecc) (h : Kept s0 s) : Kept s0 (readStack s lane a ecc) := by
  unfold readStack
  repeat' with_reducible (first | assumption | exact Kept.upd (by assumption) rfl | (extract_lets +onlyGivenNames x; refine Kept.cut (s := s0) x ?_ ?_; rotate_left; intro hx; clear_value x; rotate_right; unfold x; clear x) | extract_lets +onlyGivenNames x | apply kept_later | apply kept_count | apply kept_poisonFinding | apply kept_countMoved | refine Kept.foldl _ (fun _ _ _ => ?_) ?_ | refine Kept.foldl_fst _ (fun _ _ _ => ?_) ?_ | refine Kept.foldl_snd _ (fun _ _ _ => ?_) ?_ | refine Kept.ite ?_ ?_ | split)
theorem kept_checkEnds {s0 : State} (s : State) (lane : Nat) (a : Nat) (h : Kept s0 s) : Kept s0 (checkEnds s lane a) := by
  unfold checkEnds
  repeat' with_reducible (first | assumption | exact Kept.upd (by assumption) rfl | (extract_lets +onlyGivenNames x; refine Kept.cut (s := s0) x ?_ ?_; rotate_left; intro hx; clear_value x; rotate_right; unfold x; clear x) | extract_lets +onlyGivenNames x | apply kept_checkTile | refine Kept.foldl _ (fun _ _ _ => ?_) ?_ | refine Kept.foldl_fst _ (fun _ _ _ => ?_) ?_ | refine Kept.foldl_snd _ (fun _ _ _ => ?_) ?_ | refine Kept.ite ?_ ?_ | split)
theorem kept_scrubStep {s0 : State} (s : State) (lane : Nat) (pair : Nat) (left : Nat) (ecc : Ecc) (h : Kept s0 s) : Kept s0 (scrubStep s lane pair left ecc) := by
  unfold scrubStep
  repeat' with_reducible (first | assumption | (extract_lets +onlyGivenNames x; refine Kept.cut (s := s0) x ?_ ?_; rotate_left; intro hx; clear_value x; rotate_right; unfold x; clear x) | extract_lets +onlyGivenNames x | apply kept_readStack | apply kept_checkEnds)
theorem kept_copyStep {s0 : State} (s : State) (lane : Nat) (stack : Nat) (die : Nat) (ecc : Ecc) (h : Kept s0 s) : Kept s0 (copyStep s lane stack die ecc) := by
  unfold copyStep
  repeat' with_reducible (first | assumption | exact Kept.upd (by assumption) rfl | (extract_lets +onlyGivenNames x; refine Kept.cut (s := s0) x ?_ ?_; rotate_left; intro hx; clear_value x; rotate_right; unfold x; clear x) | extract_lets +onlyGivenNames x | apply kept_readStack | refine Kept.ite ?_ ?_ | split)
theorem kept_askTile {s0 : State} (s : State) (p obj t : Nat) (h : Kept s0 s) : Kept s0 (askTile s p obj t) := by
  unfold askTile
  exact kept_sendRemote _ _ _ (Kept.upd h rfl)
theorem kept_rebuildStep {s0 : State} (s : State) (i : Item) (obj : Nat) (t : Nat) (h : Kept s0 s) : Kept s0 (rebuildStep s i obj t) := by
  unfold rebuildStep
  repeat' with_reducible (first | assumption | exact Kept.upd (by assumption) rfl | (extract_lets +onlyGivenNames x; refine Kept.cut (s := s0) x ?_ ?_; rotate_left; intro hx; clear_value x; rotate_right; unfold x; clear x) | extract_lets +onlyGivenNames x | apply kept_sendRemote | apply kept_askTile | refine Kept.ite ?_ ?_ | split)
theorem kept_answerTile {s0 : State} (s : State) (obj : Nat) (t : Nat) (h : Kept s0 s) : Kept s0 (answerTile s obj t) := by
  unfold answerTile
  repeat' with_reducible (first | assumption | exact Kept.upd (by assumption) rfl | (extract_lets +onlyGivenNames x; refine Kept.cut (s := s0) x ?_ ?_; rotate_left; intro hx; clear_value x; rotate_right; unfold x; clear x) | extract_lets +onlyGivenNames x | apply kept_sendRemote | apply kept_sendTile | refine Kept.ite ?_ ?_ | split)
theorem kept_serveItem {s0 : State} (s : State) (i : Item) (ecc : Ecc) (h : Kept s0 s) : Kept s0 (serveItem s i ecc) := by
  unfold serveItem
  repeat' with_reducible (first | assumption | exact Kept.upd (by assumption) rfl | (extract_lets +onlyGivenNames x; refine Kept.cut (s := s0) x ?_ ?_; rotate_left; intro hx; clear_value x; rotate_right; unfold x; clear x) | extract_lets +onlyGivenNames x | apply kept_count | apply kept_resketch | apply kept_transitStep | apply kept_endItem | apply kept_finishWork | apply kept_scrubStep | apply kept_copyStep | apply kept_rebuildStep | refine Kept.ite ?_ ?_ | split)
theorem kept_execMaintStep {s0 : State} (lane : BitVec 16) (found : MaintFind) (s : State) (h : Kept s0 s) : KeptO s0 (execMaintStep lane found s) := by
  unfold execMaintStep
  repeat' with_reducible (first | assumption | exact Kept.upd (by assumption) rfl | (refine Kept.updWith (by assumption) ?_ ?_ ?_ ?_ ?_ ?_ ?_ ?_ ?_ ?_ ?_ ?_ ?_ ?_ <;> first | exact id | (with_unfolding_all (intros; first | assumption | rfl | exact Nat.le_of_ble_eq_true rfl | (apply cdrop_wf; assumption)))) | (extract_lets +onlyGivenNames x; refine Kept.cut (s := s0) x ?_ ?_; rotate_left; intro hx; clear_value x; rotate_right; unfold x; clear x) | extract_lets +onlyGivenNames x | apply kept_countLane | apply kept_canaryMismatch | apply kept_serveItem | apply KeptO.next | refine KeptO.ite ?_ ?_ | refine Kept.ite ?_ ?_ | split)
theorem kept_tellMerged {s0 : State} (s : State) (m : Merge) (h : Kept s0 s) : Kept s0 (tellMerged s m) := by
  unfold tellMerged
  repeat' with_reducible (first | assumption | exact Kept.upd (by assumption) rfl | (extract_lets +onlyGivenNames x; refine Kept.cut (s := s0) x ?_ ?_; rotate_left; intro hx; clear_value x; rotate_right; unfold x; clear x) | extract_lets +onlyGivenNames x | apply kept_sendRemote | refine Kept.ite ?_ ?_ | split)
theorem kept_mergeOn {s0 : State} (s : State) (m : Merge) (d : Desc) (h : Kept s0 s) : Kept s0 (mergeOn s m d) := by
  unfold mergeOn
  repeat' with_reducible (first | assumption | (extract_lets +onlyGivenNames x; refine Kept.cut (s := s0) x ?_ ?_; rotate_left; intro hx; clear_value x; rotate_right; unfold x; clear x) | extract_lets +onlyGivenNames x | apply kept_writeNode | apply kept_tellMerged | refine Kept.ite ?_ ?_ | split)
theorem kept_mergeStep {s0 : State} (s : State) (m : Merge) (h : Kept s0 s) : Kept s0 (mergeStep s m) := by
  unfold mergeStep
  refine Kept.getD h fun t e => ?_
  simp only [Option.map_eq_some_iff] at e
  obtain ⟨d, -, rfl⟩ := e
  exact kept_mergeOn _ _ _ h
theorem kept_applyMerge {s0 : State} (s : State) (d : Desc) (m : Merge) (h : Kept s0 s) : Kept s0 (applyMerge s d m) := by
  unfold applyMerge
  repeat' with_reducible (first | assumption | exact Kept.upd (by assumption) rfl | (extract_lets +onlyGivenNames x; refine Kept.cut (s := s0) x ?_ ?_; rotate_left; intro hx; clear_value x; rotate_right; unfold x; clear x) | extract_lets +onlyGivenNames x | apply kept_writeNode | apply kept_countMoved | refine Kept.foldl _ (fun _ _ _ => ?_) ?_ | refine Kept.foldl_fst _ (fun _ _ _ => ?_) ?_ | refine Kept.foldl_snd _ (fun _ _ _ => ?_) ?_ | refine Kept.ite ?_ ?_ | split)
theorem kept_execMergeSwitch {s0 : State} (index : BitVec 16) (leaf : BitVec 24) (node : Fin 512) (s : State) (h : Kept s0 s) : KeptO s0 (execMergeSwitch index leaf node s) := by
  unfold execMergeSwitch
  repeat' with_reducible (first | assumption | exact Kept.upd (by assumption) rfl | (extract_lets +onlyGivenNames x; refine Kept.cut (s := s0) x ?_ ?_; rotate_left; intro hx; clear_value x; rotate_right; unfold x; clear x) | extract_lets +onlyGivenNames x | apply kept_endItem | apply kept_applyMerge | apply KeptO.next | refine KeptO.ite ?_ ?_ | refine Kept.ite ?_ ?_ | split)
theorem kept_execMergeAreaRelease {s0 : State} (index : BitVec 16) (leaf : BitVec 24) (s : State) (h : Kept s0 s) : KeptO s0 (execMergeAreaRelease index leaf s) := by
  unfold execMergeAreaRelease
  repeat' with_reducible (first | assumption | exact Kept.upd (by assumption) rfl | (extract_lets +onlyGivenNames x; refine Kept.cut (s := s0) x ?_ ?_; rotate_left; intro hx; clear_value x; rotate_right; unfold x; clear x) | extract_lets +onlyGivenNames x | apply kept_writeNode | apply KeptO.next | split)
theorem kept_execOldVersionRelease {s0 : State} (kind : Bool) (id : BitVec 16) (s : State) (h : Kept s0 s) : KeptO s0 (execOldVersionRelease kind id s) := by
  unfold execOldVersionRelease
  repeat' with_reducible (first | exact Kept.upd (by assumption) rfl | apply KeptO.next)
theorem kept_skewEvent {s0 : State} (s : State) (d : Desc) (h : Kept s0 s) : Kept s0 (skewEvent s d) := by
  unfold skewEvent
  repeat' with_reducible (first | assumption | apply kept_postEvent | refine Kept.ite ?_ ?_)
theorem kept_execLoadWindowEnd {s0 : State} (s : State) (h : Kept s0 s) : KeptO s0 (execLoadWindowEnd s) := by
  unfold execLoadWindowEnd
  repeat' with_reducible (first | exact Kept.upd (by assumption) rfl | apply kept_skewEvent | refine Kept.foldl _ (fun _ _ _ => ?_) ?_
                                | apply KeptO.next | refine KeptO.ite ?_ ?_)
theorem kept_giveEpoch {s0 : State} (s : State) (table : Nat) (shard : Nat) (owner : Nat) (h : Kept s0 s) : Kept s0 (giveEpoch s table shard owner) := by
  unfold giveEpoch
  repeat' with_reducible (first | assumption | (extract_lets +onlyGivenNames x; refine Kept.cut (s := s0) x ?_ ?_; rotate_left; intro hx; clear_value x; rotate_right; unfold x; clear x) | extract_lets +onlyGivenNames x | apply kept_sendRemote | apply kept_acceptChange | refine Kept.foldl _ (fun _ _ _ => ?_) ?_ | refine Kept.foldl_fst _ (fun _ _ _ => ?_) ?_ | refine Kept.foldl_snd _ (fun _ _ _ => ?_) ?_)
theorem kept_submitMap {s0 : State} (s : State) (table : Nat) (shard : Nat) (owner : Nat) (h : Kept s0 s) : Kept s0 (submitMap s table shard owner) := by
  unfold submitMap
  repeat' with_reducible (first | assumption | apply kept_sendRemote | apply kept_giveEpoch | refine Kept.ite ?_ ?_ | split)
theorem kept_submitStep {s0 : State} (s : State) (h : Kept s0 s) : Kept s0 (submitStep s) := by
  unfold submitStep
  repeat' with_reducible (first | assumption | exact Kept.upd (by assumption) rfl | (extract_lets +onlyGivenNames x; refine Kept.cut (s := s0) x ?_ ?_; rotate_left; intro hx; clear_value x; rotate_right; unfold x; clear x) | extract_lets +onlyGivenNames x | apply kept_giveEpoch | refine Kept.ite ?_ ?_ | split)
theorem kept_execTransitCopyDone {s0 : State} (s : State) (h : Kept s0 s) : KeptO s0 (execTransitCopyDone s) := by
  unfold execTransitCopyDone
  repeat' with_reducible (first | assumption | exact Kept.upd (by assumption) rfl | (extract_lets +onlyGivenNames x; refine Kept.cut (s := s0) x ?_ ?_; rotate_left; intro hx; clear_value x; rotate_right; unfold x; clear x) | extract_lets +onlyGivenNames x | apply kept_endItem | apply kept_submitMap | apply KeptO.next | refine KeptO.ite ?_ ?_ | refine Kept.ite ?_ ?_ | split)
theorem kept_takeOwner {s0 : State} (s : State) (table : Nat) (shard : Nat) (owner : Nat) (epoch : Nat) (h : Kept s0 s) : Kept s0 (takeOwner s table shard owner epoch) := by
  unfold takeOwner
  repeat' with_reducible (first | assumption | apply kept_acceptChange | refine Kept.ite ?_ ?_ | split)
theorem kept_loseObject {s0 : State} (s : State) (o : Obj) (h : Kept s0 s) : Kept s0 (loseObject s o) := by
  unfold loseObject
  repeat' with_reducible (first | exact Kept.upd (by assumption) rfl
                                | (extract_lets +onlyGivenNames x; refine Kept.cut (s := s0) x ?_ ?_; rotate_left; intro hx; clear_value x; rotate_right; unfold x; clear x) | apply kept_postEvent | apply kept_poisonOut | refine Kept.ite ?_ ?_)
theorem kept_reportLost {s0 : State} (s : State) (h : Kept s0 s) : Kept s0 (reportLost s) := by
  unfold reportLost
  repeat' with_reducible (first | exact Kept.upd (by assumption) rfl | apply kept_loseObject | refine Kept.foldl _ (fun _ _ _ => ?_) ?_)
theorem kept_markLost {s0 : State} (s : State) (id : Nat) (h : Kept s0 s) : Kept s0 (markLost s id) := by
  unfold markLost
  repeat' with_reducible (first | exact Kept.upd (by assumption) rfl | apply kept_reportLost | refine Kept.ite ?_ ?_)
theorem kept_foundAgain {s0 : State} (s : State) (o : Obj) (h : Kept s0 s) : Kept s0 (foundAgain s o) := by
  unfold foundAgain
  exact Kept.upd (by assumption) rfl
theorem kept_clearSlots {s0 : State} (s : State) (o : Obj) (t : Nat) (h : Kept s0 s) : Kept s0 (clearSlots s o t) := by
  unfold clearSlots
  repeat' with_reducible (first | assumption | exact Kept.upd (by assumption) rfl | (extract_lets +onlyGivenNames x; refine Kept.cut (s := s0) x ?_ ?_; rotate_left; intro hx; clear_value x; rotate_right; unfold x; clear x) | extract_lets +onlyGivenNames x | apply kept_setEntry | refine Kept.foldl _ (fun _ _ _ => ?_) ?_ | refine Kept.foldl_fst _ (fun _ _ _ => ?_) ?_ | refine Kept.foldl_snd _ (fun _ _ _ => ?_) ?_ | refine Kept.ite ?_ ?_ | split)
theorem kept_rebuilt {s0 : State} (s : State) (i : Item) (o : Obj) (t : Nat) (good : Option Bytes) (h : Kept s0 s) : Kept s0 (rebuilt s i o t good) := by
  unfold rebuilt
  extract_lets s1 q s2
  have h1 : Kept s0 s1 := kept_endItem _ _ h
  have h2 : Kept s0 s2 := Kept.upd h1 rfl
  clear_value s2
  split
  · exact kept_clearSlots _ _ _ (kept_countTile _ _ _ _ _ (kept_writeTile _ _ _ _ _ h2))
  · exact kept_markLost _ _ h2
theorem kept_execRebuildDone {s0 : State} (object tile : W32) (unread : Bool) (s : State) (h : Kept s0 s) :
    KeptO s0 (execRebuildDone object tile unread s) := by
  unfold execRebuildDone
  repeat' with_reducible (first | assumption | extract_lets +onlyGivenNames x | apply kept_endItem | apply kept_askTile | apply kept_rebuilt | apply KeptO.next | refine KeptO.ite ?_ ?_ | refine Kept.ite ?_ ?_ | split)

/-! ### Frame -/

theorem kept_countFrame {s0 : State} (s : State) (x : BoundaryIn) (p : Plate) (h : Kept s0 s) : Kept s0 (countFrame s x p) := by
  unfold countFrame
  repeat' with_reducible (first | assumption | exact Kept.upd (by assumption) rfl | (refine Kept.updWith (by assumption) ?_ ?_ ?_ ?_ ?_ ?_ ?_ ?_ ?_ ?_ ?_ ?_ ?_ ?_ <;> first | exact id | (with_unfolding_all (intros; first | assumption | rfl | exact Nat.le_of_ble_eq_true rfl | (apply cdrop_wf; assumption)))) | (extract_lets +onlyGivenNames x; refine Kept.cut (s := s0) x ?_ ?_; rotate_left; intro hx; clear_value x; rotate_right; unfold x; clear x) | extract_lets +onlyGivenNames x | apply kept_count | refine Kept.ite ?_ ?_ | split)
theorem kept_writeArrivals {s0 : State} (s : State) (p : Plate) (h : Kept s0 s) : Kept s0 (writeArrivals s p) := by
  unfold writeArrivals
  repeat' with_reducible (first | assumption | apply kept_writeMem | apply kept_writeFree | refine Kept.foldl _ (fun _ _ _ => ?_) ?_
                                | split)
theorem kept_closeFrame {s0 : State} (s : State) (a1 : BoundaryIn) (h : Kept s0 s) : Kept s0 (closeFrame s a1) := by
  unfold closeFrame
  repeat' with_reducible (first | exact Kept.upd (by assumption) rfl
                                | (extract_lets +onlyGivenNames x; refine Kept.cut (s := s0) x ?_ ?_; rotate_left; intro hx; clear_value x; rotate_right; unfold x; clear x) | apply kept_flushCounters | apply kept_countFrame | apply kept_addRows | apply kept_writeArrivals | split)
theorem kept_openFrame {s0 : State} (s : State) (b : BeatMsg) (h : Kept s0 s) : Kept s0 (openFrame s b) := by
  unfold openFrame
  exact Kept.upd (by assumption) rfl
theorem kept_limitStep {s0 : State} {s : State} {cause : Nat} {left past ok : Bool} {v0 : Bool} {t : State} (e : limitStep s cause left past ok = (v0, t)) (h : Kept s0 s) : Kept s0 t := by
  have k : Kept s0 (limitStep s cause left past ok).2 := by
    unfold limitStep
    repeat' with_reducible (first | exact Kept.upd (by assumption) rfl | extract_lets +onlyGivenNames x | split)
  rw [e] at k; exact k
theorem kept_flagStep {s0 : State} (s : State) (flag code : Nat) (past ok : Bool) (h : Kept s0 s) : Kept s0 (flagStep s flag code past ok) := by
  unfold flagStep
  repeat' with_reducible (first | exact Kept.upd (by assumption) rfl
                                | (extract_lets +onlyGivenNames x; refine Kept.cut (s := s0) x ?_ ?_; rotate_left; intro hx; clear_value x; rotate_right; unfold x; clear x) | extract_lets +onlyGivenNames x | apply kept_logFault | refine kept_limitStep (by assumption) ?_ | split)
theorem kept_envelopeStep {s0 : State} (s : State) (x : BoundaryIn) (h : Kept s0 s) : Kept s0 (envelopeStep s x) := by
  unfold envelopeStep
  extract_lets t hi s1 s2 s3 s4 s5
  have h5 : Kept s0 s5 := kept_flagStep _ _ _ _ _ (kept_flagStep _ _ _ _ _ (kept_flagStep _ _ _ _ _ (kept_flagStep _ _ _ _ _
    (kept_flagStep _ _ _ _ _ h))))
  clear_value s5
  split
  have h6 := kept_limitStep (by assumption) h5
  split
  have h7 := kept_limitStep (by assumption) h6
  exact Kept.updWith h7 id id id (fun a _ => a) id id id id id id id id id id
theorem kept_setLost {s0 : State} (s : State) (lost : Bool) (h : Kept s0 s) : Kept s0 (setLost s lost) := by
  unfold setLost
  repeat' with_reducible (first | exact Kept.upd (by assumption) rfl
                                | (extract_lets +onlyGivenNames x; refine Kept.cut (s := s0) x ?_ ?_; rotate_left; intro hx; clear_value x; rotate_right; unfold x; clear x) | apply kept_logFault | refine Kept.ite ?_ ?_)
theorem kept_pointStep {s0 : State} (s : State) (asked : Bool) (h : Kept s0 s) : Kept s0 (pointStep s asked) := by
  unfold pointStep
  repeat' with_reducible (first | exact Kept.upd (by assumption) rfl
                                | (extract_lets +onlyGivenNames x; refine Kept.cut (s := s0) x ?_ ?_; rotate_left; intro hx; clear_value x; rotate_right; unfold x; clear x) | extract_lets +onlyGivenNames x | apply kept_logFault | apply kept_setLost | split)
theorem kept_policyStep {s0 : State} (s : State) (h : Kept s0 s) : Kept s0 (policyStep s) := by
  unfold policyStep
  repeat' with_reducible (first | exact Kept.upd (by assumption) rfl | apply kept_finish | apply kept_retain
                                | refine Kept.foldl _ (fun _ _ _ => ?_) ?_)
theorem kept_burinStep {s0 : State} (s : State) (a1 : BoundaryIn) (fresh : Bool) (h : Kept s0 s) : Kept s0 (burinStep s a1 fresh) := by
  unfold burinStep
  repeat' with_reducible (first | assumption | apply kept_powerIbi | apply kept_flatFlags | apply kept_reportPower
                                | apply kept_envelopeStep | apply kept_pointStep | apply kept_policyStep | refine Kept.ite ?_ ?_)
theorem kept_countingStep {s0 : State} (s : State) (h : Kept s0 s) : Kept s0 (countingStep s) := by
  unfold countingStep
  repeat' with_reducible (first | exact Kept.upd (by assumption) rfl
                                | (extract_lets +onlyGivenNames x; refine Kept.cut (s := s0) x ?_ ?_; rotate_left; intro hx; clear_value x; rotate_right; unfold x; clear x) | extract_lets +onlyGivenNames x | apply kept_count | refine Kept.ite ?_ ?_)
theorem kept_redriveOne {s0 : State} (x : List Encoding) (s : State) (i : Nat) (sn : Nat) (bytes : Bytes) (h : Kept s0 s) : Kept s0 (redriveOne x s i sn bytes) := by
  unfold redriveOne
  repeat' with_reducible (first | assumption | exact Kept.upd (by assumption) rfl | (refine Kept.updWith (by assumption) ?_ ?_ ?_ ?_ ?_ ?_ ?_ ?_ ?_ ?_ ?_ ?_ ?_ ?_ <;> first | exact id | (with_unfolding_all (intros; first | assumption | rfl | exact Nat.le_of_ble_eq_true rfl | (apply cdrop_wf; assumption)))) | (extract_lets +onlyGivenNames x; refine Kept.cut (s := s0) x ?_ ?_; rotate_left; intro hx; clear_value x; rotate_right; unfold x; clear x) | extract_lets +onlyGivenNames x | apply kept_notYet | refine Kept.getD ?_ (fun _ _ => ?_) | refine Kept.ite ?_ ?_ | split)
theorem kept_redrive {s0 : State} (x : List Encoding) (s : State) (h : Kept s0 s) : Kept s0 (redrive x s) := by
  unfold redrive
  repeat' with_reducible (first | assumption | exact Kept.upd (by assumption) rfl | (extract_lets +onlyGivenNames x; refine Kept.cut (s := s0) x ?_ ?_; rotate_left; intro hx; clear_value x; rotate_right; unfold x; clear x) | extract_lets +onlyGivenNames x | apply kept_redriveOne | apply kept_redrive | refine Kept.foldl _ (fun _ _ _ => ?_) ?_ | refine Kept.foldl_fst _ (fun _ _ _ => ?_) ?_ | refine Kept.foldl_snd _ (fun _ _ _ => ?_) ?_ | refine Kept.ite ?_ ?_ | split)
theorem kept_busyStep {s0 : State} (s : State) (newView fresh : Bool) (h : Kept s0 s) : Kept s0 (busyStep s newView fresh) := by
  unfold busyStep
  repeat' with_reducible (first | assumption | apply kept_markBusy | refine Kept.foldl _ (fun _ _ _ => ?_) ?_)
theorem kept_queueMerges {s0 : State} (s : State) (d : Desc) (h : Kept s0 s) : Kept s0 (queueMerges s d) := by
  unfold queueMerges
  repeat' with_reducible (first | assumption | apply kept_addItem | refine Kept.foldl _ (fun _ _ _ => ?_) ?_ | refine Kept.ite ?_ ?_)
theorem kept_ageItem {s0 : State} (s : State) (i : Item) (h : Kept s0 s) : Kept s0 (ageItem s i) := by
  unfold ageItem
  repeat' with_reducible (first | assumption | exact Kept.upd (by assumption) rfl | (refine Kept.updWith (by assumption) ?_ ?_ ?_ ?_ ?_ ?_ ?_ ?_ ?_ ?_ ?_ ?_ ?_ ?_ <;> first | exact id | (with_unfolding_all (intros; first | assumption | rfl | exact Nat.le_of_ble_eq_true rfl | (apply cdrop_wf; assumption)))) | (extract_lets +onlyGivenNames x; refine Kept.cut (s := s0) x ?_ ?_; rotate_left; intro hx; clear_value x; rotate_right; unfold x; clear x) | extract_lets +onlyGivenNames x | apply kept_count | apply kept_postEvent | apply kept_orrSend | refine Kept.ite ?_ ?_ | split)
theorem kept_queueScrub {s0 : State} (s : State) (h : Kept s0 s) : Kept s0 (queueScrub s) := by
  unfold queueScrub
  repeat' with_reducible (first | exact Kept.upd (by assumption) rfl
                                | (extract_lets +onlyGivenNames x; refine Kept.cut (s := s0) x ?_ ?_; rotate_left; intro hx; clear_value x; rotate_right; unfold x; clear x) | extract_lets +onlyGivenNames x | apply kept_addItem | refine Kept.ite ?_ ?_)
theorem kept_reclaimSlice {s0 : State} (s : State) (sl : Nat) (h : Kept s0 s) : Kept s0 (reclaimSlice s sl) := by
  unfold reclaimSlice
  repeat' with_reducible (first | assumption | exact Kept.upd (by assumption) rfl | (extract_lets +onlyGivenNames x; refine Kept.cut (s := s0) x ?_ ?_; rotate_left; intro hx; clear_value x; rotate_right; unfold x; clear x) | extract_lets +onlyGivenNames x | exact Kept.upd (kept_draw rfl (by assumption)) rfl | exact Kept.upd (kept_draw (by assumption) (by assumption)) rfl | refine kept_draw (by assumption) ?_ | refine kept_draw rfl ?_ | apply kept_addItem | refine Kept.ite ?_ ?_ | split)
theorem kept_queueReclaim {s0 : State} (s : State) (h : Kept s0 s) : Kept s0 (queueReclaim s) := by
  unfold queueReclaim
  repeat' with_reducible (first | assumption | apply kept_reclaimSlice | refine Kept.foldl _ (fun _ _ _ => ?_) ?_ | refine Kept.foldl_fst _ (fun _ _ _ => ?_) ?_ | refine Kept.foldl_snd _ (fun _ _ _ => ?_) ?_)
theorem kept_startErases {s0 : State} (s : State) (h : Kept s0 s) : Kept s0 (startErases s) := by
  unfold startErases
  exact Kept.upd (by assumption) rfl
theorem kept_startMerge {s0 : State} (s : State) (lane : Nat) (h : Kept s0 s) : Kept s0 (startMerge s lane) := by
  unfold startMerge
  repeat' with_reducible (first | exact Kept.upd (by assumption) rfl | extract_lets +onlyGivenNames x | apply kept_sendRemote | split)
theorem kept_maintStep {s0 : State} (s : State) (h : Kept s0 s) : Kept s0 (maintStep s) := by
  unfold maintStep
  repeat' with_reducible (first | assumption | exact Kept.upd (by assumption) rfl | (extract_lets +onlyGivenNames x; refine Kept.cut (s := s0) x ?_ ?_; rotate_left; intro hx; clear_value x; rotate_right; unfold x; clear x) | extract_lets +onlyGivenNames x | apply kept_landMoves | apply kept_mergeStep | apply kept_queueMerges | apply kept_ageItem | apply kept_queueScrub | apply kept_queueReclaim | apply kept_startErases | apply kept_startMerge | refine Kept.foldl _ (fun _ _ _ => ?_) ?_ | refine Kept.foldl_fst _ (fun _ _ _ => ?_) ?_ | refine Kept.foldl_snd _ (fun _ _ _ => ?_) ?_)
theorem kept_queueTiles {s0 : State} (s : State) (ts : List (Nat × Nat)) (h : Kept s0 s) : Kept s0 (queueTiles s ts) := by
  unfold queueTiles
  repeat' with_reducible (first | assumption | apply kept_addItem | refine Kept.foldl _ (fun _ _ _ => ?_) ?_)
theorem kept_loadStep {s0 : State} (s : State) (begins : Bool) (h : Kept s0 s) : Kept s0 (loadStep s begins) := by
  unfold loadStep
  repeat' with_reducible (first | assumption | exact Kept.upd (by assumption) rfl | (extract_lets +onlyGivenNames x; refine Kept.cut (s := s0) x ?_ ?_; rotate_left; intro hx; clear_value x; rotate_right; unfold x; clear x) | extract_lets +onlyGivenNames x | exact Kept.upd (kept_draw rfl (by assumption)) rfl | exact Kept.upd (kept_draw (by assumption) (by assumption)) rfl | refine kept_draw (by assumption) ?_ | refine kept_draw rfl ?_ | apply kept_sendRemote | apply kept_queueTiles | refine Kept.getD ?_ (fun _ _ => ?_) | refine Kept.ite ?_ ?_ | split)
theorem kept_logLate {s0 : State} (s : State) (r : FRead) (cause : Nat) (h : Kept s0 s) : Kept s0 (logLate s r cause) := by
  unfold logLate
  repeat' with_reducible (first | exact Kept.upd (by assumption) rfl | apply kept_countRec | apply kept_countFc | refine Kept.ite ?_ ?_)
theorem kept_freeStaging {s0 : State} (s : State) (h : Kept s0 s) : Kept s0 (freeStaging s) := by
  unfold freeStaging
  exact Kept.upd (by assumption) rfl
theorem kept_freeReceived {s0 : State} (s : State) (h : Kept s0 s) : Kept s0 (freeReceived s) := by
  unfold freeReceived
  repeat' with_reducible (first | assumption | exact Kept.upd (by assumption) rfl | (extract_lets +onlyGivenNames x; refine Kept.cut (s := s0) x ?_ ?_; rotate_left; intro hx; clear_value x; rotate_right; unfold x; clear x) | extract_lets +onlyGivenNames x | split)
theorem kept_endShares {s0 : State} (s : State) (h : Kept s0 s) : Kept s0 (endShares s) := by
  unfold endShares
  repeat' with_reducible (first | assumption | exact Kept.upd (by assumption) rfl | (extract_lets +onlyGivenNames x; refine Kept.cut (s := s0) x ?_ ?_; rotate_left; intro hx; clear_value x; rotate_right; unfold x; clear x) | extract_lets +onlyGivenNames x)
theorem kept_clearStaged {s0 : State} (s : State) (h : Kept s0 s) : Kept s0 (clearStaged s) := by
  unfold clearStaged
  repeat' with_reducible (first | exact Kept.upd (by assumption) rfl
                                | (extract_lets +onlyGivenNames x; refine Kept.cut (s := s0) x ?_ ?_; rotate_left; intro hx; clear_value x; rotate_right; unfold x; clear x) | apply kept_setEntry | refine Kept.foldl _ (fun _ _ _ => ?_) ?_)
theorem kept_closeRead {s0 : State} (s : State) (r : FRead) (h : Kept s0 s) : Kept s0 (closeRead s r) := by
  unfold closeRead
  repeat' with_reducible (first | assumption | exact Kept.upd (by assumption) rfl | (extract_lets +onlyGivenNames x; refine Kept.cut (s := s0) x ?_ ?_; rotate_left; intro hx; clear_value x; rotate_right; unfold x; clear x) | extract_lets +onlyGivenNames x | apply kept_endRead | apply kept_logLate | split)
theorem kept_closeWindows {s0 : State} (s : State) (h : Kept s0 s) : Kept s0 (closeWindows s) := by
  unfold closeWindows
  repeat' with_reducible (first | assumption | exact Kept.upd (by assumption) rfl | (extract_lets +onlyGivenNames x; refine Kept.cut (s := s0) x ?_ ?_; rotate_left; intro hx; clear_value x; rotate_right; unfold x; clear x) | extract_lets +onlyGivenNames x | apply kept_closeRead | refine Kept.foldl _ (fun _ _ _ => ?_) ?_ | refine Kept.foldl_fst _ (fun _ _ _ => ?_) ?_ | refine Kept.foldl_snd _ (fun _ _ _ => ?_) ?_)
theorem kept_flashStep {s0 : State} (s : State) (h : Kept s0 s) : Kept s0 (flashStep s) := by
  unfold flashStep
  repeat' with_reducible (first | assumption | exact Kept.upd (by assumption) rfl | (extract_lets +onlyGivenNames x; refine Kept.cut (s := s0) x ?_ ?_; rotate_left; intro hx; clear_value x; rotate_right; unfold x; clear x) | extract_lets +onlyGivenNames x | apply kept_poisonSlot | apply kept_freeStaging | apply kept_freeReceived | apply kept_clearStaged | refine Kept.foldl _ (fun _ _ _ => ?_) ?_ | refine Kept.foldl_fst _ (fun _ _ _ => ?_) ?_ | refine Kept.foldl_snd _ (fun _ _ _ => ?_) ?_ | split)
theorem kept_transitStep' {s0 : State} (s : State) (fresh : Bool) (h : Kept s0 s) : Kept s0 (transitStep' s fresh) := by
  unfold transitStep'
  repeat' with_reducible (first | assumption | exact Kept.upd (by assumption) rfl | (extract_lets +onlyGivenNames x; refine Kept.cut (s := s0) x ?_ ?_; rotate_left; intro hx; clear_value x; rotate_right; unfold x; clear x) | extract_lets +onlyGivenNames x | apply kept_cancelTransit | apply kept_dropArrival | refine Kept.foldl _ (fun _ _ _ => ?_) ?_ | refine Kept.foldl_fst _ (fun _ _ _ => ?_) ?_ | refine Kept.foldl_snd _ (fun _ _ _ => ?_) ?_ | refine Kept.ite ?_ ?_ | split)
theorem kept_transitionStep {s0 : State} (s : State) (h : Kept s0 s) : Kept s0 (transitionStep s) := by
  unfold transitionStep
  repeat' with_reducible (first | assumption | refine kept_enterState _ _ (fun _ => by decide) ?_ | apply kept_abortIllegal
                                | apply kept_finishTrans | split)
theorem kept_returnSpace {s0 : State} (s : State) (h : Kept s0 s) : Kept s0 (returnSpace s) := by
  unfold returnSpace
  exact Kept.upd (by assumption) rfl
theorem kept_quiesceStep {s0 : State} (s : State) (h : Kept s0 s) : Kept s0 (quiesceStep s) := by
  unfold quiesceStep
  exact Kept.upd (by assumption) rfl
theorem kept_startComposition {s0 : State} (s : State) (h : Kept s0 s) : Kept s0 (startComposition s) := by
  unfold startComposition
  repeat' with_reducible (first | exact Kept.upd (by assumption) rfl | extract_lets +onlyGivenNames x | apply kept_refuseBad
                                | apply kept_acceptChange | apply kept_applyNext | split)
theorem kept_viewStep {s0 : State} {s : State} {num : Nat} {t : State} {v1 : Bool} (e : viewStep s num = (t, v1)) (h : Kept s0 s) : Kept s0 t := by
  have k : Kept s0 (viewStep s num).1 := by
    unfold viewStep
    repeat' with_reducible (first | assumption | apply kept_adoptView | split)
  rw [e] at k; exact k
theorem kept_stopClosing {s0 : State} (s : State) (h : Kept s0 s) : Kept s0 (stopClosing s) := by
  unfold stopClosing
  exact Kept.upd (by assumption) rfl
theorem kept_promoteStep {s0 : State} (s : State) (h : Kept s0 s) : Kept s0 (promoteStep s) := by
  unfold promoteStep
  repeat' with_reducible (first | exact Kept.upd (by assumption) rfl | apply kept_finish | refine Kept.foldl _ (fun _ _ _ => ?_) ?_
                                | refine Kept.ite ?_ ?_)
theorem kept_takeRemote {s0 : State} (s : State) (m : Remote) (h : Kept s0 s) : Kept s0 (takeRemote s m) := by
  unfold takeRemote
  split
  · rename_i t _ _ e
    cases k : takeQuery s m with
    | some u => rw [k] at e; cases e; exact kept_takeQuery k h
    | none => rw [k] at e; exact kept_takeMember e h
  · rename_i t _ _ e
    cases k : takeUpdate s m with
    | some u => rw [k] at e; cases e; exact kept_takeUpdate k h
    | none => rw [k] at e; exact kept_takeRun e h
  · rename_i t _ _ e
    exact kept_takeTable e h
  · repeat' with_reducible (first | assumption | exact Kept.upd (by assumption) rfl | apply kept_takeMap | apply kept_takeOwner | apply kept_dropArrival | apply kept_answerTile | split)
theorem kept_checkScale {s0 : State} (s : State) (a : Nat) (h : Kept s0 s) : Kept s0 (checkScale s a) := by
  unfold checkScale
  repeat' with_reducible (first | assumption | exact Kept.upd (by assumption) rfl | (extract_lets +onlyGivenNames x; refine Kept.cut (s := s0) x ?_ ?_; rotate_left; intro hx; clear_value x; rotate_right; unfold x; clear x) | extract_lets +onlyGivenNames x | apply kept_writeNat | apply kept_count | apply kept_setConstant | refine Kept.ite ?_ ?_ | split)
theorem kept_loseWord {s0 : State} (s : State) (a : Nat) (h : Kept s0 s) : Kept s0 (loseWord s a) := by
  unfold loseWord
  repeat' with_reducible (first | assumption | exact Kept.upd (by assumption) rfl | (extract_lets +onlyGivenNames x; refine Kept.cut (s := s0) x ?_ ?_; rotate_left; intro hx; clear_value x; rotate_right; unfold x; clear x) | extract_lets +onlyGivenNames x | apply kept_setMarks | apply kept_poisonFinding | apply kept_writeFree | split)
theorem kept_boundaryWork {s0 : State} (s : State) (x : BoundaryIn) (newView : Bool) (fresh : Bool) (begins : Bool) (h : Kept s0 s) : Kept s0 (boundaryWork s x newView fresh begins) := by
  unfold boundaryWork
  repeat' with_reducible (first | assumption | exact Kept.upd (by assumption) rfl | (extract_lets +onlyGivenNames x; refine Kept.cut (s := s0) x ?_ ?_; rotate_left; intro hx; clear_value x; rotate_right; unfold x; clear x) | extract_lets +onlyGivenNames x | apply kept_takeStroke | apply kept_forgetWrites | apply kept_sendReports | apply kept_applyMarks | apply kept_homeFrames | apply kept_tablesStep | apply kept_admission | apply kept_resultsDue | apply kept_withdraw | apply kept_claimCustody | apply kept_submitStep | apply kept_reportLost | apply kept_redrive | apply kept_busyStep | apply kept_maintStep | apply kept_loadStep | apply kept_endShares | apply kept_closeWindows | apply kept_flashStep | apply kept_transitStep' | apply kept_transitionStep | apply kept_raiseEvents | apply kept_returnSpace | apply kept_quiesceStep | apply kept_stopClosing | apply kept_promoteStep | apply kept_takeRemote | apply kept_checkScale | apply kept_loseWord | refine Kept.foldl _ (fun _ _ _ => ?_) ?_ | refine Kept.foldl_fst _ (fun _ _ _ => ?_) ?_ | refine Kept.foldl_snd _ (fun _ _ _ => ?_) ?_ | refine Kept.ite ?_ ?_ | split)
theorem kept_newFrame {s0 : State} (s : State) (x : BoundaryIn) (b : BeatMsg) (fresh : Bool) (h : Kept s0 s) : Kept s0 (newFrame s x b fresh) := by
  unfold newFrame
  extract_lets image p s1 q s2 s3 s4 loading
  have h1 : Kept s0 s1 := kept_openFrame _ _ (Kept.upd h rfl)
  clear_value s1
  have h2 : Kept s0 s2 := by
    simp only [s2]
    split
    · exact kept_startComposition _ (Kept.upd h1 rfl)
    · exact h1
  clear_value s2
  have h3 : Kept s0 s3 := kept_dropAbandoned _ h2
  clear_value s3
  have h4 : Kept s0 s4 := by
    simp only [s4]
    split
    · exact kept_applyNext _ h3
    · exact h3
  clear_value s4 image loading
  have h5 : Kept s0 (viewStep s4 b.view.toNat).1 := kept_viewStep rfl h4
  generalize viewStep s4 b.view.toNat = v at h5 ⊢
  obtain ⟨s5, nv⟩ := v
  dsimp only at h5 ⊢
  split
  · exact h5
  · split
    · exact Kept.upd h5 rfl
    · have h6 := kept_quarantineStep _ h5
      generalize quarantineStep s5 = s6 at h6 ⊢
      split
      · exact kept_enterFault _ h6
      · exact kept_boundaryWork _ _ _ _ _ (kept_countingStep _ (kept_burinStep _ _ _ h6))
theorem kept_stopNode {s0 : State} (s : State) (st : Nat) (hs : s0.nodeLegal = true → st ≤ 9) (h : Kept s0 s) : Kept s0 (stopNode s st) := by
  unfold stopNode
  split
  · exact kept_enterFault _ h
  · exact kept_moveTo _ _ hs (kept_haltPlate _ h)
theorem kept_execFrameBegin {s0 : State} (x : BoundaryIn) (s : State) (h : Kept s0 s) : KeptO s0 (execFrameBegin x s) := by
  unfold execFrameBegin
  split
  · split
    · exact KeptO.next h
    · split
      · rename_i st _ hst
        refine KeptO.next (kept_stopNode _ _ (fun k => ?_) (kept_closeFrame _ _ h))
        have := h.node k
        simp only [State.nodeLegal, hst, Option.all_some, Bool.and_eq_true, decide_eq_true_eq] at this
        exact this.1.2
      · exact KeptO.next h
      · exact KeptO.next (kept_newFrame _ _ _ _ (kept_closeFrame _ _ h))
  · split
    · exact KeptO.next h
    · split
      · exact KeptO.next (kept_newFrame _ _ _ _ h)
      · exact KeptO.next h
theorem kept_execEnvelopeGraceExpire {s0 : State} (s : State) (h : Kept s0 s) : KeptO s0 (execEnvelopeGraceExpire s) := by
  unfold execEnvelopeGraceExpire
  repeat' with_reducible (first | (refine Kept.updWith (by assumption) ?_ ?_ ?_ ?_ ?_ ?_ ?_ ?_ ?_ ?_ ?_ ?_ ?_ ?_ <;> first | exact id | (with_unfolding_all (intros; first | assumption | rfl | exact Nat.le_of_ble_eq_true rfl | (apply cdrop_wf; assumption)))) | apply KeptO.next | split)
theorem kept_execEnvelopeHoldStart {s0 : State} (s : State) (h : Kept s0 s) : KeptO s0 (execEnvelopeHoldStart s) := by
  unfold execEnvelopeHoldStart
  repeat' with_reducible (first | exact Kept.upd (by assumption) rfl | apply kept_powerIbi | apply kept_beginSoak | apply KeptO.next
                                | refine KeptO.ite ?_ ?_)

end Sys2Proof.Machine
end

