-- ==== Sys2Proof/Laws/KeptHost.lean ====
section
/-!
SUPPORT. Soundness is kept (`Kept`) by the commands of the mailboxes and the ports.
-/
namespace Sys2Proof.Machine

set_option linter.tactic.unusedName false

/-! ### Take -/

theorem kept_reply {s0 : State} (s : State) (c : Cmd) (r : Reply) (h : Kept s0 s) : Kept s0 (reply s c r) := by
  unfold reply
  repeat' with_reducible (first | assumption | apply kept_answer)
theorem kept_replyS {s0 : State} (s : State) (c : Cmd) (status : Nat) (h : Kept s0 s) : Kept s0 (replyS s c status) := by
  unfold replyS
  repeat' with_reducible (first | assumption | apply kept_reply)
theorem kept_replyD {s0 : State} (s : State) (c : Cmd) (status detail : Nat) (h : Kept s0 s) : Kept s0 (replyD s c status detail) := by
  unfold replyD
  repeat' with_reducible (first | assumption | apply kept_reply)
theorem kept_badState {s0 : State} (s : State) (c : Cmd) (detail : Nat) (h : Kept s0 s) : Kept s0 (badState s c detail) := by
  unfold badState
  repeat' with_reducible (first | assumption | apply kept_reply)
theorem kept_hold {s0 : State} (s : State) (c : Cmd) (arg : Nat) (h : Kept s0 s) : Kept s0 (hold s c arg) := by
  unfold hold
  exact Kept.upd (by assumption) rfl
theorem kept_taken {s0 : State} (s : State) (m : Nat) (h : Kept s0 s) : Kept s0 (taken s m) := by
  unfold taken
  repeat' with_reducible (first | exact Kept.upd (by assumption) rfl | apply kept_setFrame)
theorem kept_replay {s0 : State} (s : State) (c : Cmd) (l : LastResp) (h : Kept s0 s) : Kept s0 (replay s c l) := by
  unfold replay
  repeat' with_reducible (first | assumption | apply kept_respond)
theorem kept_badSeal {s0 : State} (s : State) (c : Cmd) (h : Kept s0 s) : Kept s0 (badSeal s c) := by
  unfold badSeal
  repeat' with_reducible (first | exact Kept.upd (by assumption) rfl | apply kept_reply)
theorem kept_take {s0 : State} (code : Nat) (params : State → Cmd → Option Nat) (effect : State → Cmd → State) (m : Fin 64) (s : State)
    (he : ∀ x c, Kept s0 x → Kept s0 (effect x c)) (h : Kept s0 s) : KeptO s0 (take code params effect m s) := by
  unfold take
  have h1 : Kept s0 (taken s m.val) := kept_taken _ _ h
  generalize taken s m.val = x at h1
  dsimp only
  repeat' with_reducible (first | assumption | apply KeptO.next | apply kept_badSeal | apply kept_replay | apply kept_reply | apply he
                                | split)
theorem kept_countDmaRead {s0 : State} (s : State) (c : Cmd) (n : Nat) (h : Kept s0 s) : Kept s0 (countDmaRead s c n) := by
  unfold countDmaRead
  repeat' with_reducible (first | assumption | apply kept_count)
theorem kept_countDmaFail {s0 : State} (s : State) (c : Cmd) (h : Kept s0 s) : Kept s0 (countDmaFail s c) := by
  unfold countDmaFail
  repeat' with_reducible (first | assumption | apply kept_count)
theorem kept_hostDma {s0 : State} (s : State) (c : Cmd) (k moved : Nat) (h : Kept s0 s) : Kept s0 (hostDma s c k moved) := by
  unfold hostDma
  repeat' with_reducible (first | assumption | apply kept_reply | apply kept_countDmaFail)
theorem kept_withBuffer {s0 : State} (s : State) (c : Cmd) (d : Dma) (n : Nat) (go : State → Bytes → State)
    (hg : ∀ x b, Kept s0 x → Kept s0 (go x b)) (h : Kept s0 s) : Kept s0 (withBuffer s c d n go) := by
  unfold withBuffer
  split
  · exact kept_hostDma _ _ _ _ (kept_countDmaRead _ _ _ h)
  · exact hg _ _ (kept_countDmaRead _ _ _ h)
theorem kept_toBuffer {s0 : State} (s : State) (c : Cmd) (o : Nat) (d : Dma) (bs : Bytes) (go : State → State)
    (hg : ∀ x, Kept s0 x → Kept s0 (go x)) (h : Kept s0 s) : Kept s0 (toBuffer s c o d bs go) := by
  unfold toBuffer
  split
  · exact kept_reply _ _ _ h
  · split
    · exact kept_hostDma _ _ _ _ (kept_hostWrite _ _ _ _ h)
    · exact hg _ (kept_hostWrite _ _ _ _ h)

/-! ### Information -/

theorem kept_execNodeInfo {s0 : State} (m : Fin 64) (s : State) (h : Kept s0 s) : KeptO s0 (execNodeInfo m s) := by
  unfold execNodeInfo
  repeat' with_reducible (first | assumption | apply kept_reply | refine kept_take _ _ _ _ _ (fun _ _ _ => ?_) ?_)
theorem kept_execNodeStatus {s0 : State} (m : Fin 64) (t : Telemetry) (s : State) (h : Kept s0 s) : KeptO s0 (execNodeStatus m t s) := by
  unfold execNodeStatus
  repeat' with_reducible (first | exact Kept.upd (by assumption) rfl | apply kept_reply | refine kept_take _ _ _ _ _ (fun _ _ _ => ?_) ?_)
theorem kept_execAttest {s0 : State} (m : Fin 64) (d : Dma) (s : State) (h : Kept s0 s) : KeptO s0 (execAttest m d s) := by
  unfold execAttest
  repeat' with_reducible (first | exact Kept.upd (by assumption) rfl | apply kept_replyS | apply kept_replyD
                                | refine kept_take _ _ _ _ _ (fun _ _ _ => ?_) ?_ | refine kept_toBuffer _ _ _ _ _ _ (fun _ _ => ?_) ?_
                                | split)
theorem kept_execCounterRead {s0 : State} (m : Fin 64) (d : Dma) (s : State) (h : Kept s0 s) : KeptO s0 (execCounterRead m d s) := by
  unfold execCounterRead
  repeat' with_reducible (first | assumption | apply kept_flushCounters | apply kept_replyS
                                | refine kept_take _ _ _ _ _ (fun _ _ _ => ?_) ?_ | refine kept_toBuffer _ _ _ _ _ _ (fun _ _ => ?_) ?_
                                | refine Kept.ite ?_ ?_)
theorem kept_clearLog {s0 : State} (s : State) (log sl n : Nat) (h : Kept s0 s) : Kept s0 (clearLog s log sl n) := by
  unfold clearLog
  repeat' with_reducible (first | exact Kept.upd (by assumption) rfl | refine Kept.ite ?_ ?_)
theorem kept_execLogRead {s0 : State} (m : Fin 64) (d : Dma) (s : State) (h : Kept s0 s) : KeptO s0 (execLogRead m d s) := by
  unfold execLogRead
  repeat' with_reducible (first | assumption | apply kept_reply | refine kept_take _ _ _ _ _ (fun _ _ _ => ?_) ?_
                                | refine kept_toBuffer _ _ _ _ _ _ (fun _ _ => ?_) ?_ | apply kept_clearLog | refine Kept.ite ?_ ?_)

/-! ### Composition -/

theorem kept_writeNext {s0 : State} (s : State) (c : Cmd) (o : NextObj) (h : Kept s0 s) : Kept s0 (writeNext s c o) := by
  unfold writeNext
  repeat' with_reducible (first | assumption | apply kept_addNext | apply kept_hold)
theorem kept_execClusterMap {s0 : State} (m : Fin 64) (s : State) (h : Kept s0 s) : KeptO s0 (execClusterMap m s) := by
  unfold execClusterMap
  repeat' with_reducible (first | assumption | refine kept_take _ _ _ _ _ (fun _ _ _ => ?_) ?_ | apply kept_writeNext)
theorem kept_execBpmap {s0 : State} (m : Fin 64) (s : State) (h : Kept s0 s) : KeptO s0 (execBpmap m s) := by
  unfold execBpmap
  repeat' with_reducible (first | assumption | apply kept_startSpareCopy | refine kept_take _ _ _ _ _ (fun _ _ _ => ?_) ?_
                                | apply kept_writeNext | refine Kept.ite ?_ ?_)
theorem kept_badBuffer {s0 : State} (s : State) (c : Cmd) (off : Nat) (h : Kept s0 s) : Kept s0 (badBuffer s c off) := by
  unfold badBuffer
  repeat' with_reducible (first | assumption | apply kept_reply)
theorem kept_withParts {s0 : State} (s : State) (b : Bytes) (epoch : Nat) (h : Kept s0 s) : Kept s0 (withParts s b epoch) := by
  unfold withParts
  exact Kept.upd (by assumption) rfl
theorem kept_refuseNow {s0 : State} (s : State) (c : Cmd) (o : NextObj) (reason : Nat) (data : Bytes) (h : Kept s0 s) : Kept s0 (refuseNow s c o reason data) := by
  unfold refuseNow
  repeat' with_reducible (first | assumption | apply kept_postRefused | apply kept_reply)
theorem kept_composeNow {s0 : State} (t s : State) (c : Cmd) (b : Bytes) (epoch : Nat) (ht : Kept s0 t) (h : Kept s0 s) :
    Kept s0 (composeNow t s c b epoch) := by
  unfold composeNow
  repeat' with_reducible (first | exact Kept.upd (by assumption) rfl | apply kept_replyS | apply kept_refuseNow | split)
theorem kept_execCompose {s0 : State} (m : Fin 64) (d : Dma) (s : State) (h : Kept s0 s) : KeptO s0 (execCompose m d s) := by
  unfold execCompose
  repeat' with_reducible (first | assumption | apply kept_acceptChange | apply kept_replyS | apply kept_badState | apply kept_hold
                                | refine kept_take _ _ _ _ _ (fun _ _ _ => ?_) ?_ | refine kept_withBuffer _ _ _ _ _ (fun _ _ _ => ?_) ?_
                                | apply kept_badBuffer | apply kept_composeNow | split)
theorem kept_execPhaseLoad {s0 : State} (m : Fin 64) (d : Dma) (s : State) (h : Kept s0 s) : KeptO s0 (execPhaseLoad m d s) := by
  unfold execPhaseLoad
  repeat' with_reducible (first | exact Kept.upd (by assumption) rfl | extract_lets +onlyGivenNames x | apply kept_replyS
                                | apply kept_badState | refine kept_take _ _ _ _ _ (fun _ _ _ => ?_) ?_
                                | refine kept_withBuffer _ _ _ _ _ (fun _ _ _ => ?_) ?_ | apply kept_badBuffer | apply kept_refuseNow
                                | split)
theorem kept_execPhase {s0 : State} (m : Fin 64) (d : Dma) (s : State) (h : Kept s0 s) : KeptO s0 (execPhase m d s) := by
  unfold execPhase
  repeat' with_reducible (first | exact Kept.upd (by assumption) rfl
                                | (extract_lets +onlyGivenNames x; refine Kept.cut (s := s0) x ?_ ?_; rotate_left; intro hx; clear_value x; rotate_right; unfold x; clear x) | extract_lets +onlyGivenNames x | apply kept_acceptChange | apply kept_badState | apply kept_hold | refine kept_take _ _ _ _ _ (fun _ _ _ => ?_) ?_ | refine kept_withBuffer _ _ _ _ _ (fun _ _ _ => ?_) ?_ | split)
theorem kept_execQuotaSet {s0 : State} (m : Fin 64) (s : State) (h : Kept s0 s) : KeptO s0 (execQuotaSet m s) := by
  unfold execQuotaSet
  repeat' with_reducible (first | exact Kept.upd (by assumption) rfl | apply kept_retain | apply kept_reply
                                | refine kept_take _ _ _ _ _ (fun _ _ _ => ?_) ?_ | refine Kept.ite ?_ ?_)
theorem kept_applyIdle {s0 : State} (s : State) (h : Kept s0 s) : Kept s0 (applyIdle s) := by
  unfold applyIdle
  repeat' with_reducible (first | assumption | apply kept_idlePower | apply kept_policyStep | refine Kept.ite ?_ ?_)
theorem kept_execOppointSet {s0 : State} (m : Fin 64) (s : State) (h : Kept s0 s) : KeptO s0 (execOppointSet m s) := by
  unfold execOppointSet
  repeat' with_reducible (first | exact Kept.upd (by assumption) rfl
                                | (extract_lets +onlyGivenNames x; refine Kept.cut (s := s0) x ?_ ?_; rotate_left; intro hx; clear_value x; rotate_right; unfold x; clear x) | extract_lets +onlyGivenNames x | apply kept_reply | apply kept_hold | refine kept_take _ _ _ _ _ (fun _ _ _ => ?_) ?_ | apply kept_applyIdle | split)
theorem kept_execPolicySet {s0 : State} (m : Fin 64) (s : State) (h : Kept s0 s) : KeptO s0 (execPolicySet m s) := by
  unfold execPolicySet
  repeat' with_reducible (first | exact Kept.upd (by assumption) rfl
                                | (extract_lets +onlyGivenNames x; refine Kept.cut (s := s0) x ?_ ?_; rotate_left; intro hx; clear_value x; rotate_right; unfold x; clear x) | apply kept_hold | refine kept_take _ _ _ _ _ (fun _ _ _ => ?_) ?_ | apply kept_applyIdle)

/-! ### Content -/

theorem kept_execObjAlloc {s0 : State} (m : Fin 64) (s : State) (h : Kept s0 s) : KeptO s0 (execObjAlloc m s) := by
  unfold execObjAlloc
  repeat' with_reducible (first | exact Kept.upd (by assumption) rfl | extract_lets +onlyGivenNames x | apply kept_reply
                                | apply kept_replyS | refine kept_take _ _ _ _ _ (fun _ _ _ => ?_) ?_ | split)
theorem kept_freeObj {s0 : State} (s : State) (o : Obj) (h : Kept s0 s) : Kept s0 (freeObj s o) := by
  unfold freeObj
  repeat' with_reducible (first | exact Kept.upd (by assumption) rfl
                                | (extract_lets +onlyGivenNames x; refine Kept.cut (s := s0) x ?_ ?_; rotate_left; intro hx; clear_value x; rotate_right; unfold x; clear x) | extract_lets +onlyGivenNames x | apply kept_foundAgain)
theorem kept_execObjFree {s0 : State} (m : Fin 64) (s : State) (h : Kept s0 s) : KeptO s0 (execObjFree m s) := by
  unfold execObjFree
  repeat' with_reducible (first | assumption | apply kept_replyS | apply kept_replyD | refine kept_take _ _ _ _ _ (fun _ _ _ => ?_) ?_
                                | apply kept_freeObj | split)
theorem kept_writeTiles {s0 : State} (c : Cmd) (d : Dma) (o : Obj) (first count k : Nat) (s : State) (h : Kept s0 s) :
    Kept s0 (writeTiles c d o first count k s) := by
  induction k generalizing s with
  | zero => exact kept_reply _ _ _ (kept_foundAgain _ _ h)
  | succ k ih =>
    unfold writeTiles
    dsimp only
    repeat' with_reducible (first | assumption | apply kept_hostDma | apply kept_reply | apply ih | apply kept_clearSlots | apply kept_countTile | apply kept_writeTile | split)
theorem kept_execObjWrite {s0 : State} (m : Fin 64) (d : Dma) (s : State) (h : Kept s0 s) : KeptO s0 (execObjWrite m d s) := by
  unfold execObjWrite
  repeat' with_reducible (first | assumption | exact Kept.upd (by assumption) rfl | (extract_lets +onlyGivenNames x; refine Kept.cut (s := s0) x ?_ ?_; rotate_left; intro hx; clear_value x; rotate_right; unfold x; clear x) | extract_lets +onlyGivenNames x | apply kept_count | apply kept_replyS | apply kept_replyD | refine kept_take _ _ _ _ _ (fun _ _ _ => ?_) ?_ | apply kept_countDmaRead | apply kept_badBuffer | apply kept_writeTiles | apply KeptO.next | refine KeptO.ite ?_ ?_ | refine Kept.ite ?_ ?_ | split)
theorem kept_execObjRead {s0 : State} (m : Fin 64) (d : Dma) (s : State) (h : Kept s0 s) : KeptO s0 (execObjRead m d s) := by
  unfold execObjRead
  repeat' with_reducible (first | assumption | exact Kept.upd (by assumption) rfl | (extract_lets +onlyGivenNames x; refine Kept.cut (s := s0) x ?_ ?_; rotate_left; intro hx; clear_value x; rotate_right; unfold x; clear x) | extract_lets +onlyGivenNames x | apply kept_countTile | apply kept_reply | apply kept_replyD | refine kept_take _ _ _ _ _ (fun _ _ _ => ?_) ?_ | refine kept_toBuffer _ _ _ _ _ _ (fun _ _ => ?_) ?_ | refine Kept.foldl _ (fun _ _ _ => ?_) ?_ | refine Kept.foldl_fst _ (fun _ _ _ => ?_) ?_ | refine Kept.foldl_snd _ (fun _ _ _ => ?_) ?_ | apply KeptO.next | split)
theorem kept_execDescLoad {s0 : State} (m : Fin 64) (s : State) (h : Kept s0 s) : KeptO s0 (execDescLoad m s) := by
  unfold execDescLoad
  repeat' with_reducible (first | assumption | refine kept_take _ _ _ _ _ (fun _ _ _ => ?_) ?_ | apply kept_writeNext)
theorem kept_execRingSetup {s0 : State} (m : Fin 64) (s : State) (h : Kept s0 s) : KeptO s0 (execRingSetup m s) := by
  unfold execRingSetup
  repeat' with_reducible (first | assumption | refine kept_take _ _ _ _ _ (fun _ _ _ => ?_) ?_ | apply kept_writeNext)
theorem kept_execRingClose {s0 : State} (m : Fin 64) (s : State) (h : Kept s0 s) : KeptO s0 (execRingClose m s) := by
  unfold execRingClose
  repeat' with_reducible (first | exact Kept.upd (by assumption) rfl
                                | (extract_lets +onlyGivenNames x; refine Kept.cut (s := s0) x ?_ ?_; rotate_left; intro hx; clear_value x; rotate_right; unfold x; clear x) | extract_lets +onlyGivenNames x | apply kept_closeRings | apply kept_stopClosing | apply kept_hold | refine kept_take _ _ _ _ _ (fun _ _ _ => ?_) ?_ | refine Kept.ite ?_ ?_)
theorem kept_execVersionSwitch {s0 : State} (m : Fin 64) (s : State) (h : Kept s0 s) : KeptO s0 (execVersionSwitch m s) := by
  unfold execVersionSwitch
  repeat' with_reducible (first | assumption | extract_lets +onlyGivenNames x | apply kept_replyD | apply kept_badState
                                | refine kept_take _ _ _ _ _ (fun _ _ _ => ?_) ?_ | apply kept_writeNext | split)
theorem kept_transitHint {s0 : State} (s : State) (c : Cmd) (d : Desc) (owner : Nat) (h : Kept s0 s) : Kept s0 (transitHint s c d owner) := by
  unfold transitHint
  repeat' with_reducible (first | exact Kept.upd (by assumption) rfl | apply kept_addHint)
theorem kept_startTransit {s0 : State} (s : State) (c : Cmd) (d : Desc) (shard : Nat) (owner : Nat) (h : Kept s0 s) : Kept s0 (startTransit s c d shard owner) := by
  unfold startTransit
  repeat' with_reducible (first | assumption | exact Kept.upd (by assumption) rfl | (extract_lets +onlyGivenNames x; refine Kept.cut (s := s0) x ?_ ?_; rotate_left; intro hx; clear_value x; rotate_right; unfold x; clear x) | extract_lets +onlyGivenNames x | apply kept_addItem | apply kept_tellTransit | apply kept_addCustody | apply kept_hold | refine Kept.getD ?_ (fun _ _ => ?_))
theorem kept_execTransit {s0 : State} (m : Fin 64) (s : State) (h : Kept s0 s) : KeptO s0 (execTransit m s) := by
  unfold execTransit
  repeat' with_reducible (first | exact Kept.upd (by assumption) rfl | extract_lets +onlyGivenNames x | apply kept_replyS
                                | apply kept_replyD | apply kept_badState | refine kept_take _ _ _ _ _ (fun _ _ _ => ?_) ?_
                                | apply kept_transitHint | apply kept_startTransit | split)
theorem kept_execBridgeXfer {s0 : State} (m : Fin 64) (s : State) (h : Kept s0 s) : KeptO s0 (execBridgeXfer m s) := by
  unfold execBridgeXfer
  repeat' with_reducible (first | assumption | exact Kept.upd (by assumption) rfl | (extract_lets +onlyGivenNames x; refine Kept.cut (s := s0) x ?_ ?_; rotate_left; intro hx; clear_value x; rotate_right; unfold x; clear x) | extract_lets +onlyGivenNames x | apply kept_countTile | apply kept_sendBulk | apply kept_replyS | apply kept_replyD | apply kept_hold | refine kept_take _ _ _ _ _ (fun _ _ _ => ?_) ?_ | refine Kept.foldl _ (fun _ _ _ => ?_) ?_ | refine Kept.foldl_fst _ (fun _ _ _ => ?_) ?_ | refine Kept.foldl_snd _ (fun _ _ _ => ?_) ?_ | apply KeptO.next | refine KeptO.ite ?_ ?_ | refine Kept.ite ?_ ?_ | split)
theorem kept_execConjPromote {s0 : State} (m : Fin 64) (s : State) (h : Kept s0 s) : KeptO s0 (execConjPromote m s) := by
  unfold execConjPromote
  repeat' with_reducible (first | exact Kept.upd (by assumption) rfl
                                | (extract_lets +onlyGivenNames x; refine Kept.cut (s := s0) x ?_ ?_; rotate_left; intro hx; clear_value x; rotate_right; unfold x; clear x) | extract_lets +onlyGivenNames x | apply kept_promoteStep | apply kept_badState | apply kept_hold | refine kept_take _ _ _ _ _ (fun _ _ _ => ?_) ?_ | split)

/-! ### Control -/

theorem kept_resetNode {s0 : State} (s : State) (c : Cmd) (h : Kept s0 s) : Kept s0 (resetNode s c) := by
  unfold resetNode
  repeat' with_reducible (first | exact Kept.upd (by assumption) rfl
                                | (extract_lets +onlyGivenNames x; refine Kept.cut (s := s0) x ?_ ?_; rotate_left; intro hx; clear_value x; rotate_right; unfold x; clear x) | apply kept_loseFrame | apply kept_nodeReset | apply kept_replyS | refine Kept.ite ?_ ?_)
theorem kept_resetDomain {s0 : State} (s : State) (c : Cmd) (h : Kept s0 s) : Kept s0 (resetDomain s c) := by
  unfold resetDomain
  repeat' with_reducible (first | assumption | apply kept_startReset | apply kept_loseFrame | apply kept_replyS | apply kept_hold
                                | apply kept_resetNode | refine Kept.ite ?_ ?_)
theorem kept_execResetDomain {s0 : State} (m : Fin 64) (s : State) (h : Kept s0 s) : KeptO s0 (execResetDomain m s) := by
  unfold execResetDomain
  repeat' with_reducible (first | assumption | refine kept_take _ _ _ _ _ (fun _ _ _ => ?_) ?_ | apply kept_resetDomain)
theorem kept_execSelftest {s0 : State} (m : Fin 64) (s : State) (h : Kept s0 s) : KeptO s0 (execSelftest m s) := by
  unfold execSelftest
  refine kept_take _ _ _ _ _ (fun x c hx => ?_) h
  dsimp only
  split
  · exact kept_replyS _ _ _ hx
  · apply kept_hold
    have h1 : Kept s0 (if x.node.state = stFault then x else moveTo x stSelftest) := by
      split
      · exact hx
      · exact kept_moveTo _ _ (fun _ => by decide) hx
    generalize (if x.node.state = stFault then x else moveTo x stSelftest) = y at h1
    refine ⟨h1.pending, fun k => ?_, h1.power, h1.boxes, h1.canon⟩
    have a := h1.node k
    have b := hx.node k
    simp only [State.nodeLegal, Bool.and_eq_true, decide_eq_true_eq, Option.all_some] at a b ⊢
    exact ⟨a.1, b.1.1⟩
theorem kept_beginTrans {s0 : State} (s : State) (c : Cmd) (h : Kept s0 s) : Kept s0 (beginTrans s c) := by
  unfold beginTrans
  repeat' with_reducible (first | exact Kept.upd (by assumption) rfl | apply kept_hold)
theorem kept_startUp {s0 : State} (s : State) (c : Cmd) (h : Kept s0 s) : Kept s0 (startUp s c) := by
  unfold startUp
  repeat' with_reducible (first | assumption | apply kept_beginSoak | apply kept_beginTrans)
theorem kept_atBoundary {s0 : State} (s : State) (c : Cmd) (h : Kept s0 s) : Kept s0 (atBoundary s c) := by
  unfold atBoundary
  repeat' with_reducible (first | assumption | apply kept_transitionStep | apply kept_beginTrans | refine Kept.ite ?_ ?_)
theorem kept_askDepart {s0 : State} (s : State) (c : Cmd) (h : Kept s0 s) : Kept s0 (askDepart s c) := by
  unfold askDepart
  repeat' with_reducible (first | exact Kept.upd (by assumption) rfl
                                | (extract_lets +onlyGivenNames x; refine Kept.cut (s := s0) x ?_ ?_; rotate_left; intro hx; clear_value x; rotate_right; unfold x; clear x) | extract_lets +onlyGivenNames x | apply kept_orrSend | apply kept_finishTrans | apply kept_beginTrans | split)
theorem kept_execStart {s0 : State} (m : Fin 64) (s : State) (h : Kept s0 s) : KeptO s0 (execStart m s) := by
  unfold execStart
  repeat' with_reducible (first | assumption | refine kept_take _ _ _ _ _ (fun _ _ _ => ?_) ?_ | apply kept_startUp)
theorem kept_execServe {s0 : State} (m : Fin 64) (s : State) (h : Kept s0 s) : KeptO s0 (execServe m s) := by
  unfold execServe
  repeat' with_reducible (first | assumption | refine kept_take _ _ _ _ _ (fun _ _ _ => ?_) ?_ | apply kept_atBoundary)
theorem kept_execDrain {s0 : State} (m : Fin 64) (s : State) (h : Kept s0 s) : KeptO s0 (execDrain m s) := by
  unfold execDrain
  repeat' with_reducible (first | assumption | refine kept_take _ _ _ _ _ (fun _ _ _ => ?_) ?_ | apply kept_atBoundary)
theorem kept_execMaint {s0 : State} (m : Fin 64) (s : State) (h : Kept s0 s) : KeptO s0 (execMaint m s) := by
  unfold execMaint
  repeat' with_reducible (first | assumption | refine kept_take _ _ _ _ _ (fun _ _ _ => ?_) ?_ | apply kept_askDepart)
theorem kept_execResume {s0 : State} (m : Fin 64) (s : State) (h : Kept s0 s) : KeptO s0 (execResume m s) := by
  unfold execResume
  repeat' with_reducible (first | assumption | refine kept_take _ _ _ _ _ (fun _ _ _ => ?_) ?_ | apply kept_startUp)
theorem kept_execStop {s0 : State} (m : Fin 64) (s : State) (h : Kept s0 s) : KeptO s0 (execStop m s) := by
  unfold execStop
  repeat' with_reducible (first | assumption | refine kept_take _ _ _ _ _ (fun _ _ _ => ?_) ?_ | apply kept_askDepart)
theorem kept_failedWrite {s0 : State} (s : State) (h : Kept s0 s) : Kept s0 (failedWrite s) := by
  unfold failedWrite
  exact Kept.upd (by assumption) rfl
theorem kept_execProofWrite {s0 : State} (m : Fin 64) (readBack : Bool) (s : State) (h : Kept s0 s) : KeptO s0 (execProofWrite m readBack s) := by
  unfold execProofWrite
  repeat' with_reducible (first | assumption | apply kept_writeBank | apply kept_writeRecord | apply kept_reply | apply kept_replyS
                                | refine kept_take _ _ _ _ _ (fun _ _ _ => ?_) ?_ | apply kept_failedWrite | refine Kept.ite ?_ ?_)
theorem kept_setValid {s0 : State} (s : State) (slot : Nat) (v : Bool) (h : Kept s0 s) : Kept s0 (setValid s slot v) := by
  unfold setValid
  exact Kept.upd (by assumption) rfl
theorem kept_setSlot {s0 : State} (s : State) (slot : Nat) (b : Bytes) (h : Kept s0 s) : Kept s0 (setSlot s slot b) := by
  unfold setSlot
  exact Kept.upd (by assumption) rfl
theorem kept_execFwUpdate {s0 : State} (m : Fin 64) (d : Dma) (s : State) (h : Kept s0 s) : KeptO s0 (execFwUpdate m d s) := by
  unfold execFwUpdate
  repeat' with_reducible (first | assumption | extract_lets +onlyGivenNames x | apply kept_reply | apply kept_replyS
                                | refine kept_take _ _ _ _ _ (fun _ _ _ => ?_) ?_ | apply kept_countDmaRead | apply kept_hostDma
                                | apply kept_setValid | apply kept_setSlot | split)
theorem kept_execFwActivate {s0 : State} (m : Fin 64) (s : State) (h : Kept s0 s) : KeptO s0 (execFwActivate m s) := by
  unfold execFwActivate
  repeat' with_reducible (first | exact Kept.upd (by assumption) rfl | apply kept_replyS
                                | refine kept_take _ _ _ _ _ (fun _ _ _ => ?_) ?_ | refine Kept.ite ?_ ?_)

/-! ### Ports -/

theorem kept_execPortReset {s0 : State} (port : Fin 2) (_cause : PortReset) (s : State) (h : Kept s0 s) : KeptO s0 (execPortReset port _cause s) := by
  unfold execPortReset
  repeat' with_reducible (first | assumption | apply kept_startReset | apply KeptO.next | refine KeptO.ite ?_ ?_)
theorem kept_execPortResetRelease {s0 : State} (port : Fin 2) (s : State) (h : Kept s0 s) : KeptO s0 (execPortResetRelease port s) := by
  unfold execPortResetRelease
  repeat' with_reducible (first | assumption | apply kept_leaveReset | apply KeptO.next | refine KeptO.ite ?_ ?_)
theorem kept_execRefclkLost {s0 : State} (port : Fin 2) (s : State) (h : Kept s0 s) : KeptO s0 (execRefclkLost port s) := by
  unfold execRefclkLost
  repeat' with_reducible (first | assumption | apply kept_logFault | apply kept_startReset | apply KeptO.next | refine KeptO.ite ?_ ?_)
theorem kept_execPortLinkTrained {s0 : State} (port : Fin 2) (lanes : Fin 17) (rate : Fin 7) (s : State) (h : Kept s0 s) : KeptO s0 (execPortLinkTrained port lanes rate s) := by
  unfold execPortLinkTrained
  repeat' with_reducible (first | exact Kept.upd (by assumption) rfl | apply kept_logFault | apply KeptO.next | refine KeptO.ite ?_ ?_
                                | refine Kept.ite ?_ ?_)
theorem kept_flushPending {s0 : State} (s : State) (p : Nat) (h : Kept s0 s) : Kept s0 (flushPending s p) := by
  unfold flushPending
  repeat' with_reducible (first | exact Kept.upd (by assumption) rfl | apply kept_sendVector | refine Kept.foldl _ (fun _ _ _ => ?_) ?_
                                | refine Kept.ite ?_ ?_)
theorem kept_execConfigurationRequest {s0 : State} (port : Fin 2) (w : CfgWrite) (s : State) (h : Kept s0 s) : KeptO s0 (execConfigurationRequest port w s) := by
  unfold execConfigurationRequest
  repeat' with_reducible (first | exact Kept.upd (by assumption) rfl | apply kept_flushPending | apply KeptO.next | refine KeptO.ite ?_ ?_)
theorem frames_wf (l : List (Nat × Byte)) (m : Nat) (f : Cells Byte) (h : cwf 0#8 f = true) :
    cwf 0#8 (l.foldl (fun f x => cset 0#8 f (4096 * m + x.1) x.2) f) = true := by
  induction l generalizing f with
  | nil => exact h
  | cons a l ih => exact ih _ (cset_wf _ _ _ h)
theorem kept_frameWrite {s0 : State} (s : State) (p m off : Nat) (bs : Bytes) (h : Kept s0 s) : Kept s0 (frameWrite s p m off bs) := by
  unfold frameWrite
  split
  · exact Kept.upd h rfl
  · split
    · exact Kept.upd h rfl
    · extract_lets frames
      have hf : cwf 0#8 s.host.frames = true → cwf 0#8 frames = true := frames_wf _ _ _
      clear_value frames
      split
      · exact Kept.updWith h id id id (fun a _ => a) id (fun k => boxes_cset _ _ _ (by decide) k) (fun k => cset_wf _ _ _ k) hf id id id id id id
      · exact Kept.updWith h id id id (fun a _ => a) id id id hf id id id id id id
theorem kept_queueWrite {s0 : State} (s : State) (p slice off : Nat) (bs : Bytes) (h : Kept s0 s) : Kept s0 (queueWrite s p slice off bs) := by
  unfold queueWrite
  exact Kept.upd (by assumption) rfl
theorem kept_msixWrite {s0 : State} (s : State) (p off : Nat) (bs : Bytes) (h : Kept s0 s) : Kept s0 (msixWrite s p off bs) := by
  unfold msixWrite
  repeat' with_reducible (first | exact Kept.upd (by assumption) rfl | apply kept_flushPending)
theorem kept_bar0Write {s0 : State} (s : State) (p off : Nat) (bs : Bytes) (h : Kept s0 s) : Kept s0 (bar0Write s p off bs) := by
  unfold bar0Write
  repeat' with_reducible (first | assumption | apply kept_frameWrite | apply kept_queueWrite | apply kept_msixWrite | refine Kept.ite ?_ ?_)
theorem kept_bar2Write {s0 : State} (s : State) (p off : Nat) (bs : Bytes) (h : Kept s0 s) : Kept s0 (bar2Write s p off bs) := by
  unfold bar2Write
  exact Kept.upd (by assumption) rfl
theorem kept_countBar {s0 : State} (s : State) (p n : Nat) (h : Kept s0 s) : Kept s0 (countBar s p n) := by
  unfold countBar
  repeat' with_reducible (first | assumption | apply kept_count)
theorem kept_execCommandSealWrite {s0 : State} (port : Fin 2) (m : Fin 64) (bytes : Bytes) (s : State) (h : Kept s0 s) : KeptO s0 (execCommandSealWrite port m bytes s) := by
  unfold execCommandSealWrite
  repeat' with_reducible (first | assumption | apply kept_frameWrite | apply kept_countBar | apply KeptO.next | refine KeptO.ite ?_ ?_)
theorem kept_execRegisterWrite {s0 : State} (at_ : BarAddr) (bytes : Bytes) (s : State) (h : Kept s0 s) : KeptO s0 (execRegisterWrite at_ bytes s) := by
  unfold execRegisterWrite
  repeat' with_reducible (first | assumption | apply kept_bar0Write | apply kept_bar2Write | apply kept_countBar | apply KeptO.next
                                | refine KeptO.ite ?_ ?_)

end Sys2Proof.Machine
end

