-- ==== Sys2Proof/WellFormed.lean ====
section
/-!
DEFINITION. Which commands are well formed: the lengths and ranges the manual gives what a command carries, where the types of
Syntax.lean do not already say them. A command that is not well formed is none that the outside can send.
-/
namespace Sys2Proof

/-- A valid LANE_ID (R34). -/
def laneIdOk (id : Nat) : Bool :=
  (decide (id < 0x100) && id % 8 != 7) || (decide (0x100 ≤ id) && decide (id < 0x104)) || (decide (0x200 ≤ id) && decide (id < 0x260)) ||
    (decide (0x300 ≤ id) && decide (id < 0x318)) || (decide (0x400 ≤ id) && decide (id < 0x408)) || id == 0x500 || id == 0x501 || id == 0x600

/-- Steps of one record: REPEAT + 1 (R36). -/
def repeatOk (steps : Nat) : Bool := decide (1 ≤ steps) && decide (steps ≤ 65536)

/-- A buffer's bytes, and the access that fails among them (R331). -/
def dmaFits (d : Dma) : Bool := decide (d.data.length < 2 ^ 32) && (match d.failAt with | some k => decide (k < 2 ^ 32) | none => true)

/-- One reading of every sensor of R488: 11 junctions, 9 rails. -/
def teleOk (t : Telemetry) : Bool := t.tj.length == 11 && t.railV.length == 9 && t.railI.length == 9

/-- Bytes of a view (R407). -/
def viewLength : Nat := 224

/-- A write of `n` bytes at a BAR0 offset covers the last byte of a mailbox frame, which makes it a COMMAND_SEAL_WRITE (R313). -/
def coversSeal (off n : Nat) : Bool := decide (off < 0x40000) && decide (off % 4096 + n ≥ 4096)

/-- A BULK message's body: a tile has its header (R231). -/
def bodyOk : BulkBody → Bool
  | .tile _ _ b => decide (32 ≤ b.length)
  | .shardRow _ _ _ _ => true
  | .ack _ _ _ => true

/-- The steps a spanning record covers. -/
def Instr.span : Instr → Option Nat
  | .nseg _ _ steps _ _ => some steps
  | .twalk _ _ steps => some steps
  | .tplan _ _ steps => some steps
  | .tplanWiden _ _ steps => some steps
  | .tsketch _ _ steps => some steps
  | .semit _ _ steps => some steps
  | .ssave _ _ steps => some steps
  | .srestore _ _ steps => some steps
  | .mclose _ _ steps => some steps
  | .mcheck _ _ steps => some steps
  | .bgather _ steps => some steps
  | .sadmit _ _ steps => some steps
  | .stepAdvance .. | .frameBegin .. | .trainingStateExpire | .armForwardTimeout | .beatIssue | .beatDeadlineExpire | .beatLost | .beat ..
  | .arm .. | .linkFlitReceive .. | .replayTimeout .. | .data .. | .delivered .. | .confirm .. | .bulk .. | .train .. | .lightDetected ..
  | .pairSwapToggle .. | .laneTrainingTimeout .. | .fabricTrainingComplete | .laserFail .. | .fabricLatency .. | .conjJoin .. | .accept ..
  | .conjFormTimeout | .conjMemberLost .. | .report .. | .score .. | .propose .. | .ack .. | .takeover .. | .notice .. | .join ..
  | .depart .. | .refuse .. | .loaded .. | .form .. | .viewForm | .deputyTakeover | .scoreRecovery .. | .holdClear | .admissionTestEnd ..
  | .probationRetest | .formerTimeout | .formationWindowEnd | .partnerLoadDone | .nbuTaskEnd .. | .standaloneRefresh .. | .idle ..
  | .maintStep .. | .refresh .. | .mload .. | .mmac .. | .mdrain .. | .vload .. | .vstore .. | .mov .. | .add .. | .sub .. | .mul ..
  | .fma .. | .div .. | .sqrt .. | .min .. | .max .. | .abs .. | .neg .. | .cmplt .. | .sel .. | .rcp .. | .rsqrt .. | .exp .. | .log ..
  | .sigmoid .. | .tanh .. | .gelu .. | .silu .. | .cvti .. | .roundi .. | .sumreduce .. | .maxreduce .. | .addi .. | .muli .. | .setx ..
  | .deq .. | .quant .. | .lsqgrad .. | .srd .. | .swr .. | .sopen .. | .sfeed .. | .schain .. | .ssumin .. | .mcopy .. | .mxbuf ..
  | .brd .. | .bwr .. | .fissue .. | .fprog .. | .ferase .. | .fsend .. | .flashReadDone .. | .flashProgramDone .. | .flashEraseDone ..
  | .stripeAgeFlush .. | .flashLineFault .. | .nandSenseLost .. | .nandSenseRestored .. | .flashTrainingDone .. | .mergeSwitch ..
  | .mergeAreaRelease .. | .oldVersionRelease .. | .loadWindowEnd | .transitCopyDone | .rebuildDone .. | .poisonSlackExpire
  | .bankPairCopyDone .. | .setupMarkComplete | .sliceQuiet | .composeAbandon | .custodyOrphan | .reshardMovesDone | .drainComplete
  | .ringCloseDone .. | .resultsWritten .. | .hangAck .. | .hangOwn .. | .hangWait .. | .watchdog | .dumpComplete .. | .autoNodeReset
  | .domainResetDone .. | .burinRestart | .quarantineLift .. | .faultMapWrite | .envelopeGraceExpire | .envelopeHoldStart | .tjLimit ..
  | .tjHighClear | .thermtrip | .inputContact | .inputValid | .railSequenceStep .. | .boot .. | .bootComplete .. | .selftestDone ..
  | .inputUv | .inputOv | .inputReturn | .breaker | .reverse | .railFault .. | .controlOff | .controlOn | .controlRetry | .seenFlagClear ..
  | .dumpClear .. | .dumpWindowSet .. | .dumpDataRead | .entdaa .. | .setdasa .. | .portReset .. | .portResetRelease .. | .refclkLost ..
  | .commandSealWrite .. | .registerWrite .. | .nodeInfo .. | .nodeStatus .. | .attest .. | .counterRead .. | .logRead .. | .resetDomain ..
  | .selftest .. | .start .. | .serve .. | .drain .. | .maint .. | .resume .. | .stop .. | .proofWrite .. | .fwUpdate .. | .fwActivate ..
  | .clusterMap .. | .bpmap .. | .compose .. | .phaseLoad .. | .phase .. | .quotaSet .. | .oppointSet .. | .policySet .. | .objAlloc ..
  | .objFree .. | .objWrite .. | .objRead .. | .descLoad .. | .ringSetup .. | .ringClose .. | .versionSwitch .. | .transit ..
  | .bridgeXfer .. | .conjPromote .. | .inputLoss | .powerDownComplete | .configurationRequest .. | .portLinkTrained ..
  | .bridgeTileTimeout => none

/-- Is a command well formed. -/
def Instr.wellFormed : Instr → Bool
  | .stepAdvance t => t.active.all fun a => decide (a.2 ≤ t.ps)
  | .frameBegin x => teleOk x.tele
  | .beat p => p.missing.all (· < 512)
  | .arm _ p => p.present.all (· < 512)
  | .linkFlitReceive _ f _ => f.length == 256
  | .data p => p.data.length == 224
  | .bulk p => bodyOk p.body
  | .train _ _ p => p.hears.all (· < 32)
  | .fabricLatency hops _ => decide (hops ≤ 3)
  | .accept size _ _ _ => decide (1 ≤ size.val)
  | .propose _ v => v.length == viewLength
  | .takeover _ v => v.length == viewLength
  | .idle l => laneIdOk l.toNat
  | .maintStep l .. => laneIdOk l.toNat
  | .nseg _ _ steps _ _ => repeatOk steps
  | .twalk _ _ steps => repeatOk steps
  | .tplan _ _ steps => repeatOk steps
  | .tplanWiden _ _ steps => repeatOk steps
  | .tsketch _ _ steps => repeatOk steps
  | .semit _ _ steps => repeatOk steps
  | .ssave _ _ steps => repeatOk steps
  | .srestore _ _ steps => repeatOk steps
  | .mclose _ _ steps => repeatOk steps
  | .mcheck _ _ steps => repeatOk steps
  | .bgather _ steps => repeatOk steps
  | .sadmit _ _ steps => repeatOk steps
  | .flashReadDone _ r => r.data.length == 2048 && !(r.corrected && r.uncorrectable)
  | .flashTrainingDone rs => rs.length == 24 && rs.all fun r => decide (r.lines.length ≤ 24) && r.packs.length == 4
  | .commandSealWrite _ _ b => decide (1 ≤ b.length) && decide (b.length ≤ 4096)
  | .registerWrite a b => !b.isEmpty && decide (a.offset.toNat + b.length ≤ (if a.bar2 then 2 ^ 28 else 2 ^ 20)) && (a.bar2 || !coversSeal a.offset.toNat b.length)
  | .nodeStatus _ t => teleOk t
  | .attest _ d => dmaFits d
  | .counterRead _ d => dmaFits d
  | .logRead _ d => dmaFits d
  | .fwUpdate _ d => dmaFits d
  | .compose _ d => dmaFits d
  | .phaseLoad _ d => dmaFits d
  | .phase _ d => dmaFits d
  | .objWrite _ d => dmaFits d
  | .objRead _ d => dmaFits d
  | .portLinkTrained _ l r => [1, 2, 4, 8, 16].contains l.val && decide (1 ≤ r.val)
  | .trainingStateExpire | .armForwardTimeout | .beatIssue | .beatDeadlineExpire | .beatLost | .replayTimeout .. | .delivered ..
  | .confirm .. | .lightDetected .. | .pairSwapToggle .. | .laneTrainingTimeout .. | .fabricTrainingComplete | .laserFail .. | .conjJoin ..
  | .conjFormTimeout | .conjMemberLost .. | .report .. | .score .. | .ack .. | .notice .. | .join .. | .depart .. | .refuse .. | .loaded ..
  | .form .. | .viewForm | .deputyTakeover | .scoreRecovery .. | .holdClear | .admissionTestEnd .. | .probationRetest | .formerTimeout
  | .formationWindowEnd | .partnerLoadDone | .nbuTaskEnd .. | .standaloneRefresh .. | .refresh .. | .mload .. | .mmac .. | .mdrain ..
  | .vload .. | .vstore .. | .mov .. | .add .. | .sub .. | .mul .. | .fma .. | .div .. | .sqrt .. | .min .. | .max .. | .abs .. | .neg ..
  | .cmplt .. | .sel .. | .rcp .. | .rsqrt .. | .exp .. | .log .. | .sigmoid .. | .tanh .. | .gelu .. | .silu .. | .cvti .. | .roundi ..
  | .sumreduce .. | .maxreduce .. | .addi .. | .muli .. | .setx .. | .deq .. | .quant .. | .lsqgrad .. | .srd .. | .swr .. | .sopen ..
  | .sfeed .. | .schain .. | .ssumin .. | .mcopy .. | .mxbuf .. | .brd .. | .bwr .. | .fissue .. | .fprog .. | .ferase .. | .fsend ..
  | .flashProgramDone .. | .flashEraseDone .. | .stripeAgeFlush .. | .flashLineFault .. | .nandSenseLost .. | .nandSenseRestored ..
  | .mergeSwitch .. | .mergeAreaRelease .. | .oldVersionRelease .. | .loadWindowEnd | .transitCopyDone | .rebuildDone .. | .poisonSlackExpire
  | .bankPairCopyDone .. | .setupMarkComplete | .sliceQuiet | .composeAbandon | .custodyOrphan | .reshardMovesDone | .drainComplete
  | .ringCloseDone .. | .resultsWritten .. | .hangAck .. | .hangOwn .. | .hangWait .. | .watchdog | .dumpComplete .. | .autoNodeReset
  | .domainResetDone .. | .burinRestart | .quarantineLift .. | .faultMapWrite | .envelopeGraceExpire | .envelopeHoldStart | .tjLimit ..
  | .tjHighClear | .thermtrip | .inputContact | .inputValid | .railSequenceStep .. | .boot .. | .bootComplete .. | .selftestDone ..
  | .inputUv | .inputOv | .inputReturn | .breaker | .reverse | .railFault .. | .controlOff | .controlOn | .controlRetry | .seenFlagClear ..
  | .dumpClear .. | .dumpWindowSet .. | .dumpDataRead | .entdaa .. | .setdasa .. | .portReset .. | .portResetRelease .. | .refclkLost ..
  | .nodeInfo .. | .resetDomain .. | .selftest .. | .start .. | .serve .. | .drain .. | .maint .. | .resume .. | .stop .. | .proofWrite ..
  | .fwActivate .. | .clusterMap .. | .bpmap .. | .quotaSet .. | .oppointSet .. | .policySet .. | .objAlloc .. | .objFree .. | .descLoad ..
  | .ringSetup .. | .ringClose .. | .versionSwitch .. | .transit .. | .bridgeXfer .. | .conjPromote .. | .inputLoss | .powerDownComplete
  | .configurationRequest .. | .bridgeTileTimeout => true

end Sys2Proof
end

