-- ==== Sys2Proof/Laws/PerInstr.lean ====
section
/-!
SUPPORT. The family `Spans`, command by command: a well-formed command whose record spans steps covers 1 to 65536 of them (R36).
-/
namespace Sys2Proof.Laws.Spans

/-- What the family says of one command. -/
def Statement (i : Instr) : Prop := i.wellFormed = true → ∀ n, i.span = some n → 1 ≤ n ∧ n ≤ 65536

/-- The steps of one record. -/
theorem steps_fit {m n : Nat} (h : repeatOk m = true) (e : some m = some n) : 1 ≤ n ∧ n ≤ 65536 := by
  cases e
  simpa [repeatOk] using h

theorem stepAdvance (t : StepTime) : Statement (.stepAdvance t) := fun _ _ e => nomatch e
theorem frameBegin (x : BoundaryIn) : Statement (.frameBegin x) := fun _ _ e => nomatch e
theorem trainingStateExpire : Statement (.trainingStateExpire) := fun _ _ e => nomatch e
theorem armForwardTimeout : Statement (.armForwardTimeout) := fun _ _ e => nomatch e
theorem beatIssue : Statement (.beatIssue) := fun _ _ e => nomatch e
theorem beatDeadlineExpire : Statement (.beatDeadlineExpire) := fun _ _ e => nomatch e
theorem beatLost : Statement (.beatLost) := fun _ _ e => nomatch e
theorem beat (p : BeatMsg) : Statement (.beat p) := fun _ _ e => nomatch e
theorem arm (src : Fin 512) (p : ArmMsg) : Statement (.arm src p) := fun _ _ e => nomatch e
theorem linkFlitReceive (link : Fin 32) (flit : Bytes) (fecOk : Bool) : Statement (.linkFlitReceive link flit fecOk) := fun _ _ e => nomatch e
theorem replayTimeout (link : Fin 32) : Statement (.replayTimeout link) := fun _ _ e => nomatch e
theorem data (p : DataMsg) : Statement (.data p) := fun _ _ e => nomatch e
theorem delivered (src : Fin 512) (slot : BitVec 16) (dest : BitVec 19) : Statement (.delivered src slot dest) := fun _ _ e => nomatch e
theorem confirm (home : Fin 512) (sn : BitVec 48) (vid : BitVec 64) : Statement (.confirm home sn vid) := fun _ _ e => nomatch e
theorem bulk (p : BulkMsg) : Statement (.bulk p) := fun _ _ e => nomatch e
theorem train (rx : Fin 32) (latencyNs : Nat) (p : TrainMsg) : Statement (.train rx latencyNs p) := fun _ _ e => nomatch e
theorem lightDetected (lane : Fin 32) : Statement (.lightDetected lane) := fun _ _ e => nomatch e
theorem pairSwapToggle (lane : Fin 32) : Statement (.pairSwapToggle lane) := fun _ _ e => nomatch e
theorem laneTrainingTimeout (lane : Fin 32) : Statement (.laneTrainingTimeout lane) := fun _ _ e => nomatch e
theorem fabricTrainingComplete : Statement (.fabricTrainingComplete) := fun _ _ e => nomatch e
theorem laserFail (lost : LaserLoss) : Statement (.laserFail lost) := fun _ _ e => nomatch e
theorem fabricLatency (hops : Nat) (ns : Nat) : Statement (.fabricLatency hops ns) := fun _ _ e => nomatch e
theorem conjJoin (position : Fin 8) (serial : BitVec 64) (digest : BitVec 256) : Statement (.conjJoin position serial digest) := fun _ _ e => nomatch e
theorem accept (size : Fin 9) (arrangement : Fin 3) (node : Fin 512) (epoch : W32) : Statement (.accept size arrangement node epoch) := fun _ _ e => nomatch e
theorem conjFormTimeout : Statement (.conjFormTimeout) := fun _ _ e => nomatch e
theorem conjMemberLost (position : Fin 8) : Statement (.conjMemberLost position) := fun _ _ e => nomatch e
theorem report (m : OrMsg) : Statement (.report m) := fun _ _ e => nomatch e
theorem score (m : OrMsg) : Statement (.score m) := fun _ _ e => nomatch e
theorem propose (m : OrMsg) (view : Bytes) : Statement (.propose m view) := fun _ _ e => nomatch e
theorem ack (m : OrMsg) : Statement (.ack m) := fun _ _ e => nomatch e
theorem takeover (m : OrMsg) (view : Bytes) : Statement (.takeover m view) := fun _ _ e => nomatch e
theorem notice (m : OrMsg) : Statement (.notice m) := fun _ _ e => nomatch e
theorem join (m : OrMsg) (b : JoinBody) : Statement (.join m b) := fun _ _ e => nomatch e
theorem depart (m : OrMsg) : Statement (.depart m) := fun _ _ e => nomatch e
theorem refuse (m : OrMsg) : Statement (.refuse m) := fun _ _ e => nomatch e
theorem loaded (m : OrMsg) : Statement (.loaded m) := fun _ _ e => nomatch e
theorem form (m : OrMsg) (b : JoinBody) : Statement (.form m b) := fun _ _ e => nomatch e
theorem viewForm : Statement (.viewForm) := fun _ _ e => nomatch e
theorem deputyTakeover : Statement (.deputyTakeover) := fun _ _ e => nomatch e
theorem scoreRecovery (node : Fin 512) : Statement (.scoreRecovery node) := fun _ _ e => nomatch e
theorem holdClear : Statement (.holdClear) := fun _ _ e => nomatch e
theorem admissionTestEnd (mismatches mapped : Nat) : Statement (.admissionTestEnd mismatches mapped) := fun _ _ e => nomatch e
theorem probationRetest : Statement (.probationRetest) := fun _ _ e => nomatch e
theorem formerTimeout : Statement (.formerTimeout) := fun _ _ e => nomatch e
theorem formationWindowEnd : Statement (.formationWindowEnd) := fun _ _ e => nomatch e
theorem partnerLoadDone : Statement (.partnerLoadDone) := fun _ _ e => nomatch e
theorem nbuTaskEnd (c : Chan) (pos : Fin 24) : Statement (.nbuTaskEnd c pos) := fun _ _ e => nomatch e
theorem standaloneRefresh (stack : Fin 6) (temp : Int) : Statement (.standaloneRefresh stack temp) := fun _ _ e => nomatch e
theorem idle (lane : BitVec 16) : Statement (.idle lane) := fun _ _ e => nomatch e
theorem maintStep (lane : BitVec 16) (found : MaintFind) : Statement (.maintStep lane found) := fun _ _ e => nomatch e
theorem refresh (c : Chan) (hot : Bool) (temp : Int) : Statement (.refresh c hot temp) := fun _ _ e => nomatch e
theorem mload (u : MacUnit) (o : OpAB) : Statement (.mload u o) := fun _ _ e => nomatch e
theorem mmac (u : MacUnit) (o : OpAB) : Statement (.mmac u o) := fun _ _ e => nomatch e
theorem mdrain (u : MacUnit) (o : OpAB) : Statement (.mdrain u o) := fun _ _ e => nomatch e
theorem vload (cl : Fin 32) (o : OpAB) : Statement (.vload cl o) := fun _ _ e => nomatch e
theorem vstore (cl : Fin 32) (o : OpAB) : Statement (.vstore cl o) := fun _ _ e => nomatch e
theorem mov (v : Vop) : Statement (.mov v) := fun _ _ e => nomatch e
theorem add (v : Vop) : Statement (.add v) := fun _ _ e => nomatch e
theorem sub (v : Vop) : Statement (.sub v) := fun _ _ e => nomatch e
theorem mul (v : Vop) : Statement (.mul v) := fun _ _ e => nomatch e
theorem fma (v : Vop) : Statement (.fma v) := fun _ _ e => nomatch e
theorem div (v : Vop) : Statement (.div v) := fun _ _ e => nomatch e
theorem sqrt (v : Vop) : Statement (.sqrt v) := fun _ _ e => nomatch e
theorem min (v : Vop) : Statement (.min v) := fun _ _ e => nomatch e
theorem max (v : Vop) : Statement (.max v) := fun _ _ e => nomatch e
theorem abs (v : Vop) : Statement (.abs v) := fun _ _ e => nomatch e
theorem neg (v : Vop) : Statement (.neg v) := fun _ _ e => nomatch e
theorem cmplt (v : Vop) : Statement (.cmplt v) := fun _ _ e => nomatch e
theorem sel (v : Vop) : Statement (.sel v) := fun _ _ e => nomatch e
theorem rcp (v : Vop) : Statement (.rcp v) := fun _ _ e => nomatch e
theorem rsqrt (v : Vop) : Statement (.rsqrt v) := fun _ _ e => nomatch e
theorem exp (v : Vop) : Statement (.exp v) := fun _ _ e => nomatch e
theorem log (v : Vop) : Statement (.log v) := fun _ _ e => nomatch e
theorem sigmoid (v : Vop) : Statement (.sigmoid v) := fun _ _ e => nomatch e
theorem tanh (v : Vop) : Statement (.tanh v) := fun _ _ e => nomatch e
theorem gelu (v : Vop) : Statement (.gelu v) := fun _ _ e => nomatch e
theorem silu (v : Vop) : Statement (.silu v) := fun _ _ e => nomatch e
theorem cvti (v : Vop) : Statement (.cvti v) := fun _ _ e => nomatch e
theorem roundi (v : Vop) : Statement (.roundi v) := fun _ _ e => nomatch e
theorem sumreduce (v : Vop) : Statement (.sumreduce v) := fun _ _ e => nomatch e
theorem maxreduce (v : Vop) : Statement (.maxreduce v) := fun _ _ e => nomatch e
theorem addi (v : Vop) : Statement (.addi v) := fun _ _ e => nomatch e
theorem muli (v : Vop) : Statement (.muli v) := fun _ _ e => nomatch e
theorem setx (v : Vop) : Statement (.setx v) := fun _ _ e => nomatch e
theorem deq (v : Vop) : Statement (.deq v) := fun _ _ e => nomatch e
theorem quant (v : Vop) : Statement (.quant v) := fun _ _ e => nomatch e
theorem lsqgrad (v : Vop) : Statement (.lsqgrad v) := fun _ _ e => nomatch e
theorem srd (c : Chan) (o : OpAB) (ecc : Ecc) : Statement (.srd c o ecc) := fun _ _ e => nomatch e
theorem swr (c : Chan) (o : OpAB) : Statement (.swr c o) := fun _ _ e => nomatch e
theorem nseg (c : Chan) (o : OpAB) (steps : Nat) (ue : List (BitVec 27)) (corrected : Nat) : Statement (.nseg c o steps ue corrected) := fun h _ e => steps_fit h e
theorem twalk (quad : Fin 4) (o : OpAB) (steps : Nat) : Statement (.twalk quad o steps) := fun h _ e => steps_fit h e
theorem tplan (quad : Fin 4) (o : OpAB) (steps : Nat) : Statement (.tplan quad o steps) := fun h _ e => steps_fit h e
theorem tplanWiden (quad : Fin 4) (o : OpAB) (steps : Nat) : Statement (.tplanWiden quad o steps) := fun h _ e => steps_fit h e
theorem tsketch (quad : Fin 4) (o : OpAB) (steps : Nat) : Statement (.tsketch quad o steps) := fun h _ e => steps_fit h e
theorem sopen (cl : Fin 32) (o : OpAB) : Statement (.sopen cl o) := fun _ _ e => nomatch e
theorem sfeed (cl : Fin 32) (o : OpAB) : Statement (.sfeed cl o) := fun _ _ e => nomatch e
theorem schain (cl : Fin 32) (o : OpAB) : Statement (.schain cl o) := fun _ _ e => nomatch e
theorem ssumin (cl : Fin 32) (o : OpAB) : Statement (.ssumin cl o) := fun _ _ e => nomatch e
theorem semit (cl : Fin 32) (o : OpAB) (steps : Nat) : Statement (.semit cl o steps) := fun h _ e => steps_fit h e
theorem ssave (cl : Fin 32) (o : OpAB) (steps : Nat) : Statement (.ssave cl o steps) := fun h _ e => steps_fit h e
theorem srestore (cl : Fin 32) (o : OpAB) (steps : Nat) : Statement (.srestore cl o steps) := fun h _ e => steps_fit h e
theorem mcopy (cl : Fin 32) (o : OpAB) : Statement (.mcopy cl o) := fun _ _ e => nomatch e
theorem mxbuf (cl : Fin 32) (o : OpAB) : Statement (.mxbuf cl o) := fun _ _ e => nomatch e
theorem mclose (cl : Fin 32) (o : OpAB) (steps : Nat) : Statement (.mclose cl o steps) := fun h _ e => steps_fit h e
theorem mcheck (cl : Fin 32) (o : OpAB) (steps : Nat) : Statement (.mcheck cl o steps) := fun h _ e => steps_fit h e
theorem brd (o : OpAB) : Statement (.brd o) := fun _ _ e => nomatch e
theorem bwr (o : OpAB) : Statement (.bwr o) := fun _ _ e => nomatch e
theorem bgather (o : OpAB) (steps : Nat) : Statement (.bgather o steps) := fun h _ e => steps_fit h e
theorem fissue (fc : Fin 24) : Statement (.fissue fc) := fun _ _ e => nomatch e
theorem fprog (fc : Fin 24) : Statement (.fprog fc) := fun _ _ e => nomatch e
theorem ferase (fc : Fin 24) : Statement (.ferase fc) := fun _ _ e => nomatch e
theorem fsend (port : Fin 8) (o : OpAB) : Statement (.fsend port o) := fun _ _ e => nomatch e
theorem sadmit (port : Fin 2) (o : OpAB) (steps : Nat) : Statement (.sadmit port o steps) := fun h _ e => steps_fit h e
theorem flashReadDone (fc : Fin 24) (r : NandRead) : Statement (.flashReadDone fc r) := fun _ _ e => nomatch e
theorem flashProgramDone (fc : Fin 24) : Statement (.flashProgramDone fc) := fun _ _ e => nomatch e
theorem flashEraseDone (fc : Fin 24) : Statement (.flashEraseDone fc) := fun _ _ e => nomatch e
theorem stripeAgeFlush (slice : Fin 16) : Statement (.stripeAgeFlush slice) := fun _ _ e => nomatch e
theorem flashLineFault (fc : Fin 24) (line : Fin 24) : Statement (.flashLineFault fc line) := fun _ _ e => nomatch e
theorem nandSenseLost (group : Fin 6) : Statement (.nandSenseLost group) := fun _ _ e => nomatch e
theorem nandSenseRestored (group : Fin 6) : Statement (.nandSenseRestored group) := fun _ _ e => nomatch e
theorem flashTrainingDone (results : List FlashTrain) : Statement (.flashTrainingDone results) := fun _ _ e => nomatch e
theorem mergeSwitch (index : BitVec 16) (leaf : BitVec 24) (node : Fin 512) : Statement (.mergeSwitch index leaf node) := fun _ _ e => nomatch e
theorem mergeAreaRelease (index : BitVec 16) (leaf : BitVec 24) : Statement (.mergeAreaRelease index leaf) := fun _ _ e => nomatch e
theorem oldVersionRelease (kind : Bool) (id : BitVec 16) : Statement (.oldVersionRelease kind id) := fun _ _ e => nomatch e
theorem loadWindowEnd : Statement (.loadWindowEnd) := fun _ _ e => nomatch e
theorem transitCopyDone : Statement (.transitCopyDone) := fun _ _ e => nomatch e
theorem rebuildDone (object : W32) (tile : W32) (unread : Bool) : Statement (.rebuildDone object tile unread) := fun _ _ e => nomatch e
theorem poisonSlackExpire : Statement (.poisonSlackExpire) := fun _ _ e => nomatch e
theorem bankPairCopyDone (stack : Fin 6) (die : Fin 12) : Statement (.bankPairCopyDone stack die) := fun _ _ e => nomatch e
theorem setupMarkComplete : Statement (.setupMarkComplete) := fun _ _ e => nomatch e
theorem sliceQuiet : Statement (.sliceQuiet) := fun _ _ e => nomatch e
theorem composeAbandon : Statement (.composeAbandon) := fun _ _ e => nomatch e
theorem custodyOrphan : Statement (.custodyOrphan) := fun _ _ e => nomatch e
theorem reshardMovesDone : Statement (.reshardMovesDone) := fun _ _ e => nomatch e
theorem drainComplete : Statement (.drainComplete) := fun _ _ e => nomatch e
theorem ringCloseDone (ring : Fin 64) : Statement (.ringCloseDone ring) := fun _ _ e => nomatch e
theorem resultsWritten (ring : Fin 64) : Statement (.resultsWritten ring) := fun _ _ e => nomatch e
theorem hangAck (unit peer : BitVec 16) : Statement (.hangAck unit peer) := fun _ _ e => nomatch e
theorem hangOwn (unit : BitVec 16) : Statement (.hangOwn unit) := fun _ _ e => nomatch e
theorem hangWait (unit peer : BitVec 16) : Statement (.hangWait unit peer) := fun _ _ e => nomatch e
theorem watchdog : Statement (.watchdog) := fun _ _ e => nomatch e
theorem dumpComplete (us : W32) (unread : List Nat) : Statement (.dumpComplete us unread) := fun _ _ e => nomatch e
theorem autoNodeReset : Statement (.autoNodeReset) := fun _ _ e => nomatch e
theorem domainResetDone (dom : Fin 17) : Statement (.domainResetDone dom) := fun _ _ e => nomatch e
theorem burinRestart : Statement (.burinRestart) := fun _ _ e => nomatch e
theorem quarantineLift (unit : BitVec 16) : Statement (.quarantineLift unit) := fun _ _ e => nomatch e
theorem faultMapWrite : Statement (.faultMapWrite) := fun _ _ e => nomatch e
theorem envelopeGraceExpire : Statement (.envelopeGraceExpire) := fun _ _ e => nomatch e
theorem envelopeHoldStart : Statement (.envelopeHoldStart) := fun _ _ e => nomatch e
theorem tjLimit (tj : Int) : Statement (.tjLimit tj) := fun _ _ e => nomatch e
theorem tjHighClear : Statement (.tjHighClear) := fun _ _ e => nomatch e
theorem thermtrip : Statement (.thermtrip) := fun _ _ e => nomatch e
theorem inputContact : Statement (.inputContact) := fun _ _ e => nomatch e
theorem inputValid : Statement (.inputValid) := fun _ _ e => nomatch e
theorem railSequenceStep (sense : BitVec 6) : Statement (.railSequenceStep sense) := fun _ _ e => nomatch e
theorem boot (x : BootIn) : Statement (.boot x) := fun _ _ e => nomatch e
theorem bootComplete (stacksOk boardOk : Bool) : Statement (.bootComplete stacksOk boardOk) := fun _ _ e => nomatch e
theorem selftestDone (fails : List TestFail) : Statement (.selftestDone fails) := fun _ _ e => nomatch e
theorem inputUv : Statement (.inputUv) := fun _ _ e => nomatch e
theorem inputOv : Statement (.inputOv) := fun _ _ e => nomatch e
theorem inputReturn : Statement (.inputReturn) := fun _ _ e => nomatch e
theorem breaker : Statement (.breaker) := fun _ _ e => nomatch e
theorem reverse : Statement (.reverse) := fun _ _ e => nomatch e
theorem railFault (rail : Fin 9) : Statement (.railFault rail) := fun _ _ e => nomatch e
theorem controlOff : Statement (.controlOff) := fun _ _ e => nomatch e
theorem controlOn : Statement (.controlOn) := fun _ _ e => nomatch e
theorem controlRetry : Statement (.controlRetry) := fun _ _ e => nomatch e
theorem seenFlagClear (mask : W32) : Statement (.seenFlagClear mask) := fun _ _ e => nomatch e
theorem dumpClear (value : W32) : Statement (.dumpClear value) := fun _ _ e => nomatch e
theorem dumpWindowSet (value : W32) : Statement (.dumpWindowSet value) := fun _ _ e => nomatch e
theorem dumpDataRead : Statement (.dumpDataRead) := fun _ _ e => nomatch e
theorem entdaa (target : Bool) (address : BitVec 7) : Statement (.entdaa target address) := fun _ _ e => nomatch e
theorem setdasa (target : Bool) (address : BitVec 7) : Statement (.setdasa target address) := fun _ _ e => nomatch e
theorem portReset (port : Fin 2) (cause : PortReset) : Statement (.portReset port cause) := fun _ _ e => nomatch e
theorem portResetRelease (port : Fin 2) : Statement (.portResetRelease port) := fun _ _ e => nomatch e
theorem refclkLost (port : Fin 2) : Statement (.refclkLost port) := fun _ _ e => nomatch e
theorem commandSealWrite (port : Fin 2) (m : Fin 64) (bytes : Bytes) : Statement (.commandSealWrite port m bytes) := fun _ _ e => nomatch e
theorem registerWrite (at_ : BarAddr) (bytes : Bytes) : Statement (.registerWrite at_ bytes) := fun _ _ e => nomatch e
theorem nodeInfo (m : Fin 64) : Statement (.nodeInfo m) := fun _ _ e => nomatch e
theorem nodeStatus (m : Fin 64) (t : Telemetry) : Statement (.nodeStatus m t) := fun _ _ e => nomatch e
theorem attest (m : Fin 64) (d : Dma) : Statement (.attest m d) := fun _ _ e => nomatch e
theorem counterRead (m : Fin 64) (d : Dma) : Statement (.counterRead m d) := fun _ _ e => nomatch e
theorem logRead (m : Fin 64) (d : Dma) : Statement (.logRead m d) := fun _ _ e => nomatch e
theorem resetDomain (m : Fin 64) : Statement (.resetDomain m) := fun _ _ e => nomatch e
theorem selftest (m : Fin 64) : Statement (.selftest m) := fun _ _ e => nomatch e
theorem start (m : Fin 64) : Statement (.start m) := fun _ _ e => nomatch e
theorem serve (m : Fin 64) : Statement (.serve m) := fun _ _ e => nomatch e
theorem drain (m : Fin 64) : Statement (.drain m) := fun _ _ e => nomatch e
theorem maint (m : Fin 64) : Statement (.maint m) := fun _ _ e => nomatch e
theorem resume (m : Fin 64) : Statement (.resume m) := fun _ _ e => nomatch e
theorem stop (m : Fin 64) : Statement (.stop m) := fun _ _ e => nomatch e
theorem proofWrite (m : Fin 64) (readBack : Bool) : Statement (.proofWrite m readBack) := fun _ _ e => nomatch e
theorem fwUpdate (m : Fin 64) (d : Dma) : Statement (.fwUpdate m d) := fun _ _ e => nomatch e
theorem fwActivate (m : Fin 64) : Statement (.fwActivate m) := fun _ _ e => nomatch e
theorem clusterMap (m : Fin 64) : Statement (.clusterMap m) := fun _ _ e => nomatch e
theorem bpmap (m : Fin 64) : Statement (.bpmap m) := fun _ _ e => nomatch e
theorem compose (m : Fin 64) (d : Dma) : Statement (.compose m d) := fun _ _ e => nomatch e
theorem phaseLoad (m : Fin 64) (d : Dma) : Statement (.phaseLoad m d) := fun _ _ e => nomatch e
theorem phase (m : Fin 64) (d : Dma) : Statement (.phase m d) := fun _ _ e => nomatch e
theorem quotaSet (m : Fin 64) : Statement (.quotaSet m) := fun _ _ e => nomatch e
theorem oppointSet (m : Fin 64) : Statement (.oppointSet m) := fun _ _ e => nomatch e
theorem policySet (m : Fin 64) : Statement (.policySet m) := fun _ _ e => nomatch e
theorem objAlloc (m : Fin 64) : Statement (.objAlloc m) := fun _ _ e => nomatch e
theorem objFree (m : Fin 64) : Statement (.objFree m) := fun _ _ e => nomatch e
theorem objWrite (m : Fin 64) (d : Dma) : Statement (.objWrite m d) := fun _ _ e => nomatch e
theorem objRead (m : Fin 64) (d : Dma) : Statement (.objRead m d) := fun _ _ e => nomatch e
theorem descLoad (m : Fin 64) : Statement (.descLoad m) := fun _ _ e => nomatch e
theorem ringSetup (m : Fin 64) : Statement (.ringSetup m) := fun _ _ e => nomatch e
theorem ringClose (m : Fin 64) : Statement (.ringClose m) := fun _ _ e => nomatch e
theorem versionSwitch (m : Fin 64) : Statement (.versionSwitch m) := fun _ _ e => nomatch e
theorem transit (m : Fin 64) : Statement (.transit m) := fun _ _ e => nomatch e
theorem bridgeXfer (m : Fin 64) : Statement (.bridgeXfer m) := fun _ _ e => nomatch e
theorem conjPromote (m : Fin 64) : Statement (.conjPromote m) := fun _ _ e => nomatch e
theorem inputLoss : Statement (.inputLoss) := fun _ _ e => nomatch e
theorem powerDownComplete : Statement (.powerDownComplete) := fun _ _ e => nomatch e
theorem configurationRequest (port : Fin 2) (w : CfgWrite) : Statement (.configurationRequest port w) := fun _ _ e => nomatch e
theorem portLinkTrained (port : Fin 2) (lanes : Fin 17) (rate : Fin 7) : Statement (.portLinkTrained port lanes rate) := fun _ _ e => nomatch e
theorem bridgeTileTimeout : Statement (.bridgeTileTimeout) := fun _ _ e => nomatch e

end Sys2Proof.Laws.Spans
end

