-- ==== Sys2Proof/Laws/Take.lean ====
section
/-!
SUPPORT. What Burin's take of a command can do (R314): nothing where no such command is next, S_BAD_SEAL, the stored response of
a repeated command, a refusal, or the command's effect.
-/
namespace Sys2Proof.Machine

variable {s t : State} {code : Nat} {params : State → Cmd → Option Nat} {effect : State → Cmd → State} {m : Fin 64}

theorem take_idle (h : canTake s m.val = false) : take code params effect m s = .next s := by simp [take, h]

theorem take_badSeal (h : canTake s m.val = true) (k : sealOk s (readCmd s m.val) = false) :
    take code params effect m s = .next (badSeal (taken s m.val) (readCmd s m.val)) := by simp [take, h, k]

theorem take_replay {l : LastResp} (h : canTake s m.val = true) (k : sealOk s (readCmd s m.val) = true)
    (c : (readCmd s m.val).code = code) (r : replayOf s (readCmd s m.val) = some l) :
    take code params effect m s = .next (replay (taken s m.val) (readCmd s m.val) l) := by simp [take, h, k, c, r]

theorem take_refused {x : Reply} (h : canTake s m.val = true) (k : sealOk s (readCmd s m.val) = true)
    (c : (readCmd s m.val).code = code) (r : replayOf s (readCmd s m.val) = none)
    (e : refusal (taken s m.val) (readCmd s m.val) (firstOffence params (taken s m.val) (readCmd s m.val)) = some x) :
    take code params effect m s = .next (reply (taken s m.val) (readCmd s m.val) x) := by simp [take, h, k, c, r, e]

theorem take_runs (h : canTake s m.val = true) (k : sealOk s (readCmd s m.val) = true)
    (c : (readCmd s m.val).code = code) (r : replayOf s (readCmd s m.val) = none)
    (e : refusal (taken s m.val) (readCmd s m.val) (firstOffence params (taken s m.val) (readCmd s m.val)) = none) :
    take code params effect m s = .next (effect (taken s m.val) (readCmd s m.val)) := by simp [take, h, k, c, r, e]

/-- A take always answers a next state. -/
theorem take_answers : ∃ t, take code params effect m s = .next t := by
  unfold take
  dsimp only
  repeat' split
  all_goals exact ⟨_, rfl⟩

/-! ### A response -/

@[simp] theorem setFrame_mstate (m off : Nat) (bs : Bytes) : (setFrame s m off bs).host.mstate = s.host.mstate := rfl

/-- Raising a vector leaves the frames and the mailbox states. -/
@[simp] theorem raise_frames (p v : Nat) : (raise s p v).host.frames = s.host.frames := by
  simp only [raise, apply_ite State.host, apply_ite HostIf.frames, sendVector_host, ite_self]
@[simp] theorem raise_mstate (p v : Nat) : (raise s p v).host.mstate = s.host.mstate := by
  simp only [raise, apply_ite State.host, apply_ite HostIf.mstate, sendVector_host, ite_self]

/-- After a response the mailbox is DONE (R313). -/
theorem respond_done (m seq st : Nat) (b r : Bytes) (h : cwf 0 s.host.mstate = true) :
    cget 0 (respond s m seq st b r).host.mstate m = 2 := by
  simp only [respond, raise_mstate]
  exact (cget_set _ _ _ _ h).trans (if_pos rfl)

end Sys2Proof.Machine
end

