-- ==== Sys2Proof/Tests/Slice0.lean ====
section
/-!
SUPPORT. Tests: ill-formed commands that the check refuses, results worked out by hand from the manual, and for every statement with
hypotheses a state and operands that meet them. Expected results come from the rule each comment names.
-/
namespace Sys2Proof.Tests
open Sys2Proof Sys2Proof.Machine
set_option Elab.async false

/-! ### States the tests start from -/

/-- A running node of one plate without lanes: 512 steps, BEAT_LEAD 256. -/
def plate0 : Plate := { steps := 512, lead := 256 }
def run0 : State := { run := { running := true, plate := some plate0 } }

/-- A node with its firmware, powered, in a state. -/
def up (st : Nat) : State :=
  { node := { state := st }, power := { vmgt := true, state := psOn, mainPath := true }, boot := { firmware := true }, run := run0.run }

/-- Operands. -/
def ab0 : OpAB := ⟨0#32, 0#32⟩
def mac0 : MacUnit := ⟨0, 0⟩
def chan0 : Chan := ⟨0, 0⟩
def vop0 : Vop := ⟨0, 3, 1, 2, 1, 0#32⟩
def tele0 : Telemetry := { tj := List.replicate 11 400, railV := List.replicate 9 1000, railI := List.replicate 9 1 }
def bound0 : BoundaryIn := ⟨tele0, false, 0, 0, [], [], [], [], [], false, false⟩
def dma0 : Dma := ⟨[], none⟩
def or0 : OrMsg := ⟨1, 1, 0#32, 0#64, 0#16, 0#8⟩
def train0 : TrainMsg := ⟨0#16, 1, 0, 0, 0, 0#6, 0#3, 0#64, []⟩
def bytes (n : Nat) : Bytes := List.replicate n 0#8

/-- The state whose stroke holds, for one lane and this step, an opcode with its operands over `n` steps. -/
def act (s : State) (lane op : Nat) (o : OpAB) (n : Nat := 1) : State :=
  { s with run := { s.run with plate := some { plate0 with lanes := [⟨lane, 0, [⟨op, false, false, n - 1, o.a.toNat, o.b.toNat, 0, 0⟩]⟩] } } }
/-- In that state the lane's unit may begin the action. -/
def ready (s : State) (lane op : Nat) (o : OpAB) (n : Nat := 1) : Bool := laneReady (act s lane op o n) lane op o n

/-- The next state that an outcome answers, and whether one of which `p` holds. -/
def nextOf : Host.Outcome State Fault Refusal → Option State
  | .next t => some t
  | .fault _ => none
  | .refused _ => none
def gives (i : Instr) (s : State) (p : State → Bool) : Bool := match nextOf (exec i s) with | some t => p t | none => false
/-- What a test finds so is what the statements call `Runs`. -/
theorem gives_runs {i : Instr} {s : State} {p : State → Bool} (h : gives i s p = true) : Runs i s fun t => p t = true := by
  unfold gives nextOf at h
  split at h
  · rename_i t ht
    split at ht
    · cases ht; exact ⟨t, by assumption, h⟩
    · cases ht
    · cases ht
  · cases h

/-! ### Ill-formed commands -/

theorem test_illFormed_steps : (Instr.stepAdvance ⟨10, [(0, 11)]⟩).wellFormed = false ∧
    (Instr.frameBegin { bound0 with tele := {} }).wellFormed = false ∧
    (Instr.beat ⟨0#64, 0#48, false, 0#32, 0#32, 0, [512]⟩).wellFormed = false ∧
    (Instr.arm 0 ⟨0#64, 0#48, false, 0#32, [512]⟩).wellFormed = false ∧ (Instr.idle 7#16).wellFormed = false ∧
    (Instr.maintStep 0x104#16 ⟨false, ⟨0#4, 0#4⟩⟩).wellFormed = false := by decide
theorem test_illFormed_fabric : (Instr.linkFlitReceive 0 (bytes 255) true).wellFormed = false ∧
    (Instr.data ⟨0, 0#16, 0#16, 0#19, 0#16, bytes 223⟩).wellFormed = false ∧
    (Instr.bulk ⟨0#16, 0, 0#16, 0, false, .tile 0#32 0#32 (bytes 31)⟩).wellFormed = false ∧
    (Instr.train 0 0 { train0 with hears := [32] }).wellFormed = false ∧ (Instr.fabricLatency 4 0).wellFormed = false ∧
    (Instr.accept 0 0 0 0#32).wellFormed = false ∧ (Instr.propose or0 (bytes 223)).wellFormed = false ∧
    (Instr.takeover or0 (bytes 225)).wellFormed = false := by decide +kernel
theorem test_illFormed_spans : (Instr.nseg chan0 ab0 0 [] 0).wellFormed = false ∧ (Instr.twalk 0 ab0 0).wellFormed = false ∧
    (Instr.tplan 0 ab0 65537).wellFormed = false ∧ (Instr.tplanWiden 0 ab0 0).wellFormed = false ∧ (Instr.tsketch 0 ab0 0).wellFormed = false ∧
    (Instr.semit 0 ab0 0).wellFormed = false ∧ (Instr.ssave 0 ab0 65537).wellFormed = false ∧ (Instr.srestore 0 ab0 0).wellFormed = false ∧
    (Instr.mclose 0 ab0 0).wellFormed = false ∧ (Instr.mcheck 0 ab0 0).wellFormed = false ∧ (Instr.bgather ab0 0).wellFormed = false ∧
    (Instr.sadmit 0 ab0 65537).wellFormed = false := by decide
theorem test_illFormed_flash : (Instr.flashReadDone 0 ⟨bytes 2047, false, false, false⟩).wellFormed = false ∧
    (Instr.flashReadDone 0 ⟨bytes 2048, true, true, false⟩).wellFormed = false ∧ (Instr.flashTrainingDone []).wellFormed = false ∧
    (Instr.flashTrainingDone (List.replicate 24 ⟨[], [.missing], true, true, 0⟩)).wellFormed = false := by decide +kernel
theorem test_illFormed_ports : (Instr.commandSealWrite 0 0 []).wellFormed = false ∧ (Instr.commandSealWrite 0 0 (bytes 4097)).wellFormed = false ∧
    (Instr.registerWrite ⟨0, false, 0#28⟩ []).wellFormed = false ∧ (Instr.registerWrite ⟨0, false, 0xFFFFF#28⟩ (bytes 2)).wellFormed = false ∧
    (Instr.registerWrite ⟨0, false, 0xFF8#28⟩ (bytes 8)).wellFormed = false ∧ (Instr.registerWrite ⟨0, true, 0xFFFFFFF#28⟩ (bytes 2)).wellFormed = false ∧
    (Instr.portLinkTrained 0 3 6).wellFormed = false ∧ (Instr.portLinkTrained 0 8 0).wellFormed = false := by decide +kernel
theorem test_illFormed_mailbox : (Instr.nodeStatus 0 {}).wellFormed = false ∧
    [Instr.attest 0, .counterRead 0, .logRead 0, .fwUpdate 0, .compose 0, .phaseLoad 0, .phase 0, .objWrite 0, .objRead 0].all
      (fun i => !(i ⟨[], some (2 ^ 32)⟩).wellFormed && (i dma0).wellFormed) = true := by decide
theorem test_noTableWord : decodeTableWord 32 0 = none := by decide

def ent (id : Nat) (w : W32) : SelEntry := ⟨id, w, false, false⟩
/-! Values worked out in the manual, and by hand from its rules. -/

/-- The manual's 4-bit row: −1.0 to 2.0 gives OFFSET 0xBC00 and SCALE 0x3267; a row of 3.25 gives OFFSET 0x4280 and SCALE 0. -/
theorem test_chooseParams_example : chooseParams 4 [0x3F000000#32, 0xBF800000#32, 0x40000000#32] = (0x3267, 0xBC00) ∧
    chooseParams 4 [0x40500000#32, 0x40500000#32] = (0, 0x4280) := by decide +kernel
/-- The manual's 4-bit row: 0.5 is code 7 and 2.0 is code 15; they dequantize to 0.4005126953125 and 2.0010986328125. -/
theorem test_quantize_example : (encodeValue 9 0x3267 0xBC00 0x3F000000#32).code = 7 ∧ (encodeValue 9 0x3267 0xBC00 0x40000000#32).code = 15 ∧
    dequantValue 0x3267 0xBC00 7 = 0x3ECD1000#32 ∧ dequantValue 0x3267 0xBC00 15 = 0x40001200#32 := by decide +kernel
/-- The manual's stage-2 score: P 41 237, ASUM −318 give 43 781 / 2048. -/
theorem test_dequant_example : dequant 41237#32 0#32 0x3D800000#32 0xBF000000#32 0x3C000000#32 0#32 (BitVec.ofInt 32 (-318)) 0#32 = 0x41AB0500#32 := by decide +kernel
/-- The manual's distance: 18.25 − 2 × 21.377… + 30.5 is 5.9951171875. -/
theorem test_distance_example : add32 (sub32 0x41920000#32 (mul32 0x40000000#32 0x41AB0500#32)) 0x41F40000#32 = 0x40BFD800#32 := by decide +kernel
/-- R231: the usual check value of CRC-32C. -/
theorem test_crc_check : crc32c [49, 50, 51, 52, 53, 54, 55, 56, 57] = 0xE3069283 := by decide +kernel
/-- R59: a sum above 2³¹ − 1 saturates. -/
theorem test_satAdd32 : satAdd32 0x7FFFFFFF#32 1 = (0x7FFFFFFF#32, true) ∧ satAdd32 0x80000000#32 (-1) = (0x80000000#32, true) ∧
    satAdd32 0xFFFFFFFF#32 1 = (0#32, false) := by decide
/-- R60: ties round to even, and subnormals are kept. -/
theorem test_float_rounding : add32 0x4B800000#32 0x3F800000#32 = 0x4B800000#32 ∧ add32 0x4B800001#32 0x3F800000#32 = 0x4B800002#32 ∧
    mul32 0x00800000#32 0x3F000000#32 = 0x00400000#32 ∧ div32 0x3F800000#32 0x40400000#32 = 0x3EAAAAAB#32 ∧ sqrt32 0x40000000#32 = 0x3FB504F3#32 := by
  decide +kernel
/-- R150, and the manual's tie at place 10: of two entries at 5.5 the one with the lower ID comes first. -/
theorem test_tie_by_id : precedes false (ent 0x9_1000_0001 0x40B00000#32) (ent 0x12_0000_88A0 0x40B00000#32) = true ∧
    precedes false (ent 0x12_0000_88A0 0x40B00000#32) (ent 0x12_0000_88A1 0x40B00000#32) = true ∧
    precedes false (ent 0x12_0000_88A1 0x40B00000#32) (ent 0x12_0000_88A0 0x40B00000#32) = false := by decide +kernel
/-- R174: SHARD is bits 63 to 48 of VECTOR_ID × 0x9E37_79B9_7F4A_7C15, here for the manual's vector ID. -/
theorem test_shard : shardOf 0x4_7F10_2C31 = 0x7072 := by decide

/-! ### Each statement with hypotheses has a state and operands that meet them -/

def laneM : Lane := ⟨0, 0, [⟨1, false, false, 511, 0, 0, 0, 0⟩]⟩
def atS (n : Nat) : State := { run0 with run := { run0.run with step := n } }
def waits0 : State := { run0 with run := { run0.run with waiting := true, step := 511 } }
def beat0 : BeatMsg := ⟨1#64, 0#48, false, 1#32, 0#32, 0, []⟩
def view0 : View := { coord := 0, deputy := 1, status := [(0, 1), (1, 1)] }

theorem witness_StepRunsFrontCommand : ({ run0 with pending := [.watchdog] } : State).pending = [.watchdog] ∧ State.reset.pending = [] := by decide
theorem witness_QueueIsFirstInFirstOut : nextOf (exec (.idle 0#16) run0) = some run0 ∧
    nextOf (step { run0 with pending := [.idle 0#16, .watchdog] }) = some { run0 with pending := [.watchdog] } := by decide +kernel
theorem witness_StepKeepsSound : nextOf (step State.reset) = some State.reset ∧ State.reset.sound = true := by decide +kernel
theorem witness_StepsAdvanceTogether :
    (run0.run.plate = some plate0 ∧ run0.run.running = true ∧ run0.run.waiting = false ∧ strokeDone run0 = true) ∧
    strokeDone { run0 with run := { run0.run with plate := some { plate0 with lanes := [laneM] } } } = false ∧
    (strokeDone (atS 255) = true ∧ (atS 255).run.step + 1 + plate0.lead = plate0.steps) ∧ (atS 254).run.step + 1 + plate0.lead ≠ plate0.steps ∧
    strokeDone (atS 511) = true ∧ plate0.steps ≤ (atS 511).run.step + 1 := by decide +kernel

def wBeat : State := { waits0 with fab := { beat := some beat0 } }
def wStart : State := { node := { state := stRestored }, run := { plate := some plate0 }, fab := { beat := some beat0 }, orr := { pending := some view0 } }
theorem witness_FramesBeginWithBeat :
    (run0.run.running = true ∧ run0.run.waiting = false) ∧ (waits0.run.running = true ∧ waits0.run.waiting = true ∧ waits0.run.stopAt = none ∧
      waits0.fab.beat = none) ∧ (wBeat.run.waiting = true ∧ wBeat.run.stopAt = none ∧ wBeat.fab.beat = some beat0) ∧
    (let s : State := { waits0 with run := { waits0.run with stopAt := some stFault } };
      s.run.running = true ∧ s.run.waiting = true ∧ s.run.stopAt = some stFault) ∧
    wStart.run.running = false ∧ wStart.fab.beat = some beat0 ∧ wStart.run.plate.isSome = true ∧ awaitsStart wStart = true ∧
      admittedBy wStart beat0.view.toNat = true := by decide +kernel

/-- Node `n` of a domain of two nodes side by side; node 0 is the coordinator and root, node 1 its deputy. -/
def duo (n : Nat) : State :=
  { waits0 with
    boot := { firmware := true, settings := [⟨1, 0, leBytes 5 (0x10000 + n * 2 ^ 25)⟩, ⟨2, 0, leBytes 2 (1 - n)⟩] }
    power := { vmgt := true, state := psOn, mainPath := true, ms := 100000 }
    node := { state := stServing }
    orr := { view := some view0 } }
def armOf (l : List Nat) : ArmMsg := ⟨0#64, 0#48, false, 1#32, l⟩
def duoArms (l : List Nat) : State := { duo 0 with fab := { armed := true, combined := some (armOf l) } }
def formed0 : State := { run := { plate := some plate0 }, orr := { pending := some view0, firstFrame := some 9, proposed := true } }

theorem witness_BeatsAreIssuedAndTaken :
    (waits0.run.running = true ∧ isRoot waits0 = true ∧ waits0.fab.issued = false ∧ waits0.fab.beat = none ∧ alone waits0 = true ∧
      waits0.run.waiting = true ∧ membersHeld waits0 = true) ∧
    (let s : State := { waits0 with conj := { formed := true, size := 2, members := [0, 1] } };
      isRoot s = true ∧ alone s = true ∧ membersHeld s = false ∧ membersHeld { s with fab := { memberArms := 1 } } = true) ∧
    (membersHeld (duoArms [0, 1]) = true ∧ isRoot (duoArms [0, 1]) = true ∧ alone (duoArms [0, 1]) = false ∧ (duoArms [0, 1]).fab.armed = true ∧ missingArms (duoArms [0, 1]) = []) ∧
    (isRoot (duoArms [0]) = true ∧ (duoArms [0]).fab.beat = none ∧ missingArms (duoArms [0]) = [1]) ∧
    (formed0.run.running = false ∧ formed0.orr.pending = some view0 ∧ formed0.orr.firstFrame = some 9 ∧ formed0.orr.proposed = true ∧
      formed0.orr.awaiting = [] ∧ isRoot formed0 = true ∧ formed0.fab.beat = none) ∧
    ((duo 1).faults.inReset.contains 4 = false ∧ (duo 1).run.running = true ∧ (duo 1).fab.beat = none ∧
      (beat0.frame.toNat = (duo 1).run.frame + 1 ∧ beat0.epoch.toNat = (duo 1).setup.epoch ∧ viewExpected (duo 1) beat0.view.toNat = true) ∧
      (2#64).toNat ≠ (duo 1).run.frame + 1 ∧ (2#32).toNat ≠ (duo 1).setup.epoch ∧ viewExpected (duo 1) 1 = false) ∧
    (waits0.run.running = true ∧ waits0.run.waiting = true ∧ waits0.fab.beat = none) ∧
    publishSn { duo 0 with run := { (duo 0).run with frame := 9 }, fab := { combined := some { armOf [0] with ready := 5#48 } } } = 5 := by
  decide +kernel
theorem witness_ArmsCombine :
    ((duoArms [0]).run.running = true ∧ (armOf [1]).frame.toNat = (duoArms [0]).run.frame ∧ (duoArms [0]).faults.inReset.contains 4 = false ∧
      (duoArms [0]).fab.armSent = false ∧ (0 : Fin 512).val = nodeId (duoArms [0]) ∧ (1 : Fin 512).val ≠ nodeId (duoArms [0])) ∧ ({ duo 0 with fab := { armSent := true } } : State).fab.armSent = true ∧
    (let s : State := { duo 1 with fab := { armed := true, combined := some (armOf [1]) } };
      s.run.running = true ∧ s.fab.armed = true ∧ s.fab.armSent = false ∧ isRoot s = false ∧ s.fab.combined = some (armOf [1])) := by decide +kernel

/-! Vector units, MAC arrays, select units, stack channels, movers. -/

theorem witness_VopArithmeticResults : (∀ fn ∈ [0x38, 0x39, 0, 1, 2, 3, 4, 5, 6, 7, 8, 9, 0xA, 0xB, 0xC, 0x10, 0x20, 0x30, 0x31, 0x41],
    ready run0 (vecLane vop0.cl) 0x22 (vopOp vop0 fn) = true) ∧ vop0.imm = 0#32 := by decide +kernel
theorem witness_VopBoundedResults : (∀ fn ∈ [0x11, 0x12, 0x13, 0x14, 0x15, 0x16, 0x17], ready run0 (vecLane vop0.cl) 0x22 (vopOp vop0 fn) = true) ∧
    vop0.imm = 0#32 := by decide +kernel
theorem witness_NanOperandsGiveCanonicalNan : isNaN32 0x7FC00001#32 = true ∧ isNaN32 0xFF800001#32 = true ∧ isNaN32 0x3F800000#32 = false ∧
    (loadLane 0 0x80).2 = true ∧ (loadLane 2 8).2 = true := by decide
theorem witness_VopConversionResults : (∀ v ∈ [vop0, { vop0 with dst := 62 }, { vop0 with dst := 63 }], (∀ fn ∈ [0x40, 0x21, 0x42, 0x43],
    ready run0 (vecLane v.cl) 0x22 (vopOp v fn) = true) ∧ v.imm = 0#32) ∧ vop0.dst.val + 2 < 64 := by decide +kernel
/-- A gradient tile of E5M2 elements, with scale 1, at the start of cluster 0's store. -/
def gradObj : Obj := { id := 6, desc := layoutBytes 32 [(0, 4, 6), (5, 1, 5), (12, 4, 1)], extents := [(0, 1)] }
def grad0 : State := writeMem { run0 with mem := { objs := [gradObj] } } 0 (layoutBytes 32 [(0, 1, 5), (4, 2, 0x3C00)])
def abE5 : OpAB := ⟨0x140#32, 1#32⟩
theorem witness_VectorLoadsAndStores : (ready run0 (vecLane 0) 0x20 ab0 = true ∧ ready run0 (vecLane 0) 0x21 ab0 = true ∧ opRsv ab0.a 14 = true ∧
      opRsv ab0.b 17 = true ∧ fmtOk 0 = true ∧ clPlace (0 : Fin 32) ab0.b 64 = some 0 ∧ anyMark run0 0 64 = false ∧ fmtType 0 ≠ 5) ∧
    ((clPlace (0 : Fin 32) 0x1FFFE#32 64).isSome = true ∧ clPlace (0 : Fin 32) 0x1FFFF#32 64 = none) ∧
    (ready grad0 (vecLane 0) 0x21 abE5 = true ∧ opRsv abE5.a 14 = true ∧ opField abE5.a 6 8 = 5 ∧ fmtOk 5 = true ∧ fmtType 5 = 5 ∧
      clPlace (0 : Fin 32) abE5.b 64 = some 32 ∧ gradTile grad0 32 = some (2 ^ 32 * 6)) := by decide +kernel

/-- An int4 tile of zeros at the start of cluster 0's store, of a node whose stroke holds an MLOAD; its TAG is `tag`. -/
def head4 (o : OpAB) (tag : Nat) : State := writeMem (act run0 (macLane mac0) 0x10 o) 0 (layoutBytes 32 [(0, 1, 2), (8, 4, tag)])
def tile4 (o : OpAB) (tag : Nat) : State := writeMem (head4 o tag) 32 (bytes 512)
def abTile : OpAB := ⟨0#32, 2#32⟩
def abOther : OpAB := ⟨0#32, 3#32⟩
theorem low_sram {i : Nat} (h : i < 1024) : isSram i = true := by simp [isSram, tierOf]; omega
theorem read_below (s : State) (bs : Bytes) (a i n : Nat) (hw : cwf none s.mem.sram = true) (h : i + n ≤ a) (ha : a < 1024) :
    readMem (writeMem s a bs) i n = readMem s i n := by
  cases n with
  | zero => simp [readMem]
  | succ n =>
    have hi : isSram i = true := low_sram (by omega)
    simp only [readMem, hi, if_true]
    refine List.map_congr_left fun k hk => ?_
    have hk := List.mem_range.1 hk
    simp only [readSram, writeMem, low_sram ha, if_true, cget_setN_out _ s.mem.sram a (i + k) hw (Or.inl (by omega))]
theorem read_written (s : State) (bs : Bytes) (a : Nat) (hw : cwf none s.mem.sram = true) (ha : a < 1024) :
    readMem (writeMem s a bs) a bs.length = bs := by
  refine List.ext_getElem (by simp [readMem, low_sram ha]) fun k h1 h2 => ?_
  have := cget_setN_in (bs.map some) s.mem.sram a k hw (by simpa using h2)
  simp [readMem, low_sram ha, readSram, writeMem, this, h2]
theorem head4_wf (o : OpAB) (tag : Nat) : cwf none (head4 o tag).mem.sram = true := by
  simp only [head4, writeMem, low_sram (show 0 < 1024 by omega), if_true]
  exact csetN_wf _ _ _ rfl
theorem crc_more (k n c d r : Nat) (hk : k = 64 + n) (h : (bytes 64).foldl crcByte c = d) (hr : (bytes n).foldl crcByte d = r) :
    (bytes k).foldl crcByte c = r := by
  rw [hk, ← hr, ← h, ← List.foldl_append]; exact congrArg (List.foldl crcByte c) (List.replicate_append_replicate ..).symm
theorem crc_end (x : Nat) (h : x = 3473084991) : x ^^^ 0xFFFFFFFF = 821882304 := by rw [h]; decide
theorem crc_of (bs : Bytes) (h : bs.foldl crcByte 4294967295 = 3473084991) : crc32c bs = 821882304 := crc_end _ h
theorem crc_part0 : (bytes 64).foldl crcByte 4294967295 = 4231468184 := by decide +kernel
theorem crc_part1 : (bytes 64).foldl crcByte 4231468184 = 4158167844 := by decide +kernel
theorem crc_part2 : (bytes 64).foldl crcByte 4158167844 = 2345306063 := by decide +kernel
theorem crc_part3 : (bytes 64).foldl crcByte 2345306063 = 1200442991 := by decide +kernel
theorem crc_part4 : (bytes 64).foldl crcByte 1200442991 = 64332339 := by decide +kernel
theorem crc_part5 : (bytes 64).foldl crcByte 64332339 = 1158271177 := by decide +kernel
theorem crc_part6 : (bytes 64).foldl crcByte 1158271177 = 3425213895 := by decide +kernel
theorem crc_part7 : (bytes 64).foldl crcByte 3425213895 = 3473084991 := by decide +kernel
theorem crc_zeros : crc32c (bytes 512) = 821882304 := crc_of _ <|
  crc_more 512 448 _ _ _ rfl crc_part0 <|
  crc_more 448 384 _ _ _ rfl crc_part1 <|
  crc_more 384 320 _ _ _ rfl crc_part2 <|
  crc_more 320 256 _ _ _ rfl crc_part3 <|
  crc_more 256 192 _ _ _ rfl crc_part4 <|
  crc_more 192 128 _ _ _ rfl crc_part5 <|
  crc_more 128 64 _ _ _ rfl crc_part6 <|
  crc_part7
theorem tile4_sound (o : OpAB) (tag : Nat) (h : fld (readMem (head4 o tag) 0 32) 8 0 32 = tag) (hp : fld (readMem (head4 o tag) 0 32) 0 10 1 = 0) :
    tileSound (tile4 o tag) 0 32 512 = (tag == 821882304) := by
  have hm : ∀ k n, cgetN false ([] : Cells Bool) k n = List.replicate n false := by
    intro k n
    induction n generalizing k with
    | zero => rfl
    | succ n ih => simp [cgetN, ih, List.replicate_succ]
  have hl : readMem (tile4 o tag) 32 512 = bytes 512 := by
    have := read_written (head4 o tag) (bytes 512) 32 (head4_wf o tag) (by omega)
    rwa [show (bytes 512).length = 512 from List.length_replicate] at this
  have hpz : (tile4 o tag).mem.poison = [] := by
    simp [tile4, head4, writeMem, low_sram]; rfl
  simp only [tileSound, hl, crc_zeros, show readMem (tile4 o tag) 0 32 = _ from read_below _ _ 32 0 32 (head4_wf o tag) (by omega) (by omega), h, hp,
    marksOf, hpz, hm]
  simp
theorem witness_MloadFillsWeightRegister : laneReady (tile4 abTile 821882304) (macLane mac0) 0x10 abTile 1 = true ∧ opRsv abTile.a 17 = true ∧
    opRsv abTile.b 9 = true ∧ fmtOk 2 = true ∧ clPlace mac0.cl abTile.a (32 + 512) = some 0 ∧ fld (readMem (tile4 abTile 821882304) 0 32) 0 0 8 = 2 ∧
    fld (readMem (tile4 abTile 821882304) 0 32) 0 8 1 = 0 ∧ tileSound (tile4 abTile 821882304) 0 32 512 = true := by
  rw [show readMem (tile4 abTile 821882304) 0 32 = _ from read_below _ _ 32 0 32 (head4_wf _ _) (by omega) (by omega),
    tile4_sound _ _ (by decide +kernel) (by decide +kernel)]
  exact ⟨by decide +kernel, by decide, by decide, by decide, by decide, by decide +kernel, by decide +kernel, rfl⟩
theorem witness_MloadReportsBadTiles : (tile4 abTile 1).dump.log.length < 4096 ∧ laneReady (tile4 abTile 1) (macLane mac0) 0x10 abTile 1 = true ∧
    laneReady (tile4 abOther 1) (macLane mac0) 0x10 abOther 1 = true ∧ fld (readMem (tile4 abOther 1) 0 32) 0 0 8 ≠ 3 ∧
    fld (readMem (tile4 abTile 1) 0 32) 0 0 8 = 2 ∧ fld (readMem (tile4 abTile 1) 0 32) 0 8 1 = 0 ∧ tileSound (tile4 abTile 1) 0 32 512 = false ∧
    opRsv abOther.b 9 = true ∧ fmtOk 3 = true ∧ clPlace mac0.cl abOther.a (32 + payloadBytes 3 false) = some 0 := by
  rw [show readMem (tile4 abTile 1) 0 32 = _ from read_below _ _ 32 0 32 (head4_wf _ _) (by omega) (by omega),
    show readMem (tile4 abOther 1) 0 32 = _ from read_below _ _ 32 0 32 (head4_wf _ _) (by omega) (by omega),
    tile4_sound _ _ (by decide +kernel) (by decide +kernel)]
  exact ⟨by decide +kernel, by decide +kernel, by decide +kernel, by decide +kernel, by decide +kernel, by decide +kernel, by decide, by decide, by decide, by decide⟩
/-- MMAC of int8, and of fp8, on weight registers that hold int8 codes of 0. -/
theorem witness_MmacAccumulates : (ready run0 (macLane mac0) 0x11 ab0 = true ∧ opRsv ab0.a 17 = true ∧ opRsv ab0.b 16 = true ∧ fmtOk (opField ab0.b 0 8) = true ∧
      ((pairRows 0 (wType run0 mac0 0) (wType run0 mac0 1) 0 0).map List.length = some 16 ∧ clPlace mac0.cl ab0.a (16 * typeBits 0 / 8) = some 0) ∧
      ∀ r < 2, cget 0 run0.units.wbad (wReg mac0 r) = 0) ∧
    (let o : OpAB := ⟨0#32, 4#32⟩; ready run0 (macLane mac0) 0x11 o = true ∧ opRsv o.b 16 = true ∧ fmtOk (opField o.b 0 8) = true ∧
      pairRows (fmtType 4) (wType run0 mac0 0) (wType run0 mac0 1) 0 0 = none) := by decide +kernel
theorem witness_AccumulatorFlagsAreSticky : accSat 1 = true ∧ invalid 2 = true := by decide
theorem witness_IntegerAccumulationSaturates : (-2147483648 : Int) ≤ (5#32).toInt + -7 ∧ (5#32).toInt + -7 ≤ 2147483647 ∧
    2147483647 < (0x7FFFFFFF#32).toInt + 1 ∧ (0x80000000#32).toInt + -1 < -2147483648 := by decide
theorem witness_MdrainCopiesBank : [0x3C5#32, 0x305#32].all (fun a => ready run0 (macLane mac0) 0x12 ⟨a, 0#32⟩ && opRsv a 10) = true ∧
    opField 0x305#32 6 2 = 0 := by decide +kernel

def selA (k ind : Nat) : W32 := BitVec.ofNat 32 (k + 8192 * ind)
theorem witness_SopenOpensSelection : [selA 1 0, selA 1024 0, selA 4 1].all (fun a => ready run0 (selLane 0) 0x10 ⟨a, 0#32⟩) = true ∧
    (∀ k ∈ [1, 1024], opRsv (selA k 0) 14 = true ∧ opField (selA k 0) 0 11 = k ∧
      bit (selA k 0).toNat 13 = false ∧ bit (selA k 1).toNat 13 = true) ∧ clPlace (0 : Fin 32) 0#32 2 = some 0 ∧
    readNat (writeMem run0 0 (leBytes 2 0)) 0 2 = 0 ∧ readNat (writeMem run0 0 (leBytes 2 5)) 0 2 > 4 ∧ readNat (writeMem run0 0 (leBytes 2 4)) 0 2 ≤ 4 := by
  decide +kernel
/-- A scan whose END word is not visible yet, and a chain word of it. -/
def scanning : State := { run0 with units := { scans := [⟨0, 5, 0, 0⟩] } }
theorem witness_SelectUnitsTakeEntries : (∀ op ∈ [0x11, 0x12, 0x13], ready run0 (selLane 0) op ab0 = true ∧ ready scanning (selLane 0) op ab0 = true) ∧
    ((unfinishedResults run0) = [] ∧ ((unfinishedResults scanning).find? fun r => decide (r ≤ opField ab0.a 0 19) && decide (opField ab0.a 0 19 < r + 8)) = some 0) ∧
    clPlace (0 : Fin 32) ab0.a 32 = some 0 ∧
    (place false 0 (opField ab0.a 0 19) 1).isSome = true ∧ clPlace (0 : Fin 32) ab0.a 128 = some 0 ∧ opRsv ab0.a 17 = true ∧ opRsv ab0.b 1 = true := by decide +kernel
def sel2 : Sel := { isOpen := true, kmax := 2, k := 2 }
theorem witness_NanScoresAreNeverSelected : isNaN32 (ent 1 0x7FC00000#32).score = true ∧
    (({ sel2 with held := [ent 1 0x3F800000#32] } : Sel).held.all fun h => !isNaN32 h.score) = true := by decide
theorem witness_HeldEntriesStayOrdered : let u : Sel := { sel2 with held := [ent 1 0x3F800000#32, ent 0 0x40000000#32] };
    u.held.length ≤ u.kmax ∧ u.held.Pairwise (fun a b => precedes u.maxOrder b a = false) := by decide
theorem witness_SelectionIsBestKInAnyOrder : sel2.held = [] ∧ sel2.dedup = false ∧ sel2.k ≤ sel2.kmax ∧
    [ent 1 0x3F800000#32, ent 0 0x40000000#32].Perm [ent 0 0x40000000#32, ent 1 0x3F800000#32] ∧
    ([ent 1 0x3F800000#32, ent 0 0x40000000#32].map SelEntry.id).Nodup := by decide
def selOpen : State := setSel run0 0 sel2
theorem witness_SelectionsAreWritten : (∀ s ∈ [selOpen, run0], ready s (selLane 0) 0x14 ⟨0#32, 1#32⟩ 5 = true ∧ ready s (selLane 0) 0x15 ab0 5 = true) ∧
    (getSel selOpen 0).isOpen = true ∧ selSteps 2 ≤ 5 ∧
    clPlace (0 : Fin 32) 0#32 (16 * 2) = some 0 ∧ clPlace (0 : Fin 32) 1#32 128 = some 32 ∧ (clPlace (0 : Fin 32) 0#32 (getSel selOpen 0).image.length).isSome = true ∧
    (getSel run0 0).isOpen = false := by decide +kernel
def saved : State := { writeMem run0 0 sel2.image with units := { images := [(0, sel2.image, sel2)] } }
theorem witness_SrestoreRestoresSavedState : (∀ s ∈ [saved, run0], ready s (selLane 0) 0x16 ab0 5 = true) ∧ opRsv ab0.a 17 = true ∧
    clPlace (0 : Fin 32) ab0.a 144 = some 0 ∧
    (saved.units.images.find? fun p => p.1 == 0 && readMem saved 0 p.2.1.length == p.2.1) = some (0, sel2.image, sel2) ∧ imageAt saved 0 = some sel2 ∧
    selSteps sel2.kmax ≤ 5 ∧ imageAt run0 0 = none ∧ selSteps 1 ≤ 5 := by decide +kernel

def segPlate : State := { run0 with run := { run0.run with plate := some { plate0 with ink := 0 } } }
theorem witness_StackChannelsCompute : (ready run0 (chLane chan0) 0x10 ab0 = true ∧ ready run0 (chLane chan0) 0x11 ab0 = true ∧
      ready run0 (chLane chan0) 0x18 ⟨1#32, 0#32⟩ 4 = true ∧ ready run0 (chLane chan0) 0x18 ab0 4 = true) ∧ opRsv ab0.a 29 = true ∧ opRsv ab0.b 26 = true ∧
    (chPlace chan0 (opField ab0.a 0 27) 1).isSome = true ∧ (srdPlace ab0.b 1).isSome = true ∧ (⟨0#4, 0#4⟩ : Ecc).uncorrectable = 0#4 ∧
    popCount 24 (opField 1#32 0 24) ≤ inkPositions 0 ∧ 1 ≤ segLimit segPlate.setup.running ∧ opRsv 1#32 24 = true := by decide +kernel
/-- A gather list of one entry, beyond board DRAM. -/
def gatherBad : State := writeMem run0 (nsAddr 0) (layoutBytes 40 [(0, 2, 1), (32, 8, dumpBase + 2 ^ 40)])
theorem witness_MoversCopyGranules : (ready run0 (moveLane 0) 0x10 ab0 = true ∧ ready run0 (moveLane 0) 0x11 ⟨0x1FFFFF#32, 0#32⟩ = true ∧
      (∀ op ∈ [0x10, 0x11], ready run0 edgeLane op ab0 = true) ∧ ready run0 edgeLane 0x12 ab0 400 = true ∧ ready gatherBad edgeLane 0x12 ab0 400 = true) ∧
    gatherCut [readNat gatherBad (nsAddr 0 + 32) 8] (400 - 256) = true ∧ gatherCut [] (400 - 256) = false ∧ readNat gatherBad (nsAddr 0) 2 = 1 ∧ (location 0#32 1).isSome = true ∧
    opRsv 0x1FFFFF#32 21 = true ∧ 131071 + 1 ≤ 131072 ∧ 128 * (opField 0#32 25 3 + 1) ≤ edgeLimit run0.setup.running ∧
    128 * (0#32).toNat + 128 ≤ dumpBase ∧ (location 0#32 4).isSome = true ∧
    addrOk (nsAddr 0) (32 + 8 * readNat (writeMem run0 (nsAddr 0) (leBytes 2 0)) (nsAddr 0) 2) = true ∧ (location 0#32 (granulesOf 0)).isSome = true := by
  decide +kernel
theorem witness_TilesAreClosedAndChecked : (∀ op ∈ [0x12, 0x13], ready run0 (moveLane 0) op ⟨BitVec.ofNat 32 (2 ^ 19), 2#32⟩ 6 = true) ∧
    gradTile run0 0 = none ∧ gradTile grad0 0 = some (2 ^ 32 * 6) ∧ (∀ f ∈ [2, 3], opRsv (BitVec.ofNat 32 f) 9 = true ∧ fmtOk f = true ∧ closeSteps (payloadBytes f false) ≤ 6) ∧
    location (BitVec.ofNat 32 (2 ^ 19)) (1 + 512 / 32) = some 0 ∧ opRsv (BitVec.ofNat 32 (2 ^ 19)) 25 = true := by
  decide +kernel
theorem witness_LandedBytesAndNoOthers : run0.mem.wf = true ∧ ∀ i < 3, isSram (t1Addr 0 0 0 + i) = isSram (t1Addr 0 0 0) := by decide +kernel

/-! Tree walkers, lanes in common, flash lanes, the edge. -/

def ns0 : Nat := nsAddr 0
theorem witness_TsketchWritesSignBits : (∀ n ∈ [3, 4], ready run0 (walkLane 0) 0x12 ab0 n = true) ∧ opRsv 0#32 19 = true ∧ opRsv 0#32 21 = true ∧ opField 0#32 19 2 ≠ 3 ∧
    sketchBits 0 = 256 ∧ (place false 0 (opField 0#32 0 19) 32).isSome = true ∧ (place false 0 (opField 0#32 0 19) (granulesOf 32)).isSome = true ∧
    256 / 64 ≤ 4 ∧ 3 < 256 / 64 ∧ 0 < (valuesAt run0 ns0 256).length := by
  refine ⟨by decide +kernel, by decide, by decide, by decide, by decide, by decide, by decide, by decide, by decide, ?_⟩
  simp [valuesAt]
/-- An index whose tree is all zeros, and a walk or plan block that names it. -/
def ix0 : Desc := ⟨1, 0, layoutBytes 64 [(8, 4, 0x010101), (0x18, 8, t1Addr 0 0 0)], [], 0⟩
def walk0 : State := { writeMem run0 ns0 (bytes 64) with setup := { descs := [ix0] } }
theorem witness_TwalkWritesSubtrees : (∀ s ∈ [run0, walk0], ∀ n ∈ [3, 400], ready s (walkLane 0) 0x10 ab0 n = true) ∧ findDesc run0 1 (fld (readMem run0 ns0 64) 0 0 16) = none ∧
    (findDesc walk0 1 (fld (readMem walk0 ns0 64) 0 0 16) = some ix0 ∧
      addrOk ns0 (64 + 4 * sketchBits (dWidth ix0) + sketchBits (dWidth ix0) / 8 + 512) = true ∧ 3 < sketchBits (dWidth ix0) / 64) ∧
    walkLevels walk0 (dTop ix0) (dWidth ix0) 0 ⟨0, 0⟩ [fld ix0.bytes 8 0 8, fld ix0.bytes 8 8 8, fld ix0.bytes 8 16 8] [0] (400 - 4) = some ([], false) := by
  refine ⟨by decide +kernel, rfl, by decide +kernel, by decide +kernel⟩
def planOf0 : Plan := ⟨0, 0, [], false, 0⟩
def plan0 : State := { walk0 with units := { plans := [planOf0] } }
/-- A query that says NO_WIDEN, planned in that block. -/
def noWiden0 : State := { plan0 with recs := { shares := [⟨0, 0, 0, 0, 0, layoutBytes 64 [(0x18, 4, 2048)], [], [], ix0, some 0, [], 0, none, [], [], [], [], false, [], [], []⟩] } }
theorem witness_TplanKeepsPlans : planCtx run0 0 = none ∧ (planCtx plan0 0).isSome = true ∧
    (∀ s ∈ [run0, plan0], ready s (walkLane 0) 0x11 ab0 400 = true ∧ ready s (walkLane 0) 0x11 ⟨0#32, 1#32⟩ 400 = true) ∧
    (∀ x lane, planCtx plan0 0 = some x → planShares x lane [] plan0 0 400 = some (plan0, [], 0, true)) ∧
    addrOk ns0 (64 + 4 * 256 + 32 + 8 * 0) = true ∧ (plan0.units.plans.find? fun p => p.block == 0) = some planOf0 ∧
    neverWidens plan0 0 = false ∧ neverWidens noWiden0 0 = true := by
  refine ⟨rfl, by decide +kernel, by decide +kernel, fun _ _ _ => rfl, by decide, by decide, by decide +kernel, by decide +kernel⟩
def done0 : NDone := ⟨0, 0, [bytes 32]⟩
def ended0 : State := setNbu run0 chan0 0 { getNbu run0 chan0 0 with done := [done0] }
def cold0 (hot : Bool) : State :=
  { run0 with run := { run0.run with plate := some { plate0 with lanes := [⟨chLane chan0, 0, [⟨2, false, hot, 127, 0, 0, 0, 0⟩]⟩] } } }
theorem witness_IdleRefreshAndTaskEnd : (∀ hot, laneFree (cold0 hot) (chLane chan0) = true ∧
      recAt (cold0 hot) (chLane chan0) = some (⟨2, false, hot, 127, 0, 0, 0, 0⟩, 0, 0)) ∧ ((up stRestored).node.state ≠ stOff ∧
      ({ up stRestored with run := {} } : State).run.running = false ∧ (up stRestored).faults.inReset.contains 9 = false) ∧
    (getNbu ended0 chan0 0).done = [done0] ∧ done0.ended ≤ ended0.run.now ∧ done0.result + done0.words.length ≤ nsGranules := by decide +kernel
theorem witness_MaintServesItemOrCanary : laneFree (act run0 0 1 ab0) 0 = true ∧
    recAt (act run0 0 1 ab0) 0 = some (⟨1, false, false, 0, 0, 0, 0, 0⟩, 0, 0) ∧
    (cget 0 ({ run0 with run := { run0.run with maint := [(0, 255)] } } : State).run.maint 0 + 1) % 256 = 0 ∧ (cget 0 run0.run.maint 0 + 1) % 256 ≠ 0 ∧
    (let s : State := { run0 with run := { run0.run with plate := some { plate0 with lanes := [⟨0, 0, [⟨1, true, false, 511, 0, 0, 0, 0⟩]⟩] } } };
      (match recAt s 0 with | some (r, _, _) => r.fill | none => false) = true ∧ s.bg.gate = false) := by decide +kernel
def fread0 : FRead := ⟨0, 0, 0, 0, 0, 5, 0, 4, 1, 4, [], 9⟩
def flash0 : State := { run0 with flash := { trained := true, reads := [fread0], progQ := [(0, [7])], eraseQ := [(0, [8])] } }
theorem witness_FlashLanesHandOver : (∀ s ∈ [flash0, run0], ∀ op ∈ [0x10, 0x11, 0x12], ready s (fcLane 0) op ab0 = true) ∧ nextRead flash0 0 = some fread0 ∧ freeCredit flash0 0 = some 0 ∧
    canHand flash0 0 = true ∧ cget [] flash0.flash.progQ 0 = [7] ∧ cget [] flash0.flash.eraseQ 0 = [8] ∧ freeCredit flash0 4 = some 0 ∧
    canHand run0 0 = false := by decide +kernel
def sendPlate : Plate := { plate0 with slots := [⟨100, 1, 1, 0, 100, 0⟩], lanes := [⟨portLane 0, 0, [⟨0x10, false, false, 0, 0, 0, 0, 0⟩]⟩] }
def send0 : State := let s := writeMem run0 ns0 (bytes 32); { s with run := { s.run with plate := some sendPlate } }
theorem witness_FsendSendsEntries : laneReady send0 (portLane 0) 0x10 ab0 1 = true ∧ opRsv 0#32 19 = true ∧ opRsv 0#32 16 = true ∧
    (send0.run.plate.bind fun q => q.slots[opField 0#32 0 16]?) = some ⟨100, 1, 1, 0, 100, 0⟩ ∧ send0.run.step ≤ 100 ∧
    readNat send0 ns0 2 = 0 ∧ addrOk ns0 (32 + 16 * readNat send0 ns0 2) = true := by decide +kernel
/-- A query record admitted by ring 3. -/
def admit0 : State := { run0 with recs := { admitted := [{ ring := 3, index := 0, slice := 0, bytes := layoutBytes 64 [(0, 1, 1)], admitAt := 0, sn := 0, epoch := 1 }] } }
theorem witness_SadmitWritesAdmittedRecords : (∀ s ∈ [run0, admit0], ∀ l ∈ [0x500, 0x501], ready s l 0x10 ab0 2 = true ∧ ready s l 0x10 ⟨0#32, 1#32⟩ 2 = true) ∧
    opRsv 0#32 19 = true ∧ opRsv 1#32 1 = true ∧ (admit0.recs.admitted.filter fun r => !r.malformed && recClass r.bytes == 0 && decide (r.ring / 32 = 0)).length = 1 ∧
    opField 0#32 0 19 + (1 + granulesOf 16 + 2) ≤ nsGranules := by decide +kernel
theorem witness_RefusedOperandsDoNothing : opRsv 0x20000#32 17 = false ∧ fmtOk (opField 12#32 0 8) = false ∧ fmtOk (opField 0x300#32 6 8) = false ∧
    ({ vop0 with imm := 1#32 } : Vop).imm ≠ 0#32 ∧ opField 0#32 0 11 = 0 ∧ opRsv 0x20000000#32 29 = false ∧
    laneActs run0 (macLane mac0) 0x10 ab0 1 = false ∧ laneActs run0 (chLane chan0) 0x11 ab0 1 = false ∧
    ready run0 (moveLane 0) 0x10 ⟨0xA0000#32, 0#32⟩ = true ∧ ready run0 (chLane chan0) 0x11 ⟨0x1FFFFFFF#32, 0#32⟩ = true ∧
    location 0xA0000#32 1 = none ∧ opRsv 0xA0000#32 27 = true ∧ opRsv 0#32 25 = true ∧ opRsv 0#32 26 = true ∧
    chPlace chan0 (opField 0x1FFFFFFF#32 0 27) 4 = none ∧ opRsv 0x1FFFFFFF#32 29 = true := by decide +kernel
/-- A plate of one MAC lane: MLOAD of fp8 weights, MMAC of int8 activations. -/
def mixed0 : Bytes := layoutBytes 240 [(0, 4, 0x4C504E54), (4, 2, 1), (6, 2, 1), (8, 4, 240), (0x18, 4, 0xC0), (0xC4, 4, 0xD0), (0xC8, 4, 2),
  (0xD0, 1, 0x10), (0xD8, 4, 4), (0xE0, 1, 0x11)]
def mload0 : Rec := ⟨0x10, false, false, 0, 0, 4, 0, 0⟩
def mmac0 : Rec := ⟨0x11, false, false, 0, 0, 0, 0, 0⟩
theorem witness_MixedPairsAreRefused :
    (isFloatType (fmtType (opField 4#32 0 8)) = true ∧ isIntClass (fmtType (cget 0 run0.units.wfmt (wReg mac0 0))) = true) ∧
    plateParses mixed0 = true ∧ (plateOf mixed0).lanes = [⟨0, 0, [mload0, mmac0]⟩] ∧
    (([mload0] : List Rec).foldl (fun c r => c.afterRec 0 r) (startCtx ⟨0, 0, [mload0, mmac0]⟩)).w0 = some 4 ∧ bit (recBw mmac0 0).toNat 8 = false ∧
    isIntClass (fmtType (opField (recBw mmac0 0) 0 8)) = true ∧ isFloatType (fmtType 4) = true := by decide +kernel
theorem witness_BusyUnitsWait : commandLane (.fissue 0) = some 0x300 ∧ laneFree { run0 with run := { run0.run with busy := [(0x300, 1)] } } 0x300 = false := by
  decide +kernel

/-! The fabric, conjunctions, messages. -/

def link0 : Link := { state := 3, replay := [bytes 256, bytes 256], txSeq := 2 }
def linked (x : Link) : State := { duo 0 with fab := { links := [(0, x)] } }
/-- Flits of zeros with their CRC: without RETRY_REQ, and with it. -/
def flit0 : Bytes := bytes 252 ++ leBytes 4 1743147809
def flitRetry : Bytes := (bytes 247 ++ ([1#8] ++ bytes 4)) ++ leBytes 4 1610038413
theorem crc_flit (bs : Bytes) (n : Nat) (h : bs.foldl crcByte 4294967295 = n ^^^ 0xFFFFFFFF) (hn : (n ^^^ 0xFFFFFFFF) ^^^ 0xFFFFFFFF = n) : crc32c bs = n :=
  (congrArg (· ^^^ 0xFFFFFFFF) h).trans hn
theorem crc_flit0 : crc32c (bytes 252) = 1743147809 := crc_flit _ _ (h := crc_more 252 188 _ _ _ rfl crc_part0 <| crc_more 188 124 _ _ _ rfl crc_part1 <|
  crc_more 124 60 _ _ _ rfl crc_part2 (by decide +kernel)) (by decide)
theorem crc_flitRetry : crc32c (bytes 247 ++ ([1#8] ++ bytes 4)) = 1610038413 := crc_flit _ _ (hn := by decide) <| by
  have h : (bytes 247).foldl crcByte 4294967295 = (bytes 55).foldl crcByte 2345306063 :=
    crc_more 247 183 _ _ _ rfl crc_part0 <| crc_more 183 119 _ _ _ rfl crc_part1 <| crc_more 119 55 _ _ _ rfl crc_part2 rfl
  rw [List.foldl_append, h]; decide +kernel
theorem witness_LinksCarryFlits :
    ((getLink (linked link0) 0).state = 3 ∧ (linked link0).faults.inReset.contains 4 = false ∧ fld flit0 0xF0 0 16 = link0.rxSeq ∧ flit0.length = 256 ∧
      fld flit0 0xFC 0 32 = 1743147809 ∧ fld flit0 0xF4 24 1 = 0 ∧ fld flitRetry 0xFC 0 32 = 1610038413 ∧ fld flitRetry 0xF0 0 16 = link0.rxSeq ∧
      flitRetry.length = 256 ∧ fld flitRetry 0xF4 24 1 = 1 ∧ link0.replay.drop (ackCount link0 0) ≠ [] ∧ (bytes 255).length ≠ 256 ∧
      fld flit0 0xF0 0 16 ≠ ({ link0 with rxSeq := 1 } : Link).rxSeq) ∧
    (flit0.take 252 = bytes 252 ∧ flitRetry.take 252 = bytes 247 ++ ([1#8] ++ bytes 4)) ∧
    (link0.replay ≠ [] ∧ link0.replays + 1 < 16 ∧ 16 ≤ ({ link0 with replays := 15 } : Link).replays + 1 ∧ (linked link0).dump.log.length < 4096) ∧
    nextFlit { state := 3, queue := [bytes 256] } = some (bytes 256) ∧
    ((linked link0).power.state = 2 ∧ portRole (linked link0) 0 ≠ 3 ∧ (getLink (linked link0) 0).state ≠ 7) ∧
    ((duo 0).run.running = true ∧ (duo 0).run.plate = some plate0 ∧ 0 ≤ plate0.treeNs ∧ plate0.treeNs < 1 ∧ (1 : Nat) ≠ 0 ∧ plate0.slots = []) := by
  refine ⟨by decide +kernel, ⟨List.take_left' List.length_replicate, List.take_left' (by decide +kernel)⟩, by decide +kernel, by decide +kernel, by decide +kernel, by decide +kernel⟩
theorem witness_LanesTrain : (∀ st ∈ [0, 1, 2], laneTrains (linked { state := st }) 0 = true ∧ (getLink (linked { state := st }) 0).state = st) ∧
    (let p : TrainMsg := { train0 with hears := [0] };
      (p.hears.any fun t => decide (t < 32) && portRole (linked {}) (t / 4) == portRole (linked {}) 0) = true ∧ portRole (linked {}) 0 = 0 ∧
      txHeard (linked {}) 0 p = some 0 ∧ isNeighbour (nodeId (linked {})) p.node.val = true ∧ inDomain (linked {}) p.node.val = true ∧
      p.domain.toNat = domainNumber (linked {}) ∧ p.role.val = 0) ∧ txHeard (linked {}) 0 train0 = none ∧ isNeighbour (nodeId (linked {})) 0 = false ∧
    portRole { linked {} with boot := { settings := [⟨3, 0, leBytes 2 1⟩] } } 0 ≠ 0 ∧
    (portRole (linked {}) 7 = 3 ∧ laneTrains (linked {}) 28 = false ∧ 3 ≤ (getLink (linked link0) 0).state) ∧
    (duo 0).power.state = 2 ∧ (duo 0).fab.trained = false ∧ (duo 0).faults.inReset.contains 4 = false := by decide +kernel

/-- The primary of a conjunction of `m`; port F7 has the role CONJ and a link to position 1. -/
def conj0 (m pos : Nat) : State :=
  { up stServing with
    boot := { firmware := true, conjId := pos, settings := [⟨3, 0, leBytes 2 0x8000⟩, ⟨5, 0, leBytes 1 m⟩] }
    fab := { trained := true, links := [(28, { state := 3, peer := some { train0 with conjId := 1#3 } })] } }
def member0 (arr : Nat) : State := { conj0 3 0 with conj := { formed := true, size := 3, arrangement := arr, members := [0, 1, 2] } }
theorem witness_ConjunctionsForm :
    ((conj0 2 0).boot.conjId = 0 ∧ (conj0 2 0).conj.formed = false ∧ (conj0 2 0).conj.failed = false ∧ conjCandidate (conj0 2 0) = true ∧
      (conj0 2 0).fab.trained = true ∧ (conjSetting (conj0 2 0)).1 = 2 ∧
      conjComplete { conj0 2 0 with conj := { joined := [(1, 9, 0)] } } 2 = true ∧ conjComplete { conj0 3 0 with conj := { joined := [(1, 9, 0)] } } 3 = false) ∧
    ((conj0 2 1).boot.conjId ≠ 0 ∧ (conj0 2 1).conj.formed = false ∧ conjCandidate (conj0 2 1) = true) ∧
    (member0 2).conj.formed = true ∧ (member0 2).conj.members.contains 1 = true ∧ (member0 2).conj.arrangement = 2 ∧ (member0 0).conj.arrangement ≠ 2 := by
  decide +kernel

def data0 : DataMsg := ⟨1, 0#16, 0#16, 0#19, 100#16, bytes 224⟩
def sent0 : SentMsg := ⟨0, 1, 0, false⟩
def tileMsg : BulkMsg := ⟨0#16, 1, 0#16, 0, false, .tile 5#32 0#32 (bytes 32)⟩
def bridge0 : State := { duo 0 with fab := { bridge := [(5, 0, 3)] }, host := { inProg := [⟨3, 0x70, 1, 1, 0, 0⟩] } }
theorem witness_MessagesAreTaken :
    ((duo 0).run.running = true ∧ (duo 0).faults.inReset.contains 4 = false ∧ min 224 (data0.length.toNat - 224 * data0.seq.toNat) ≠ 0 ∧
      32 * data0.dest.toNat + 224 * data0.seq.toNat + 100 ≤ nsSize) ∧
    ([sent0].find? fun m => m.slot == 0 && m.dst == 1 && m.dest == 0 && !m.acked) = some sent0 ∧
    (tileMsg.domain.toNat = domainNumber (duo 0) ∧ tileMsg.dst.val = nodeId (duo 0) ∧ tileMsg.body = .tile 5#32 0#32 (bytes 32) ∧
      (duo 0).bg.asked = [] ∧ beingLoaded (duo 0) = false ∧ ({ tileMsg with dst := 1 } : BulkMsg).dst.val ≠ nodeId (duo 0)) ∧
    (let p : BulkMsg := { tileMsg with srcDomain := 1#16, dst := 1 }; p.domain.toNat = domainNumber (duo 0) ∧ p.dst.val ≠ nodeId (duo 0) ∧
      p.srcDomain ≠ p.domain ∧ p.first = false) ∧
    (let s : State := { duo 0 with bg := { asked := [(5, 0)] } }; s.bg.asked.contains (5, 0) = true ∧ tileMsg.src.val = (partner s).getD 512) ∧
    beingLoaded { duo 0 with orr := { view := some { view0 with status := [(0, 2), (1, 1)] } } } = true ∧
    bridge0.fab.bridge = [(5, 0, 3)] ∧ inProg bridge0 3 = some ⟨3, 0x70, 1, 1, 0, 0⟩ := by decide +kernel

def coord0 (o : Orrery) : State := { duo 0 with orr := { o with view := some view0 } }
def msg (subject sender value code : Nat) : OrMsg := ⟨Fin.ofNat 512 sender, Fin.ofNat 512 subject, 0#32, 0#64, BitVec.ofNat 16 code, BitVec.ofNat 8 value⟩
theorem witness_ScoresAndDrops :
    (isCoord (duo 0) = true ∧ statusOf (duo 0) 1 = 1 ∧ lossCode (msg 1 1 0 5).code.toNat = true ∧ lossCode (msg 1 1 9 1).code.toNat = false ∧
      (msg 1 1 9 1).value ≠ 0#8) ∧
    ((duo 0).orr.view = some view0 ∧ view0.deputy ≠ nodeId (duo 0) ∧ (msg 0 1 9 0).subject.val = nodeId (duo 0)) ∧
    (view0.deputy = nodeId (duo 1) ∧ (msg 0 1 9 0).subject.val ≠ nodeId (duo 1)) ∧
    (([(1, 0)] : List (Nat × Nat)).find? fun a => a.1 == 1) = some (1, 0) ∧
    ((coord0 { awaiting := [(1, 1)], unacked := [(1, 50)] }).orr.awaiting.find? fun a => a.1 == 1) = some (1, 1) ∧
    (let s : State := { coord0 { health := [(1, { score := 200 })] } with run := { waits0.run with frame := 2000000 } };
      isCoord s = true ∧ statusOf s 1 = 1 ∧ 0 < framesOf s 1000 ∧ (healthOf s 1).since + framesOf s 1000 ≤ s.run.frame ∧ scoreNow s 1 < 255) ∧
    (isCoord (duo 1) = false ∧ view0.coord ≠ (msg 1 0 0 0).subject.val) ∧ ((duo 0).orr.losses.contains 1 = false ∧ liveNode (duo 0) 1 = true) ∧
    (64 ≤ (healthOf (duo 0) 1).score ∧ 63 < 64) ∧
    (({ view0 with hold := true } : View).hold = true ∧ view0.drops.getD 0 0 + framesOf run0 600000 ≤ 600000000 ∧ view0.hold = false ∧
      run0.run.frame < view0.drops.getD 0 0 + framesOf run0 600000) := by decide +kernel

def join0 : JoinBody := ⟨0#256, 1#32, none, false, false⟩
def lone (st : Nat) (o : Orrery) : State := { up st with orr := o }
def former0 : Former := ⟨0, 255, 0, 0, 1, 0, none, false⟩
theorem witness_ViewsAndAdmission :
    (isCoord (coord0 { losses := [1] }) = true ∧ viewDue (coord0 { losses := [1] }) view0 = true ∧ (coord0 { losses := [1] }).orr.proposed = false) ∧
    (view0.coord = (msg 0 0 0 0).sender.val ∧ view0.deputy = (msg 0 1 0 0).sender.val) ∧
    (let s : State := { duo 1 with orr := { (duo 1).orr with losses := [0] } };
      s.orr.view = some view0 ∧ view0.deputy = nodeId s ∧ view0.coord ≠ nodeId s ∧ s.run.running = true ∧ s.orr.losses.contains view0.coord = true) ∧
    (view0.of 1 = 1 ∧ mayDepart { duo 0 with boot := {} } view0 1 = true ∧ mayDepart (coord0 { losses := [0] }) view0 1 = false) ∧
    ((msg 1 1 199 0).value.toNat < 200 ∧ 200 ≤ (msg 1 1 200 0).value.toNat ∧ (1#256).toNat ≠ (duo 0).boot.fwDigest ∧
      join0.digest.toNat = (duo 0).boot.fwDigest ∧ inDomain (duo 0) 2 = false ∧
      joinCheck { duo 0 with orr := { view := some { view0 with status := [(0, 1)] } } } 1 (msg 1 1 200 0) join0 = 0) ∧
    (let s : State := { duo 0 with node := { state := stServing, trans := some (0x1B, 4) } };
      (msg 0 1 0 0).subject.val = nodeId s ∧ s.node.trans = some (0x1B, 4)) ∧
    (isCoord (duo 0) = true ∧ statusOf { duo 0 with orr := { view := some { view0 with status := [(0, 1), (1, 2)] } } } 1 = 2) ∧
    (testScoreOf run0 2 0 < 200 ∧ 200 ≤ testScoreOf run0 1 0 ∧ (lone stEclipsed { soak := some 0 }).orr.soak = some 0 ∧
      (lone stEclipsed { soak := some 0 }).orr.view = none ∧ view0.coord ≠ nodeId (duo 1) ∧ 200 ≤ testScoreOf (duo 1) 0 0) ∧
    (let s := lone stEclipsed { probation := true };
      s.node.state = stEclipsed ∧ s.orr.probation = true ∧ s.orr.noRetest = false ∧ s.dump.escalated = false ∧ s.faults.test = none ∧ s.orr.soak = none) ∧
    ((lone stRestored { joining := true }).orr.joining = true ∧ (lone stRestored { joining := true }).orr.isFormer = false) ∧
    ((msg 1 1 200 0).subject.val ≠ nodeId run0 ∧ run0.orr.view = none ∧ run0.orr.seenForms = []) ∧
    (let s := lone stRestored { isFormer := true, formers := [former0] };
      s.orr.isFormer = true ∧ s.orr.proposed = false ∧ s.orr.pending = none ∧ (∀ f ∈ s.orr.formers, nodeId s ≤ f.node) ∧
      ∃ f ∈ s.orr.formers, f.node = nodeId s ∧ formCheck s (s.orr.formers.foldl (fun n f => max n f.epoch) 0) f = 0) ∧
    ({ view0 with status := [(0, 1), (1, 2)] } : View).of (nodeId (duo 1)) = 2 := by decide +kernel

/-! Flash, background work, changes. -/

def cmds (l : List (Nat × Nat)) (r : List FRead) : State :=
  { up stServing with flash := { trained := true, cmdQ := [(0, l), (4, l)], reads := r } }
def read0 (fc : Nat) : FRead := ⟨0, 0, 0, 0, 0, 5, fc, 4, 1, 1, [], 5⟩
/-- A read of slot 7, at place 5 of a stripe without parity. -/
def lostRead : State := let s := cmds [(0, 5)] [read0 4]; { s with flash := { s.flash with slotMap := [(7, mkEntry 0 5 false false true)] } }
/-- A stripe all of whose units are programmed, and the same with the channel of place 5 lost. -/
def programmed : State := let s := cmds [] []; { s with flash := { s.flash with pages := (List.range 24).map fun c => (c, 1) } }
def lostChannel : State := { programmed with flash := { programmed.flash with lost := [(unitChannel 0 0, true)] } }
def trained0 : FlashTrain := ⟨List.replicate 24 .loaded, List.replicate 4 .qualified, true, true, 0⟩
theorem witness_FlashEvents :
    (∀ fc ∈ [0, 4], (popCmd (cmds [(0, 5)] [read0 fc]) fc 0).map (fun c => (c.1, (readBack c.2.2 c.1 ⟨bytes 2048, false, false, false⟩).2)) = some (5, false) ∧
      ((cmds [(0, 5)] [read0 fc]).flash.reads.find? fun q => q.channel == fc && q.place == 5 && q.stage == 1) = some (read0 fc)) ∧
    ((popCmd lostRead 4 0).map (fun c => (c.1, (readBack c.2.2 c.1 ⟨bytes 2048, false, true, false⟩).2)) = some (5, true) ∧ slotAt lostRead 5 = some 7) ∧
    (chanLost programmed (unitChannel 0 0) = false ∧ (∀ ch < 24, cget 0 programmed.flash.pages ch ≠ 0) ∧ chanLost lostChannel (unitChannel 0 0) = true ∧
      (rebuildSlot lostChannel 0 5).isSome = true ∧ rebuildSlot lostRead 0 5 = none) ∧
    (popCmd (cmds [(1, 5)] []) 0 1).isSome = true ∧ (popCmd (cmds [(2, 5)] []) 0 2).isSome = true ∧
    (([⟨2, 7, 1, 0⟩] : List OpenStripe).find? fun o => o.slice == 2 && decide (o.born + 250 ≤ 250)) = some ⟨2, 7, 1, 0⟩ ∧
    ((cmds [] []).flash.trained = true ∧ chanLost (cmds [] []) 0 = false ∧ (cmds [] []).faults.inReset.contains 16 = false ∧
      (cmds [] []).dump.log.length < 4096) ∧
    ((up stServing).power.state = psOn ∧ bit 63 0 = true ∧ ([3] : List Nat).contains 3 = true ∧ (up stServing).flash.trained = false) ∧
    (trainChannel true false trained0).lost = false ∧ (trainChannel false true trained0).lost = false := by decide +kernel

def merge0 (sw : Option Nat) (told : Bool := false) : Merge := ⟨0, 0, 3, 10, 0, 0, 5, sw, [], 0, 0, told, false, []⟩
def work0 (b : Background) : State := { duo 0 with run := { waits0.run with frame := 15 }, bg := b, setup := { descs := [ix0] } }
def table0 : Desc := ⟨2, 0, bytes 128, [], 0⟩
def transit0 : Transit := ⟨0, 0, 1, 3, 2 ^ 40, false⟩
def rebuild0 : Item := ⟨1, 0, 0, .rebuild 5 0, 0, true, false, 0⟩
def obj0 : Obj := { id := 5, desc := layoutBytes 32 [(0, 4, 5), (5, 1, 2), (12, 4, 4)], extents := [(0, 1)] }
theorem witness_BackgroundWorkEnds :
    (let s := work0 { merges := [merge0 none] };
      s.run.running = true ∧ (s.bg.merges.find? fun m => m.index == 0 && m.leaf == 3 && m.node == 0 && m.switched.isNone && decide (m.start + m.span ≤ s.run.frame)) =
        some (merge0 none) ∧ findDesc s 1 0 = some ix0 ∧ partner s = some 1 ∧ liveNode s 1 = true ∧ (merge0 none).told = false ∧
        (merge0 none true).told = true ∧ liveNode { s with orr := { s.orr with view := some { view0 with status := [(0, 1)] } } } 1 = false) ∧
    (let s := work0 { merges := [merge0 (some 14)] };
      (s.bg.merges.find? fun m => m.index == 0 && m.leaf == 3 && (match m.switched with | some f => decide (f + depthNow s ≤ s.run.frame) | none => false)) =
        some (merge0 (some 14))) ∧
    (let s : State := { run0 with run := { run0.run with frame := 4096 } }; s.run.frame % 4096 = 0 ∧ s.cnt.windowEnd ≠ s.run.frame) ∧
    (let s : State := { work0 { transit := some transit0 } with setup := { descs := [table0] } };
      s.bg.transit = some transit0 ∧ findDesc s 2 0 = some table0 ∧ s.run.running = true ∧ transit0.submitted = false ∧
      shardRows table0.bytes 0 ≤ transit0.cursor ∧ s.setup.change = none ∧ s.setup.reshard = none) ∧
    (let s : State := { work0 { items := [rebuild0] } with mem := { objs := [obj0] } };
      (s.bg.items.find? fun i => i.work == .rebuild 5 0) = some rebuild0 ∧ findObj s 5 = some obj0 ∧ rebuild0.left = 0 ∧ ownSource s obj0 0 = none ∧
        s.bg.asked.contains (5, 0) = false ∧ s.run.running = true ∧ partner s = some 1 ∧ liveNode s 1 = true ∧ s.bg.answers = [] ∧
        liveNode { s with orr := { s.orr with view := some { view0 with status := [(0, 1)] } } } 1 = false) ∧
    ([(1, 2, 0, copyGranules)] : List (Nat × Nat × Nat × Nat)).any (fun c => c.1 == 1 && c.2.1 == 2 && decide (copyGranules ≤ c.2.2.2)) = true := by decide +kernel
def zeroTile : Bytes := layoutBytes 32 [(0, 1, 2), (8, 4, 821882304)] ++ bytes 512
theorem zeroTile_tag : tagOk (zeroTile.take 32) (zeroTile.drop 32) = true := by
  rw [show zeroTile.drop 32 = bytes 512 by decide +kernel, tagOk, crc_zeros]; decide +kernel
/-- The tile of zeros that the partner brings for the rebuild. -/
theorem witness_BackgroundWorkEnds_tile : soundTile obj0 zeroTile = true := by
  rw [soundTile, zeroTile_tag]; decide +kernel

def change0 (f : Nat) : Change := ⟨2, f, some 4, 1, true, false⟩
def setupOf (x : Setup) (fr : Nat) : State := { duo 0 with run := { waits0.run with frame := fr }, setup := x }
def rec0 : InRec := { ring := 3, index := 0, slice := 0, bytes := [], admitAt := 0, sn := 0, epoch := 1 }
def custody0 : Custody := ⟨1, 1, 0, 1, 1, 1, 0, 1⟩
def ring0 : Ring := ⟨3, layoutBytes 64 [(0, 4, 3)], 0, 0, false, false, false, true, 0, 0, 0, [], 0⟩
def closing0 (r : List InRec) : State :=
  { duo 0 with host := { rings := [ring0], inProg := [⟨5, 0x59, 1, 1, 3, 0⟩], written := [3], busMaster := [(0, true)] }, recs := { inflight := r } }
theorem witness_ChangesAndRecordsEnd :
    (let s := setupOf { next := [⟨.clmap 0 0, none, false⟩] } 0;
      burinUp s = true ∧ s.setup.next ≠ [] ∧ s.run.running = true ∧ s.setup.complete = false ∧ s.setup.change = none) ∧
    (let s := setupOf { change := some (change0 0) } 0;
      s.setup.change = some (change0 0) ∧ burinUp s = true ∧ s.setup.complete = false ∧ (change0 0).abandoned = false ∧ (change0 0).quiesced = true ∧ maskOpen s 1 = false ∧
      maskOpen { s with recs := { inflight := [rec0] } } 1 = true) ∧
    (let s := setupOf { change := some (change0 0) } 100;
      (change0 0).frame + 4 * (quietFrames s + 1) ≤ s.run.frame ∧ (s.fab.armed && s.setup.complete) = false ∧ s.setup.reshard = none ∧
        (change0 0).mailbox = some 4 ∧ ({ change0 0 with abandoned := true } : Change).abandoned = true ∧
        (setupOf {} 0).run.frame < (change0 0).frame + 4 * (quietFrames s + 1)) ∧
    (let s : State := { setupOf {} 1000000 with recs := { custody := [custody0] } };
      s.run.running = true ∧ s.recs.custody = [custody0] ∧ custody0.state = 1 ∧ custody0.handover + orphanFrames s ≤ s.run.frame ∧ s.bg.transit = none ∧
      0 < custody0.handover + orphanFrames run0) ∧
    (let s := setupOf { reshard := some ⟨2, 4, true, 1⟩, phaseMaps := [(2, [])] } 0;
      s.setup.change = none ∧ phasePackage s 2 = some [] ∧ s.bg.items = []) ∧
    ((up stDraining).node.state = stDraining ∧ recordsOpen (up stDraining) (fun _ => true) = false ∧ (up stDraining).node.trans = none ∧
      recordsOpen { up stDraining with recs := { inflight := [rec0] } } (fun _ => true) = true) ∧
    (((closing0 []).host.rings.find? fun r => r.num == 3) = some ring0 ∧ ring0.closing = true ∧ ring0.isOpen = false ∧
      ringPending (closing0 [rec0]) 3 = true ∧ ringPending (closing0 []) 3 = false ∧
      ((closing0 []).host.inProg.find? fun p => p.code == 0x59 && p.arg == 3) = some ⟨5, 0x59, 1, 1, 3, 0⟩) ∧
    (closing0 []).host.written.contains 3 = true ∧ dmaOk (closing0 []) ring0.port = true ∧ (closing0 []).host.written.all (· == 3) = true := by
  decide +kernel

/-! Faults, resets, power, boot, sideband, ports. -/

theorem witness_EnteringFaultStopsThePlate : (duo 0).node.state ≠ stFault := by decide
def quar0 (t : Option Nat) : Quarantine := ⟨0, 0, 0, t⟩
theorem witness_HangsAndResets : timersRun (up stServing) (unitDomain 0x103) = true ∧
    ((up stServing).node.state ≠ stOff ∧ burinUp (up stServing) = true ∧ (up stServing).faults.toReset.contains 1 = false) ∧
    (let s : State := { up stServing with dump := { writing := some (true, 5) }, faults := { toReset := [5] } };
      s.dump.writing = some (true, 5) ∧ s.faults.toReset = [5] ∧ s.faults.inReset.contains 5 = false) ∧
    (({ dump := { writing := some (true, 5) } } : State).faults.toReset = []) ∧
    (let s := up stFault;
      s.node.state = stFault ∧ s.boot.romRecovery = false ∧ burinUp s = true ∧ s.dump.writing = none ∧ s.faults.toReset = [] ∧ s.dump.escalated = false ∧
      s.dump.nr1 = none) ∧
    (let s : State := { up stFault with dump := { nr1 := some 0 }, power := { (up stFault).power with ms := 3600000 } };
      s.dump.nr1 = some 0 ∧ s.power.ms - 0 ≤ 3600000) ∧
    (({ up stServing with faults := { inReset := [16, 5] } } : State).faults.inReset.contains 16 = true ∧ (up stServing).faults.senseHeld = []) ∧
    (let s : State := { up stServing with boot := {} };
      stSelftest ≤ s.node.state ∧ s.boot.firmware = false ∧ s.boot.romRecovery = false ∧ s.faults.inReset.contains 1 = false) ∧
    (([quar0 (some 0)].find? fun q => q.unit == 0) = some (quar0 (some 0)) ∧ (59999 : Nat) < 0 + 60000 ∧ (0 : Nat) + 60000 ≤ 60000 ∧
      (up stServing).dump.log.length < 4095) ∧
    (burinUp { up stServing with boot := { firmware := true, mapDirty := some (0, false) } } = true) ∧ (up stServing).faults.inReset.contains 5 = false := by
  decide +kernel
def pow (st : Nat) (main : Bool) (latch : Nat) : State := { power := { vmgt := true, state := st, mainPath := main, latch := latch } }
theorem witness_PowerStateFollowsItsCauses : State.reset.power.vmgt = false ∧
    (∀ p ∈ [(psHousekeeping, true, 0), (psOn, true, 0), (psFalling, false, 0), (psHousekeeping, false, 0), (psHeld, false, 0), (psLatched, false, 2)],
      (pow p.1 p.2.1 p.2.2).power.vmgt = true ∧ (pow p.1 p.2.1 p.2.2).power.state = p.1 ∧ (pow p.1 p.2.1 p.2.2).power.mainPath = p.2.1 ∧
      (pow p.1 p.2.1 p.2.2).power.latch = p.2.2) ∧
    (({ power := { vmgt := true, state := psRising, railStep := 5 } } : State).power.railStep < 6 ∧
      ({ power := { vmgt := true, state := psRising, railStep := 6 } } : State).power.railStep = 6) ∧
    (coolantOk { pow psLatched false 3 with power := { (pow psLatched false 3).power with tele := { tele0 with inlet := 300, flow := 2000 } } } = true ∧
      coolantOk (pow psLatched false 3) = false) := by decide
def warm : State := { up stServing with power := { (up stServing).power with live := 16, ms := 100000 } }
theorem witness_BootAndEnvelope :
    ((up stBoot).node.state = stBoot ∧ (up stBoot).power.state = psOn ∧ (up stBoot).boot.chained = false ∧ (up stBoot).boot.firmware = true) ∧
    (let s : State := { up stBoot with fab := { trained := true }, flash := { trained := true } }; s.fab.trained = true ∧ s.flash.trained = true) ∧
    (let s : State := { up stSelftest with faults := { test := some (true, stRestored, none) } };
      s.node.state = stSelftest ∧ s.faults.test = some (true, stRestored, none) ∧ s.faults.autoStart = false) ∧
    (warm.power.state = psOn ∧ (1051 : Int) > 1050 ∧ warm.run.running = true ∧ (1050 : Int) ≤ 1050 ∧ warm.power.vmgt = true ∧ bit warm.power.live 4 = true) ∧
    (let s : State := { warm with faults := { graceFrom := some 90000 } };
      s.faults.graceFrom = some 90000 ∧ 90000 + 10000 ≤ s.power.ms ∧ s.power.ms < 90001 + 10000) ∧
    (let s : State := { up stRestored with faults := { holdStart := true, autoStart := true, heldFrom := some 0 }, power := { warm.power with live := 0 } };
      s.node.state = stRestored ∧ s.faults.holdStart = true ∧ s.faults.autoStart = true ∧ bit s.power.live 4 = false ∧
      (∀ h, s.faults.heldFrom = some h → h + 60000 ≤ s.power.ms) ∧ s.power.ms < 40001 + 60000) := by
  refine ⟨by decide, by decide, by decide, by decide, by decide, by decide, by decide, by decide, by decide, ?_, by decide⟩
  intro h hh; cases hh; decide
theorem witness_SidebandAndPortEvents : nodeTargetUp (up stServing) = true ∧ (0x44554D51#32 : W32) ≠ 0x44554D50#32 ∧
    (0x4000000#32).toNat % 2 ^ 27 ≤ 0x4000000 ∧ (up stServing).dump.window < 0x4000000 ∧
    0x4000000 ≤ ({ up stServing with dump := { window := 0x4000000 } } : State).dump.window ∧ (up stServing).power.vmgt = true ∧
    ((up stServing).node.state ≠ stOff ∧ (up stServing).faults.inReset.contains 3 = false) ∧
    ({ up stServing with faults := { inReset := [3] } } : State).faults.inReset.contains 3 = true ∧
    (portDown (up stServing) 1 = false ∧ (up stServing).dump.log.length < 4096) ∧
    (∀ st ∈ [stBoot, stServing], portReceives { up st with host := { linkUp := [(1, true)] } } 1 = true) := by decide +kernel
def wired : State := { up stServing with host := { linkUp := [(0, true)], memEn := [(0, true)], mstate := [(2, 1)] } }
theorem witness_HostWritesReachTheirPlaces : takesWrites wired 0 = true ∧ [1#8] ≠ [] ∧
    (boxPort 1 = 0 ∧ cget 0 wired.host.mstate 1 ≠ 1) ∧ (boxPort 2 = 0 ∧ cget 0 wired.host.mstate 2 = 1) ∧ boxPort 32 ≠ 0 ∧ wired.host.wf = true ∧
    (frameRw 0x40 = false ∧ frameRw 0 = true ∧ 0x100 < 0x104 ∧ 0x40 < 4096) ∧ (0x40000#28).toNat ≥ 0x40000 ∧ (0x70400#28).toNat ≥ 0x70400 := by decide +kernel

/-! Mailbox commands. -/

/-- Mailbox 0 offers a command: its code, ARGS as (offset, length, value), and payload, sealed with SEQ 1. Its slice is slice 0, with ADMIN privilege. -/
def offered (s : State) (code : Nat) (args : List (Nat × Nat × Nat)) (pay : Bytes) : State :=
  let block := layoutBytes 64 ([(0, 2, code), (4, 4, pay.length), (8, 8, 1)] ++ args)
  let s := setFrame (setFrame (setFrame s 0 0 block) 0 0x100 pay) 0 0xFF8 (leBytes 4 1 ++ leBytes 2 (sealCheck (block ++ pay)))
  { s with host := { s.host with mstate := [(0, 1)], order := [0], busMaster := [(0, true)] } }
def buf (off size : Nat) : List (Nat × Nat × Nat) := [(off, 8, 0x10000), (off + 8, 4, size)]
def idle (st : Nat) : State := { up st with run := {} }
/-- What `Accepts` says, as a test. -/
def accepts (code : Nat) (params : State → Cmd → Option Nat) (m : Fin 64) (s : State) : Bool :=
  canTake s m && sealOk s (readCmd s m) && (readCmd s m).code == code && replayOf s (readCmd s m) == none &&
    (refusal (taken s m) (readCmd s m) (firstOffence params (taken s m) (readCmd s m))).isNone
theorem accepts_iff (code : Nat) (params : State → Cmd → Option Nat) (m : Fin 64) (s : State) :
    accepts code params m s = true ↔ Accepts code params m s := by
  simp [accepts, Accepts, Offered, and_assoc]

def tab (v : Nat) : Bytes := layoutBytes 128 [(2, 2, v), (4, 1, 4), (6, 2, 64), (8, 5, 1), (0x10, 8, t1Addr 0 0 0), (0x18, 8, t2Addr 0), (0x38, 2, 1), (0x3C, 2, 1)]
/-- A composition package that holds a slice map alone. -/
def pkg (e : Nat) : Bytes := layoutBytes 64 [(0, 4, 0x434D5053), (4, 4, e), (8, 4, 64)] ++ patch factorySliceMap 4 (leBytes 4 e)
def withObj (s : State) : State := { s with mem := { objs := [obj0] } }
def withTab (s : State) : State := { s with setup := { descs := [⟨2, 0, tab 0, [], 0⟩] } }
/-- No mailbox has ADMIN privilege. -/
def tenant (s : State) : State := { s with setup := { sliceMap := patch factorySliceMap 96 (bytes 8) } }

theorem witness_CommandsAreCheckedInOrder :
    mailboxCode (.nodeInfo 0) = some (1, 0) ∧ mailboxCode (.selftest 0) = some (0x11, 0) ∧ canTake (idle stReady) 0 = false ∧
    (let s := setFrame (offered (idle stReady) 1 [] []) 0 0x20 [1#8]; canTake s 0 = true ∧ sealOk s (readCmd s 0) = false ∧ s.host.wf = true) ∧
    (let l : LastResp := ⟨0, 1, 1, 0, [], []⟩; let s := offered (idle stReady) 1 [] []; let s := { s with host := { s.host with last := [l] } };
      canTake s 0 = true ∧ sealOk s (readCmd s 0) = true ∧ (readCmd s 0).code = 1 ∧ replayOf s (readCmd s 0) = some l) ∧
    (let s := offered (tenant (idle stRestored)) 0x11 [] []; canTake s 0 = true ∧ sealOk s (readCmd s 0) = true ∧ (readCmd s 0).code = 0x11 ∧
      replayOf s (readCmd s 0) = none ∧ s.boot.romRecovery = false ∧ denied s (readCmd s 0) = true ∧ s.host.wf = true) ∧
    (let s := offered (idle stServing) 0x11 [] []; canTake s 0 = true ∧ sealOk s (readCmd s 0) = true ∧ (readCmd s 0).code = 0x11 ∧
      replayOf s (readCmd s 0) = none ∧ s.boot.romRecovery = false ∧ denied s (readCmd s 0) = false ∧ stateRefusal s (readCmd s 0) = some 0 ∧ s.host.wf = true) := by
  decide +kernel
theorem witness_CommandsAreCheckedInOrder_reply : State.reset.host.wf = true ∧ ({ status := sOk } : Reply).resp.length ≤ 3584 := by decide +kernel

theorem witness_QueriesAndControlTakeEffect :
    accepts 1 noArgs 0 (offered (idle stServing) 1 [] []) = true ∧ accepts 2 noArgs 0 (offered (idle stServing) 2 [] []) = true ∧
    (let s := offered (idle stServing) 3 (buf 0x30 4096) []; let s := { s with boot := { s.boot with seed := some 7 } };
      accepts 3 attestParams 0 s = true ∧ dmaOk s (readCmd s 0).port = true ∧ dma0.failAt = none) ∧
    (let s := offered (idle stServing) 4 ((0x10, 2, 2) :: (0x18, 4, 1) :: buf 0x20 4096) [];
      accepts 4 counterParams 0 s = true ∧ dmaOk s (readCmd s 0).port = true ∧
      (counterBytes (flushCounters (taken s 0)) 2 0 0 1).length ≤ (readCmd s 0).bufSize 0x20) ∧
    (let s := offered (idle stServing) 5 ((0x10, 1, 3) :: buf 0x20 4096) [];
      accepts 5 logParams 0 s = true ∧ dmaOk s (readCmd s 0).port = true ∧ (logOf (taken s 0) 3 0).1.length = 0) ∧
    (let s := offered (idle stServing) 0x10 [] []; accepts 0x10 resetParams 0 s = true ∧ (readCmd s 0).arg 0x10 0 5 = 0 ∧ s.run.running = false) ∧
    (let s := offered (idle stServing) 0x10 [(0x10, 1, 2)] []; accepts 0x10 resetParams 0 s = true ∧ (readCmd s 0).arg 0x10 0 5 = 2 + (readCmd s 0).port ∧
      s.faults.inReset.contains 2 = false) ∧
    (let s := offered (idle stServing) 0x10 [(0x10, 1, 4)] []; accepts 0x10 resetParams 0 s = true ∧ (readCmd s 0).arg 0x10 0 5 = 4 ∧ s.faults.inReset.contains 4 = false ∧
      accepts 0x10 resetParams 0 { s with faults := { inReset := [4] } } = true) ∧
    (let s := offered (idle stRestored) 0x11 [] []; accepts 0x11 selftestParams 0 s = true ∧ s.faults.test = none ∧ s.node.state ≠ stFault ∧ s.node.state ≠ stSelftest) ∧
    accepts 0x18 noArgs 0 (offered (idle stRestored) 0x18 [] []) = true ∧ accepts 0x1C noArgs 0 (offered (idle stMaintenance) 0x1C [] []) = true ∧
    accepts 0x19 noArgs 0 (offered (idle stReady) 0x19 [] []) = true ∧ accepts 0x19 noArgs 0 (offered (up stReady) 0x19 [] []) = true ∧
    accepts 0x1A noArgs 0 (offered (idle stServing) 0x1A [] []) = true ∧ accepts 0x1A noArgs 0 (offered (up stServing) 0x1A [] []) = true ∧
    (let s := { duo 1 with node := { state := stReady } }; (idle stReady).run.running = false ∧ (up stReady).run.running = true ∧ s.orr.view = some view0 ∧
      view0.coord ≠ nodeId s ∧ accepts 0x1B noArgs 0 (offered s 0x1B [] []) = true ∧ accepts 0x1D noArgs 0 (offered s 0x1D [] []) = true) ∧
    accepts 0x20 proofParams 0 (offered (idle stRestored) 0x20 [(0x10, 1, 1)] []) = true ∧
    (let s := offered (idle stRestored) 0x21 (buf 0x20 4096) []; accepts 0x21 updateParams 0 s = true ∧ dmaOk s (readCmd s 0).port = true) ∧
    (let s := offered (idle stRestored) 0x22 [(0x10, 1, 0)] []; accepts 0x22 activateParams 0 s = true ∧ s.boot.firmware = true ∧
      (readCmd s 0).arg 0x10 0 1 = s.boot.activeSlot) ∧
    (let s := offered (idle stRestored) 0x22 [(0x10, 1, 1)] []; accepts 0x22 activateParams 0 s = true ∧ (readCmd s 0).arg 0x10 0 1 ≠ s.boot.activeSlot) := by
  decide +kernel

theorem witness_SetupAndContentTakeEffect_setup :
    accepts 0x30 clusterParams 0 (offered (idle stRestored) 0x30 [(0x10, 1, 3)] []) = true ∧
    (let s := offered (idle stRestored) 0x31 [] []; accepts 0x31 bpmapParams 0 s = true ∧ bit ((readCmd s 0).arg 0x14 0 32) 5 = false) ∧
    (let s := offered (idle stRestored) 0x31 [(0x14, 4, 32)] []; accepts 0x31 bpmapParams 0 s = true ∧ bit ((readCmd s 0).arg 0x14 0 32) 5 = true ∧
      bit (bpmapOf s 0 0) 5 = false) ∧
    (let s := offered (idle stReady) 0x40 ((0x10, 4, 2) :: buf 0x20 1152) []; accepts 0x40 composeParams 0 s = true ∧ dmaOk s (readCmd s 0).port = true ∧
      (readCmd s 0).bufSize 0x20 = 1152 ∧ (readCmd s 0).arg 0x10 0 32 = 2 ∧ 2 = (s.setup.epoch + 1) % 2 ^ 32 ∧ s.node.state ≠ stRestored ∧ pendingDetail s = none) ∧
    (let s := offered (idle stReady) 0x40 ((0x10, 4, 5) :: buf 0x20 1152) []; accepts 0x40 composeParams 0 s = true ∧ (readCmd s 0).arg 0x10 0 32 = 5 ∧
      5 ≠ (s.setup.epoch + 1) % 2 ^ 32) ∧
    packageBad (pkg 2) 1152 2 = none ∧ packageBad (pkg 5) 1152 5 = none ∧ packageBad (pkg 0) 1152 0 = none ∧
    (let s := offered (idle stReady) 0x41 (buf 0x20 1152) []; accepts 0x41 phaseLoadParams 0 s = true ∧ dmaOk s (readCmd s 0).port = true ∧ s.setup.reshard = none ∧
      fld (pkg 0) (fld (pkg 0) 8 0 32 + 0x10) 0 64 = s.setup.job) ∧
    (let s := { idle stReady with setup := { phaseMaps := [(0, [])] } }; let s := offered s 0x42 (buf 0x20 1152) [];
      accepts 0x42 phaseParams 0 s = true ∧ dmaOk s (readCmd s 0).port = true ∧ pendingDetail s = none) ∧
    accepts 0x48 quotaParams 0 (offered (idle stReady) 0x48 [(0x10, 1, 3)] (layoutBytes 32 [(20, 2, 40)])) = true ∧
    accepts 0x48 quotaParams 0 (offered (idle stRestored) 0x48 [(0x10, 1, 3)] (layoutBytes 32 [(20, 2, 40)])) = true := by
  decide +kernel
/-- Zeros after the bytes of a structure change none of its fields. -/
theorem slice_zeros (a : Bytes) (n off k : Nat) : slice (a ++ List.replicate n 0#8) off k = slice a off k := by
  simp only [slice, List.drop_append, List.take_append, List.drop_replicate, List.take_replicate, List.append_assoc, List.length_append,
    List.length_take, List.length_drop, List.length_replicate]
  congr 1
  change List.replicate _ (0#8) ++ List.replicate _ (0#8) = List.replicate _ (0#8)
  rw [List.replicate_append_replicate]
  congr 1; omega
theorem lowestBad_zeros (fs : List Fld) (a : Bytes) (n : Nat) : lowestBad fs (a ++ List.replicate n 0#8) = lowestBad fs a := by
  have h : ∀ f, fldBad (a ++ List.replicate n 0#8) f = fldBad a f := fun f => by unfold fldBad fld; rw [slice_zeros]
  simp only [lowestBad, h]
def map1 : Bytes := [80, 77, 76, 83, 0, 0, 0, 0, 1, 0, 0, 0, 0, 0, 0, 0, 0, 0, 0, 0, 0, 0, 0, 0, 0, 0, 0, 0, 0, 0, 0, 0, 0, 0, 0, 0, 0, 0, 0, 0, 0, 0, 0, 0, 0, 0, 0, 0, 0, 0, 0, 0, 0, 0, 0, 0, 0, 0, 0, 0, 0, 0, 0, 0, 1, 0, 0, 0, 255, 255, 255, 255, 255, 255, 255, 255, 255, 255, 255, 255, 255, 255, 255, 255, 255, 255, 255, 255, 255, 255, 255, 255, 255, 255, 255, 255, 1, 0, 0, 0, 1]
theorem packageMap_pkg : packageMap (pkg 0) = map1 ++ List.replicate 987 0#8 := by decide +kernel
theorem witness_SetupAndContentTakeEffect_phase : let s := offered (idle stReady) 0x41 (buf 0x20 1152) [];
    phaseMapOk (countDmaRead (taken s 0) (readCmd s 0) 1152) (pkg 0) = true := by
  have h : (lowestBad sliceMapFields (packageMap (pkg 0)) == none) = true := by
    rw [packageMap_pkg, lowestBad_zeros]; decide +kernel
  simp only [phaseMapOk, sliceMapOk, h, Bool.true_and]
  decide +kernel
theorem witness_SetupAndContentTakeEffect_points :
    (let s := offered (idle stReady) 0x49 [(0x10, 1, 2)] []; accepts 0x49 oppointParams 0 s = true ∧ refusesPoint s ((readCmd s 0).arg 0x10 0 2) = none ∧
      s.run.running = false) ∧
    (let s := up stReady; let s := offered { s with run := { s.run with plate := none } } 0x49 [(0x10, 1, 2)] []; accepts 0x49 oppointParams 0 s = true ∧
      refusesPoint s ((readCmd s 0).arg 0x10 0 2) = none ∧ s.run.running = true) ∧
    accepts 0x4A policyParams 0 (offered (idle stReady) 0x4A [(0x10, 1, 1), (0x14, 2, 860)] []) = true ∧
    accepts 0x4A policyParams 0 (offered (up stReady) 0x4A [(0x10, 1, 1), (0x14, 2, 860)] []) = true := by
  decide +kernel
theorem witness_SetupAndContentTakeEffect_objects :
    accepts 0x50 objAllocParams 0 (offered (idle stReady) 0x50 [] (layoutBytes 64 [(0, 4, 5), (5, 1, 2), (12, 4, 4)])) = true ∧
    (let s := offered (withObj (idle stReady)) 0x51 [(0x10, 4, 5)] []; accepts 0x51 objFreeParams 0 s = true ∧ findObj s ((readCmd s 0).arg 0x10 0 32) = some obj0 ∧
      objHeld s obj0 = false) ∧
    (let s := { withObj (idle stReady) with setup := { shardMaps := [(false, 2, 0)] } }; let o := { obj0 with extents := [(0, 1)] };
      let s := offered s 0x51 [(0x10, 4, 5)] []; accepts 0x51 objFreeParams 0 s = true ∧ findObj s ((readCmd s 0).arg 0x10 0 32) = some o ∧ objHeld s o = true) ∧
    (let s := offered (withObj (idle stReady)) 0x52 ((0x10, 4, 5) :: (0x18, 4, 1) :: buf 0x20 576) []; accepts 0x52 objWriteParams 0 s = true ∧
      dmaOk s (readCmd s 0).port = true ∧ findObj s ((readCmd s 0).arg 0x10 0 32) = some obj0 ∧ namedInUse s obj0 = false ∧ (readCmd s 0).arg 0x18 0 32 = 1 ∧
      obj0.tileBytes = 544 ∧ tileRoom (countDmaRead (taken s 0) (readCmd s 0) 544) obj0 ((readCmd s 0).arg 0x14 0 32) = true) ∧
    (let s := offered (withObj (idle stReady)) 0x53 ((0x10, 4, 5) :: buf 0x20 576) []; accepts 0x53 objReadParams 0 s = true ∧ dmaOk s (readCmd s 0).port = true ∧
      findObj s ((readCmd s 0).arg 0x10 0 32) = some obj0) ∧
    (let s := offered (withObj (idle stReady)) 0x70 [(0x10, 4, 5), (0x18, 4, 1)] []; accepts 0x70 bridgeParams 0 s = true ∧
      findObj s ((readCmd s 0).arg 0x10 0 32) = some obj0 ∧ (readCmd s 0).arg 0x18 0 32 ≠ 0) := by
  decide +kernel
/-- The tile that OBJ_WRITE brings: its TAG is the CRC of a payload of zeros. -/
theorem witness_SetupAndContentTakeEffect_tile : tagOk (zeroTile.take 32) (zeroTile.drop 32) = true ∧ zeroTile.length = obj0.tileBytes ∧
    headerBad (zeroTile.take 32) = none ∧ tilesBad obj0 (layoutBytes 544 [(0x14, 1, 1)]) (1 * obj0.tileBytes) 1 = some 0x14 :=
  ⟨zeroTile_tag, by decide +kernel⟩
theorem witness_SetupAndContentTakeEffect_names :
    accepts 0x54 descLoadParams 0 (offered { idle stReady with setup := { descs := [ix0] } } 0x54 [(0x10, 1, 1), (0x11, 1, 1)] []) = true ∧
    accepts 0x58 ringSetupParams 0 (offered (idle stReady) 0x58 [] (layoutBytes 64 [(0, 1, 3), (4, 4, 16), (8, 1, 7), (9, 1, 6), (12, 2, 1)])) = true ∧
    (let s := { up stReady with host := { rings := [{ ring0 with isOpen := true, closing := false }] } };
      accepts 0x59 ringCloseParams 0 (offered s 0x59 [(0x10, 1, 3)] []) = true ∧ s.run.running = true) ∧
    (let s := offered (withTab (idle stReady)) 0x60 [(0x10, 1, 1)] (tab 1); let c := readCmd s 0; let d : Desc := ⟨2, 0, tab 0, [], 0⟩;
      accepts 0x60 versionParams 0 s = true ∧ findDesc s (1 + c.arg 0x10 0 1) (fld c.pay 0 0 16) = some d ∧
      switchRefusal (taken s 0) d (blockOf (taken s 0) (1 + c.arg 0x10 0 1) c.pay) = none) ∧
    (let d : Desc := ⟨2, 0, tab 0, [], 0⟩; let s := writeMem (duo 0) (t1Addr 0 0 0) (bytes 2);
      let s := offered { s with setup := { descs := [d] } } 0x61 [(0x14, 2, 1)] []; let c := readCmd s 0;
      accepts 0x61 transitParams 0 s = true ∧ transitTable s c = some d ∧ shardOwner s d (c.arg 0x10 16 16) = nodeId s ∧
      transitRefusal s d (c.arg 0x14 0 9) = none ∧ custodyFree s = true) ∧
    (let s := offered (member0 2) 0x78 [] []; accepts 0x78 noArgs 0 s = true ∧ promoteRefusal s = none ∧ s.conj.promote = []) := by
  decide +kernel

end Sys2Proof.Tests
end

section
/-!
SUPPORT. The frame boundary (R41): which of its cases FRAME_BEGIN takes, and what the end and the opening of a frame leave in the state.
-/
namespace Sys2Proof.Machine

/-! ### The cases of FRAME_BEGIN -/

section
variable {s : State} (x : BoundaryIn)

theorem exec_frameBegin (s : State) : exec (.frameBegin x) s = execFrameBegin x s := rfl

theorem exec_frameBegin_of_step_unfinished (hrun : s.run.running = true) (hwait : s.run.waiting = false) :
    exec (.frameBegin x) s = .next s := by
  simp [exec_frameBegin, execFrameBegin, hrun, hwait]

theorem exec_frameBegin_of_no_beat (hrun : s.run.running = true) (hwait : s.run.waiting = true) (hstop : s.run.stopAt = none)
    (hbeat : s.fab.beat = none) : exec (.frameBegin x) s = .next s := by
  simp [exec_frameBegin, execFrameBegin, hrun, hwait, hstop, hbeat]

theorem exec_frameBegin_of_beat {b : BeatMsg} (hrun : s.run.running = true) (hwait : s.run.waiting = true) (hstop : s.run.stopAt = none)
    (hbeat : s.fab.beat = some b) : exec (.frameBegin x) s = .next (newFrame (closeFrame s x) x b false) := by
  simp [exec_frameBegin, execFrameBegin, hrun, hwait, hstop, hbeat]

/-- A node that is to stop does so without the beat (log entry 71). -/
theorem exec_frameBegin_of_stop {st : Nat} (hrun : s.run.running = true) (hwait : s.run.waiting = true) (hstop : s.run.stopAt = some st) :
    exec (.frameBegin x) s = .next (stopNode (closeFrame s x) st) := by
  simp [exec_frameBegin, execFrameBegin, hrun, hwait, hstop]

theorem exec_frameBegin_of_first_beat {b : BeatMsg} (hrun : s.run.running = false) (hbeat : s.fab.beat = some b)
    (hplate : s.run.plate.isSome = true) (hstart : awaitsStart s = true) (hadmit : admittedBy s b.view.toNat = true) :
    exec (.frameBegin x) s = .next (newFrame s x b true) := by
  simp [exec_frameBegin, execFrameBegin, hrun, hbeat, hplate, hstart, hadmit]

end

/-! ### The end of a frame -/

@[simp] theorem writeFree_run (s : State) (a n : Nat) : (writeFree s a n).run = s.run := writeMem_run ..

@[simp] theorem countFrame_run (s : State) (x : BoundaryIn) (p : Plate) : (countFrame s x p).run = { s.run with exempt := false } := by
  unfold countFrame
  dsimp only
  split
  · rfl
  · rfl

@[simp] theorem writeArrivals_run (s : State) (p : Plate) : (writeArrivals s p).run = s.run := by
  unfold writeArrivals
  refine (foldl_keeps State.run _ (fun t i => ?_) _ _).trans (foldl_keeps State.run _ (fun t m => writeFree_run ..) _ _)
  split
  · rfl
  · exact writeMem_run ..

@[simp] theorem flushCounters_run (s : State) : (flushCounters s).run = s.run := rfl
@[simp] theorem flushCounters_inc (s : State) : (flushCounters s).cnt.inc = [] := rfl

theorem loadOf_congr {s t : State} (h : t.run.macBusy = s.run.macBusy) (p : Plate) : loadOf t p = loadOf s p := by
  simp only [loadOf, h]

section
variable {s : State} {p : Plate} (hplate : s.run.plate = some p) (x : BoundaryIn)
include hplate

theorem closeFrame_run : (closeFrame s x).run = { s.run with exempt := false, load := loadOf s p, macBusy := 0 } := by
  have hload : loadOf (writeArrivals (countFrame s x p) p) p = loadOf s p := loadOf_congr (by simp) p
  simp only [closeFrame, hplate, flushCounters_run, hload, writeArrivals_run, countFrame_run]

theorem closeFrame_inc : (closeFrame s x).cnt.inc = [] := by
  simp only [closeFrame, hplate, flushCounters_inc]

end

/-! ### The opening of a frame -/

theorem openFrame_opens (s : State) (b : BeatMsg) :
    (openFrame s b).run = { s.run with running := true, waiting := false, step := 0, frame := b.frame.toNat } := rfl

theorem openFrame_publishes (s : State) (b : BeatMsg) :
    (openFrame s b).recs = { s.recs with published := b.published.toNat, pubs := (b.published.toNat :: s.recs.pubs).take 256 } := rfl

theorem openFrame_keeps (s : State) (b : BeatMsg) :
    (openFrame s b).mem = s.mem ∧ (openFrame s b).units = s.units ∧ (openFrame s b).node = s.node := ⟨rfl, rfl, rfl⟩

theorem openFrame_clears_fabric (s : State) (b : BeatMsg) :
    let t := openFrame s b
    t.fab.beat = none ∧ t.fab.sent = [] ∧ t.fab.recv = [] ∧ t.fab.armed = false := ⟨rfl, rfl, rfl, rfl⟩

/-! ### The statement -/

/-- Settles O6: the cases of FRAME_BEGIN, then what `openFrame` and `closeFrame` leave. -/
theorem framesBeginWithBeat : Obligations.FramesBeginWithBeat := by
  refine ⟨fun x s hrun => ⟨?_, ?_, ?_, ?_⟩, ?_, fun s b => ?_, fun s x p hplate => ?_⟩
  · exact exec_frameBegin_of_step_unfinished x hrun
  · exact exec_frameBegin_of_no_beat x hrun
  · exact fun b => exec_frameBegin_of_beat x hrun
  · exact fun st => exec_frameBegin_of_stop x hrun
  · exact fun x s b => exec_frameBegin_of_first_beat x
  · obtain ⟨hbeat, hsent, hrecv, harmed⟩ := openFrame_clears_fabric s b
    obtain ⟨hmem, hunits, hnode⟩ := openFrame_keeps s b
    simp [openFrame_opens, openFrame_publishes, hbeat, hsent, hrecv, harmed, hmem, hunits, hnode]
  · simp [closeFrame_run hplate, closeFrame_inc hplate]

end Sys2Proof.Machine
end

section
/-!
SUPPORT. Check 6 of R39 on MMAC records (R58): a pair of an integer-class and a float TYPE has no rows, the judgement of a record that declares
one fails, and a record of a plate whose judgement fails is found by check 6.
-/
namespace Sys2Proof.Machine

/-! ### A pair of an integer-class and a float TYPE -/

/-- One TYPE of a pair is of the integer class and the other a float. -/
def MixedTypes (ta tw : Nat) : Prop := (isIntClass ta = true ∧ isFloatType tw = true) ∨ (isFloatType ta = true ∧ isIntClass tw = true)

theorem isFloatType_of_isIntClass {t : Nat} (h : isIntClass t = true) : isFloatType t = false := by
  simp only [isIntClass, isFloatType, Bool.or_eq_true, decide_eq_true_eq, beq_iff_eq, Bool.and_eq_false_iff, decide_eq_false_iff_not] at h ⊢
  omega

theorem isIntClass_of_isFloatType {t : Nat} (h : isFloatType t = true) : isIntClass t = false :=
  Bool.eq_false_iff.2 fun hint => Bool.eq_false_iff.1 (isFloatType_of_isIntClass hint) h

theorem pairRows_of_mixed {ta t0 t1 reg : Nat} (j : Nat) (h : MixedTypes ta (if reg = 0 then t0 else t1)) : pairRows ta t0 t1 reg j = none := by
  obtain ⟨hint, hfloat⟩ | ⟨hfloat, hint⟩ := h <;>
    simp [pairRows, isFloatType_of_isIntClass hint, isIntClass_of_isFloatType hfloat]

/-! ### The judgement of an MMAC record -/

/-- The FORMAT that the records before leave in the weight register that an MMAC with operand B names. -/
def LaneCtx.weight (c : LaneCtx) (b : W32) : Option Nat := if bit b.toNat 8 then c.w1 else c.w0

section
variable {c : LaneCtx} {id : Nat}

theorem opField_eq_zero_iff_bit (b : W32) (lo : Nat) : opField b lo 1 = 0 ↔ bit b.toNat lo = false := by
  simp only [opField, bits, bit, Nat.shiftRight_eq_div_pow, beq_eq_false_iff_ne]
  omega

theorem reg_eq_weight (c : LaneCtx) (b : W32) : (if opField b 8 1 = 0 then c.w0 else c.w1) = c.weight b := by
  unfold LaneCtx.weight
  cases hbit : bit b.toNat 8 <;> simp [opField_eq_zero_iff_bit, hbit]

theorem judgeCluster_mmac_of_mixed {b : W32} {fmt : Nat} (n : Nat) (a : W32) (hunit : unitOf id < 4) (hw : c.weight b = some fmt)
    (hmix : MixedTypes (fmtType (opField b 0 8)) (fmtType fmt)) :
    judgeCluster c id 0x11 n a b = some (opRsv a 17 && opRsv b 16, false) := by
  have hrows : ∀ g, pairRows (fmtType (opField b 0 8)) (fmtType (if opField b 8 1 = 0 then fmt else g))
      (fmtType (if opField b 8 1 = 0 then g else fmt)) (opField b 8 1) (opField b 12 4) = none := fun g => by
    apply pairRows_of_mixed
    split <;> exact hmix
  simp [judgeCluster, hunit, reg_eq_weight, hw, hrows]

/-- Check 6 passes a record of a lane's ordinary opcode only where it passes each of its steps. -/
theorem judgeStep_of_judgeRec {p : Plate} {start : Nat} {r : Rec} {i : Nat} (hspan : spanning id r.op = false) (hi : i ≤ r.rep)
    (h : (judgeRec p c id start r).2 = true) : ∃ v, judgeStep p c id r start i = some (v, true) := by
  simp only [judgeRec, hspan, Bool.and_eq_true, List.all_eq_true, List.mem_map, List.mem_range] at h
  obtain ⟨⟨hsteps, -⟩, -⟩ := h
  have hstep := hsteps _ ⟨i, Nat.lt_succ_of_le hi, rfl⟩
  cases hj : judgeStep p c id r start i with
  | none => simp [hj] at hstep
  | some v => exact ⟨v.1, congrArg some (Prod.ext rfl (by simpa [hj] using hstep))⟩

theorem spanning_mac_eq_false (op : Nat) (hid : id < 0x100) (hunit : unitOf id < 4) : spanning id op = false := by
  simp only [spanning, hid, if_true, Bool.or_eq_false_iff, Bool.and_eq_false_iff, beq_eq_false_iff_ne]
  omega

theorem judgeRec_mmac_of_mixed {r : Rec} {i fmt : Nat} (p : Plate) (start : Nat) (hid : id < 0x100) (hunit : unitOf id < 4) (hop : r.op = 0x11)
    (hi : i ≤ r.rep) (hw : c.weight (recBw r i) = some fmt) (hmix : MixedTypes (fmtType (opField (recBw r i) 0 8)) (fmtType fmt)) :
    (judgeRec p c id start r).2 = false := by
  have hstep : judgeStep p c id r start i = some (opRsv (recA r i) 17 && opRsv (recBw r i) 16, false) := by
    simp [judgeStep, hop, hid, judgeCluster_mmac_of_mixed _ _ hunit hw hmix]
  refine Bool.eq_false_iff.2 fun hpass => ?_
  obtain ⟨v, hv⟩ := judgeStep_of_judgeRec (spanning_mac_eq_false r.op hid hunit) hi hpass
  simp only [hstep, Option.some.injEq, Prod.mk.injEq, Bool.false_eq_true, and_false] at hv

end

/-! ### What check 6 finds -/

/-- A record of a lane is judged in the context that the records before it leave. -/
theorem judgeRecs_append_cons (p : Plate) (id : Nat) (before after : List Rec) (r : Rec) (c : LaneCtx) (k : Nat) :
    ∃ start, (start, judgeRec p (before.foldl (fun c r => c.afterRec id r) c) id start r) ∈ judgeRecs p id (before ++ r :: after) c k := by
  induction before generalizing c k with
  | nil => exact ⟨k, List.mem_cons_self⟩
  | cons q qs ih =>
    obtain ⟨start, hmem⟩ := ih (c.afterRec id q) (k + q.rep + 1)
    exact ⟨start, List.mem_cons_of_mem _ hmem⟩

theorem lowestLane_concat_isSome (xs : List (Nat × Nat)) (y : Nat × Nat) : (lowestLane (xs ++ [y])).isSome = true := by
  rw [lowestLane, List.foldl_append, List.foldl_cons, List.foldl_nil]
  split
  · rfl
  · split <;> rfl

theorem lowestLane_isSome_of_mem {x : Nat × Nat} {xs : List (Nat × Nat)} (h : x ∈ xs) : (lowestLane xs).isSome = true := by
  rw [← List.dropLast_concat_getLast (List.ne_nil_of_mem h)]
  exact lowestLane_concat_isSome _ _

theorem minOpt_isSome_left : ∀ {a : Option Nat} (b : Option Nat), a.isSome = true → (minOpt a b).isSome = true
  | some _, none, _ => rfl
  | some _, some _, _ => rfl

theorem recordsBad_of_judged {p : Plate} {l : Lane} {j : Nat × Bool × Bool} (hl : l ∈ p.lanes) (hj : j ∈ judgeLane p l) (hbad : j.2.2 = false) :
    (recordsBad p).isSome = true := by
  have hfind : (((judgeLane p l).find? fun j => !j.2.2).map Prod.fst).isSome = true := by
    rw [Option.isSome_map, List.find?_isSome]
    exact ⟨j, hj, by simp [hbad]⟩
  obtain ⟨k, hk⟩ := Option.isSome_iff_exists.1 (minOpt_isSome_left (coverBad p l) hfind)
  exact lowestLane_isSome_of_mem (x := (l.id, k)) (List.mem_filterMap.2 ⟨l, hl, by rw [hk]; rfl⟩)

theorem mem_plateFails_of_recordsBad {image : Bytes} (s : State) (m : Bytes) (point : Nat) (hparse : plateParses image = true)
    (hbad : (recordsBad (plateOf image)).isSome = true) : 6 ∈ plateFails s image m point := by
  have hmem : 6 ∈ fixedFails s image (plateOf image) m ++ pointFails s (plateOf image) point :=
    List.mem_append_left _ (by simp [fixedFails, hbad])
  simpa [plateFails, hparse, List.isEmpty_eq_false_iff_exists_mem.2 ⟨6, hmem⟩] using hmem

theorem plateOk_of_mem_plateFails {s : State} {image m : Bytes} {n : Nat} (h : n ∈ plateFails s image m (loadPoint image)) :
    plateOk s image m = false := List.isEmpty_eq_false_iff_exists_mem.2 ⟨n, h⟩

/-! ### The statement -/

/-- Settles O41: a mixed pair has no rows, so the record that declares it is judged to fail, and check 6 finds it at every point. -/
theorem mixedPairsAreRefused : Obligations.MixedPairsAreRefused := by
  refine ⟨fun ta t0 t1 reg j => pairRows_of_mixed j, ?_⟩
  intro s image m point l before after r i fmt hparse hl hid hunit hrecs hop hi ctx hw hmix
  obtain ⟨start, hjudged⟩ := judgeRecs_append_cons (plateOf image) l.id before after r (startCtx l) 0
  rw [← hrecs] at hjudged
  have hbad : (recordsBad (plateOf image)).isSome = true :=
    recordsBad_of_judged hl hjudged (judgeRec_mmac_of_mixed (plateOf image) start hid hunit hop hi hw hmix)
  have hsix : ∀ point, 6 ∈ plateFails s image m point := fun point => mem_plateFails_of_recordsBad s m point hparse hbad
  exact ⟨hsix point, plateOk_of_mem_plateFails (hsix _)⟩

end Sys2Proof.Machine
end

section
/-!
SUPPORT. What a select unit holds after a feed (R151, R157): the entries it held before and the one fed, which is none with a NaN score.
-/
namespace Sys2Proof.Machine

theorem mem_insertEntry {mo : Bool} {e x : SelEntry} {l : List SelEntry} : x ∈ insertEntry mo e l ↔ x = e ∨ x ∈ l := by
  induction l with
  | nil => simp [insertEntry]
  | cons y r ih =>
    rw [insertEntry]
    split
    · exact List.mem_cons
    · rw [List.mem_cons, List.mem_cons, ih, or_left_comm]

theorem keepDup_eq_or (a b : SelEntry) : keepDup a b = a ∨ keepDup a b = b := by
  unfold keepDup
  repeat' split
  all_goals simp only [true_or, or_true]

namespace Sel

@[simp] theorem addSums_held (u : Sel) (w : W32) : (u.addSums w).held = u.held := by
  unfold addSums
  split <;> rfl

theorem eq_or_mem_of_mem_hold {u : Sel} {e x : SelEntry} (h : x ∈ (u.hold e).held) : x = e ∨ x ∈ u.held := by
  rw [← mem_insertEntry (mo := u.maxOrder)]
  unfold hold at h
  dsimp only at h
  split at h
  · exact h
  · exact List.mem_of_mem_take h

theorem mem_held_of_dupOf {u : Sel} {e h : SelEntry} (hdup : u.dupOf e = some h) : h ∈ u.held := by
  unfold dupOf at hdup
  split at hdup
  · exact List.mem_of_find?_eq_some hdup
  · cases hdup

theorem feed_of_nan {u : Sel} {e : SelEntry} (child : Bool) (hnan : isNaN32 e.score = true) :
    u.feed child e = { u with nanCount := satAdd 32 u.nanCount 1 } := if_pos hnan

/-- What is held after a feed was held before or is the entry fed: without a duplicate the entry is held, and of two duplicates the held one is
taken out and the one that is kept put in. -/
theorem mem_held_of_mem_feed {u : Sel} {child : Bool} {e x : SelEntry} (h : x ∈ (u.feed child e).held) :
    x ∈ u.held ∨ (x = e ∧ isNaN32 e.score = false) := by
  cases hnan : isNaN32 e.score with
  | true =>
    rw [feed_of_nan child hnan] at h
    exact .inl h
  | false =>
    simp only [and_true]
    simp only [feed, hnan, Bool.false_eq_true, if_false] at h
    have hheld : (if child then u else u.addSums e.score).held = u.held := by split <;> simp
    generalize (if child then u else u.addSums e.score) = v at h hheld
    rw [← hheld]
    cases hdup : v.dupOf e with
    | none =>
      rw [hdup] at h
      exact (eq_or_mem_of_mem_hold h).symm
    | some d =>
      rw [hdup] at h
      rcases eq_or_mem_of_mem_hold h with hkept | hrest
      · rcases keepDup_eq_or d e with hd | he
        · exact .inl (hkept.trans hd ▸ mem_held_of_dupOf hdup)
        · exact .inr (hkept.trans he)
      · exact .inl (List.mem_of_mem_erase hrest)

end Sel

/-- Settles O22: a NaN entry is dropped on arrival, so a feed adds no NaN to the entries held, and the selection is taken from these. -/
theorem nanScoresAreNeverSelected : Obligations.NanScoresAreNeverSelected := by
  simp only [Obligations.NanScoresAreNeverSelected, List.all_eq_true, Bool.not_eq_true']
  refine ⟨fun u child e => Sel.feed_of_nan child, fun u child e hheld x hx => ?_, fun u hheld x hx => ?_⟩
  · obtain hbefore | ⟨rfl, hfed⟩ := Sel.mem_held_of_mem_feed hx
    · exact hheld x hbefore
    · exact hfed
  · exact hheld x (List.mem_of_mem_take hx)

end Sys2Proof.Machine
end

section
/-!
SUPPORT. The block as a whole: what the front of the queue does, and that every command leaves the queue and keeps soundness.
-/
namespace Sys2Proof.Machine

/-! ### The front of the queue -/

theorem step_of_pending_cons {c : Instr} {r : List Instr} {s : State} (h : s.pending = c :: r) : step s = exec c { s with pending := r } := by
  simp only [step, h]

theorem step_of_pending_nil {s : State} (h : s.pending = []) : step s = .next (tick s) := by
  simp only [step, h]

/-- Settles O1: the two cases of the queue. -/
theorem stepRunsFrontCommand : Obligations.StepRunsFrontCommand :=
  ⟨fun _ _ _ => step_of_pending_cons, fun _ => step_of_pending_nil⟩

/-! ### Every command keeps soundness -/

/-- Every command leaves the queue and keeps what is sound: the law of each command's meaning, put together. -/
theorem kept_exec (i : Instr) (s : State) : KeptO s (exec i s) :=
  match i with
  | .stepAdvance .. => kept_execStepAdvance _ _ (.refl _)
  | .frameBegin .. => kept_execFrameBegin _ _ (.refl _)
  | .trainingStateExpire => kept_execTrainingStateExpire _ (.refl _)
  | .armForwardTimeout => kept_execArmForwardTimeout _ (.refl _)
  | .beatIssue => kept_execBeatIssue _ (.refl _)
  | .beatDeadlineExpire => kept_execBeatDeadlineExpire _ (.refl _)
  | .beatLost => kept_execBeatLost _ (.refl _)
  | .beat .. => kept_execBeat _ _ (.refl _)
  | .arm .. => kept_execArm _ _ _ (.refl _)
  | .linkFlitReceive .. => kept_execLinkFlitReceive _ _ _ _ (.refl _)
  | .replayTimeout .. => kept_execReplayTimeout _ _ (.refl _)
  | .data .. => kept_execData _ _ (.refl _)
  | .delivered .. => kept_execDelivered _ _ _ _ (.refl _)
  | .confirm home _ _ => kept_execConfirm home _ _ _ (.refl _)
  | .bulk .. => kept_execBulk _ _ (.refl _)
  | .train .. => kept_execTrain _ _ _ _ (.refl _)
  | .lightDetected .. => kept_execLightDetected _ _ (.refl _)
  | .pairSwapToggle .. => kept_execPairSwapToggle _ _ (.refl _)
  | .laneTrainingTimeout .. => kept_execLaneTrainingTimeout _ _ (.refl _)
  | .fabricTrainingComplete => kept_execFabricTrainingComplete _ (.refl _)
  | .laserFail .. => kept_execLaserFail _ _ (.refl _)
  | .fabricLatency .. => kept_execFabricLatency _ _ _ (.refl _)
  | .conjJoin .. => kept_execConjJoin _ _ _ _ (.refl _)
  | .accept .. => kept_execAccept _ _ _ _ _ (.refl _)
  | .conjFormTimeout => kept_execConjFormTimeout _ (.refl _)
  | .conjMemberLost .. => kept_execConjMemberLost _ _ (.refl _)
  | .report .. => kept_execReport _ _ (.refl _)
  | .score .. => kept_execScore _ _ (.refl _)
  | .propose .. => kept_execPropose _ _ _ (.refl _)
  | .ack .. => kept_execAck _ _ (.refl _)
  | .takeover .. => kept_execTakeover _ _ _ (.refl _)
  | .notice .. => kept_execNotice _ _ (.refl _)
  | .join .. => kept_execJoin _ _ _ (.refl _)
  | .depart .. => kept_execDepart _ _ (.refl _)
  | .refuse .. => kept_execRefuse _ _ (.refl _)
  | .loaded .. => kept_execLoaded _ _ (.refl _)
  | .form .. => kept_execForm _ _ _ (.refl _)
  | .viewForm => kept_execViewForm _ (.refl _)
  | .deputyTakeover => kept_execDeputyTakeover _ (.refl _)
  | .scoreRecovery .. => kept_execScoreRecovery _ _ (.refl _)
  | .holdClear => kept_execHoldClear _ (.refl _)
  | .admissionTestEnd .. => kept_execAdmissionTestEnd _ _ _ (.refl _)
  | .probationRetest => kept_execProbationRetest _ (.refl _)
  | .formerTimeout => kept_execFormerTimeout _ (.refl _)
  | .formationWindowEnd => kept_execFormationWindowEnd _ (.refl _)
  | .partnerLoadDone => kept_execPartnerLoadDone _ (.refl _)
  | .nbuTaskEnd .. => kept_execNbuTaskEnd _ _ _ (.refl _)
  | .standaloneRefresh .. => kept_execStandaloneRefresh _ _ _ (.refl _)
  | .idle l => kept_execIdle l _ (.refl _)
  | .maintStep .. => kept_execMaintStep _ _ _ (.refl _)
  | .refresh .. => kept_execRefresh _ _ _ _ (.refl _)
  | .mload .. => kept_execMload _ _ _ (.refl _)
  | .mmac .. => kept_execMmac _ _ _ (.refl _)
  | .mdrain .. => kept_execMdrain _ _ _ (.refl _)
  | .vload .. => kept_execVload _ _ _ (.refl _)
  | .vstore .. => kept_execVstore _ _ _ (.refl _)
  | .mov .. => kept_execMov _ _ (.refl _)
  | .add .. => kept_execAdd _ _ (.refl _)
  | .sub .. => kept_execSub _ _ (.refl _)
  | .mul .. => kept_execMul _ _ (.refl _)
  | .fma .. => kept_execFma _ _ (.refl _)
  | .div .. => kept_execDiv _ _ (.refl _)
  | .sqrt .. => kept_execSqrt _ _ (.refl _)
  | .min .. => kept_execMin _ _ (.refl _)
  | .max .. => kept_execMax _ _ (.refl _)
  | .abs .. => kept_execAbs _ _ (.refl _)
  | .neg .. => kept_execNeg _ _ (.refl _)
  | .cmplt .. => kept_execCmplt _ _ (.refl _)
  | .sel .. => kept_execSel _ _ (.refl _)
  | .rcp .. => kept_execRcp _ _ (.refl _)
  | .rsqrt .. => kept_execRsqrt _ _ (.refl _)
  | .exp .. => kept_execExp _ _ (.refl _)
  | .log .. => kept_execLog _ _ (.refl _)
  | .sigmoid .. => kept_execSigmoid _ _ (.refl _)
  | .tanh .. => kept_execTanh _ _ (.refl _)
  | .gelu .. => kept_execGelu _ _ (.refl _)
  | .silu .. => kept_execSilu _ _ (.refl _)
  | .cvti .. => kept_execCvti _ _ (.refl _)
  | .roundi .. => kept_execRoundi _ _ (.refl _)
  | .sumreduce .. => kept_execSumreduce _ _ (.refl _)
  | .maxreduce .. => kept_execMaxreduce _ _ (.refl _)
  | .addi .. => kept_execAddi _ _ (.refl _)
  | .muli .. => kept_execMuli _ _ (.refl _)
  | .setx .. => kept_execSetx _ _ (.refl _)
  | .deq .. => kept_execDeq _ _ (.refl _)
  | .quant .. => kept_execQuant _ _ (.refl _)
  | .lsqgrad .. => kept_execLsqgrad _ _ (.refl _)
  | .srd .. => kept_execSrd _ _ _ _ (.refl _)
  | .swr .. => kept_execSwr _ _ _ (.refl _)
  | .nseg .. => kept_execNseg _ _ _ _ _ _ (.refl _)
  | .twalk .. => kept_execTwalk _ _ _ _ (.refl _)
  | .tplan .. => kept_execTplan _ _ _ _ (.refl _)
  | .tplanWiden .. => kept_execTplanWiden _ _ _ _ (.refl _)
  | .tsketch .. => kept_execTsketch _ _ _ _ (.refl _)
  | .sopen .. => kept_execSopen _ _ _ (.refl _)
  | .sfeed .. => kept_execSfeed _ _ _ (.refl _)
  | .schain .. => kept_execSchain _ _ _ (.refl _)
  | .ssumin .. => kept_execSsumin _ _ _ (.refl _)
  | .semit .. => kept_execSemit _ _ _ _ (.refl _)
  | .ssave .. => kept_execSsave _ _ _ _ (.refl _)
  | .srestore .. => kept_execSrestore _ _ _ _ (.refl _)
  | .mcopy .. => kept_execMcopy _ _ _ (.refl _)
  | .mxbuf .. => kept_execMxbuf _ _ _ (.refl _)
  | .mclose .. => kept_execMclose _ _ _ _ (.refl _)
  | .mcheck .. => kept_execMcheck _ _ _ _ (.refl _)
  | .brd .. => kept_execBrd _ _ (.refl _)
  | .bwr .. => kept_execBwr _ _ (.refl _)
  | .bgather .. => kept_execBgather _ _ _ (.refl _)
  | .fissue .. => kept_execFissue _ _ (.refl _)
  | .fprog .. => kept_execFprog _ _ (.refl _)
  | .ferase .. => kept_execFerase _ _ (.refl _)
  | .fsend .. => kept_execFsend _ _ _ (.refl _)
  | .sadmit .. => kept_execSadmit _ _ _ _ (.refl _)
  | .flashReadDone .. => kept_execFlashReadDone _ _ _ (.refl _)
  | .flashProgramDone .. => kept_execFlashProgramDone _ _ (.refl _)
  | .flashEraseDone .. => kept_execFlashEraseDone _ _ (.refl _)
  | .stripeAgeFlush .. => kept_execStripeAgeFlush _ _ (.refl _)
  | .flashLineFault .. => kept_execFlashLineFault _ _ _ (.refl _)
  | .nandSenseLost .. => kept_execNandSenseLost _ _ (.refl _)
  | .nandSenseRestored .. => kept_execNandSenseRestored _ _ (.refl _)
  | .flashTrainingDone .. => kept_execFlashTrainingDone _ _ (.refl _)
  | .mergeSwitch .. => kept_execMergeSwitch _ _ _ _ (.refl _)
  | .mergeAreaRelease .. => kept_execMergeAreaRelease _ _ _ (.refl _)
  | .oldVersionRelease .. => kept_execOldVersionRelease _ _ _ (.refl _)
  | .loadWindowEnd => kept_execLoadWindowEnd _ (.refl _)
  | .transitCopyDone => kept_execTransitCopyDone _ (.refl _)
  | .rebuildDone .. => kept_execRebuildDone _ _ _ _ (.refl _)
  | .poisonSlackExpire => kept_execPoisonSlackExpire _ (.refl _)
  | .bankPairCopyDone .. => kept_execBankPairCopyDone _ _ _ (.refl _)
  | .setupMarkComplete => kept_execSetupMarkComplete _ (.refl _)
  | .sliceQuiet => kept_execSliceQuiet _ (.refl _)
  | .composeAbandon => kept_execComposeAbandon _ (.refl _)
  | .custodyOrphan => kept_execCustodyOrphan _ (.refl _)
  | .reshardMovesDone => kept_execReshardMovesDone _ (.refl _)
  | .drainComplete => kept_execDrainComplete _ (.refl _)
  | .ringCloseDone .. => kept_execRingCloseDone _ _ (.refl _)
  | .resultsWritten .. => kept_execResultsWritten _ _ (.refl _)
  | .hangAck .. => kept_execHangAck _ _ _ (.refl _)
  | .hangOwn .. => kept_execHangOwn _ _ (.refl _)
  | .hangWait .. => kept_execHangWait _ _ _ (.refl _)
  | .watchdog => kept_execWatchdog _ (.refl _)
  | .dumpComplete .. => kept_execDumpComplete _ _ _ (.refl _)
  | .autoNodeReset => kept_execAutoNodeReset _ (.refl _)
  | .domainResetDone .. => kept_execDomainResetDone _ _ (.refl _)
  | .burinRestart => kept_execBurinRestart _ (.refl _)
  | .quarantineLift .. => kept_execQuarantineLift _ _ (.refl _)
  | .faultMapWrite => kept_execFaultMapWrite _ (.refl _)
  | .envelopeGraceExpire => kept_execEnvelopeGraceExpire _ (.refl _)
  | .envelopeHoldStart => kept_execEnvelopeHoldStart _ (.refl _)
  | .tjLimit .. => kept_execTjLimit _ _ (.refl _)
  | .tjHighClear => kept_execTjHighClear _ (.refl _)
  | .thermtrip => kept_execThermtrip _ (.refl _)
  | .inputContact => kept_execInputContact _ (.refl _)
  | .inputValid => kept_execInputValid _ (.refl _)
  | .railSequenceStep .. => kept_execRailSequenceStep _ _ (.refl _)
  | .boot .. => kept_execBoot _ _ (.refl _)
  | .bootComplete .. => kept_execBootComplete _ _ _ (.refl _)
  | .selftestDone .. => kept_execSelftestDone _ _ (.refl _)
  | .inputUv => kept_execInputUv _ (.refl _)
  | .inputOv => kept_execInputOv _ (.refl _)
  | .inputReturn => kept_execInputReturn _ (.refl _)
  | .breaker => kept_execBreaker _ (.refl _)
  | .reverse => kept_execReverse _ (.refl _)
  | .railFault .. => kept_execRailFault _ _ (.refl _)
  | .controlOff => kept_execControlOff _ (.refl _)
  | .controlOn => kept_execControlOn _ (.refl _)
  | .controlRetry => kept_execControlRetry _ (.refl _)
  | .seenFlagClear .. => kept_execSeenFlagClear _ _ (.refl _)
  | .dumpClear .. => kept_execDumpClear _ _ (.refl _)
  | .dumpWindowSet .. => kept_execDumpWindowSet _ _ (.refl _)
  | .dumpDataRead => kept_execDumpDataRead _ (.refl _)
  | .entdaa .. => kept_execEntdaa _ _ _ (.refl _)
  | .setdasa .. => kept_execSetdasa _ _ _ (.refl _)
  | .portReset _ cause => kept_execPortReset _ cause _ (.refl _)
  | .portResetRelease .. => kept_execPortResetRelease _ _ (.refl _)
  | .refclkLost .. => kept_execRefclkLost _ _ (.refl _)
  | .commandSealWrite .. => kept_execCommandSealWrite _ _ _ _ (.refl _)
  | .registerWrite .. => kept_execRegisterWrite _ _ _ (.refl _)
  | .nodeInfo .. => kept_execNodeInfo _ _ (.refl _)
  | .nodeStatus .. => kept_execNodeStatus _ _ _ (.refl _)
  | .attest .. => kept_execAttest _ _ _ (.refl _)
  | .counterRead .. => kept_execCounterRead _ _ _ (.refl _)
  | .logRead .. => kept_execLogRead _ _ _ (.refl _)
  | .resetDomain .. => kept_execResetDomain _ _ (.refl _)
  | .selftest .. => kept_execSelftest _ _ (.refl _)
  | .start .. => kept_execStart _ _ (.refl _)
  | .serve .. => kept_execServe _ _ (.refl _)
  | .drain .. => kept_execDrain _ _ (.refl _)
  | .maint .. => kept_execMaint _ _ (.refl _)
  | .resume .. => kept_execResume _ _ (.refl _)
  | .stop .. => kept_execStop _ _ (.refl _)
  | .proofWrite .. => kept_execProofWrite _ _ _ (.refl _)
  | .fwUpdate .. => kept_execFwUpdate _ _ _ (.refl _)
  | .fwActivate .. => kept_execFwActivate _ _ (.refl _)
  | .clusterMap .. => kept_execClusterMap _ _ (.refl _)
  | .bpmap .. => kept_execBpmap _ _ (.refl _)
  | .compose .. => kept_execCompose _ _ _ (.refl _)
  | .phaseLoad .. => kept_execPhaseLoad _ _ _ (.refl _)
  | .phase .. => kept_execPhase _ _ _ (.refl _)
  | .quotaSet .. => kept_execQuotaSet _ _ (.refl _)
  | .oppointSet .. => kept_execOppointSet _ _ (.refl _)
  | .policySet .. => kept_execPolicySet _ _ (.refl _)
  | .objAlloc .. => kept_execObjAlloc _ _ (.refl _)
  | .objFree .. => kept_execObjFree _ _ (.refl _)
  | .objWrite .. => kept_execObjWrite _ _ _ (.refl _)
  | .objRead .. => kept_execObjRead _ _ _ (.refl _)
  | .descLoad .. => kept_execDescLoad _ _ (.refl _)
  | .ringSetup .. => kept_execRingSetup _ _ (.refl _)
  | .ringClose .. => kept_execRingClose _ _ (.refl _)
  | .versionSwitch .. => kept_execVersionSwitch _ _ (.refl _)
  | .transit .. => kept_execTransit _ _ (.refl _)
  | .bridgeXfer .. => kept_execBridgeXfer _ _ (.refl _)
  | .conjPromote .. => kept_execConjPromote _ _ (.refl _)
  | .inputLoss => kept_execInputLoss _ (.refl _)
  | .powerDownComplete => kept_execPowerDownComplete _ (.refl _)
  | .configurationRequest .. => kept_execConfigurationRequest _ _ _ (.refl _)
  | .portLinkTrained .. => kept_execPortLinkTrained _ _ _ _ (.refl _)
  | .bridgeTileTimeout => kept_execBridgeTileTimeout _ (.refl _)

/-- A step takes the front of the queue away and keeps what is sound. -/
theorem kept_step {s t : State} (h : step s = .next t) : Kept { s with pending := s.pending.drop 1 } t := by
  cases hq : s.pending with
  | nil =>
    rw [step_of_pending_nil hq, Host.Outcome.next.injEq] at h
    have hs : { s with pending := ([] : List Instr).drop 1 } = s := by rw [List.drop_nil, ← hq]
    rw [hs, ← h]
    exact kept_tick s (.refl s)
  | cons c r =>
    rw [step_of_pending_cons hq] at h
    exact kept_exec c _ t h

/-- Settles O4: soundness is kept part by part, and it does not speak of the queue. -/
theorem stepKeepsSound : Obligations.StepKeepsSound := by
  intro s t h
  obtain ⟨-, hnode, hpower, hboxes, hcanon⟩ := kept_step h
  refine ⟨hnode, hpower, hboxes, hcanon, fun hs => ?_⟩
  simp only [State.sound, Bool.and_eq_true] at hs ⊢
  obtain ⟨⟨⟨hn, hp⟩, hb⟩, hc⟩ := hs
  exact ⟨⟨⟨hnode hn, hpower hp⟩, hboxes hb⟩, hcanon hc⟩

/-- Settles O2: no command touches the queue, so what a step leaves of it is what it ran on. -/
theorem queueIsFirstInFirstOut : Obligations.QueueIsFirstInFirstOut :=
  ⟨fun c s t h => (kept_exec c s t h).pending, fun _ _ h => (kept_step h).pending⟩

/-! ### Before any input -/

/-- The mask bit is kept inverted, so the empty table masks every vector (log entry 42). -/
theorem msixMasked_reset (p v : Nat) : msixMasked State.reset p v = true := by
  have hcell : ∀ k, cget 0#8 State.reset.host.msix k = 0#8 := cget_nil 
  have hoff : (16 * v + 12) % 16 = 12 := by omega
  simp [msixMasked, msixField, msixByte, hcell, hoff, leNat, bit, List.range_succ]

/-- Settles O3: every field as `State.reset` has it, and every cell list empty. -/
theorem resetState : Obligations.ResetState :=
  ⟨rfl, rfl, rfl, rfl, rfl, rfl, rfl, rfl, rfl, rfl, rfl, rfl, rfl, rfl, rfl, rfl, fun _ => msixMasked_reset _ _, by decide⟩

/-! ### Temperature -/

/-- Settles O35: the three ranges of a temperature. -/
theorem hotFollowsHysteresis : Obligations.HotFollowsHysteresis := by
  intro was temp
  unfold hotAfter
  split
  · simp_all
  · split
    · simp only [Bool.false_eq_true, false_iff]
      omega
    · next hlow hhigh =>
      exact ⟨fun hwas => .inr ⟨hwas, Int.not_le.mp hhigh⟩, fun h => h.elim (absurd · hlow) And.left⟩

end Sys2Proof.Machine
end

section
/-!
SUPPORT. The order of entries (R150), and the list a select unit holds: it is in order, and with no duplicates taken out it is the first KMAX of the
valid entries fed (R152).
-/
namespace Sys2Proof.Machine

/-! ### The order of R150 -/

theorem scoreEq_iff {a b : W32} : scoreEq a b = true ↔
    isNaN32 a = false ∧ isNaN32 b = false ∧ scoreLt a b = false ∧ scoreLt b a = false := by
  simp only [scoreEq, feq, scoreLt, isNaN32, bne, Bool.and_eq_true, Bool.not_eq_true', and_assoc]

theorem scoreLt_trans {a b c : W32} (h : scoreLt a b = true) (k : scoreLt b c = true) : scoreLt a c = true := flt_trans h k

theorem scoreLt_asymm {a b : W32} (h : scoreLt a b = true) : scoreLt b a = false := flt_asymm h

theorem scoreLt_split {a b c : W32} (hb : isNaN32 b = false) (h : scoreLt a c = true) : scoreLt a b = true ∨ scoreLt b c = true :=
  flt_split (by simpa [isNaN32] using hb) h

theorem scoreLt_of_lt_of_eq {a b c : W32} (h : scoreLt a b = true) (k : scoreEq b c = true) : scoreLt a c = true := by
  obtain ⟨-, hc, -, hcb⟩ := scoreEq_iff.1 k
  exact (scoreLt_split hc h).resolve_right (by simp [hcb])

theorem scoreLt_of_eq_of_lt {a b c : W32} (h : scoreEq a b = true) (k : scoreLt b c = true) : scoreLt a c = true := by
  obtain ⟨ha, -, -, hba⟩ := scoreEq_iff.1 h
  exact (scoreLt_split ha k).resolve_left (by simp [hba])

theorem scoreEq_symm {a b : W32} (h : scoreEq a b = true) : scoreEq b a = true := by
  obtain ⟨ha, hb, hab, hba⟩ := scoreEq_iff.1 h
  exact scoreEq_iff.2 ⟨hb, ha, hba, hab⟩

theorem scoreEq_trans {a b c : W32} (h : scoreEq a b = true) (k : scoreEq b c = true) : scoreEq a c = true := by
  obtain ⟨ha, hb, hab, hba⟩ := scoreEq_iff.1 h
  obtain ⟨-, hc, hbc, hcb⟩ := scoreEq_iff.1 k
  refine scoreEq_iff.2 ⟨ha, hc, Bool.eq_false_iff.2 fun hac => ?_, Bool.eq_false_iff.2 fun hca => ?_⟩
  · rcases scoreLt_split hb hac with hlt | hlt
    · simp [hab] at hlt
    · simp [hbc] at hlt
  · rcases scoreLt_split hb hca with hlt | hlt
    · simp [hcb] at hlt
    · simp [hba] at hlt

/-- The score that comes first: the larger one with MAX order, the smaller one without. -/
def scoreFirst (mo : Bool) (a b : W32) : Bool := if mo then scoreLt b a else scoreLt a b

theorem precedes_iff {mo : Bool} {a b : SelEntry} : precedes mo a b = true ↔
    scoreFirst mo a.score b.score = true ∨ (scoreEq a.score b.score = true ∧ a.id < b.id) := by
  simp only [precedes, scoreFirst, Bool.or_eq_true, Bool.and_eq_true, decide_eq_true_eq]

theorem scoreFirst_trans {mo : Bool} {a b c : W32} (h : scoreFirst mo a b = true) (k : scoreFirst mo b c = true) : scoreFirst mo a c = true := by
  cases mo with
  | false => exact scoreLt_trans h k
  | true => exact scoreLt_trans (a := c) k h

theorem scoreFirst_of_first_of_eq {mo : Bool} {a b c : W32} (h : scoreFirst mo a b = true) (k : scoreEq b c = true) : scoreFirst mo a c = true := by
  cases mo with
  | false => exact scoreLt_of_lt_of_eq h k
  | true => exact scoreLt_of_eq_of_lt (a := c) (scoreEq_symm k) h

theorem scoreFirst_of_eq_of_first {mo : Bool} {a b c : W32} (h : scoreEq a b = true) (k : scoreFirst mo b c = true) : scoreFirst mo a c = true := by
  cases mo with
  | false => exact scoreLt_of_eq_of_lt h k
  | true => exact scoreLt_of_lt_of_eq (a := c) k (scoreEq_symm h)

theorem scoreFirst_asymm {mo : Bool} {a b : W32} (h : scoreFirst mo a b = true) : scoreFirst mo b a = false := by
  cases mo with
  | false => exact scoreLt_asymm h
  | true => exact scoreLt_asymm (a := b) h

theorem scoreFirst_of_scoreEq {mo : Bool} {a b : W32} (h : scoreEq a b = true) : scoreFirst mo a b = false := by
  obtain ⟨-, -, hab, hba⟩ := scoreEq_iff.1 h
  cases mo with
  | false => exact hab
  | true => exact hba

theorem scoreFirst_total {mo : Bool} {a b : W32} (ha : isNaN32 a = false) (hb : isNaN32 b = false) :
    scoreFirst mo a b = true ∨ scoreEq a b = true ∨ scoreFirst mo b a = true := by
  rw [scoreEq_iff]
  cases mo <;> cases hab : scoreLt a b <;> cases hba : scoreLt b a <;> simp [scoreFirst, ha, hb, hab, hba]

theorem precedes_trans {mo : Bool} {a b c : SelEntry} (h : precedes mo a b = true) (k : precedes mo b c = true) : precedes mo a c = true := by
  rw [precedes_iff] at h k ⊢
  obtain hab | ⟨hab, hid⟩ := h
  · obtain hbc | ⟨hbc, -⟩ := k
    · exact .inl (scoreFirst_trans hab hbc)
    · exact .inl (scoreFirst_of_first_of_eq hab hbc)
  · obtain hbc | ⟨hbc, hid'⟩ := k
    · exact .inl (scoreFirst_of_eq_of_first hab hbc)
    · exact .inr ⟨scoreEq_trans hab hbc, Nat.lt_trans hid hid'⟩

theorem precedes_asymm {mo : Bool} {a b : SelEntry} (h : precedes mo a b = true) : precedes mo b a = false := by
  refine Bool.eq_false_iff.2 fun k => ?_
  rw [precedes_iff] at h k
  obtain hab | ⟨hab, hid⟩ := h
  · obtain hba | ⟨hba, -⟩ := k
    · simp [scoreFirst_asymm hab] at hba
    · simp [scoreFirst_of_scoreEq (scoreEq_symm hba)] at hab
  · obtain hba | ⟨-, hid'⟩ := k
    · simp [scoreFirst_of_scoreEq (scoreEq_symm hab)] at hba
    · exact absurd hid' (Nat.lt_asymm hid)

theorem precedes_total {mo : Bool} {a b : SelEntry} (ha : isNaN32 a.score = false) (hb : isNaN32 b.score = false) (hid : a.id ≠ b.id) :
    precedes mo a b = true ∨ precedes mo b a = true := by
  simp only [precedes_iff]
  obtain hab | hab | hba := scoreFirst_total (mo := mo) ha hb
  · exact .inl (.inl hab)
  · rcases Nat.lt_or_gt_of_ne hid with hlt | hgt
    · exact .inl (.inr ⟨hab, hlt⟩)
    · exact .inr (.inr ⟨scoreEq_symm hab, hgt⟩)
  · exact .inr (.inl hba)

/-! ### A list in order -/

/-- No entry of the list precedes one that stands before it. -/
def InOrder (mo : Bool) (l : List SelEntry) : Prop := l.Pairwise fun a b => precedes mo b a = false

theorem insertEntry_inOrder {mo : Bool} {e : SelEntry} {l : List SelEntry} (h : InOrder mo l) : InOrder mo (insertEntry mo e l) := by
  induction l with
  | nil => exact List.pairwise_singleton _ _
  | cons x r ih =>
    have hcons := h
    obtain ⟨hx, hr⟩ := List.pairwise_cons.1 h
    rw [insertEntry]
    split
    next hex =>
      refine List.pairwise_cons.2 ⟨fun y hy => ?_, hcons⟩
      rcases List.mem_cons.1 hy with rfl | hy
      · exact precedes_asymm hex
      · exact Bool.eq_false_iff.2 fun hye => Bool.eq_false_iff.1 (hx y hy) (precedes_trans hye hex)
    next hex =>
      refine List.pairwise_cons.2 ⟨fun y hy => ?_, ih hr⟩
      rcases mem_insertEntry.1 hy with rfl | hy
      · exact Bool.eq_false_iff.2 hex
      · exact hx y hy

theorem perm_insertEntry (mo : Bool) (e : SelEntry) (l : List SelEntry) : (insertEntry mo e l).Perm (e :: l) := by
  induction l with
  | nil => exact .refl _
  | cons x r ih =>
    rw [insertEntry]
    split
    · exact .refl _
    · exact (ih.cons x).trans (.swap e x r)

/-- The first `n` after an entry goes in depend on the first `n` before alone. -/
theorem take_insertEntry (mo : Bool) (e : SelEntry) (l : List SelEntry) (n : Nat) :
    (insertEntry mo e (l.take n)).take n = (insertEntry mo e l).take n := by
  induction l generalizing n with
  | nil => simp
  | cons x r ih =>
    cases n with
    | zero => simp
    | succ n =>
      rw [List.take_succ_cons, insertEntry, insertEntry]
      split
      · cases n with
        | zero => rfl
        | succ n => simp [List.take_take]
      · rw [List.take_succ_cons, List.take_succ_cons, ih]

/-! ### What a feed leaves -/

namespace Sel

@[simp] theorem addSums_kmax (u : Sel) (w : W32) : (u.addSums w).kmax = u.kmax := by unfold addSums; split <;> rfl
@[simp] theorem addSums_k (u : Sel) (w : W32) : (u.addSums w).k = u.k := by unfold addSums; split <;> rfl
@[simp] theorem addSums_maxOrder (u : Sel) (w : W32) : (u.addSums w).maxOrder = u.maxOrder := by unfold addSums; split <;> rfl
@[simp] theorem addSums_dedup (u : Sel) (w : W32) : (u.addSums w).dedup = u.dedup := by unfold addSums; split <;> rfl
@[simp] theorem hold_kmax (u : Sel) (e : SelEntry) : (u.hold e).kmax = u.kmax := by unfold hold; dsimp only; split <;> rfl
@[simp] theorem hold_k (u : Sel) (e : SelEntry) : (u.hold e).k = u.k := by unfold hold; dsimp only; split <;> rfl
@[simp] theorem hold_maxOrder (u : Sel) (e : SelEntry) : (u.hold e).maxOrder = u.maxOrder := by unfold hold; dsimp only; split <;> rfl
@[simp] theorem hold_dedup (u : Sel) (e : SelEntry) : (u.hold e).dedup = u.dedup := by unfold hold; dsimp only; split <;> rfl

/-- What is held after an entry comes in is the first KMAX of what was held, with the entry in its place. -/
theorem hold_held (u : Sel) (e : SelEntry) : (u.hold e).held = (insertEntry u.maxOrder e u.held).take u.kmax := by
  unfold hold
  dsimp only
  split
  · exact (List.take_of_length_le ‹_›).symm
  · rfl

/-- A unit with the settings of another: KMAX, K, MAX order and DEDUP. -/
def Alike (u v : Sel) : Prop := v.kmax = u.kmax ∧ v.k = u.k ∧ v.maxOrder = u.maxOrder ∧ v.dedup = u.dedup

/-- What a feed leaves held: with a NaN what was held; else the first KMAX, in order, of some of what was held and one entry more. -/
theorem feed_held (u : Sel) (child : Bool) (e : SelEntry) : Alike u (u.feed child e) ∧
    ((u.feed child e).held = u.held ∨ ∃ x l, l.Sublist u.held ∧ (u.feed child e).held = (insertEntry u.maxOrder x l).take u.kmax) := by
  cases hnan : isNaN32 e.score with
  | true =>
    rw [feed_of_nan child hnan]
    exact ⟨⟨rfl, rfl, rfl, rfl⟩, .inl rfl⟩
  | false =>
    simp only [feed, hnan, Bool.false_eq_true, if_false]
    have hsums : Alike u (if child then u else u.addSums e.score) ∧ (if child then u else u.addSums e.score).held = u.held := by
      split <;> simp [Alike]
    generalize (if child then u else u.addSums e.score) = v at hsums
    obtain ⟨⟨hkmax, hk, hmo, hdedup⟩, hheld⟩ := hsums
    cases hdup : v.dupOf e with
    | none => exact ⟨by simp [Alike, hkmax, hk, hmo, hdedup], .inr ⟨e, u.held, .refl _, by simp [hold_held, hkmax, hmo, hheld]⟩⟩
    | some d =>
      exact ⟨by simp [Alike, hkmax, hk, hmo, hdedup],
        .inr ⟨keepDup d e, v.held.erase d, hheld ▸ List.erase_sublist, by simp [hold_held, hkmax, hmo]⟩⟩

/-- Without DEDUP an entry that is no NaN takes its place among those held. -/
theorem feed_held_of_valid {u : Sel} {e : SelEntry} (hdedup : u.dedup = false) (hnan : isNaN32 e.score = false) :
    (u.feed false e).held = (insertEntry u.maxOrder e u.held).take u.kmax := by
  have hdup : (u.addSums e.score).dupOf e = none := by simp [dupOf, hdedup]
  simp [feed, hnan, hdup, hold_held]

theorem feed_held_of_nan {u : Sel} {e : SelEntry} (child : Bool) (hnan : isNaN32 e.score = true) : (u.feed child e).held = u.held := by
  rw [feed_of_nan child hnan]

end Sel

/-- Settles O23: a feed puts at most one entry in its place among some of those held, and keeps the first KMAX. -/
theorem heldEntriesStayOrdered : Obligations.HeldEntriesStayOrdered := by
  intro u child e hlen hord
  obtain ⟨⟨hkmax, -, hmo, -⟩, hheld⟩ := Sel.feed_held u child e
  refine ⟨hkmax, hmo, ?_⟩
  obtain hsame | ⟨x, l, hsub, hfed⟩ := hheld
  · rw [hsame]
    exact ⟨hlen, hord⟩
  · rw [hfed]
    exact ⟨List.length_take_le _ _, (insertEntry_inOrder (hord.sublist hsub)).sublist (List.take_sublist _ _)⟩

/-! ### A selection over distinct IDs -/

/-- The valid entries of those fed. -/
def validOf (es : List SelEntry) : List SelEntry := es.filter fun e => !isNaN32 e.score

/-- All entries of a list, each put in its place. -/
def sortEntries (mo : Bool) (es : List SelEntry) : List SelEntry := es.foldl (fun l e => insertEntry mo e l) []

theorem foldl_insertEntry_inOrder {mo : Bool} (es : List SelEntry) {l : List SelEntry} (h : InOrder mo l) :
    InOrder mo (es.foldl (fun l e => insertEntry mo e l) l) := by
  induction es generalizing l with
  | nil => exact h
  | cons e es ih => exact ih (insertEntry_inOrder h)

theorem perm_foldl_insertEntry (mo : Bool) (es l : List SelEntry) : (es.foldl (fun l e => insertEntry mo e l) l).Perm (es ++ l) := by
  induction es generalizing l with
  | nil => exact .refl _
  | cons e es ih => exact ((ih _).trans ((perm_insertEntry mo e l).append_left es)).trans List.perm_middle

theorem sortEntries_perm (mo : Bool) (es : List SelEntry) : (sortEntries mo es).Perm es := by
  simpa [sortEntries] using perm_foldl_insertEntry mo es []

/-- Valid entries with distinct IDs stand in strict order once each is in its place. -/
theorem sortEntries_strict {mo : Bool} {es : List SelEntry} (hvalid : ∀ e ∈ es, isNaN32 e.score = false) (hids : (es.map SelEntry.id).Nodup) :
    (sortEntries mo es).Pairwise fun a b => precedes mo a b = true := by
  have hperm := sortEntries_perm mo es
  have hord : InOrder mo (sortEntries mo es) := foldl_insertEntry_inOrder es List.Pairwise.nil
  have hne : (sortEntries mo es).Pairwise fun a b => a.id ≠ b.id :=
    List.pairwise_map.1 ((hperm.map SelEntry.id).nodup_iff.2 hids)
  refine (hord.and hne).imp_of_mem fun {a b} ha hb h => ?_
  exact (precedes_total (hvalid a (hperm.mem_iff.1 ha)) (hvalid b (hperm.mem_iff.1 hb)) h.2).resolve_right (by simp [h.1])

/-- In strict order there is one list only of the same entries. -/
theorem sortEntries_eq_of_perm {mo : Bool} {es es' : List SelEntry} (hvalid : ∀ e ∈ es, isNaN32 e.score = false)
    (hids : (es.map SelEntry.id).Nodup) (hperm : es.Perm es') : sortEntries mo es = sortEntries mo es' := by
  have hvalid' : ∀ e ∈ es', isNaN32 e.score = false := fun e he => hvalid e (hperm.mem_iff.2 he)
  have hids' : (es'.map SelEntry.id).Nodup := (hperm.map SelEntry.id).nodup_iff.1 hids
  refine List.Perm.eq_of_pairwise (fun a b _ _ hab hba => ?_) (sortEntries_strict hvalid hids) (sortEntries_strict hvalid' hids')
    (((sortEntries_perm mo es).trans hperm).trans (sortEntries_perm mo es').symm)
  simp [precedes_asymm hab] at hba

/-- A unit without DEDUP that is fed `es` holds the first KMAX of what it held and the valid ones of `es`, each in its place. -/
theorem foldl_feed_held {u : Sel} (es : List SelEntry) (full : List SelEntry) (hdedup : u.dedup = false) (hheld : u.held = full.take u.kmax) :
    let v := es.foldl (fun v e => v.feed false e) u
    Sel.Alike u v ∧ v.held = ((validOf es).foldl (fun l e => insertEntry u.maxOrder e l) full).take u.kmax := by
  induction es generalizing u full with
  | nil => exact ⟨⟨rfl, rfl, rfl, rfl⟩, hheld⟩
  | cons e es ih =>
    obtain ⟨⟨hkmax, hk, hmo, hdd⟩, -⟩ := Sel.feed_held u false e
    have hrest : ∀ full', (u.feed false e).held = full'.take u.kmax →
        let v := es.foldl (fun v e => v.feed false e) (u.feed false e)
        Sel.Alike u v ∧ v.held = ((validOf es).foldl (fun l e => insertEntry u.maxOrder e l) full').take u.kmax := fun full' h => by
      have hih := ih full' (hdd.trans hdedup) (by rw [h, hkmax])
      simpa only [Sel.Alike, hkmax, hk, hmo, hdd] using hih
    rw [List.foldl_cons, validOf, List.filter_cons]
    cases hnan : isNaN32 e.score with
    | true => exact hrest full ((Sel.feed_held_of_nan false hnan).trans hheld)
    | false =>
      refine hrest (insertEntry u.maxOrder e full) ?_
      rw [Sel.feed_held_of_valid hdedup hnan, hheld, take_insertEntry]

/-- The selection of a unit opened empty without DEDUP: the first K of the valid entries in order. -/
theorem selected_foldl_feed {u : Sel} (es : List SelEntry) (hempty : u.held = []) (hdedup : u.dedup = false) (hk : u.k ≤ u.kmax) :
    (es.foldl (fun v e => v.feed false e) u).selected = (sortEntries u.maxOrder (validOf es)).take u.k := by
  obtain ⟨⟨-, hk', -, -⟩, hheld⟩ := foldl_feed_held es [] hdedup (by simp [hempty])
  rw [Sel.selected, hk', hheld, List.take_take, Nat.min_eq_left hk, sortEntries]

theorem mem_validOf {e : SelEntry} {es : List SelEntry} : e ∈ validOf es ↔ e ∈ es ∧ isNaN32 e.score = false := by
  simp [validOf]

/-- Settles O24: the selection is the first K of the one strictly ordered list of the valid entries. -/
theorem selectionIsBestKInAnyOrder : Obligations.SelectionIsBestKInAnyOrder := by
  intro u es es' hempty hdedup hk hperm hids
  have hvalid : ∀ e ∈ validOf es, isNaN32 e.score = false := fun e he => (mem_validOf.1 he).2
  have hnodup : ((validOf es).map SelEntry.id).Nodup := hids.sublist (List.filter_sublist.map _)
  have hsort := sortEntries_perm u.maxOrder (validOf es)
  have hstrict : (sortEntries u.maxOrder (validOf es)).Pairwise fun a b => precedes u.maxOrder a b = true :=
    sortEntries_strict hvalid hnodup
  have hmem : ∀ e, e ∈ sortEntries u.maxOrder (validOf es) ↔ e ∈ es ∧ isNaN32 e.score = false := fun e => hsort.mem_iff.trans mem_validOf
  dsimp only
  rw [selected_foldl_feed es hempty hdedup hk, selected_foldl_feed es' hempty hdedup hk]
  refine ⟨?_, ?_, hstrict.sublist (List.take_sublist _ _), fun e he => (hmem e).1 (List.mem_of_mem_take he), fun e he x hx hnan hout => ?_⟩
  · rw [sortEntries_eq_of_perm hvalid hnodup (hperm.filter _)]
    rfl
  · rw [List.length_take, hsort.length_eq, validOf]
  · have hsplit := List.pairwise_append.1 ((List.take_append_drop u.k (sortEntries u.maxOrder (validOf es))).symm ▸ hstrict)
    have hdrop : x ∈ (sortEntries u.maxOrder (validOf es)).drop u.k := by
      have hx' := (hmem x).2 ⟨hx, hnan⟩
      rw [← List.take_append_drop u.k (sortEntries u.maxOrder (validOf es)), List.mem_append] at hx'
      exact hx'.resolve_left hout
    exact hsplit.2.2 e he x hdrop

end Sys2Proof.Machine
end

section
/-!
SUPPORT. The functions of the vector units (R84 to R88): one law for all that read lanes and write a register in the next step.
-/
namespace Sys2Proof.Machine

/-- A command runs where its meaning answers a next state. -/
theorem Runs.of_exec {i : Instr} {s t : State} {p : State → Prop} (h : exec i s = .next t) (hp : p t) : Runs i s p := ⟨t, h, hp⟩

/-! ### Functions of the lanes -/

section
variable {i : Instr} {v : Vop} {fn : Nat} {immUsed : Bool} {s : State}

theorem vopRun_runs {f : State → Host.Outcome State Fault Refusal} (himm : immUsed = true ∨ v.imm = 0#32)
    (hready : laneReady s (vecLane v.cl) 0x22 (vopOp v fn) 1 = true) : vopRun v fn immUsed s f = f (ran s (vecLane v.cl) 1) :=
  laneChecked_runs (by simpa using himm) hready

/-- A command that takes its unit and sends one write. -/
theorem Runs.lands_one {lane n k : Nat} {w : Landing} (h : exec i s = .next (later (ran s lane n) k w)) : Runs i s (Lands lane n k [w] s) :=
  .of_exec h (Lands.one s ..)

end

/-- Settles O9: each function takes the unit for its step, and its result is on the way to the destination. -/
theorem vopArithmeticResults : Obligations.VopArithmeticResults := by
  intro v s
  refine ⟨fun h => .lands_one (vopRun_runs (f := fun u => .next (later u 1 (.vreg v.cl v.dst ((getVreg u v.cl v.src1).map (add32 · v.imm)))))
      (.inl rfl) h),
    fun h => .lands_one (vopRun_runs (f := fun u => .next (later u 1 (.vreg v.cl v.dst ((getVreg u v.cl v.src1).map (mul32 · v.imm)))))
      (.inl rfl) h), fun himm => ?_⟩
  have hmov : (getVreg s v.cl v.src1).map id = getVreg s v.cl v.src1 := List.map_id _
  have himm' : false = true ∨ v.imm = 0#32 := .inr himm
  refine ⟨fun h => .lands_one (hmov ▸ vopRun_runs himm' h), ?_⟩
  refine ⟨?_, ?_, ?_, ?_, ?_, ?_, ?_, ?_, ?_, ?_, ?_, ?_, ?_, ?_, ?_, ?_, ?_⟩
  all_goals exact fun h => .lands_one (vopRun_runs himm' h)

/-- Settles O10: the bounded functions are functions of one lane. -/
theorem vopBoundedResults : Obligations.VopBoundedResults := by
  intro v s himm
  have himm' : false = true ∨ v.imm = 0#32 := .inr himm
  refine ⟨?_, ?_, ?_, ?_, ?_, ?_, ?_⟩
  all_goals exact fun h => .lands_one (vopRun_runs himm' h)

/-! ### Conversions -/

theorem getD_mem_of_lt {α : Type} {l : List α} {i : Nat} (h : i < l.length) (d : α) : l.getD i d ∈ l := by
  rw [List.getD_eq_getElem?_getD, List.getElem?_eq_getElem h, Option.getD_some]
  exact List.getElem_mem h

theorem targetAt_mem (s : State) (cl : Nat) : targetAt s cl ∈ quantTargets := by
  have hlt : Config.quantTarget ((s.run.plate.map Plate.digest).getD 0) (vecLane cl) s.run.step % 8 < quantTargets.length := Nat.mod_lt _ (by decide)
  rw [targetAt, quantFmt]
  exact getD_mem_of_lt hlt _

/-- SETX leaves the unit taken and the four scalar registers of its cluster. -/
theorem runs_setx {v : Vop} {s : State} (hready : laneReady s (vecLane v.cl) 0x22 (vopOp v 0x40) 1 = true) :
    Runs (.setx v) s fun t => Works (vecLane v.cl) 1 s t ∧ t = { s with
      run := { s.run with busy := t.run.busy }
      cnt := { s.cnt with inc := t.cnt.inc }
      units := { s.units with
        xs := cset 0#32 s.units.xs v.cl ((getVreg s v.cl v.src1).headD 0), xo := cset 0#32 s.units.xo v.cl ((getVreg s v.cl v.src2).headD 0)
        xa := cset 0#32 s.units.xa v.cl ((getVreg s v.cl v.src3).headD 0), xk := cset 0#32 s.units.xk v.cl v.imm } } :=
  .of_exec (show execSetx v s = _ from vopRun_runs (.inl rfl) hready) ⟨rfl, rfl⟩

theorem runs_roundi {v : Vop} {s : State} (himm : v.imm = 0#32) (hready : laneReady s (vecLane v.cl) 0x22 (vopOp v 0x21) 1 = true) :
    Runs (.roundi v) s (Lands (vecLane v.cl) 1 1 [.vreg v.cl v.dst ((getVreg s v.cl v.src1).map fun x => (roundLane x).1)] s) := by
  refine .of_exec (vopRun_runs (.inr himm) hready) (Lands.countConv ?_ ..)
  rw [List.map_map]
  exact Lands.one s ..

theorem runs_quant {v : Vop} {s : State} (himm : v.imm = 0#32) (hready : laneReady s (vecLane v.cl) 0x22 (vopOp v 0x42) 1 = true) :
    Runs (.quant v) s (Lands (vecLane v.cl) 1 1 [.vreg v.cl v.dst ((List.zipWith (quantLane (targetAt s v.cl)) (getVreg s v.cl v.src1)
      (getVreg s v.cl v.src3)).map fun e => BitVec.ofInt 32 e.code)] s) :=
  .of_exec (vopRun_runs (.inr himm) hready) ((Lands.one s ..).countConv ..)

/-- One write more where there is a register for it. -/
theorem Lands.laterIf {lane n k : Nat} {ws : List Landing} {s t : State} (h : Lands lane n k ws s t) (e : t.run.now = s.run.now) (c : Prop)
    [Decidable c] (w : Landing) : Lands lane n k (ws ++ if c then [w] else []) s (if c then Machine.later t k w else t) := by
  split
  · exact h.later e w
  · rwa [List.append_nil]

theorem now_laterIf (t : State) (k : Nat) (c : Prop) [Decidable c] (w : Landing) : (if c then Machine.later t k w else t).run.now = t.run.now := by
  split <;> rfl

theorem now_ran (s : State) (lane n : Nat) : (ran s lane n).run.now = s.run.now := rfl

theorem runs_lsqgrad {v : Vop} {s : State} (himm : v.imm = 0#32) (hready : laneReady s (vecLane v.cl) 0x22 (vopOp v 0x43) 1 = true) :
    Runs (.lsqgrad v) s fun t =>
      let a := getVreg s v.cl v.src1
      let b := getVreg s v.cl v.src2
      let c := getVreg s v.cl v.src3
      let g := fun (i : Nat) => lsqLane (targetAt s v.cl) (a.getD i 0) (b.getD i 0) (c.getD i 0) (Config.free (s.drawn + i))
      let dests := fun (k : Nat) (f : W32 × W32 × W32 → W32) =>
        if v.dst.val + k < 64 then [Landing.vreg v.cl (v.dst.val + k) ((List.range 64).map fun i => f (g i))] else []
      Lands (vecLane v.cl) 1 1 (dests 0 Prod.fst ++ dests 1 (fun r => r.2.1) ++ dests 2 fun r => r.2.2) { s with drawn := s.drawn + 64 } t := by
  refine .of_exec (vopRun_runs (.inr himm) hready) ?_
  intro a b c g dests
  have h0 := (Lands.ran { s with drawn := s.drawn + 64 } (vecLane v.cl) 1 1).laterIf rfl (v.dst.val + 0 < 64)
    (.vreg v.cl (v.dst.val + 0) ((List.range 64).map fun i => (g i).1))
  have h1 := h0.laterIf (now_laterIf ..) (v.dst.val + 1 < 64) (.vreg v.cl (v.dst.val + 1) ((List.range 64).map fun i => (g i).2.1))
  have h2 := h1.laterIf ((now_laterIf ..).trans (now_laterIf ..)) (v.dst.val + 2 < 64)
    (.vreg v.cl (v.dst.val + 2) ((List.range 64).map fun i => (g i).2.2))
  simp only [List.map_map]
  exact h2

/-- Settles O12: the four conversions, and the target of R77. -/
theorem vopConversionResults : Obligations.VopConversionResults := fun v s =>
  ⟨targetAt_mem s v.cl, runs_setx, fun himm => ⟨runs_roundi himm, runs_quant himm, runs_lsqgrad himm⟩⟩

/-! ### NaN operands -/

theorem dec32_of_nan {x : W32} (h : isNaN32 x = true) : dec32 x = .nan := by simpa [isNaN32] using h

theorem enc32_nan : enc32 .nan = nan32 := by decide

theorem fadd_nan_left (v : FVal) : fadd .nan v = .nan := by cases v <;> rfl
theorem fadd_nan_right (v : FVal) : fadd v .nan = .nan := by cases v <;> rfl
theorem fmul_nan_left (v : FVal) : fmul .nan v = .nan := by cases v <;> rfl
theorem fmul_nan_right (v : FVal) : fmul v .nan = .nan := by cases v <;> rfl
theorem fdiv_nan_left (v : FVal) : fdiv .nan v = .nan := by cases v <;> rfl
theorem fdiv_nan_right (v : FVal) : fdiv v .nan = .nan := by cases v <;> rfl

section
variable {x y : W32}

theorem add32_of_nan (h : isNaN32 x = true ∨ isNaN32 y = true) : add32 x y = nan32 := by
  obtain hx | hy := h
  · rw [add32, dec32_of_nan hx, fadd_nan_left, enc32_nan]
  · rw [add32, dec32_of_nan hy, fadd_nan_right, enc32_nan]

theorem sub32_of_nan (h : isNaN32 x = true ∨ isNaN32 y = true) : sub32 x y = nan32 := by
  obtain hx | hy := h
  · rw [sub32, dec32_of_nan hx, fadd_nan_left, enc32_nan]
  · rw [sub32, dec32_of_nan hy, fneg, fadd_nan_right, enc32_nan]

theorem mul32_of_nan (h : isNaN32 x = true ∨ isNaN32 y = true) : mul32 x y = nan32 := by
  obtain hx | hy := h
  · rw [mul32, dec32_of_nan hx, fmul_nan_left, enc32_nan]
  · rw [mul32, dec32_of_nan hy, fmul_nan_right, enc32_nan]

theorem div32_of_nan (h : isNaN32 x = true ∨ isNaN32 y = true) : div32 x y = nan32 := by
  obtain hx | hy := h
  · rw [div32, dec32_of_nan hx, fdiv_nan_left, enc32_nan]
  · rw [div32, dec32_of_nan hy, fdiv_nan_right, enc32_nan]

theorem fma32_of_nan {z : W32} (h : isNaN32 x = true ∨ isNaN32 y = true ∨ isNaN32 z = true) : fma32 x y z = nan32 := by
  obtain hx | hy | hz := h
  · rw [fma32, dec32_of_nan hx, fmul_nan_left, fadd_nan_left, enc32_nan]
  · rw [fma32, dec32_of_nan hy, fmul_nan_right, fadd_nan_left, enc32_nan]
  · rw [fma32, dec32_of_nan hz, fadd_nan_right, enc32_nan]

theorem unary32_of_nan (h : isNaN32 x = true) : sqrt32 x = nan32 ∧ abs32 x = nan32 ∧ neg32 x = nan32 :=
  ⟨by rw [sqrt32, dec32_of_nan h, fsqrt, enc32_nan], if_pos h, if_pos h⟩

theorem withinUlps_nan (n k : Nat) : withinUlps n k .nan = nan32 := enc32_nan

theorem pick32_of_nan (larger : Bool) (h : isNaN32 x = true) :
    pick32 larger x y = (if isNaN32 y then nan32 else y) ∧ pick32 larger y x = if isNaN32 y then nan32 else y := by
  cases hy : isNaN32 y <;> simp [pick32, h, hy]

end

/-- A lane that VLOAD counts as a NaN input is the canonical NaN. -/
theorem loadLane_of_nan {t code : Nat} (h : (loadLane t code).2 = true) : (loadLane t code).1 = nan32 := by
  unfold loadLane at h ⊢
  split at h
  next => simp at h
  next ht =>
    rw [if_neg ht]
    cases hd : decodeElem t code with
    | int i => simp [hd] at h
    | intNaN => rfl
    | flt v =>
      have hv : v = .nan := by simpa [hd] using h
      rw [hv]
      exact enc32_nan

/-- Settles O11: NaN goes through each exact function, and is rounded to the canonical NaN. -/
theorem nanOperandsGiveCanonicalNan : Obligations.NanOperandsGiveCanonicalNan := by
  refine ⟨fun x y h => ⟨add32_of_nan h, sub32_of_nan h, mul32_of_nan h, div32_of_nan h⟩, fun x y z => fma32_of_nan, fun x => unary32_of_nan,
    fun x n k h => ?_, fun x y larger => pick32_of_nan larger, fun t code => loadLane_of_nan⟩
  rw [dec32_of_nan h]
  exact ⟨withinUlps_nan n k, withinUlps_nan n k, withinUlps_nan n k, withinUlps_nan n k, withinUlps_nan n k⟩

end Sys2Proof.Machine
end

section
/-!
SUPPORT. Loads and stores of the vector units (R84, R87, R82), and the MAC arrays (R57 to R65).
-/
namespace Sys2Proof.Machine

/-! ### VLOAD and VSTORE -/

/-- A command that takes its unit, sends one write and counts conversions. -/
theorem Runs.lands_one_conv {i : Instr} {s : State} {lane n k : Nat} {w : Landing} {id a b : Nat}
    (h : exec i s = .next (countConv (later (ran s lane n) k w) id a b)) : Runs i s (Lands lane n k [w] s) :=
  .of_exec h ((Lands.one s ..).countConv ..)

theorem getD_marksOf_of_anyMark {s : State} {a n : Nat} (h : anyMark s a n = false) (i : Nat) : (marksOf s a (granulesOf n)).getD i false = false := by
  rw [anyMark, List.any_eq_false] at h
  rw [List.getD_eq_getElem?_getD]
  cases hi : (marksOf s a (granulesOf n))[i]? with
  | none => rfl
  | some m => simpa using h m (List.mem_of_getElem? hi)

theorem map_range_getD {α β : Type} (f : α → β) (d : α) (l : List α) : (List.range l.length).map (fun i => f (l.getD i d)) = l.map f := by
  refine List.ext_getElem (by simp) fun i h _ => ?_
  have hi : i < l.length := by simpa using h
  simp [List.getElem?_eq_getElem hi]

@[simp] theorem anyMark_ran (s : State) (lane n a k : Nat) : anyMark (ran s lane n) a k = anyMark s a k := rfl
@[simp] theorem anyMark_later (s : State) (k a n : Nat) (w : Landing) : anyMark (later s k w) a n = anyMark s a n := rfl

/-- The lanes that VLOAD makes of granules without marks. -/
theorem loadedLanes_of_clean {s : State} {a n : Nat} (t per : Nat) (hclean : anyMark s a n = false) :
    ((List.range 64).map fun i => if (marksOf s a (granulesOf n)).getD (i / per) false then nan32 else
        (((unpackElems (typeBits t) 64 (readMem s a n)).map (loadLane t)).getD i (0, false)).1) =
      (unpackElems (typeBits t) 64 (readMem s a n)).map fun c => (loadLane t c).1 := by
  simp only [getD_marksOf_of_anyMark hclean, Bool.false_eq_true, if_false]
  have hlen : ((unpackElems (typeBits t) 64 (readMem s a n)).map (loadLane t)).length = 64 := by simp [unpackElems]
  have h := map_range_getD Prod.fst (0#32, false) ((unpackElems (typeBits t) 64 (readMem s a n)).map (loadLane t))
  rw [hlen, List.map_map] at h
  exact h

section
variable {cl : Fin 32} {o : OpAB} {s : State} {a : Nat} (hra : opRsv o.a 14 = true) (hrb : opRsv o.b 17 = true)
  (hfmt : fmtOk (opField o.a 6 8) = true) (ha : clPlace cl o.b (64 * typeBits (fmtType (opField o.a 6 8)) / 8) = some a)
include hra hrb hfmt ha

theorem runs_vload_of_clean (hready : laneReady s (vecLane cl) 0x20 o 1 = true)
    (hclean : anyMark s a (64 * typeBits (fmtType (opField o.a 6 8)) / 8) = false) :
    Runs (.vload cl o) s (Lands (vecLane cl) 1 1 [.vreg cl (opField o.a 0 6)
      ((unpackElems (typeBits (fmtType (opField o.a 6 8))) 64 (readMem s a (64 * typeBits (fmtType (opField o.a 6 8)) / 8))).map
        fun c => (loadLane (fmtType (opField o.a 6 8)) c).1)] s) := by
  have hexec : exec (.vload cl o) s = execVload cl o s := rfl
  unfold execVload at hexec
  dsimp only at hexec
  rw [laneChecked_runs (by simp [hra, hrb, hfmt]) hready, ha, withAddr] at hexec
  rw [loadedLanes_of_clean (s := ran s (vecLane cl) 1) _ _ hclean, anyMark_later, anyMark_ran, hclean] at hexec
  exact .lands_one_conv hexec

/-- VSTORE takes its unit, and sends the codes of its lanes as `storeElems` gives them. -/
theorem exec_vstore (hready : laneReady s (vecLane cl) 0x21 o 1 = true) :
    let x := storeElems (opField o.a 6 8) a (getVreg s cl (opField o.a 0 6)) (ran s (vecLane cl) 1)
    exec (.vstore cl o) s = .next (countConv (later x.2 1 (cleanMem a (packElems (typeBits (fmtType (opField o.a 6 8))) (x.1.map Conv.code))))
      (vecLane cl) (convCounts x.1).1 (convCounts x.1).2) := by
  have hexec : exec (.vstore cl o) s = execVstore cl o s := rfl
  unfold execVstore at hexec
  dsimp only at hexec
  rwa [laneChecked_runs (by simp [hra, hrb, hfmt]) hready, ha, withAddr] at hexec

end

section
variable {s : State} {a : Nat}

/-- The elements of a VSTORE where its place is no gradient tile of E5M2. -/
theorem storeElems_of_plain {fmt : Nat} (vs : List W32) (h : fmtType fmt ≠ 5 ∨ gradTile s a = none) :
    storeElems fmt a vs s = (vs.map (storeLane fmt), s) := by
  have hnone : (if fmtType fmt = 5 then gradTile s a else none) = none := by
    split
    · exact h.resolve_left (not_not_intro ‹_›)
    · rfl
  rw [storeElems, hnone]

theorem storeElems_of_gradTile {fmt k : Nat} (vs : List W32) (ht : fmtType fmt = 5) (hk : gradTile s a = some k) :
    let g := tileScale s k
    let cs := vs.map (scaledE5M2 (fmtOvf fmt) g.exp)
    storeElems fmt a vs s = (cs, { s with mem := { s.mem with grads := cset {} s.mem.grads k (sawGrads g vs cs) } }) := by
  rw [storeElems, if_pos ht, hk]

end

/-- Settles O13: VLOAD of granules without marks, VSTORE of plain elements, and VSTORE into a gradient tile. -/
theorem vectorLoadsAndStores : Obligations.VectorLoadsAndStores := by
  intro cl o s a fmt t n vs hra hrb hfmt ha
  refine ⟨fun hready hclean => runs_vload_of_clean hra hrb hfmt ha hready hclean, fun hready hplain => ?_, fun k hready ht hk => ?_⟩
  · have hexec := exec_vstore hra hrb hfmt ha hready
    rw [storeElems_of_plain (s := ran s (vecLane cl) 1) _ hplain] at hexec
    simp only [List.map_map] at hexec
    exact .lands_one_conv hexec
  · refine .of_exec (exec_vstore hra hrb hfmt ha hready) ?_
    rw [storeElems_of_gradTile (s := ran s (vecLane cl) 1) _ ht hk]
    have ht8 : typeBits (fmtType (opField o.a 6 8)) = 8 := by rw [show fmtType (opField o.a 6 8) = 5 from ht]; rfl
    rw [ht8]
    intro g cs
    let s' : State := { s with mem := { s.mem with grads := cset {} s.mem.grads k (sawGrads g vs cs) } }
    obtain ⟨hworks, hsends, honly⟩ := (Lands.one s' (vecLane cl) 1 1 (cleanMem a (packElems 8 (cs.map Conv.code)))).countConv (vecLane cl)
      (convCounts cs).1 (convCounts cs).2
    exact ⟨hworks, hsends, honly⟩

end Sys2Proof.Machine
end

section
/-!
SUPPORT. What a fault record and a poison finding leave (R252, R391), and the MAC arrays (R57 to R65).
-/
namespace Sys2Proof.Machine

/-! ### Fault records and poison findings -/

theorem logFaultFor_log {s : State} {subject : Nat} {f : FaultInfo} (h : s.dump.log.length < 4096) :
    (logFaultFor s subject f).dump.log = logWith s.dump.log (faultBytes s f) := by
  unfold logFaultFor
  rw [if_pos h]
  extract_lets _ s1 s2
  have hposted : s2.dump = s1.dump := by
    simp only [s2, apply_ite State.dump, postEvent_dump, ite_self]
  split
  · rw [hposted]
  · rw [apply_ite State.dump, orrSend_dump, ite_self, hposted]

theorem logFault_log {s : State} {f : FaultInfo} (h : s.dump.log.length < 4096) :
    (logFault s f).dump.log = logWith s.dump.log (faultBytes s f) := logFaultFor_log h

section
variable (s : State) (k a : Nat) (bs : Bytes)

@[simp] theorem writeIn_units : (writeIn s k a bs).units = s.units := by unfold writeIn; split <;> simp
@[simp] theorem writeIn_recs : (writeIn s k a bs).recs = s.recs := by unfold writeIn; split <;> simp

end

section
variable (s : State) (obj tile lane k : Nat)

@[simp] theorem poisonTile_units : (poisonTile s obj tile lane k).units = s.units := by
  unfold poisonTile
  simp only [addItem_units, logFault_units]
  split
  · rfl
  · split
    · rfl
    · simp only [apply_ite State.units, writeIn_units, ite_self]

@[simp] theorem poisonTile_recs : (poisonTile s obj tile lane k).recs = s.recs := by
  unfold poisonTile
  simp only [addItem_recs, logFault_recs]
  split
  · rfl
  · split
    · rfl
    · simp only [apply_ite State.recs, writeIn_recs, ite_self]

@[simp] theorem poisonFinding_units : (poisonFinding s obj tile lane k).units = s.units := poisonTile_units ..

theorem poisonFinding_findings : (poisonFinding s obj tile lane k).recs.findings = s.recs.findings ++ [(obj, tile)] := by
  simp only [poisonFinding, poisonTile_recs]

end

/-- An operand of 0 has no Reserved bit set. -/
@[simp] theorem opRsv_zero (lo : Nat) : opRsv 0#32 lo = true := by simp [opRsv]

/-! ### MLOAD -/

/-- What MLOAD leaves in a weight register: the elements, the FORMAT and the marks for a mismatch and for poison. -/
def weightsLoaded (s : State) (u : MacUnit) (a fmt reg bad : Nat) : State :=
  { s with units := { s.units with
      weight := csetN 0 s.units.weight (wElem u reg 0) (unpackElems (fmtBits fmt) 1024 (readMem s (a + 32) (payloadBytes fmt false)))
      wfmt := cset 0 s.units.wfmt (wReg u reg) fmt
      wbad := cset 0 s.units.wbad (wReg u reg) bad } }

/-- The fault event of a tile whose header carries another FORMAT (R65). -/
def formatFault (s : State) (lane : Nat) (hdr : Bytes) : FaultInfo :=
  ⟨0x21, true, laneDomain lane, laneUnit s lane, 0xFFFF, fld hdr 12 0 32, fld hdr 16 0 32, false, false⟩

section
variable {s : State} {u : MacUnit} {a fmt reg : Nat}

theorem loadWeights_of_mismatch (h : fld (readMem s a 32) 0 0 8 ≠ fmt) :
    loadWeights s u a fmt reg = countArith (logFault (weightsLoaded s u a fmt reg 1) (formatFault s (macLane u) (readMem s a 32))) (macLane u) 4 1 := by
  have hmis : (fld (readMem s a 32) 0 0 8 != fmt || fld (readMem s a 32) 0 8 1 != 0) = true := by simp [h]
  have hbad : b2n true + 2 * b2n false = 1 := rfl
  simp only [loadWeights, hmis, hbad, Bool.not_true, Bool.false_and, Bool.false_eq_true, if_false, if_true, weightsLoaded, formatFault, laneUnit]

theorem loadWeights_of_format (hfmt : fld (readMem s a 32) 0 0 8 = fmt) (hraw : fld (readMem s a 32) 0 8 1 = 0) :
    loadWeights s u a fmt reg = if tileSound s a (a + 32) (payloadBytes fmt false) then weightsLoaded s u a fmt reg 0
      else poisonFinding (weightsLoaded s u a fmt reg 2) (fld (readMem s a 32) 12 0 32) (fld (readMem s a 32) 16 0 32) (macLane u) 1 := by
  have hmis : (fld (readMem s a 32) 0 0 8 != fmt || fld (readMem s a 32) 0 8 1 != 0) = false := by simp [hfmt, hraw]
  have hbad : b2n false + 2 * b2n false = 0 ∧ b2n false + 2 * b2n true = 2 := ⟨rfl, rfl⟩
  cases hsound : tileSound s a (a + 32) (payloadBytes fmt false) <;>
    simp only [loadWeights, hmis, hsound, hbad.1, hbad.2, Bool.not_false, Bool.not_true, Bool.true_and, Bool.false_eq_true, if_false, if_true,
      weightsLoaded]

/-- MLOAD takes its unit and loads the register. -/
theorem exec_mload {o : OpAB} (hready : laneReady s (macLane u) 0x10 o 1 = true) (hra : opRsv o.a 17 = true) (hrb : opRsv o.b 9 = true)
    (hfmt : fmtOk (opField o.b 0 8) = true) (ha : clPlace u.cl o.a (32 + payloadBytes (opField o.b 0 8) false) = some a) :
    exec (.mload u o) s = .next (loadWeights (ran s (macLane u) 1) u a (opField o.b 0 8) (opField o.b 8 1)) := by
  have hexec : exec (.mload u o) s = execMload u o s := rfl
  unfold execMload at hexec
  dsimp only at hexec
  rwa [laneChecked_runs (by simp [hra, hrb, hfmt]) hready, ha, withAddr] at hexec

end

/-- Settles O14: with the header's FORMAT and a sound tile, only the register is written. -/
theorem mloadFillsWeightRegister : Obligations.MloadFillsWeightRegister := by
  intro u o s a fmt reg n hready hra hrb hok ha hfmt hraw hsound
  have hexec := exec_mload hready hra hrb hok ha
  rw [loadWeights_of_format (s := ran s (macLane u) 1) hfmt hraw,
    if_pos (show tileSound (ran s (macLane u) 1) a (a + 32) (payloadBytes (opField o.b 0 8) false) = true from hsound)] at hexec
  exact .of_exec hexec ⟨rfl, rfl⟩

/-- Settles O15: the two findings of MLOAD, and the fault record of the first. -/
theorem mloadReportsBadTiles : Obligations.MloadReportsBadTiles := by
  intro u o s a fmt reg n hdr hready hra hrb hok ha
  refine ⟨fun hmis hroom => .of_exec (exec_mload hready hra hrb hok ha) ?_, fun hfmt hraw hbad => .of_exec (exec_mload hready hra hrb hok ha) ?_⟩
  · rw [loadWeights_of_mismatch (s := ran s (macLane u) 1) hmis]
    refine ⟨?_, ?_, ?_⟩
    · rw [countArith_units, logFault_units]
      rfl
    · rw [countArith_recs, logFault_recs]
      rfl
    · rw [countArith_dump, logFault_log (s := weightsLoaded (ran s (macLane u) 1) u a fmt reg 1) hroom]
      rfl
  · have hbad' : ¬ tileSound (ran s (macLane u) 1) a (a + 32) (payloadBytes (opField o.b 0 8) false) = true := Bool.eq_false_iff.1 hbad
    rw [loadWeights_of_format (s := ran s (macLane u) 1) hfmt hraw, if_neg hbad']
    exact ⟨by rw [poisonFinding_units]; rfl, poisonFinding_findings ..⟩

/-! ### MMAC -/

theorem opField_lt (x : W32) (lo len : Nat) : opField x lo len < 2 ^ len := Nat.mod_lt _ (Nat.two_pow_pos len)

/-- The rows of a pair lie in W0 and W1. -/
theorem reg_lt_of_mem_pairRows {ta t0 t1 reg j : Nat} {rows : List (Nat × Nat)} (hreg : reg < 2) (h : pairRows ta t0 t1 reg j = some rows)
    {p : Nat × Nat} (hp : p ∈ rows) : p.1 < 2 := by
  simp only [pairRows] at h
  generalize (if reg = 0 then t0 else t1) = tw at h
  have hrows : ∀ r a n : Nat, r < 2 → p ∈ (List.range n).map (fun i => (r, a + i)) → p.1 < 2 := by
    intro r a n hr hmem
    obtain ⟨i, -, rfl⟩ := List.mem_map.1 hmem
    exact hr
  split at h
  · split at h
    · cases h
    · split at h
      · split at h
        · cases h
          obtain hlow | hhigh := List.mem_append.1 hp
          · exact hrows 0 0 16 Nat.zero_lt_two hlow
          · exact hrows 1 0 16 Nat.one_lt_two hhigh
        · cases h
      · cases h
        exact hrows reg 0 16 hreg hp
  · split at h
    · split at h
      · split at h
        · cases h
          exact hrows reg j 1 hreg hp
        · cases h
      · split at h
        · split at h
          · cases h
            exact hrows reg (4 * j) 4 hreg hp
          · cases h
        · split at h
          · cases h
            exact hrows reg 0 16 hreg hp
          · cases h
    · cases h

section
variable {s : State} {u : MacUnit}

/-- Registers that no MLOAD marked give no mark to a step. -/
theorem foldl_wbad_of_sound {regs : List Nat} (h : ∀ r ∈ regs, cget 0 s.units.wbad (wReg u r) = 0) :
    regs.foldl (fun n r => n ||| cget 0 s.units.wbad (wReg u r)) 0 = 0 := by
  induction regs with
  | nil => rfl
  | cons r rs ih =>
    rw [List.foldl_cons, h r List.mem_cons_self]
    exact ih fun q hq => h q (List.mem_cons_of_mem _ hq)

/-- CLEAR leaves everything but the accumulators, sums and flags of the array. -/
theorem clearBank_eq (s : State) (u : MacUnit) (bank : Nat) : clearBank s u bank = { s with units := { s.units with
    acc := (clearBank s u bank).units.acc, wsum := (clearBank s u bank).units.wsum, asum := (clearBank s u bank).units.asum
    mflag := (clearBank s u bank).units.mflag, aflag := (clearBank s u bank).units.aflag } } := by
  simp only [clearBank, setCols]

/-- The state in which a step of a bank begins: from 0 with CLEAR (R64). -/
def bankStart (s : State) (u : MacUnit) (bank : Nat) (clear : Bool) : State := if clear then clearBank s u bank else s

theorem bankStart_eq (s : State) (u : MacUnit) (bank : Nat) (clear : Bool) :
    ∃ acc wsum asum mflag aflag, bankStart s u bank clear =
      { s with units := { s.units with acc := acc, wsum := wsum, asum := asum, mflag := mflag, aflag := aflag } } := by
  cases clear with
  | false => exact ⟨_, _, _, _, _, rfl⟩
  | true => exact ⟨_, _, _, _, _, clearBank_eq s u bank⟩

/-- A step on sound weights, column by column. -/
def soundColumns (s : State) (u : MacUnit) (a ta : Nat) (rows : List (Nat × Nat)) (old : Nat → Col) : List Col :=
  let acts := unpackElems (typeBits ta) rows.length (readMem s a (rows.length * typeBits ta / 8))
  (List.range 64).map fun n =>
    let ws := rows.map fun p => (wType s u p.1, cget 0 s.units.weight (wElem u p.1 (p.2 * 64 + n)))
    if isIntClass ta then intColumn ta acts ws (old n) else floatColumn ta ((ws.map Prod.fst).headD 0) acts (ws.map Prod.snd) (old n)

theorem getD_map_range_64 {α : Type} (f : Nat → α) (d : α) {n : Nat} (h : n < 64) : ((List.range 64).map f).getD n d = f n := by
  simp [List.getD_eq_getElem?_getD, h]

/-- A step on sound weights: the columns, then ASUM, then the counts of the flags that rose. -/
theorem macStep_of_sound {a ta bank : Nat} {rows : List (Nat × Nat)} {clear : Bool}
    (hsound : ∀ p ∈ rows, cget 0 s.units.wbad (wReg u p.1) = 0) :
    let s0 := bankStart s u bank clear
    let cols := soundColumns s u a ta rows (getCol s0 u bank)
    let acts := unpackElems (typeBits ta) rows.length (readMem s a (rows.length * typeBits ta / 8))
    let s1 := setCols s0 u bank cols
    macStep s u a ta rows bank clear = countRisen (if isIntClass ta then addAsum s1 u bank (sumInt (acts.map (codeValue ta))) else s1) u
      ((List.range 64).map (getCol s0 u bank)) cols := by
  intro s0 cols acts s1
  obtain ⟨acc, wsum, asum, mflag, aflag, hs0⟩ := bankStart_eq s u bank clear
  have hmarks : ((rows.map Prod.fst).eraseDups).foldl (fun n r => n ||| cget 0 s0.units.wbad (wReg u r)) 0 = 0 := by
    refine foldl_wbad_of_sound fun r hr => ?_
    obtain ⟨p, hp, rfl⟩ := List.mem_map.1 (List.mem_eraseDups.1 hr)
    simp only [s0, hs0, hsound p hp]
  have hmem : ∀ n, readMem s0 a n = readMem s a n := fun n => by simp only [s0, hs0, readMem, readSram]
  have hcols : cols = (List.range 64).map fun n =>
      let ws := rows.map fun p => (wType s0 u p.1, cget 0 s0.units.weight (wElem u p.1 (p.2 * 64 + n)))
      let c := ((List.range 64).map (getCol s0 u bank)).getD n ⟨0, 0, 0⟩
      if isIntClass ta then intColumn ta acts ws c else floatColumn ta ((ws.map Prod.fst).headD 0) acts (ws.map Prod.snd) c := by
    refine List.map_congr_left fun n hn => ?_
    have hweights : s0.units.weight = s.units.weight ∧ s0.units.wfmt = s.units.wfmt := by simp only [s0, hs0, and_self]
    simp only [getD_map_range_64 (getCol s0 u bank) _ (List.mem_range.1 hn), wType, hweights.1, hweights.2, acts]
  unfold macStep
  simp only [show (if clear = true then clearBank s u bank else s) = s0 from rfl, hmarks, ne_eq, not_true_eq_false, if_false, hmem]
  simp only [hcols, s1, acts]

theorem countArith_eq (s : State) (id c n : Nat) : countArith s id c n = { s with cnt := { s.cnt with inc := (countArith s id c n).cnt.inc } } := by
  unfold countArith
  split <;> rfl

theorem countRisen_eq (s : State) (u : MacUnit) (old new : List Col) :
    ∃ inc, countRisen s u old new = { s with cnt := { s.cnt with inc := inc } } := by
  unfold countRisen
  rw [countArith_eq, countArith_eq s]
  exact ⟨_, rfl⟩

theorem addAsum_eq (s : State) (u : MacUnit) (bank : Nat) (d : Int) : addAsum s u bank d =
    { s with units := { s.units with asum := (addAsum s u bank d).units.asum, aflag := (addAsum s u bank d).units.aflag } } := by
  unfold addAsum
  dsimp only
  split <;> rfl

/-- ASUM after a step depends on ASUM and its flag before alone. -/
theorem addAsum_congr {s t : State} {u : MacUnit} {bank : Nat} (d : Int) (hasum : t.units.asum = s.units.asum) (haflag : t.units.aflag = s.units.aflag) :
    (addAsum t u bank d).units.asum = (addAsum s u bank d).units.asum ∧ (addAsum t u bank d).units.aflag = (addAsum s u bank d).units.aflag := by
  simp only [addAsum, hasum, haflag]
  split
  · exact ⟨hasum, haflag⟩
  · exact ⟨rfl, rfl⟩

/-- ASUM after a step of a bank: an integer step adds its activation codes (R59). -/
def asumStep (s0 : State) (u : MacUnit) (bank ta : Nat) (acts : List Nat) : State :=
  if isIntClass ta then addAsum s0 u bank (sumInt (acts.map (codeValue ta))) else s0

/-- What a step on sound weights leaves: columns, sums and flags of its bank, and counts. -/
theorem macStep_leaves {a ta bank : Nat} {rows : List (Nat × Nat)} {clear : Bool} (hsound : ∀ p ∈ rows, cget 0 s.units.wbad (wReg u p.1) = 0) :
    let s0 := bankStart s u bank clear
    let cols := soundColumns s u a ta rows (getCol s0 u bank)
    let s1 := asumStep s0 u bank ta (unpackElems (typeBits ta) rows.length (readMem s a (rows.length * typeBits ta / 8)))
    ∃ inc, macStep s u a ta rows bank clear = { s with
      cnt := { s.cnt with inc := inc }
      units := { s.units with
        acc := csetN 0 s0.units.acc (accKey u bank 0) (cols.map Col.acc), wsum := csetN 0 s0.units.wsum (accKey u bank 0) (cols.map Col.wsum)
        mflag := csetN 0 s0.units.mflag (accKey u bank 0) (cols.map Col.flag), asum := s1.units.asum, aflag := s1.units.aflag } } := by
  intro s0 cols s1
  obtain ⟨acc, wsum, asum, mflag, aflag, hs0⟩ := bankStart_eq s u bank clear
  obtain ⟨inc, hrisen⟩ := countRisen_eq (if isIntClass ta then addAsum (setCols s0 u bank cols) u bank (sumInt ((unpackElems (typeBits ta) rows.length
    (readMem s a (rows.length * typeBits ta / 8))).map (codeValue ta))) else setCols s0 u bank cols) u ((List.range 64).map (getCol s0 u bank)) cols
  refine ⟨inc, (macStep_of_sound hsound).trans (hrisen.trans ?_)⟩
  simp only [s1, asumStep]
  split
  · obtain ⟨hasum, haflag⟩ := addAsum_congr (s := s0) (t := setCols s0 u bank cols) (u := u) (bank := bank) (sumInt ((unpackElems (typeBits ta) rows.length
      (readMem s a (rows.length * typeBits ta / 8))).map (codeValue ta))) (by simp only [setCols]) (by simp only [setCols])
    rw [addAsum_eq, hasum, haflag]
    simp only [setCols, s0, hs0]
  · simp only [setCols, s0, hs0]

theorem bankStart_ran_units (s : State) (lane n : Nat) (u : MacUnit) (bank : Nat) (clear : Bool) :
    (bankStart (ran s lane n) u bank clear).units = (bankStart s u bank clear).units := by
  cases clear with
  | false => rfl
  | true => simp only [bankStart, if_true, clearBank, setCols, ran_units]

end

theorem macFree_ran (s : State) (lane n : Nat) (u : MacUnit) (bank : Nat) (clear : Bool) :
    macFree (ran s lane n) u bank clear = { macFree s u bank clear with run := (ran s lane n).run, cnt := (ran s lane n).cnt } := by
  cases clear
  · rfl
  · simp only [macFree, if_true, clearBank, setCols, getCol, ran_units, ran_drawn]
    rfl

/-- MMAC takes its unit; the TYPEs in the registers decide between free values and a step. -/
theorem exec_mmac {u : MacUnit} {o : OpAB} {s : State} (hready : laneReady s (macLane u) 0x11 o 1 = true) (hra : opRsv o.a 17 = true)
    (hrb : opRsv o.b 16 = true) (hfmt : fmtOk (opField o.b 0 8) = true) :
    exec (.mmac u o) s = match pairRows (fmtType (opField o.b 0 8)) (wType s u 0) (wType s u 1) (opField o.b 8 1) (opField o.b 12 4) with
      | none => .next (macFree (ran s (macLane u) 1) u (opField o.b 9 2) (bit o.b.toNat 11))
      | some rows => withAddr (clPlace u.cl o.a (rows.length * typeBits (fmtType (opField o.b 0 8)) / 8)) fun a =>
        .next (macStep (ran s (macLane u) 1) u a (fmtType (opField o.b 0 8)) rows (opField o.b 9 2) (bit o.b.toNat 11)) := by
  have hexec : exec (.mmac u o) s = execMmac u o s := rfl
  unfold execMmac at hexec
  dsimp only at hexec
  rwa [laneChecked_runs (by simp [hra, hrb, hfmt]) hready] at hexec

/-- Settles O16: on sound weights the columns and ASUM, on a register without an operand the free values. -/
theorem mmacAccumulates : Obligations.MmacAccumulates := by
  intro u o s ta bank s0 pair hready hra hrb hfmt
  have hexec := exec_mmac hready hra hrb hfmt
  refine ⟨fun rows a hpair ha hsound => ?_, fun hpair => ?_⟩
  · intro acts cols s1
    rw [show pairRows (fmtType (opField o.b 0 8)) (wType s u 0) (wType s u 1) (opField o.b 8 1) (opField o.b 12 4) = some rows from hpair] at hexec
    dsimp only at hexec
    rw [ha, withAddr] at hexec
    obtain ⟨inc, hleaves⟩ := macStep_leaves (s := ran s (macLane u) 1) (u := u) (a := a) (ta := ta) (bank := bank) (clear := bit o.b.toNat 11)
      fun p hp => hsound p.1 (reg_lt_of_mem_pairRows (opField_lt ..) hpair hp)
    have hunits := bankStart_ran_units s (macLane u) 1 u bank (bit o.b.toNat 11)
    have hcol : getCol (bankStart (ran s (macLane u) 1) u bank (bit o.b.toNat 11)) u bank = getCol s0 u bank := by
      funext n
      simp only [getCol, hunits]
      rfl
    obtain ⟨hasum, haflag⟩ : (asumStep (bankStart (ran s (macLane u) 1) u bank (bit o.b.toNat 11)) u bank ta acts).units.asum = s1.units.asum ∧
        (asumStep (bankStart (ran s (macLane u) 1) u bank (bit o.b.toNat 11)) u bank ta acts).units.aflag = s1.units.aflag := by
      simp only [asumStep, s1]
      split
      · exact addAsum_congr _ (congrArg Units.asum hunits) (congrArg Units.aflag hunits)
      · exact ⟨congrArg Units.asum hunits, congrArg Units.aflag hunits⟩
    refine .of_exec (hexec.trans (congrArg _ hleaves)) ⟨rfl, ?_⟩
    dsimp only
    rw [hcol, hunits, show (asumStep (bankStart (ran s (macLane u) 1) u bank (bit o.b.toNat 11)) u bank ta (unpackElems (typeBits ta) rows.length
      (readMem (ran s (macLane u) 1) a (rows.length * typeBits ta / 8)))).units.asum = s1.units.asum from hasum,
      show (asumStep (bankStart (ran s (macLane u) 1) u bank (bit o.b.toNat 11)) u bank ta (unpackElems (typeBits ta) rows.length
      (readMem (ran s (macLane u) 1) a (rows.length * typeBits ta / 8)))).units.aflag = s1.units.aflag from haflag]
    rfl
  · rw [show pairRows (fmtType (opField o.b 0 8)) (wType s u 0) (wType s u 1) (opField o.b 8 1) (opField o.b 12 4) = none from hpair] at hexec
    dsimp only at hexec
    rw [macFree_ran] at hexec
    exact .of_exec hexec ⟨rfl, rfl⟩

/-! ### Flags -/

/-- WSUM goes on without a change of the accumulator or of the flags that MDRAIN shows. -/
theorem addWsum_acc (ws : List (Nat × Nat)) (c : Col) : (addWsum ws c).acc = c.acc := by
  unfold addWsum
  split <;> rfl

theorem bit_setFlag_of_ne {f b k : Nat} (hb : b < k) : bit (setFlag f k) b = bit f b := by
  unfold setFlag
  split
  · rfl
  · obtain ⟨d, rfl⟩ : ∃ d, k = b + 1 + d := ⟨k - (b + 1), by omega⟩
    have hpow : f + 2 ^ (b + 1 + d) = f + 2 ^ b * (2 * 2 ^ d) := by rw [Nat.pow_add, Nat.pow_succ, Nat.mul_assoc]
    simp only [bit, Nat.shiftRight_eq_div_pow, hpow, Nat.add_mul_div_left _ _ (Nat.two_pow_pos b), Nat.add_mul_mod_self_left]

theorem addWsum_bit (ws : List (Nat × Nat)) (c : Col) {b : Nat} (hb : b < 3) : bit (addWsum ws c).flag b = bit c.flag b := by
  unfold addWsum
  split
  · rfl
  · dsimp only
    split
    · exact bit_setFlag_of_ne hb
    · rfl

section
variable {c : Col} (ta tw : Nat) (as : List Nat) (ws : List (Nat × Nat)) (h : accSat c.flag = true ∨ invalid c.flag = true)
include h

/-- A frozen column takes the step of WSUM and nothing else. -/
theorem intColumn_of_frozen : intColumn ta as ws c = addWsum ws c := by
  have hfrozen : (accSat (addWsum ws c).flag || invalid (addWsum ws c).flag) = true := by
    simpa only [accSat, invalid, addWsum_bit ws c (Nat.succ_pos 2), addWsum_bit ws c (by decide : 1 < 3), Bool.or_eq_true] using h
  rw [intColumn, if_pos hfrozen]

theorem floatColumn_of_frozen (ws : List Nat) : floatColumn ta tw as ws c = c := if_pos (by simpa using h)

end

/-- Settles O17: a frozen column keeps its accumulator, and WSUM touches neither flag. -/
theorem accumulatorFlagsAreSticky : Obligations.AccumulatorFlagsAreSticky := by
  intro ta tw as ws c hfrozen
  rw [intColumn_of_frozen ta as ws hfrozen, floatColumn_of_frozen ta tw as hfrozen]
  refine ⟨addWsum_acc ws c, rfl, fun f hf hset => ⟨?_, hset⟩⟩
  obtain rfl | rfl := hf
  · exact (addWsum_bit ws c (by decide)).trans hset
  · exact (addWsum_bit ws c (by decide)).trans hset

/-! ### MDRAIN -/

/-- Settles O19: the lanes of the bank, with the tags of its INVALID columns, are on the way to the register. -/
theorem mdrainCopiesBank : Obligations.MdrainCopiesBank := by
  intro u o s hready hra hb bank src
  have hexec : exec (.mdrain u o) s = execMdrain u o s := rfl
  unfold execMdrain at hexec
  rw [laneChecked_runs (by simp [hra, hb]) hready] at hexec
  refine .of_exec hexec ⟨Lands.one s .., fun hsrc => ?_⟩
  simp only [drainLanes, hsrc, if_true]

end Sys2Proof.Machine
end

section
/-!
SUPPORT. The node's own memory, all but host memory: operations that talk to the hosts (interrupts, events, responses, fault records, changes of
the node state) leave it.
-/
namespace Sys2Proof.Machine

/-- The node's memory without what the hosts hold. -/
def State.ownMem (s : State) : Memory := { s.mem with host := [] }

section
variable {s t : State} (h : t.ownMem = s.ownMem)
include h

theorem bytes_of_ownMem : t.mem.bytes = s.mem.bytes := by simpa only [State.ownMem] using congrArg Memory.bytes h
theorem sram_of_ownMem : t.mem.sram = s.mem.sram := by simpa only [State.ownMem] using congrArg Memory.sram h
theorem poison_of_ownMem : t.mem.poison = s.mem.poison := by simpa only [State.ownMem] using congrArg Memory.poison h
theorem objs_of_ownMem : t.mem.objs = s.mem.objs := by simpa only [State.ownMem] using congrArg Memory.objs h

end

theorem ownMem_of_mem {s t : State} (h : t.mem = s.mem) : t.ownMem = s.ownMem := by rw [State.ownMem, h, State.ownMem]

section
variable (s : State)

@[simp] theorem sendVector_ownMem (p v : Nat) : (sendVector s p v).ownMem = s.ownMem := rfl

@[simp] theorem raise_ownMem (p v : Nat) : (raise s p v).ownMem = s.ownMem := by
  unfold raise
  split
  · rfl
  · split
    · rfl
    · exact sendVector_ownMem s p v

@[simp] theorem raiseEvents_ownMem : (raiseEvents s).ownMem = s.ownMem :=
  foldl_keeps State.ownMem _ (fun s k => raise_ownMem s (k / 16) (32 + k % 16)) _ _

@[simp] theorem pushEvent_ownMem (p slice : Nat) (e : Bytes) : (pushEvent s p slice e).ownMem = s.ownMem := by
  unfold pushEvent
  simp only [apply_ite State.ownMem, raise_ownMem]
  simp only [State.ownMem, ite_self]

@[simp] theorem postEvent_ownMem (slice code argLo arg : Nat) : (postEvent s slice code argLo arg).ownMem = s.ownMem := by
  refine foldl_keeps State.ownMem _ (fun s p => ?_) _ _
  split
  · exact pushEvent_ownMem ..
  · rfl

@[simp] theorem postTargeted_ownMem (m code argLo arg : Nat) : (postTargeted s m code argLo arg).ownMem = s.ownMem := pushEvent_ownMem ..

@[simp] theorem postAll_ownMem (code argLo arg : Nat) : (postAll s code argLo arg).ownMem = s.ownMem :=
  foldl_keeps State.ownMem _ (fun s i => postEvent_ownMem s i code argLo arg) _ _

@[simp] theorem enterState_ownMem (st : Nat) : (enterState s st).ownMem = s.ownMem := by
  unfold enterState
  split
  · rfl
  · simp only [raise_ownMem, postAll_ownMem]
    rfl

@[simp] theorem logFaultFor_ownMem (subject : Nat) (f : FaultInfo) : (logFaultFor s subject f).ownMem = s.ownMem := by
  unfold logFaultFor
  extract_lets _ s1 s2
  have h1 : s1.ownMem = s.ownMem := by
    simp only [s1]
    split <;> rfl
  have h2 : s2.ownMem = s.ownMem := by
    simp only [s2, apply_ite State.ownMem, postEvent_ownMem, ite_self, h1]
  split
  · exact h2
  · split
    · exact (ownMem_of_mem (orrSend_mem ..)).trans h2
    · exact h2

@[simp] theorem logFault_ownMem (f : FaultInfo) : (logFault s f).ownMem = s.ownMem := logFaultFor_ownMem ..

@[simp] theorem respond_ownMem (m seq status : Nat) (block resp : Bytes) : (respond s m seq status block resp).ownMem = s.ownMem := by
  unfold respond
  simp only [raise_ownMem]
  rfl

@[simp] theorem answer_ownMem (m code reqId seq : Nat) (r : Reply) : (answer s m code reqId seq r).ownMem = s.ownMem := by
  unfold answer
  dsimp only
  split <;> exact respond_ownMem ..

@[simp] theorem finish_ownMem (m : Nat) (r : Reply) : (finish s m r).ownMem = s.ownMem := by
  unfold finish
  split
  · rfl
  · split
    · rfl
    · exact answer_ownMem ..

@[simp] theorem abort_ownMem (p : InProg) : (abort s p).ownMem = s.ownMem := by
  unfold abort
  dsimp only
  rw [finish_ownMem]
  split
  · split <;> split
    · split <;> rfl
    · rfl
    · split <;> rfl
    · rfl
  · split
    · split <;> rfl
    · rfl

@[simp] theorem abortIllegal_ownMem : (abortIllegal s).ownMem = s.ownMem := by
  refine foldl_keeps State.ownMem _ (fun s p => ?_) _ _
  split
  · rfl
  · exact abort_ownMem ..

@[simp] theorem moveTo_ownMem (st : Nat) : (moveTo s st).ownMem = s.ownMem := by
  unfold moveTo
  split
  · rfl
  · exact (abortIllegal_ownMem _).trans (enterState_ownMem ..)

@[simp] theorem finishTrans_ownMem (r : Reply) : (finishTrans s r).ownMem = s.ownMem := by
  unfold finishTrans
  split
  · rfl
  · exact finish_ownMem ..

@[simp] theorem hostWrite_ownMem (p a : Nat) (bs : Bytes) : (hostWrite s p a bs).ownMem = s.ownMem := rfl

end

/-! ### The node state -/

/-- The node enters the state it is told to. -/
@[simp] theorem enterState_state (s : State) (st : Nat) : (enterState s st).node.state = st := by
  unfold enterState
  split
  · assumption
  · simp only [raise_node, postAll_node]

@[simp] theorem moveTo_state (s : State) (st : Nat) : (moveTo s st).node.state = st := by
  unfold moveTo
  split
  · assumption
  · rw [abortIllegal_node, enterState_state]

end Sys2Proof.Machine
end

section
/-!
SUPPORT. The opcodes of the select units (R156 to R164), each by what it answers once its unit is taken.
-/
namespace Sys2Proof.Machine

section
variable {cl : Fin 32} {o : OpAB} {s : State} {steps : Nat}

/-! ### SOPEN -/

/-- The unit that SOPEN leaves, with K and BAD_K. -/
def openedUnit (o : OpAB) (k : Nat) (bad : Bool) : Sel :=
  { isOpen := true, kmax := opField o.a 0 11, k := k, maxOrder := bit o.a.toNat 11, dedup := bit o.a.toNat 12, badK := bad }

section
variable (hready : laneReady s (selLane cl) 0x10 o 1 = true) (hra : opRsv o.a 14 = true) (hlo : 1 ≤ opField o.a 0 11) (hhi : opField o.a 0 11 ≤ 1024)
include hready hra hlo hhi

theorem exec_sopen_of_record (hind : bit o.a.toNat 13 = false) (hb : o.b = 0#32) :
    exec (.sopen cl o) s = .next (setSel (ran s (selLane cl) 1) cl (openedUnit o (opField o.a 0 11) false)) := by
  have hexec : exec (.sopen cl o) s = execSopen cl o s := rfl
  unfold execSopen at hexec
  dsimp only at hexec
  rwa [laneChecked_runs (by simp [hra, hlo, hhi, hind, hb]) hready, if_neg (by simp [hind])] at hexec

theorem exec_sopen_of_word (hind : bit o.a.toNat 13 = true) (hrb : opRsv o.b 17 = true) {a : Nat} (ha : clPlace cl o.b 2 = some a) :
    exec (.sopen cl o) s = .next (setSel (ran s (selLane cl) 1) cl (if readNat s a 2 = 0 ∨ readNat s a 2 > opField o.a 0 11
      then openedUnit o (opField o.a 0 11) true else openedUnit o (readNat s a 2) false)) := by
  have hexec : exec (.sopen cl o) s = execSopen cl o s := rfl
  unfold execSopen at hexec
  dsimp only at hexec
  rw [laneChecked_runs (by simp [hra, hlo, hhi, hind, hrb]) hready, if_pos hind, ha, withAddr,
    show readNat (ran s (selLane cl) 1) a 2 = readNat s a 2 from rfl] at hexec
  rw [hexec]
  split <;> rfl

end

end

/-- Settles O20: the two forms of K. -/
theorem sopenOpensSelection : Obligations.SopenOpensSelection := by
  intro cl o s kmax unit opens hready hra hlo hhi
  refine ⟨fun hind hb => .of_exec (exec_sopen_of_record hready hra hlo hhi hind hb) ⟨rfl, rfl⟩, fun hind hrb a ha => ⟨fun hbad => ?_, fun h1 hk => ?_⟩⟩
  · have hexec := exec_sopen_of_word hready hra hlo hhi hind hrb ha
    rw [if_pos hbad] at hexec
    exact .of_exec hexec ⟨rfl, rfl⟩
  · have hexec := exec_sopen_of_word hready hra hlo hhi hind hrb ha
    rw [if_neg (by omega)] at hexec
    exact .of_exec hexec ⟨rfl, rfl⟩

/-! ### Feeds -/

theorem offerOne_units (cl : Nat) (child : Bool) (s : State) (e : SelEntry) :
    (offerOne cl child s e).units = { s.units with select := cset {} s.units.select cl ((getSel s cl).feed child e) } := by
  unfold offerOne
  simp only [apply_ite State.units, logFault_units, countArith_units, ite_self]
  rfl

/-- Entries offered one after another: the unit takes them in order. -/
theorem foldl_offerOne_units (cl : Nat) (child : Bool) (es : List SelEntry) (s : State) :
    (es.foldl (offerOne cl child) s).units =
      { s.units with select := es.foldl (fun m e => cset {} m cl ((cget {} m cl).feed child e)) s.units.select } := by
  induction es generalizing s with
  | nil => rfl
  | cons e es ih =>
    rw [List.foldl_cons, ih, offerOne_units]
    rfl

/-- What a feed may change besides the select units: counters, the fault log and what tells of it. -/
structure LeavesMemory (s t : State) : Prop where
  ownMem : t.ownMem = s.ownMem
  node : t.node = s.node
  recs : t.recs = s.recs
  run : t.run = s.run

theorem LeavesMemory.trans {s t u : State} (h : LeavesMemory s t) (k : LeavesMemory t u) : LeavesMemory s u :=
  ⟨k.ownMem.trans h.ownMem, k.node.trans h.node, k.recs.trans h.recs, k.run.trans h.run⟩

theorem countArith_ownMem (s : State) (id c n : Nat) : (countArith s id c n).ownMem = s.ownMem := ownMem_of_mem (countArith_mem ..)

theorem offerOne_leaves (cl : Nat) (child : Bool) (s : State) (e : SelEntry) : LeavesMemory s (offerOne cl child s e) := by
  unfold offerOne
  constructor
  · simp only [apply_ite State.ownMem, logFault_ownMem, countArith_ownMem, ite_self]
    rfl
  · simp only [apply_ite State.node, logFault_node, countArith_node, ite_self]
    rfl
  · simp only [apply_ite State.recs, logFault_recs, countArith_recs, ite_self]
    rfl
  · simp only [apply_ite State.run, logFault_run, countArith_run, ite_self]
    rfl

theorem foldl_offerOne_leaves (cl : Nat) (child : Bool) (es : List SelEntry) (s : State) : LeavesMemory s (es.foldl (offerOne cl child) s) := by
  induction es generalizing s with
  | nil => exact ⟨rfl, rfl, rfl, rfl⟩
  | cons e es ih => exact (offerOne_leaves ..).trans (ih _)

theorem offer_leaves (s : State) (cl : Nat) (child : Bool) (es : List SelEntry) : LeavesMemory s (offer s cl child es) := by
  unfold offer
  split
  · exact foldl_offerOne_leaves ..
  · exact ⟨rfl, rfl, rfl, rfl⟩

/-- An open unit takes the entries in order; a closed one discards them. -/
theorem offer_units (s : State) (cl : Nat) (child : Bool) (es : List SelEntry) : (offer s cl child es).units = { s.units with
    select := if (getSel s cl).isOpen then es.foldl (fun m e => cset {} m cl ((cget {} m cl).feed child e)) s.units.select else s.units.select } := by
  unfold offer
  split
  · exact foldl_offerOne_units ..
  · rfl

section
variable {cl : Fin 32} {o : OpAB} {s : State} {a : Nat}

theorem exec_sfeed (hready : laneReady s (selLane cl) 0x11 o 1 = true) (hra : opRsv o.a 17 = true) (hrb : opRsv o.b 1 = true)
    (ha : clPlace cl o.a 32 = some a) :
    exec (.sfeed cl o) s = .next (offer (ran s (selLane cl) 1) cl (bit o.b.toNat 0) (entriesOf (readMem s a 32) 2)) := by
  have hexec : exec (.sfeed cl o) s = execSfeed cl o s := rfl
  unfold execSfeed at hexec
  rwa [laneChecked_runs (by simp [hra, hrb]) hready, ha, withAddr] at hexec

theorem exec_schain (hready : laneReady s (selLane cl) 0x12 o 1 = true) (hra : opRsv o.a 19 = true) (hb : o.b = 0#32)
    (ha : place false 0 (opField o.a 0 19) 1 = some a) :
    exec (.schain cl o) s = match (unfinishedResults s).find? fun r => decide (r ≤ opField o.a 0 19) && decide (opField o.a 0 19 < r + 8) with
      | some r => .next { ran s (selLane cl) 1 with units := { s.units with dropped := s.units.dropped.filter (· != r) ++ [r] } }
      | none => .next (offer (ran s (selLane cl) 1) cl false (chainEntries (readMem s a 32))) := by
  have hexec : exec (.schain cl o) s = execSchain cl o s := rfl
  unfold execSchain at hexec
  dsimp only at hexec
  rwa [laneChecked_runs (by simp [hra, hb]) hready, ha, withAddr] at hexec

theorem exec_ssumin (hready : laneReady s (selLane cl) 0x13 o 1 = true) (hra : opRsv o.a 17 = true) (hb : o.b = 0#32)
    (ha : clPlace cl o.a 128 = some a) :
    exec (.ssumin cl o) s = .next (if (getSel s cl).isOpen then setSel (ran s (selLane cl) 1) cl ((getSel s cl).addChild (readMem s a 128))
      else countSeen (ran s (selLane cl) 1) 0 (selLane cl)) := by
  have hexec : exec (.ssumin cl o) s = execSsumin cl o s := rfl
  unfold execSsumin at hexec
  dsimp only at hexec
  rwa [laneChecked_runs (by simp [hra, hb]) hready, ha, withAddr] at hexec

/-- A command that offers entries to the unit it has taken. -/
theorem runs_offer {i : Instr} {child : Bool} {es : List SelEntry} (hexec : exec i s = .next (offer (ran s (selLane cl) 1) cl child es)) :
    Runs i s fun t =>
      (t.units = let fed := es.foldl (fun m e => cset {} m cl ((cget {} m cl).feed child e)) s.units.select
        { s.units with select := if (getSel s cl).isOpen then fed else s.units.select }) ∧
      t.mem.bytes = s.mem.bytes ∧ t.mem.sram = s.mem.sram ∧ t.mem.poison = s.mem.poison ∧ t.node = s.node ∧ t.recs = s.recs ∧
      Works (selLane cl) 1 s t := by
  obtain ⟨hmem, hnode, hrecs, hrun⟩ := offer_leaves (ran s (selLane cl) 1) cl child es
  exact .of_exec hexec ⟨offer_units .., bytes_of_ownMem hmem, sram_of_ownMem hmem, poison_of_ownMem hmem, hnode, hrecs, congrArg Run.busy hrun⟩

end

/-- Settles O21: the three feeds, and the chain word of an unfinished scan. -/
theorem selectUnitsTakeEntries : Obligations.SelectUnitsTakeEntries := by
  intro cl o s a u takes fed
  refine ⟨fun hready hra hrb ha => runs_offer (exec_sfeed hready hra hrb ha), fun hready hra hb ha => ?_, fun hready hra hb ha => ?_⟩
  · have hexec := exec_schain hready hra hb ha
    refine ⟨fun hnone => ?_, fun r hsome => ?_⟩
    · rw [hnone] at hexec
      exact runs_offer hexec
    · rw [hsome] at hexec
      exact .of_exec hexec ⟨rfl, rfl⟩
  · refine .of_exec (exec_ssumin hready hra hb ha) ?_
    cases hopen : (getSel s cl).isOpen
    · simp only [Bool.false_eq_true, if_false, u]
      exact ⟨rfl, rfl, rfl, rfl, rfl, rfl, rfl⟩
    · simp only [if_true, u]
      exact ⟨rfl, rfl, rfl, rfl, rfl, rfl, rfl⟩

/-! ### SEMIT and SSAVE -/

section
variable {cl : Fin 32} {o : OpAB} {s : State} {a b steps : Nat} (hra : opRsv o.a 17 = true)
include hra

theorem exec_semit_of_open (hready : laneReady s (selLane cl) 0x14 o steps = true) (hrb : opRsv o.b 17 = true)
    (hopen : (getSel s cl).isOpen = true) (hsteps : selSteps (getSel s cl).kmax ≤ steps)
    (ha : clPlace cl o.a (16 * (getSel s cl).k) = some a) (hb : clPlace cl o.b 128 = some b) :
    exec (.semit cl o steps) s = .next (countArith (later (later (ran s (selLane cl) steps) steps (cleanMem a (getSel s cl).emitted)) steps
      (cleanMem b (getSel s cl).summary)) (selLane cl) 0 (b2n (getSel s cl).sums.1.2 + b2n (getSel s cl).sums.2.2)) := by
  have hexec : exec (.semit cl o steps) s = execSemit cl o steps s := rfl
  unfold execSemit at hexec
  dsimp only at hexec
  rwa [laneChecked_runs (by simp [hra, hrb, hsteps]) hready, if_neg (by simp [hopen]), ha, withAddr, hb, withAddr] at hexec

theorem exec_semit_of_closed (hready : laneReady s (selLane cl) 0x14 o steps = true) (hrb : opRsv o.b 17 = true)
    (hclosed : (getSel s cl).isOpen = false) : exec (.semit cl o steps) s = .next (ran s (selLane cl) steps) := by
  have hexec : exec (.semit cl o steps) s = execSemit cl o steps s := rfl
  unfold execSemit at hexec
  dsimp only at hexec
  rwa [laneChecked_runs (by simp [hra, hrb, hclosed]) hready, if_pos (by simp [hclosed])] at hexec

theorem exec_ssave_of_open (hready : laneReady s (selLane cl) 0x15 o steps = true) (hb : o.b = 0#32)
    (hopen : (getSel s cl).isOpen = true) (hsteps : selSteps (getSel s cl).kmax ≤ steps)
    (ha : clPlace cl o.a (getSel s cl).image.length = some a) :
    exec (.ssave cl o steps) s = .next { later (ran s (selLane cl) steps) steps (cleanMem a (getSel s cl).image) with
      units := { s.units with images := s.units.images.filter (fun p => p.1 != a) ++ [(a, (getSel s cl).image, getSel s cl)] } } := by
  have hexec : exec (.ssave cl o steps) s = execSsave cl o steps s := rfl
  unfold execSsave at hexec
  dsimp only at hexec
  rwa [laneChecked_runs (by simp [hra, hb, hsteps]) hready, if_neg (by simp [hopen]), ha, withAddr] at hexec

theorem exec_ssave_of_closed (hready : laneReady s (selLane cl) 0x15 o steps = true) (hb : o.b = 0#32)
    (hclosed : (getSel s cl).isOpen = false) : exec (.ssave cl o steps) s = .next (ran s (selLane cl) steps) := by
  have hexec : exec (.ssave cl o steps) s = execSsave cl o steps s := rfl
  unfold execSsave at hexec
  dsimp only at hexec
  rwa [laneChecked_runs (by simp [hra, hb, hclosed]) hready, if_pos (by simp [hclosed])] at hexec

end

/-- Settles O25: an open unit's blocks are on the way, a closed one's commands only take their steps. -/
theorem selectionsAreWritten : Obligations.SelectionsAreWritten := by
  intro cl o steps s u emits saves hra
  refine ⟨fun hopen hsteps => ⟨fun hready hrb a b ha hb => ?_, fun hready hb a ha => ?_⟩, fun hclosed => ⟨fun hready hrb => ?_, fun hready hb => ?_⟩⟩
  · exact .of_exec (exec_semit_of_open hra hready hrb hopen hsteps ha hb) (((Lands.one s ..).later rfl _).countArith ..)
  · exact .of_exec (exec_ssave_of_open hra hready hb hopen hsteps ha) ⟨rfl, rfl, rfl, rfl⟩
  · exact .of_exec (exec_semit_of_closed hra hready hrb hclosed) (Lands.ran ..)
  · exact .of_exec (exec_ssave_of_closed hra hready hb hclosed) (Lands.ran ..)

/-! ### SRESTORE -/

/-- Of the images that read alike, the one saved at the address. -/
theorem imageAt_of_find {s : State} {a : Nat} {p : Nat × Bytes × Sel}
    (h : (s.units.images.find? fun p => p.1 == a && readMem s a p.2.1.length == p.2.1) = some p) : imageAt s a = some p.2.2 := by
  have hfind : (s.units.images.filter fun p => readMem s a p.2.1.length == p.2.1).find? (fun p => p.1 == a) = some p := by
    rw [List.find?_filter, ← h]
    refine congrArg (s.units.images.find? ·) (funext fun q => ?_)
    rw [Bool.decide_and, Bool.decide_eq_true, Bool.decide_eq_true, Bool.and_comm]
  simp only [imageAt, hfind, Option.some_or, Option.map_some]

theorem exec_srestore {cl : Fin 32} {o : OpAB} {s : State} {a steps : Nat} (hready : laneReady s (selLane cl) 0x16 o steps = true)
    (hra : opRsv o.a 17 = true) (hb : o.b = 0#32) (ha : clPlace cl o.a 144 = some a)
    (hsteps : selSteps (((imageAt s a).map Sel.kmax).getD 1) ≤ steps) :
    exec (.srestore cl o steps) s = .next (setSel (imageState (ran s (selLane cl) steps) a).2 cl (imageState (ran s (selLane cl) steps) a).1) := by
  have hexec : exec (.srestore cl o steps) s = execSrestore cl o steps s := rfl
  unfold execSrestore at hexec
  dsimp only at hexec
  rwa [ha, Option.bind_some, laneChecked_runs (by simp [hra, hb, hsteps]) hready, withAddr] at hexec

theorem imageState_of_some {s : State} {a : Nat} {v : Sel} (h : imageAt s a = some v) : imageState s a = (v, s) := by
  rw [imageState, h]

/-- Where no unit saved the image, one free value is drawn for the state. -/
theorem imageState_ran_of_none {s : State} {a : Nat} (lane n : Nat) (h : imageAt s a = none) :
    imageState (ran s lane n) a = ((imageState s a).1, { ran s lane n with drawn := s.drawn + 1 }) := by
  have hran : imageAt (ran s lane n) a = none := h
  rw [imageState, imageState, h, hran]
  rfl

/-- Settles O26: the state saved with the image, or a free one. -/
theorem srestoreRestoresSavedState : Obligations.SrestoreRestoresSavedState := by
  intro cl o steps s a hready hra hb ha restores
  refine ⟨fun p => imageAt_of_find, fun v hv hsteps => ?_, fun hnone hsteps => ?_⟩
  · have hexec := exec_srestore hready hra hb ha (by simpa [hv] using hsteps)
    rw [imageState_of_some (s := ran s (selLane cl) steps) hv] at hexec
    exact .of_exec hexec ⟨rfl, rfl⟩
  · have hexec := exec_srestore hready hra hb ha (by simpa [hnone] using hsteps)
    rw [imageState_ran_of_none _ _ hnone] at hexec
    exact .of_exec hexec ⟨rfl, rfl⟩

end Sys2Proof.Machine
end

section
/-!
SUPPORT. The fabric without its links, without the flits passed on and without the orrery messages that wait: what sends flits leaves the rest of it.
-/
namespace Sys2Proof.Machine

/-- The fabric's state but for the links, the flits that go on, the rotation of the links and the orrery messages that wait. -/
def State.fabCore (s : State) : Fabric := { s.fab with links := [], transit := [], rotate := 0, orrery := [] }

theorem fabCore_of_fab {s t : State} (h : t.fab = s.fab) : t.fabCore = s.fabCore := by rw [State.fabCore, h, State.fabCore]

section
variable {s t : State} (h : t.fabCore = s.fabCore)
include h

theorem beat_of_fabCore : t.fab.beat = s.fab.beat := by simpa only [State.fabCore] using congrArg Fabric.beat h
theorem issued_of_fabCore : t.fab.issued = s.fab.issued := by simpa only [State.fabCore] using congrArg Fabric.issued h
theorem armed_of_fabCore : t.fab.armed = s.fab.armed := by simpa only [State.fabCore] using congrArg Fabric.armed h
theorem armSent_of_fabCore : t.fab.armSent = s.fab.armSent := by simpa only [State.fabCore] using congrArg Fabric.armSent h
theorem combined_of_fabCore : t.fab.combined = s.fab.combined := by simpa only [State.fabCore] using congrArg Fabric.combined h
theorem out_of_fabCore : t.fab.out = s.fab.out := by simpa only [State.fabCore] using congrArg Fabric.out h
theorem notes_of_fabCore : t.fab.notes = s.fab.notes := by simpa only [State.fabCore] using congrArg Fabric.notes h
theorem sent_of_fabCore : t.fab.sent = s.fab.sent := by simpa only [State.fabCore] using congrArg Fabric.sent h
theorem recv_of_fabCore : t.fab.recv = s.fab.recv := by simpa only [State.fabCore] using congrArg Fabric.recv h

end

section
variable (s : State)

@[simp] theorem countLink_fabCore (l c n : Nat) : (countLink s l c n).fabCore = s.fabCore := rfl
@[simp] theorem setLink_fabCore (l : Nat) (x : Link) : (setLink s l x).fabCore = s.fabCore := rfl

@[simp] theorem passedOn_fabCore (l : Nat) (f : Bytes) : (passedOn s l f).fabCore = s.fabCore := by
  unfold passedOn
  split <;> rfl

@[simp] theorem pump_fabCore (l n : Nat) : (pump s l n).fabCore = s.fabCore :=
  pump_keeps State.fabCore (fun _ _ _ _ => rfl) (fun _ _ _ => rfl) passedOn_fabCore n s l

@[simp] theorem linkSend_fabCore (l : Nat) (fs : List Bytes) : (linkSend s l fs).fabCore = s.fabCore := by
  rw [linkSend, pump_fabCore, setLink_fabCore]

theorem fabCore_rotate (n : Nat) : State.fabCore { s with fab := { s.fab with rotate := n } } = s.fabCore := rfl
theorem fabCore_orrery (l : List (Nat × List Bytes)) : State.fabCore { s with fab := { s.fab with orrery := l } } = s.fabCore := rfl

@[simp] theorem routeSome_fabCore (dst : Nat) (fs : List Bytes) : (routeSome s dst fs).fabCore = s.fabCore := by
  unfold routeSome
  split
  · rfl
  · rw [fabCore_rotate]
    exact foldl_keeps State.fabCore _ (fun t i => by simp only [linkSend_fabCore]) _ _

@[simp] theorem sendOrrery_fabCore : (sendOrrery s).fabCore = s.fabCore := by
  unfold sendOrrery
  have hkeeps := fun (t : State) (m : Nat × List Bytes) => routeSome_fabCore t m.1 m.2
  rw [foldl_keeps State.fabCore _ hkeeps, fabCore_orrery]

@[simp] theorem routeFlits_fabCore (dst : Nat) (fs : List Bytes) : (routeFlits s dst fs).fabCore = s.fabCore := by
  rw [routeFlits, routeSome_fabCore, sendOrrery_fabCore]

/-- A message handed to the links stands at the end of what was sent; the rest of the fabric stands. -/
theorem sendOut_fabCore (dst : Nat) (m : OutMsg) (fs : List Bytes) :
    (sendOut s dst m fs).fabCore = { s.fabCore with out := s.fab.out ++ [m] } := routeFlits_fabCore ..

theorem sendOut_out (dst : Nat) (m : OutMsg) (fs : List Bytes) : (sendOut s dst m fs).fab.out = s.fab.out ++ [m] := by
  simpa only [State.fabCore] using congrArg Fabric.out (sendOut_fabCore s dst m fs)

@[simp] theorem orrSend_fabCore (op dst subject code value : Nat) : (orrSend s op dst subject code value).fabCore = s.fabCore := rfl

@[simp] theorem logFaultFor_fabCore (subject : Nat) (f : FaultInfo) : (logFaultFor s subject f).fabCore = s.fabCore := by
  unfold logFaultFor
  extract_lets _ s1 s2
  have h1 : s1.fabCore = s.fabCore := by
    simp only [s1]
    split <;> rfl
  have h2 : s2.fabCore = s.fabCore := by
    simp only [s2]
    split
    · exact (fabCore_of_fab (postEvent_fab ..)).trans h1
    · exact h1
  split
  · exact h2
  · split
    · exact (orrSend_fabCore ..).trans h2
    · exact h2

@[simp] theorem logFault_fabCore (f : FaultInfo) : (logFault s f).fabCore = s.fabCore := logFaultFor_fabCore ..

theorem orrSend_orr (op dst subject code value : Nat) :
    (orrSend s op dst subject code value).orr = { s.orr with outbox := s.orr.outbox ++ [(op, dst, subject, code, value)] } := rfl

/-- A fault record touches nothing of the membership protocol but the messages it sends. -/
theorem logFaultFor_orr (subject : Nat) (f : FaultInfo) :
    ∃ l, (logFaultFor s subject f).orr = { s.orr with outbox := s.orr.outbox ++ l } := by
  unfold logFaultFor
  extract_lets _ s1 s2
  have h1 : s1.orr = s.orr := by
    simp only [s1]
    split <;> rfl
  have h2 : s2.orr = s.orr := by
    simp only [s2, apply_ite State.orr, postEvent_orr, ite_self, h1]
  split
  · exact ⟨[], by rw [h2, List.append_nil]⟩
  · split
    · exact ⟨_, by rw [orrSend_orr, h2]⟩
    · exact ⟨[], by rw [h2, List.append_nil]⟩

@[simp] theorem logFaultFor_view (subject : Nat) (f : FaultInfo) : (logFaultFor s subject f).orr.view = s.orr.view := by
  obtain ⟨l, hl⟩ := logFaultFor_orr s subject f
  rw [hl]

@[simp] theorem logFault_view (f : FaultInfo) : (logFault s f).orr.view = s.orr.view := logFaultFor_view ..

end

end Sys2Proof.Machine
end

section
/-!
SUPPORT. What a write leaves that lands: its bytes and marks in place, every other byte as it was.
-/
namespace Sys2Proof.Machine

@[simp] theorem setMarks_readMem (s : State) (b : Nat) (ms : List Bool) (a n : Nat) : readMem (setMarks s b ms) a n = readMem s a n := rfl

theorem marksOf_setMarks (s : State) (a : Nat) (ms : List Bool) (h : cwf false s.mem.poison = true) :
    marksOf (setMarks s a ms) (32 * (a / 32)) ms.length = ms := by
  unfold marksOf setMarks
  rw [Nat.mul_div_cancel_left _ (by decide)]
  exact cgetN_setN ms s.mem.poison (a / 32) h

/-- One byte of an SRAM after a write to one. -/
theorem readSram_writeMem (s : State) (a i : Nat) (bs : Bytes) (hw : cwf none s.mem.sram = true) (ha : isSram a = true) (hi : i < bs.length) :
    readSram (writeMem s a bs) (a + i) = bs.getD i 0#8 := by
  unfold readSram writeMem
  rw [if_pos ha]
  dsimp only
  rw [cget_setN_in _ _ _ _ hw (by simpa using hi)]
  simp [List.getD_eq_getElem?_getD, hi]

theorem readSram_writeMem_out (s : State) (a x : Nat) (bs : Bytes) (hw : cwf none s.mem.sram = true) (hx : x < a ∨ a + bs.length ≤ x) :
    readSram (writeMem s a bs) x = readSram s x := by
  by_cases ha : isSram a = true
  · unfold readSram writeMem
    rw [if_pos ha]
    dsimp only
    rw [cget_setN_out _ _ _ _ hw (by simpa using hx)]
  · rw [writeMem, if_neg ha]
    rfl

/-- What was written is read back. -/
theorem readMem_writeMem (s : State) (a : Nat) (bs : Bytes) (hs : s.mem.wf = true) : readMem (writeMem s a bs) a bs.length = bs := by
  simp only [Memory.wf, Bool.and_eq_true] at hs
  obtain ⟨⟨⟨⟨hbytes, hsram⟩, -⟩, -⟩, -⟩ := hs
  unfold readMem
  split
  · rename_i ha
    refine List.ext_getElem (by simp) fun i h1 h2 => ?_
    rw [List.getElem_map, List.getElem_range, readSram_writeMem s a i bs hsram ha h2]
    simp [List.getD_eq_getElem?_getD, h2]
  · rename_i ha
    rw [writeMem, if_neg ha]
    exact cgetN_setN bs s.mem.bytes a hbytes

/-- A byte outside what was written is as it was. -/
theorem readMem_writeMem_out (s : State) (a x : Nat) (bs : Bytes) (hs : s.mem.wf = true) (hx : x < a ∨ a + bs.length ≤ x) :
    readMem (writeMem s a bs) x 1 = readMem s x 1 := by
  simp only [Memory.wf, Bool.and_eq_true] at hs
  obtain ⟨⟨⟨⟨hbytes, hsram⟩, -⟩, -⟩, -⟩ := hs
  unfold readMem
  split
  · exact congrArg (· :: []) (readSram_writeMem_out s a x bs hsram hx)
  · unfold writeMem
    split
    · rfl
    · exact congrArg (· :: []) (cget_setN_out bs s.mem.bytes a x hbytes hx)

theorem writeMem_poison (s : State) (a : Nat) (bs : Bytes) : (writeMem s a bs).mem.poison = s.mem.poison := by
  unfold writeMem
  split <;> rfl

/-- A write to memory that lands touches bytes and poison marks alone. -/
theorem landOne_mem_frame (s : State) (a : Nat) (bs : Bytes) (ms : List Bool) :
    landOne s (.mem a bs ms) = { s with mem := { s.mem with
      bytes := (landOne s (.mem a bs ms)).mem.bytes
      sram := (landOne s (.mem a bs ms)).mem.sram
      poison := (landOne s (.mem a bs ms)).mem.poison } } := by
  unfold landOne setMarks writeMem
  dsimp only
  split <;> rfl

/-- Settles O30: the laws of sparse storage, for SRAM and for the other tiers. -/
theorem landedBytesAndNoOthers : Obligations.LandedBytesAndNoOthers := by
  intro s a bs ms hs _
  have hpoison : cwf false (writeMem s a bs).mem.poison = true := by
    simp only [Memory.wf, Bool.and_eq_true] at hs
    rw [writeMem_poison]
    exact hs.1.2
  exact ⟨readMem_writeMem s a bs hs, fun x hx => readMem_writeMem_out s a x bs hs hx, marksOf_setMarks _ a ms hpoison, landOne_mem_frame s a bs ms⟩

/-! ### Writes that land together -/

/-- The writes of `ds` land in turn. -/
def landAll (s : State) (ds : List Delayed) : State := ds.foldl (fun s d => landOne s d.what) s

/-- A write that lands changes units and memory alone. -/
theorem landOne_frame (s : State) (w : Landing) : landOne s w = { s with units := (landOne s w).units, mem := (landOne s w).mem } := by
  cases w with
  | mem a bs ms =>
    unfold landOne setMarks writeMem
    dsimp only
    split <;> rfl
  | vreg => rfl
  | drain => rfl
  | task => rfl

theorem landAll_frame (ds : List Delayed) (s : State) :
    landAll s ds = { s with units := (landAll s ds).units, mem := (landAll s ds).mem } := by
  induction ds generalizing s with
  | nil => rfl
  | cons d ds ih =>
    have hstep (u : Units) (m : Memory) : ({ landOne s d.what with units := u, mem := m } : State) = { s with units := u, mem := m } := by
      rw [landOne_frame s d.what]
    exact (ih (landOne s d.what)).trans (hstep ..)

/-- What lands depends on units, memory and the frame alone. -/
theorem landOne_congr {s t : State} (hu : t.units = s.units) (hm : t.mem = s.mem) (hf : t.run.frame = s.run.frame) (w : Landing) :
    (landOne t w).units = (landOne s w).units ∧ (landOne t w).mem = (landOne s w).mem ∧ (landOne t w).run.frame = (landOne s w).run.frame := by
  cases w with
  | mem a bs ms =>
    unfold landOne setMarks writeMem
    dsimp only
    split <;> exact ⟨hu, by simp only [hm], hf⟩
  | vreg => exact ⟨by simp only [landOne, setVreg, hu], hm, hf⟩
  | drain => exact ⟨by simp only [landOne, setVreg, hu], hm, hf⟩
  | task => exact ⟨by simp only [landOne, enqueueTask, hu, hf], hm, hf⟩

theorem landAll_congr (ds : List Delayed) {s t : State} (hu : t.units = s.units) (hm : t.mem = s.mem) (hf : t.run.frame = s.run.frame) :
    (landAll t ds).units = (landAll s ds).units ∧ (landAll t ds).mem = (landAll s ds).mem := by
  induction ds generalizing s t with
  | nil => exact ⟨hu, hm⟩
  | cons d ds ih =>
    obtain ⟨hu', hm', hf'⟩ := landOne_congr hu hm hf d.what
    exact ih hu' hm' hf'

end Sys2Proof.Machine
end

section
/-!
SUPPORT. A step's end, the arm that goes with it, and the beat: what each touches.
-/
namespace Sys2Proof.Machine

/-! ### What arms, beats and samples of the rings leave -/

/-- The state without counters, fault log, host interface, fabric and membership protocol. -/
def State.inner (s : State) : State := { s with mem := s.ownMem, cnt := {}, dump := {}, host := {}, fab := {}, orr := {} }

/-- The state without what the membership protocol keeps and the messages of it that wait. -/
def State.butOrr (s : State) : State := { s with orr := {}, fab := { s.fab with orrery := [] } }

/-- The state without its counters. -/
def State.butCnt (s : State) : State := { s with cnt := {} }

theorem eq_of_butCnt {s t : State} (h : t.butCnt = s.butCnt) : t = { s with cnt := t.cnt } :=
  show ({ t.butCnt with cnt := t.cnt } : State) = { s.butCnt with cnt := t.cnt } by rw [h]

section
variable {s t : State} (h : t.inner = s.inner)
include h

theorem run_of_inner : t.run = s.run := by simpa only [State.inner] using congrArg State.run h
theorem units_of_inner : t.units = s.units := by simpa only [State.inner] using congrArg State.units h
theorem ownMem_of_inner : t.ownMem = s.ownMem := by simpa only [State.inner] using congrArg State.mem h
theorem node_of_inner : t.node = s.node := by simpa only [State.inner] using congrArg State.node h
theorem setup_of_inner : t.setup = s.setup := by simpa only [State.inner] using congrArg State.setup h
theorem recs_of_inner : t.recs = s.recs := by simpa only [State.inner] using congrArg State.recs h
theorem power_of_inner : t.power = s.power := by simpa only [State.inner] using congrArg State.power h

end

section
variable (s : State)

@[simp] theorem logFaultFor_inner (n : Nat) (f : FaultInfo) : (logFaultFor s n f).inner = s.inner := by simp [State.inner]
@[simp] theorem pushEvent_inner (p sl : Nat) (e : Bytes) : (pushEvent s p sl e).inner = s.inner := by simp [State.inner]
@[simp] theorem setRing_inner (r : Ring) : (setRing s r).inner = s.inner := rfl
@[simp] theorem ringError_inner (r : Ring) (c : Nat) : (ringError s r c).inner = s.inner := by
  unfold ringError
  exact pushEvent_inner ..

@[simp] theorem sampleRing_inner (r : Ring) : (sampleRing s r).inner = s.inner := by
  unfold sampleRing
  split
  · rfl
  · dsimp only
    split
    · rw [ringError_inner, setRing_inner]
    · exact setRing_inner ..

@[simp] theorem sampleRings_inner : (sampleRings s).inner = s.inner := foldl_keeps State.inner _ sampleRing_inner _ _

@[simp] theorem sampleRing_fab (r : Ring) : (sampleRing s r).fab = s.fab := by
  unfold sampleRing
  split
  · rfl
  · dsimp only
    split
    · exact pushEvent_fab ..
    · rfl

@[simp] theorem sampleRings_fab : (sampleRings s).fab = s.fab := foldl_keeps State.fab _ sampleRing_fab _ _

@[simp] theorem sendArm_inner (m : ArmMsg) : (sendArm s m).inner = s.inner := by
  simp [State.inner, State.ownMem]

@[simp] theorem reportMissing_inner : (reportMissing s).inner = s.inner :=
  foldl_keeps State.inner _ (fun _ _ => logFaultFor_inner ..) _ _

@[simp] theorem armStep_inner : (armStep s).inner = s.inner := by
  unfold armStep
  split
  · split
    · rfl
    · rw [sendArm_inner]
      rfl
  · rfl

@[simp] theorem armNow_inner : (armNow s).inner = s.inner := by
  rw [armNow, armStep_inner]
  exact reportMissing_inner s

@[simp] theorem sendArm_armed (m : ArmMsg) : (sendArm s m).fab.armed = s.fab.armed := by
  unfold sendArm
  split
  · rfl
  · simpa only [State.fabCore] using congrArg Fabric.armed (sendOut_fabCore s _ _ _)

@[simp] theorem armStep_armed : (armStep s).fab.armed = s.fab.armed := by
  unfold armStep
  split
  · split
    · rfl
    · rw [sendArm_armed]
  · rfl

/-- The node has its arm from the beginning of step N − L. -/
theorem armNow_armed : (armNow s).fab.armed = true := by
  rw [armNow, armStep_armed]
  rfl

/-! ### The step -/

theorem captureLanes_butCnt (t : StepTime) (w : Nat) : (captureLanes s t w).butCnt = s.butCnt := by
  refine foldl_keeps State.butCnt _ (fun s a => ?_) _ _
  dsimp only
  split <;> rfl

/-- What a step counts is in the counters. -/
theorem countStep_butCnt (t : StepTime) : (countStep s t).butCnt = s.butCnt := by
  unfold countStep
  dsimp only
  split
  · rfl
  · rw [captureLanes_butCnt]
    rfl

end

/-- The writes that are due land, and are no longer on their way. -/
theorem landDue_eq (s : State) :
    landDue s = { s with
      run := { s.run with delayed := s.run.delayed.filter fun d => !decide (d.due ≤ s.run.now) }
      units := (landAll s (dueWrites s)).units
      mem := (landAll s (dueWrites s)).mem } := by
  obtain ⟨hu, hm⟩ := landAll_congr (dueWrites s) (s := s)
    (t := { s with run := { s.run with delayed := s.run.delayed.filter fun d => !decide (d.due ≤ s.run.now) } }) rfl rfl rfl
  refine (landAll_frame (dueWrites s) _).trans ?_
  rw [hu, hm]

/-- The state in which all units have advanced by one step, with the counters `c`: one step has passed and the writes due have landed. -/
def advanced (s : State) (c : Counters) (x : StepTime) : State :=
  let due := dueWrites { s with run := { s.run with now := s.run.now + 1 } }
  { s with
    run := { s.run with
      stepPs := x.ps, macBusy := s.run.macBusy + macActive s, now := s.run.now + 1
      delayed := s.run.delayed.filter fun d => !decide (d.due ≤ s.run.now + 1) }
    units := (landAll s due).units
    mem := (landAll s due).mem
    cnt := c }

theorem landDue_advanced (s : State) (c : Counters) (x : StepTime) :
    landDue { s with
      cnt := c, run := { s.run with stepPs := x.ps, macBusy := s.run.macBusy + macActive s, now := s.run.now + 1 } } = advanced s c x := by
  rw [landDue_eq]
  obtain ⟨hu, hm⟩ := landAll_congr (dueWrites { s with run := { s.run with now := s.run.now + 1 } }) (s := s)
    (t := { s with
      cnt := c, run := { s.run with stepPs := x.ps, macBusy := s.run.macBusy + macActive s, now := s.run.now + 1 } }) rfl rfl rfl
  rw [advanced, ← hu, ← hm]
  rfl

/-- The step ends once every unit has completed, with the node's arm at step N − L. -/
theorem exec_stepAdvance (x : StepTime) (s : State) (p : Plate) (hp : s.run.plate = some p) (hr : s.run.running = true)
    (hw : s.run.waiting = false) (hd : strokeDone s = true) : ∃ c,
    exec (.stepAdvance x) s = .next (
      let t := advanced s c x
      if s.run.step + 1 < p.steps then
        let u : State := { t with run := { t.run with step := s.run.step + 1 } }
        if s.run.step + 1 + p.lead = p.steps then sampleRings (armNow u) else u
      else { t with run := { t.run with waiting := true } }) := by
  obtain ⟨c, hc⟩ : ∃ c, countStep s x = { s with cnt := c } := ⟨_, eq_of_butCnt (countStep_butCnt s x)⟩
  refine ⟨c, ?_⟩
  have hexec : exec (.stepAdvance x) s = execStepAdvance x s := rfl
  rw [hexec, execStepAdvance, hp]
  simp only [hr, hw, hd, Bool.not_true, Bool.or_self, Bool.false_eq_true, if_false, hc]
  have hland : landDue { s with
      cnt := c, run := { s.run with stepPs := x.ps, macBusy := s.run.macBusy + macActive { s with cnt := c }, now := s.run.now + 1 } } =
      advanced s c x := landDue_advanced s c x
  simp only [hw, hr] at hland
  rw [hland]
  show (if s.run.step + 1 < p.steps then _ else _) = _
  split <;> rfl

end Sys2Proof.Machine
end

section
/-! PROOF. Steps, arms and beats (O5, O7, O8). -/
namespace Sys2Proof.Machine

/-- Settles O5: all units advance (`exec_stepAdvance`), and what goes with step N − L leaves the rest. -/
theorem stepsAdvanceTogether : Obligations.StepsAdvanceTogether := by
  intro x s p hp hr hw due
  refine ⟨fun hd => ?_, fun hd => ?_⟩
  · have hexec : exec (.stepAdvance x) s = execStepAdvance x s := rfl
    rw [hexec, execStepAdvance, hp]
    simp [hd]
  · obtain ⟨c, hc⟩ := exec_stepAdvance x s p hp hr hw hd
    by_cases hlast : s.run.step + 1 < p.steps
    · by_cases harm : s.run.step + 1 + p.lead = p.steps
      · dsimp only at hc
        rw [if_pos hlast, if_pos harm] at hc
        refine ⟨_, hc, ?_⟩
        generalize hu : ({ advanced s c x with run := { (advanced s c x).run with step := s.run.step + 1 } } : State) = u
        have hin : (sampleRings (armNow u)).inner = u.inner := (sampleRings_inner _).trans (armNow_inner u)
        have hmem := ownMem_of_inner hin
        rw [run_of_inner hin, units_of_inner hin, node_of_inner hin, setup_of_inner hin, recs_of_inner hin, power_of_inner hin,
          bytes_of_ownMem hmem, sram_of_ownMem hmem, poison_of_ownMem hmem, sampleRings_fab, armNow_armed, ← hu]
        exact ⟨rfl, rfl, rfl, hp, rfl, rfl, rfl, rfl, rfl, rfl, rfl, rfl, rfl, rfl, fun _ => ⟨rfl, hw⟩, fun _ _ => rfl,
          fun _ hne => absurd harm hne, fun hle => absurd hlast (by omega)⟩
      · dsimp only at hc
        rw [if_pos hlast, if_neg harm] at hc
        exact ⟨_, hc, rfl, rfl, rfl, hp, rfl, rfl, rfl, rfl, rfl, rfl, rfl, rfl, rfl, rfl, fun _ => ⟨rfl, hw⟩,
          fun _ heq => absurd heq harm, fun _ _ => ⟨rfl, rfl⟩, fun hle => absurd hlast (by omega)⟩
    · dsimp only at hc
      rw [if_neg hlast] at hc
      exact ⟨_, hc, rfl, rfl, rfl, hp, rfl, rfl, rfl, rfl, rfl, rfl, rfl, rfl, rfl, rfl, fun hlt => absurd hlt hlast,
        fun hlt => absurd hlt hlast, fun hlt => absurd hlt hlast, fun _ => ⟨rfl, rfl, rfl, rfl⟩⟩

/-! ### Arms -/

/-- An arm goes to the primary of the node's conjunction or to its parent in the beat tree. -/
theorem sendArm_out (s : State) (m : ArmMsg) : (sendArm s m).fab.out = s.fab.out ++
    [if conjMember s then .conjArm m else .arm (firstHop (nodeId s) (beatRoot s)) m] := by
  unfold sendArm
  split
  · rfl
  · exact sendOut_out ..

@[simp] theorem sendArm_armSent (s : State) (m : ArmMsg) : (sendArm s m).fab.armSent = s.fab.armSent := by
  unfold sendArm
  split
  · rfl
  · simpa only [State.fabCore] using congrArg Fabric.armSent (sendOut_fabCore s _ _ _)

theorem combineArms_ready (a b : ArmMsg) : (combineArms a b).ready.toNat = min a.ready.toNat b.ready.toNat := by
  unfold combineArms
  dsimp only
  split <;> omega

theorem combineArms_complete (a b : ArmMsg) :
    (combineArms a b).complete = true ↔ a.complete = true ∧ b.complete = true ∧ a.epoch = b.epoch := by
  simp [combineArms, and_assoc]

theorem mem_present_combineArms (a b : ArmMsg) (n : Nat) : n ∈ (combineArms a b).present ↔ n ∈ a.present ∨ n ∈ b.present := by
  simp only [combineArms, List.mem_append, List.mem_filter, Bool.not_eq_true', List.contains_eq_mem, decide_eq_false_iff_not]
  refine ⟨fun h => h.imp_right And.left, fun h => ?_⟩
  by_cases ha : n ∈ a.present
  · exact .inl ha
  · exact .inr ⟨h.resolve_left ha, ha⟩

/-- Giving back records of one kind leaves those of the others. -/
theorem mem_custody_foldl_dropCustody {α : Type} (req : α → Nat) (k : Nat) (l : List α) (s : State) (c : Custody) (hc : c ∈ s.recs.custody)
    (hk : c.kind ≠ k) : c ∈ (l.foldl (fun s t => dropCustody s (req t) k) s).recs.custody := by
  induction l generalizing s with
  | nil => exact hc
  | cons t l ih =>
    refine ih _ ?_
    simp [dropCustody, hc, hk]

/-- Settles O8: the branches of `execArm`, what a sent arm leaves, and the combination of two arms field by field. -/
theorem armsCombine : Obligations.ArmsCombine := by
  refine ⟨fun src m s hr hf hdown => ?_, fun m s hr ha hs hroot hm => ?_, fun a b => ?_, fun s hr => ?_⟩
  · have hexec : exec (.arm src m) s = execArm src m s := rfl
    rw [hexec, execArm, if_neg (by rw [hr, hf, hdown]; simp)]
    refine ⟨fun h => if_pos h, fun h hsent => ?_, fun h hsent => ?_⟩
    · rw [if_neg h, if_pos hsent]
    · rw [if_neg h, if_neg (by simp [hsent])]
  · have hexec : exec .armForwardTimeout s = execArmForwardTimeout s := rfl
    rw [execArmForwardTimeout, if_pos (by simp [hr, ha, hs, hroot]), hm] at hexec
    exact ⟨_, hexec, sendArm_armSent .., sendArm_out .., sendArm_mem .., sendArm_node .., sendArm_run ..⟩
  · exact ⟨combineArms_ready a b, combineArms_complete a b, mem_present_combineArms a b⟩
  · have hexec : exec .trainingStateExpire s = execTrainingStateExpire s := rfl
    rw [execTrainingStateExpire, if_neg (by simp [hr])] at hexec
    refine ⟨_, hexec, rfl, rfl, rfl, fun c hc hk => mem_custody_foldl_dropCustody TrainState.reqId 0 _ s c hc hk, ?_, ?_, ?_⟩
    · exact foldl_keeps State.mem (fun s (t : TrainState) => dropCustody s t.reqId 0) (fun _ _ => rfl) _ _
    · exact foldl_keeps State.node (fun s (t : TrainState) => dropCustody s t.reqId 0) (fun _ _ => rfl) _ _
    · exact foldl_keeps State.run (fun s (t : TrainState) => dropCustody s t.reqId 0) (fun _ _ => rfl) _ _

end Sys2Proof.Machine
end

section
/-!
SUPPORT. A plate that halts and a node that enters FAULT: what goes and what stands (R385, R387, R415).
-/
namespace Sys2Proof.Machine

section
variable (s : State)

@[simp] theorem freeRing_ownMem (n : Nat) : (freeRing s n).ownMem = s.ownMem := rfl

@[simp] theorem closeRings_ownMem : (closeRings s).ownMem = s.ownMem := by
  refine foldl_keeps State.ownMem _ (fun s r => ?_) _ _
  split
  · dsimp only
    split
    · rfl
    · rw [finish_ownMem, freeRing_ownMem]
  · rfl

@[simp] theorem endTransit_ownMem (t : Transit) (r : Reply) : (endTransit s t r).ownMem = s.ownMem := by
  unfold endTransit
  rw [finish_ownMem]
  rfl

@[simp] theorem cancelTransit_ownMem : (cancelTransit s).ownMem = s.ownMem := by
  unfold cancelTransit
  split
  · rfl
  · rw [endTransit_ownMem, postTargeted_ownMem]
    exact ownMem_of_mem (dropTransit_mem s)

@[simp] theorem flatFlags_ownMem (f : Nat) : (flatFlags s f).ownMem = s.ownMem := by
  have hlog : ∀ t : State, State.ownMem (if f ≠ 0 ∧ f ≠ bits s.power.live 7 3 then logFault t { code := 0x107, event := false, arg0 := f } else t) =
      t.ownMem := fun t => by split <;> simp
  exact hlog s

@[simp] theorem flatFlags_fabCore (f : Nat) : (flatFlags s f).fabCore = s.fabCore := by
  have hlog : ∀ t : State, State.fabCore (if f ≠ 0 ∧ f ≠ bits s.power.live 7 3 then logFault t { code := 0x107, event := false, arg0 := f } else t) =
      t.fabCore := fun t => by split <;> simp
  exact hlog s

/-- The flags of the power state send no more than messages to the coordinator. -/
theorem flatFlags_outbox (f : Nat) : ∃ l, (flatFlags s f).orr.outbox = s.orr.outbox ++ l := by
  unfold flatFlags
  dsimp only
  split
  · obtain ⟨l, hl⟩ := logFaultFor_orr s (nodeId s) { code := 0x107, event := false, arg0 := f }
    exact ⟨l, congrArg Orrery.outbox hl⟩
  · exact ⟨[], (List.append_nil _).symm⟩

@[simp] theorem idlePower_ownMem : (idlePower s).ownMem = s.ownMem := by
  unfold idlePower
  split
  · rfl
  · exact (ownMem_of_mem (powerIbi_mem ..)).trans (flatFlags_ownMem ..)

@[simp] theorem idlePower_fabCore : (idlePower s).fabCore = s.fabCore := by
  unfold idlePower
  split
  · rfl
  · exact (fabCore_of_fab (powerIbi_fab ..)).trans (flatFlags_fabCore ..)

theorem idlePower_outbox : ∃ l, (idlePower s).orr.outbox = s.orr.outbox ++ l := by
  unfold idlePower
  split
  · exact ⟨[], (List.append_nil _).symm⟩
  · rw [powerIbi_orr]
    exact flatFlags_outbox _ _

/-! ### The plate halts -/

theorem haltPlate_run : (haltPlate s).run =
    { s.run with running := false, waiting := false, stopAt := none, step := 0, busy := [], delayed := [] } := by
  simp only [haltPlate, idlePower_run, closeRings_run, raiseEvents_run, cancelTransit_run]

@[simp] theorem haltPlate_ownMem : (haltPlate s).ownMem = s.ownMem := by
  unfold haltPlate
  rw [idlePower_ownMem, closeRings_ownMem]
  exact (raiseEvents_ownMem _).trans (cancelTransit_ownMem s)

theorem haltPlate_inflight : (haltPlate s).recs.inflight = [] := by
  simp only [haltPlate, idlePower_recs, closeRings_recs]

theorem haltPlate_beat : (haltPlate s).fab.beat = none := by
  unfold haltPlate
  rw [beat_of_fabCore (idlePower_fabCore _), closeRings_fab]

theorem haltPlate_outbox : ∃ l, (haltPlate s).orr.outbox = s.orr.outbox ++ l := by
  unfold haltPlate
  obtain ⟨l, hl⟩ := idlePower_outbox (closeRings _)
  exact ⟨l, by rw [hl, closeRings_orr, raiseEvents_orr, cancelTransit_orr]⟩

/-! ### FAULT -/

/-- The notice of a node's own loss to the nodes of a list. -/
def tellLoss (l : List Nat) : State := l.foldl (fun s n => orrSend s 6 n (nodeId s) 0 0) s

theorem tellLoss_outbox (l : List Nat) : (tellLoss s l).orr.outbox = s.orr.outbox ++ l.map fun n => (6, n, nodeId s, 0, 0) := by
  induction l generalizing s with
  | nil => exact (List.append_nil _).symm
  | cons m l ih =>
    refine (ih (orrSend s 6 m (nodeId s) 0 0)).trans ?_
    rw [orrSend_orr, List.map_cons, List.append_assoc]
    rfl

/-- The notices change the membership protocol alone. -/
theorem tellLoss_butOrr (l : List Nat) : (tellLoss s l).butOrr = s.butOrr := by
  have hkeeps := fun (t : State) (m : Nat) => show (orrSend t 6 m (nodeId t) 0 0).butOrr = t.butOrr from rfl
  exact foldl_keeps State.butOrr _ hkeeps l s

theorem leaveLive_butOrr : (leaveLive s).butOrr = s.butOrr := by
  unfold leaveLive
  split <;> rfl

theorem leaveLive_outbox : (leaveLive s).orr.outbox = s.orr.outbox := by
  unfold leaveLive
  split <;> rfl

/-- What a node that enters FAULT notes first (R387, R415). -/
def faultNoted : State := { s with
  faults := { s.faults with autoStart := decide (4 ≤ s.node.state), toServing := s.node.state == stServing, graceFrom := none }
  node := { s.node with trans := none, accepted := false, faultAt := false } }

/-- The node has noted what the reset that follows needs, and told its neighbours; its plate still runs. -/
def faultTold : State := tellLoss (leaveLive (faultNoted s)) (neighbours s)

theorem faultTold_butOrr : (faultTold s).butOrr = (faultNoted s).butOrr := by
  rw [faultTold, tellLoss_butOrr, leaveLive_butOrr]

theorem leaveLive_nodeId : nodeId (leaveLive s) = nodeId s := by
  unfold leaveLive
  split <;> rfl

theorem faultTold_outbox : (faultTold s).orr.outbox = s.orr.outbox ++ (neighbours s).map fun n => (6, n, nodeId s, 0, 0) := by
  rw [faultTold, tellLoss_outbox, leaveLive_outbox, leaveLive_nodeId]
  rfl

theorem enterFault_eq (h : s.node.state ≠ stFault) : enterFault s = moveTo (haltPlate (faultTold s)) stFault := if_neg h

/-- A plate does not run in FAULT, but where the node had entered it before. -/
theorem enterFault_running (h : s.node.state ≠ stFault) : (enterFault s).run.running = false := by
  rw [enterFault_eq s h, moveTo_run, haltPlate_run]

@[simp] theorem enterFault_state : (enterFault s).node.state = stFault := by
  by_cases h : s.node.state = stFault
  · rw [enterFault, if_pos h, h]
  · rw [enterFault_eq s h, moveTo_state]

theorem moveTo_trans (st : Nat) : (moveTo s st).node.trans = s.node.trans := by
  unfold moveTo
  split
  · rfl
  · rw [abortIllegal_node]
    unfold enterState
    split
    · rfl
    · simp only [raise_node, postAll_node]

/-- Settles O52: the plate halts before the node enters FAULT, and both leave the node's own memory. -/
theorem enteringFaultStopsThePlate : Obligations.EnteringFaultStopsThePlate := by
  intro s hs t
  have ht : t = moveTo (haltPlate (faultTold s)) stFault := enterFault_eq s hs
  have htold : (faultTold s).butOrr = (faultNoted s).butOrr := faultTold_butOrr s
  have hmem : t.ownMem = s.ownMem := by
    rw [ht, moveTo_ownMem, haltPlate_ownMem]
    exact ownMem_of_mem (by simpa only [State.butOrr, faultNoted] using congrArg State.mem htold)
  have hfaults : t.faults = (faultNoted s).faults := by
    rw [ht, moveTo_faults, haltPlate_faults]
    simpa only [State.butOrr] using congrArg State.faults htold
  obtain ⟨l, hl⟩ := haltPlate_outbox (faultTold s)
  refine ⟨?_, ?_, ?_, ?_, ?_, ?_, ?_, ?_, ?_, congrArg (·.autoStart) hfaults, congrArg (·.toServing) hfaults, ?_, bytes_of_ownMem hmem,
    sram_of_ownMem hmem, poison_of_ownMem hmem, ?_, ?_, ?_, l, ?_⟩
  · rw [ht, moveTo_state]
  · rw [ht, moveTo_trans, haltPlate_node]
    simpa only [State.butOrr, faultNoted] using congrArg (fun u => u.node.trans) htold
  · rw [ht, moveTo_run, haltPlate_run]
  · rw [ht, moveTo_run, haltPlate_run]
  · rw [ht, moveTo_run, haltPlate_run]
  · rw [ht, moveTo_run, haltPlate_run]
  · rw [ht, moveTo_run, haltPlate_run]
    simpa only [State.butOrr, faultNoted] using congrArg (fun u => u.run.plate) htold
  · rw [ht, moveTo_recs, haltPlate_inflight]
  · rw [ht, moveTo_fab, haltPlate_beat]
  · rw [ht, moveTo_units, haltPlate_units]
    simpa only [State.butOrr, faultNoted] using congrArg State.units htold
  · rw [ht, moveTo_nor, haltPlate_nor]
    simpa only [State.butOrr, faultNoted] using congrArg State.nor htold
  · rw [ht, moveTo_boot, haltPlate_boot]
    simpa only [State.butOrr, faultNoted] using congrArg State.boot htold
  · rw [ht, moveTo_pending, haltPlate_pending]
    simpa only [State.butOrr, faultNoted] using congrArg State.pending htold
  · rw [ht, moveTo_orr, hl, faultTold_outbox]

end

end Sys2Proof.Machine
end

section
/-!
SUPPORT. The beat (R40 to R44, R276), and the obligation that says what issues it and what it does (O7).
-/
namespace Sys2Proof.Machine

section
variable (s : State)

/-! ### A loss that the coordinator learns of touches the membership protocol alone -/

@[simp] theorem recordDrop_butOrr (f : Nat) : (recordDrop s f).butOrr = s.butOrr := rfl

@[simp] theorem exitOf_butOrr (n : Nat) : (exitOf s n).butOrr = s.butOrr := by
  unfold exitOf
  split <;> rfl

@[simp] theorem sendScore_butOrr (n v kind : Nat) : (sendScore s n v kind).butOrr = s.butOrr := by
  unfold sendScore
  split
  · rfl
  · dsimp only
    split <;> split <;> rfl

@[simp] theorem loseNode_butOrr (n : Nat) : (loseNode s n).butOrr = s.butOrr := by
  unfold loseNode
  split
  · rfl
  · rw [sendScore_butOrr, recordDrop_butOrr, exitOf_butOrr]
    rfl

/-! ### Events while a plate runs wait for the boundary -/

theorem pushEvent_mem_of_running (p sl : Nat) (e : Bytes) (h : s.run.running = true) : (pushEvent s p sl e).mem = s.mem := by
  unfold pushEvent
  simp only [h, if_true, apply_ite State.mem, ite_self]

theorem postEvent_mem_of_running (sl c lo ar : Nat) (h : s.run.running = true) : (postEvent s sl c lo ar).mem = s.mem := by
  have hone (t : State) (p : Nat) (e : Bytes) (ht : t.run.running = true) :
      (if sliceOnPort t sl p then pushEvent t p sl e else t).mem = t.mem := by
    split
    · exact pushEvent_mem_of_running t p sl e ht
    · rfl
  have hrun (t : State) (p : Nat) (e : Bytes) : (if sliceOnPort t sl p then pushEvent t p sl e else t).run = t.run := by
    split
    · exact pushEvent_run ..
    · rfl
  unfold postEvent
  simp only [List.foldl_cons, List.foldl_nil]
  rw [hone _ _ _ (by rw [hrun, h]), hone _ _ _ h]

/-- While a plate runs a fault record reaches no host: its event waits for the boundary (R320). -/
theorem logFault_mem_of_running (f : FaultInfo) (h : s.run.running = true) : (logFault s f).mem = s.mem := by
  unfold logFault logFaultFor
  extract_lets _ s1 s2
  have h1 : s1.mem = s.mem ∧ s1.run.running = true := by
    simp only [s1]
    split <;> exact ⟨rfl, h⟩
  have h2 : s2.mem = s.mem := by
    simp only [s2]
    split
    · rw [postEvent_mem_of_running _ _ _ _ _ h1.2, h1.1]
    · exact h1.1
  split
  · exact h2
  · split <;> exact h2

/-! ### The beat is taken and issued -/

theorem takeBeat_beat (b : BeatMsg) : (takeBeat s b).fab.beat = some b := by
  unfold takeBeat
  dsimp only
  split
  · show (logFault _ _).fab.beat = some b
    rw [beat_of_fabCore (logFault_fabCore ..)]
  · rfl

theorem takeBeat_issued (b : BeatMsg) : (takeBeat s b).fab.issued = s.fab.issued := by
  unfold takeBeat
  dsimp only
  split
  · show (logFault _ _).fab.issued = s.fab.issued
    rw [issued_of_fabCore (logFault_fabCore ..)]
  · rfl

theorem takeBeat_recs (b : BeatMsg) : (takeBeat s b).recs = s.recs := by unfold takeBeat; dsimp only; split <;> simp
theorem takeBeat_setup (b : BeatMsg) : (takeBeat s b).setup = s.setup := by unfold takeBeat; dsimp only; split <;> simp
theorem takeBeat_node (b : BeatMsg) : (takeBeat s b).node = s.node := by unfold takeBeat; dsimp only; split <;> simp

/-- The node stops at the end of its frame where the beat lists it (R44). -/
theorem takeBeat_run (b : BeatMsg) (h : s.run.running = true) : (takeBeat s b).run =
    { s.run with stopAt := if b.missing.contains (nodeId s) then some stFault else s.run.stopAt } := by
  have hid : nodeId { s with fab := { s.fab with beat := some b } } = nodeId s := rfl
  have hlist : (s.run.running && b.missing.contains (nodeId s)) = b.missing.contains (nodeId s) := by rw [h, Bool.true_and]
  unfold takeBeat
  dsimp only
  rw [hid, hlist]
  split
  · rw [logFault_run]
  · rfl

theorem takeBeat_mem (b : BeatMsg) : (takeBeat s b).mem = s.mem := by
  unfold takeBeat
  dsimp only
  split
  · rename_i h
    rw [Bool.and_eq_true] at h
    exact logFault_mem_of_running _ _ h.1
  · rfl

/-- A beat that is issued stands, and nothing else of the node changes. -/
theorem issueBeat_issues (b : BeatMsg) : (issueBeat s b).fab.beat = some b ∧ (issueBeat s b).fab.issued = true ∧
    (issueBeat s b).recs = s.recs ∧ (issueBeat s b).mem = s.mem ∧ (issueBeat s b).setup = s.setup ∧ (issueBeat s b).node = s.node := by
  unfold issueBeat
  dsimp only
  rw [takeBeat_beat, takeBeat_issued, takeBeat_recs, takeBeat_setup, takeBeat_node, takeBeat_mem]
  exact ⟨rfl, rfl, passBeat_recs .., passBeat_mem .., passBeat_setup .., passBeat_node ..⟩

/-- The nodes that a beat lists are lost to the coordinator; the beat stands. -/
theorem loseAll_issues (b : BeatMsg) (l : List Nat) :
    let t := l.foldl loseNode (issueBeat s b)
    t.fab.beat = some b ∧ t.fab.issued = true ∧ t.recs = s.recs ∧ t.mem = s.mem ∧ t.setup = s.setup ∧ t.node = s.node := by
  intro t
  have h : t.butOrr = (issueBeat s b).butOrr := foldl_keeps State.butOrr loseNode loseNode_butOrr l _
  have hbeat : t.fab.beat = (issueBeat s b).fab.beat := by simpa only [State.butOrr] using congrArg (fun u => u.fab.beat) h
  have hissued : t.fab.issued = (issueBeat s b).fab.issued := by simpa only [State.butOrr] using congrArg (fun u => u.fab.issued) h
  have hrecs : t.recs = (issueBeat s b).recs := by simpa only [State.butOrr] using congrArg State.recs h
  have hmem : t.mem = (issueBeat s b).mem := by simpa only [State.butOrr] using congrArg State.mem h
  have hsetup : t.setup = (issueBeat s b).setup := by simpa only [State.butOrr] using congrArg State.setup h
  have hnode : t.node = (issueBeat s b).node := by simpa only [State.butOrr] using congrArg State.node h
  rw [hbeat, hissued, hrecs, hmem, hsetup, hnode]
  exact issueBeat_issues s b

/-- The published SN never falls, and rises no further than READY and frame F − 3 (R169). -/
theorem publishSn_bounds : s.recs.published ≤ publishSn s ∧ (publishSn s ≠ s.recs.published → publishSn s ≤ s.run.frame - 3 ∧
    ∃ m, s.fab.combined = some m ∧ publishSn s ≤ m.ready.toNat) := by
  unfold publishSn
  split
  · exact ⟨Nat.le_refl _, fun h => absurd rfl h⟩
  · rename_i m hm
    exact ⟨by omega, fun h => ⟨by omega, m, hm, by omega⟩⟩

end

/-- The root's own beat of the frame. -/
theorem beatIssue_running (s : State) (hr : s.run.running = true) (hroot : isRoot s = true) (hi : s.fab.issued = false) (hb : s.fab.beat = none) :
    exec .beatIssue s =
      if alone s then (if s.run.waiting && membersHeld s then .next (issueBeat s (beatNow s [])) else .next s)
      else if s.fab.armed && membersHeld s && (missingArms s).isEmpty then .next (issueBeat s (beatNow s []))
      else .next s := by
  have hexec : exec .beatIssue s = execBeatIssue s := rfl
  rw [hexec, execBeatIssue, if_pos hr, if_neg (by simp [hroot, hi, hb])]

/-- The beat of a deadline that has passed, once something is missing. -/
theorem beatDeadlineExpire_running (s : State) (hr : s.run.running = true) (hroot : isRoot s = true) (hi : s.fab.issued = false)
    (hb : s.fab.beat = none) (hm : (membersHeld s && (alone s || (missingArms s).isEmpty)) = false) :
    let gone := if alone s then [] else missingArms s
    exec .beatDeadlineExpire s =
      .next (if isCoord (issueBeat s (beatNow s gone)) then (gone.filter (· != nodeId (issueBeat s (beatNow s gone)))).foldl loseNode (issueBeat s (beatNow s gone))
        else issueBeat s (beatNow s gone)) := by
  have hexec : exec .beatDeadlineExpire s = execBeatDeadlineExpire s := rfl
  rw [hexec, execBeatDeadlineExpire]
  exact if_neg (by rw [hr, hroot, hi, hb, hm]; decide)

/-- What follows from an expired deadline: the beat stands, with the nodes that are missing. -/
theorem beatDeadlineExpire_issues (s : State) (hr : s.run.running = true) (hroot : isRoot s = true) (hi : s.fab.issued = false)
    (hb : s.fab.beat = none) (hm : (membersHeld s && (alone s || (missingArms s).isEmpty)) = false) :
    Runs .beatDeadlineExpire s fun t => t.fab.beat = some (beatNow s (if alone s then [] else missingArms s)) ∧ t.fab.issued = true ∧
      t.recs = s.recs ∧ t.mem = s.mem ∧ t.setup = s.setup ∧ t.node = s.node := by
  have h := beatDeadlineExpire_running s hr hroot hi hb hm
  dsimp only at h
  generalize (if alone s then [] else missingArms s) = gone at h ⊢
  refine ⟨_, h, ?_⟩
  split
  · exact loseAll_issues s _ _
  · exact issueBeat_issues s _

/-- What a node makes of a beat of its frame: it is taken where it fits, and a fault where it does not. -/
theorem beat_running (s : State) (b : BeatMsg) (hdown : s.faults.inReset.contains 4 = false) (hr : s.run.running = true) (hb : s.fab.beat = none) :
    exec (.beat b) s =
      if b.frame.toNat ≠ s.run.frame + 1 ∨ b.epoch.toNat ≠ s.setup.epoch ∨ !viewExpected s b.view.toNat then
        .next (enterFault (logFault (passBeat s b)
          { code := 0x32, event := true, dom := 4, unit := 0x812, arg0 := b.frame.toNat, arg1 := b.view.toNat }))
      else .next (takeBeat (passBeat s b) b) := by
  have hview : viewExpected (passBeat s b) b.view.toNat = viewExpected s b.view.toNat := by simp only [viewExpected, passBeat_orr]
  have hexec : exec (.beat b) s = execBeat b s := rfl
  rw [hexec, execBeat, if_neg (by rw [hdown]; decide), if_pos hr, if_neg (by simp [hb])]
  dsimp only
  rw [hview, passBeat_run, passBeat_setup]

/-- Settles O7: the root's conditions are the branches of `execBeatIssue` and `execBeatDeadlineExpire`; what a beat changes is
`issueBeat_issues` and `takeBeat_run`. -/
theorem beatsAreIssuedAndTaken : Obligations.BeatsAreIssuedAndTaken := by
  refine ⟨fun s hr hroot hi hb => ?_, fun s v f hr hv hf hprop haw hroot hb => ?_, fun s b hdown hr hb => ?_, fun s hr hw hb => ?_, publishSn_bounds⟩
  · have hissue := beatIssue_running s hr hroot hi hb
    refine ⟨fun hm => ?_, fun hm ha hw => ?_, fun hm ha harm hmiss => ?_, fun ha hmiss => ?_, fun ha hmiss => ?_, fun ha hm => ?_, fun ha hm => ?_⟩
    · rw [hissue]
      simp [hm]
    · exact ⟨_, by rw [hissue, if_pos ha, hw, hm]; rfl, issueBeat_issues s _⟩
    · exact ⟨_, by rw [hissue, ha, harm, hm, hmiss]; rfl, issueBeat_issues s _⟩
    · rw [hissue]
      simp [ha, hmiss]
    · have h := beatDeadlineExpire_issues s hr hroot hi hb (by simp [ha, hmiss])
      rwa [if_neg (by simp [ha])] at h
    · have h := beatDeadlineExpire_issues s hr hroot hi hb (by simp [hm])
      rwa [if_pos ha] at h
    · have hexec : exec .beatDeadlineExpire s = execBeatDeadlineExpire s := rfl
      rw [hexec, execBeatDeadlineExpire, if_pos (by simp [ha, hm])]
  · have hexec : exec .beatIssue s = execBeatIssue s := rfl
    rw [execBeatIssue, if_neg (by simp [hr]), hv, hf] at hexec
    dsimp only at hexec
    rw [if_pos (by simp [hprop, haw, hroot, hb])] at hexec
    obtain ⟨hbeat, hissued, -⟩ := issueBeat_issues (firstPublished s v).2 _
    exact ⟨_, hexec, hissued, _, hbeat, rfl, rfl, rfl, rfl⟩
  · have hbeat := beat_running s b hdown hr hb
    refine ⟨fun hf he hv => ?_, fun hbad => ?_⟩
    · rw [if_neg (by simp [hf, he, hv])] at hbeat
      have hrun := takeBeat_run (passBeat s b) b (by rw [passBeat_run, hr])
      have hid : nodeId (passBeat s b) = nodeId s := by simp only [nodeId, domainSetting, setting, passBeat_boot]
      rw [hid, passBeat_run] at hrun
      refine ⟨_, hbeat, takeBeat_beat .., by rw [takeBeat_node, passBeat_node], ?_, ?_⟩
      · rw [hrun]
        exact hr
      · rw [hrun]
    · rw [if_pos (by simpa using hbad)] at hbeat
      refine ⟨_, hbeat, enterFault_state _, fun hs => enterFault_running _ ?_⟩
      rwa [logFault_node, passBeat_node]
  · have hexec : exec .beatLost s = execBeatLost s := rfl
    rw [hexec, execBeatLost, if_pos (by simp [hr, hw, hb])]

end Sys2Proof.Machine
end

section
/-!
PROOF. Where lane commands wait (O42) and where they have no effect or stop by name (O40).
-/
namespace Sys2Proof.Machine

section
variable {s : State} {l op n : Nat} {o : OpAB} {ok : Bool} {f : State → Host.Outcome State Fault Refusal}

theorem laneReady_busy (h : laneFree s l = false) : laneReady s l op o n = false := by rw [laneReady, h, Bool.false_and]

theorem laneChecked_busy (h : laneFree s l = false) : laneChecked s l op o n ok f = .next s := laneChecked_waits (laneReady_busy h)

theorem laneRun_busy (h : laneFree s l = false) : laneRun s l op o n f = .next s := laneRun_waits (laneReady_busy h)

theorem laneReady_notActs (h : laneActs s l op o n = false) : laneReady s l op o n = false := by rw [laneReady, h, Bool.and_false]

theorem laneChecked_notActs (h : laneActs s l op o n = false) : laneChecked s l op o n ok f = .next s :=
  laneChecked_waits (laneReady_notActs h)

end

theorem maintStep_busy (lane : BitVec 16) (found : MaintFind) (s : State) (h : laneFree s lane.toNat = false) :
    exec (.maintStep lane found) s = .next s := by
  have hexec : exec (.maintStep lane found) s = execMaintStep lane found s := rfl
  rw [hexec, execMaintStep]
  dsimp only
  split
  · rfl
  · rw [if_pos (by simp [h])]

theorem refresh_busy (c : Chan) (hot : Bool) (temp : Int) (s : State) (h : laneFree s (chLane c) = false) :
    exec (.refresh c hot temp) s = .next s := by
  have hexec : exec (.refresh c hot temp) s = execRefresh c hot temp s := rfl
  rw [hexec, execRefresh]
  dsimp only
  split
  · rfl
  · rw [if_pos (by simp [h])]

theorem vopRun_busy {v : Vop} {fn : Nat} {immUsed : Bool} {s : State} {f : State → Host.Outcome State Fault Refusal}
    (h : laneFree s (vecLane v.cl) = false) : vopRun v fn immUsed s f = .next s := laneChecked_busy h

/-- Settles O42: a lane command but for MAINT and REFRESH is a `laneChecked` or `laneRun` of its lane, which asks for a free unit first; so do
those two. -/
theorem busyUnitsWait : Obligations.BusyUnitsWait := by
  intro i s l hl hf
  cases i <;> cases hl
  case maintStep lane found => exact maintStep_busy lane found s hf
  case refresh c hot temp => exact refresh_busy c hot temp s hf
  case addi v =>
    have hexec : exec (.addi v) s = execAddi v s := rfl
    rw [hexec, execAddi]
    exact vopRun_busy hf
  case muli v =>
    have hexec : exec (.muli v) s = execMuli v s := rfl
    rw [hexec, execMuli]
    exact vopRun_busy hf
  case setx v =>
    have hexec : exec (.setx v) s = execSetx v s := rfl
    rw [hexec, execSetx]
    exact vopRun_busy hf
  case fissue fc =>
    have hexec : exec (.fissue fc) s = execFissue fc s := rfl
    rw [hexec, execFissue, laneRun_busy hf]
  case fprog fc =>
    have hexec : exec (.fprog fc) s = execFprog fc s := rfl
    rw [hexec, execFprog, laneRun_busy hf]
  case ferase fc =>
    have hexec : exec (.ferase fc) s = execFerase fc s := rfl
    rw [hexec, execFerase, laneRun_busy hf]
  all_goals exact laneChecked_busy hf

/-! ### Operands and addresses that no plate in use holds -/

/-- A location that no tier has is one beyond a cluster store: 19 bits reach no further than the node store. -/
theorem location_one_none (x : W32) : location x 1 = none ↔ bit x.toNat 19 = true ∧ 131072 ≤ opField x 0 19 := by
  have hg : opField x 0 19 < 524288 := opField_lt x 0 19
  have hcl : opField x 20 5 < 32 := opField_lt x 20 5
  unfold location place clGranules nsGranules
  split
  · rename_i hb
    rw [ite_eq_right_iff]
    exact ⟨fun h => ⟨hb, Nat.le_of_not_lt fun hlt => absurd (h ⟨hlt, hcl⟩) (by simp)⟩, fun ⟨_, hle⟩ ⟨hlt, _⟩ => by omega⟩
  · rename_i hb
    rw [if_pos (by omega)]
    simp [hb]

/-- Settles O40: the frame of a lane command asks for operands that pass the load checks and for the action of the stroke, and stops where an
address is none. -/
theorem refusedOperandsDoNothing : Obligations.RefusedOperandsDoNothing := by
  refine ⟨fun s o cl u c => ⟨fun h => ⟨?_, ?_, ?_⟩, fun h => ⟨?_, ?_⟩, fun h => ⟨?_, ?_⟩, fun v h => ⟨?_, ?_⟩, fun h => ?_, fun h => ?_, fun h => ?_,
    fun h => ?_⟩, fun cl c o s => ⟨fun hready ha hb hloc => ?_, fun hready ha hb hloc => ?_, location_one_none⟩⟩
  · exact laneChecked_none (by simp [h])
  · exact laneChecked_none (by simp [h])
  · exact laneChecked_none (by simp [h])
  · exact laneChecked_none (by simp [h])
  · exact laneChecked_none (by simp [h])
  · exact laneChecked_none (by simp [h])
  · exact laneChecked_none (by simp [h])
  · exact laneChecked_none (by simpa using h)
  · exact laneChecked_none (by simpa using h)
  · exact laneChecked_none (by simp [h])
  · exact laneChecked_none (by simp [h])
  · exact laneChecked_notActs h
  · exact laneChecked_notActs h
  · have hexec : exec (.mcopy cl o) s = execMcopy cl o s := rfl
    rw [hexec, execMcopy, laneChecked_runs (by simp [ha, hb]) hready, hloc, withAddr]
  · have hexec : exec (.swr c o) s = execSwr c o s := rfl
    rw [hexec, execSwr, laneChecked_runs (by simp [ha, hb]) hready, hloc, withAddr]

end Sys2Proof.Machine
end

section
/-!
PROOF. The movers and the edge controller (O28), tiles closed and checked (O29).
-/
namespace Sys2Proof.Machine

section
variable {cl : Fin 32} {o : OpAB} {s : State} {a d n : Nat}

theorem exec_mcopy (hready : laneReady s (moveLane cl) 0x10 o 1 = true) (hra : opRsv o.a 27 = true) (hrb : opRsv o.b 25 = true)
    (hn : opField o.a 25 2 + 1 = n) (ha : location o.a n = some a) (hd : location o.b n = some d) :
    exec (.mcopy cl o) s = .next (countTier (countTier (later (ran s (moveLane cl) 1) 16 (.mem d (readMem s a (32 * n)) (marksOf s a n)))
      (moveLane cl) 0 (32 * n)) (moveLane cl) 1 (32 * n)) := by
  have hexec : exec (.mcopy cl o) s = execMcopy cl o s := rfl
  rw [hexec, execMcopy, laneChecked_runs (by simp [hra, hrb]) hready, hn, ha, withAddr, hd, withAddr]
  rfl

/-- Returned credits change the credits alone. -/
theorem returnCredits_of_flash {s t : State} (fc g n : Nat) (h : t.flash = s.flash) :
    returnCredits t fc g n = { t with flash := { s.flash with credits := (returnCredits s fc g n).flash.credits } } := by
  simp only [returnCredits, h]

theorem exec_mxbuf {g : Nat} (hready : laneReady s (moveLane cl) 0x11 o 1 = true) (hra : opRsv o.a 21 = true) (hrb : opRsv o.b 25 = true)
    (hn : opField o.a 19 2 + 1 = n) (hg : opField o.a 0 17 = g) (hroom : g + n ≤ 131072) (hd : location o.b n = some d) :
    let x := xAddr (4194304 * opField o.a 17 2 + 32 * g)
    exec (.mxbuf cl o) s = .next (countTier (returnCredits (later (ran s (moveLane cl) 1) 32 (.mem d (readMem s x (32 * n)) (marksOf s x n)))
      (opField o.a 17 2) g n) (moveLane cl) 1 (32 * n)) := by
  have hexec : exec (.mxbuf cl o) s = execMxbuf cl o s := rfl
  have hfits : g + n ≤ credits * credGranules := hroom
  rw [hexec, execMxbuf]
  dsimp only
  rw [laneChecked_runs (by simp [hra, hrb]) hready, hn, hg, if_pos hfits, withAddr, hd, withAddr]
  rfl

/-- BRD and BWR go on with their addresses where these exist. -/
theorem edgeOp_runs {op : Nat} {f : State → Nat → Nat → Nat → Host.Outcome State Fault Refusal} (hready : laneReady s edgeLane op o 1 = true)
    (hrb : opRsv o.b 28 = true) (hn : 128 * (opField o.b 25 3 + 1) = n) (hlimit : n ≤ edgeLimit s.setup.running)
    (hroom : 128 * o.a.toNat + n ≤ dumpBase) (hd : location o.b (n / 32) = some d) :
    edgeOp op o s f = f (ran s edgeLane 1) (t2Addr (128 * o.a.toNat)) d n := by
  unfold edgeOp
  dsimp only
  rw [hn, laneChecked_runs (by simp [hrb, hlimit]) hready, if_pos hroom, withAddr, hd, withAddr]

theorem exec_brd (hready : laneReady s edgeLane 0x10 o 1 = true) (hrb : opRsv o.b 28 = true) (hn : 128 * (opField o.b 25 3 + 1) = n)
    (hlimit : n ≤ edgeLimit s.setup.running) (hroom : 128 * o.a.toNat + n ≤ dumpBase) (hd : location o.b (n / 32) = some d) :
    exec (.brd o) s = .next (countTier (later (ran s edgeLane 1) 256
      (.mem d (readMem s (t2Addr (128 * o.a.toNat)) n) (marksOf s (t2Addr (128 * o.a.toNat)) (n / 32)))) edgeLane 5 n) := by
  have hexec : exec (.brd o) s = execBrd o s := rfl
  rw [hexec, execBrd, edgeOp_runs hready hrb hn hlimit hroom hd]
  rfl

theorem exec_bwr (hready : laneReady s edgeLane 0x11 o 1 = true) (hrb : opRsv o.b 28 = true) (hn : 128 * (opField o.b 25 3 + 1) = n)
    (hlimit : n ≤ edgeLimit s.setup.running) (hroom : 128 * o.a.toNat + n ≤ dumpBase) (hd : location o.b (n / 32) = some d) :
    exec (.bwr o) s = .next (countTier (later (ran s edgeLane 1) 256
      (.mem (t2Addr (128 * o.a.toNat)) (readMem s d n) (marksOf s d (n / 32)))) edgeLane 6 n) := by
  have hexec : exec (.bwr o) s = execBwr o s := rfl
  rw [hexec, execBwr, edgeOp_runs hready hrb hn hlimit hroom hd]
  rfl

/-- The burst count of what a gather has read. -/
def gatherBursts (got : List (Nat × Nat)) : Nat := got.foldl (fun n e => n + ceilDiv e.2 64) 0

theorem exec_bgather {steps : Nat} (hready : laneReady s edgeLane 0x12 o steps = true) (hra : opRsv o.a 19 = true) (hrb : opRsv o.b 25 = true)
    (ha : nsAddr (32 * opField o.a 0 19) = a) (hroom : addrOk a (32 + 8 * readNat s a 2) = true) :
    let es := (List.range (readNat s a 2)).map fun i => readNat s (a + 32 + 8 * i) 8
    let got := gather es (steps - 256)
    let data := got.flatMap fun e => readMem s (t2Addr e.1) e.2
    location o.b (granulesOf data.length) = some d →
    exec (.bgather o steps) s = .next (countTier (later (later
      (if gatherCut es (steps - 256) then countSeen (ran s edgeLane steps) 1 edgeLane else ran s edgeLane steps) steps (cleanMem d data)) steps
      (.mem (a + 2) (leBytes 2 got.length) [])) edgeLane 5 (64 * gatherBursts got)) := by
  intro es got data hd
  have hexec : exec (.bgather o steps) s = execBgather o steps s := rfl
  have hn : readNat (ran s edgeLane steps) a 2 = readNat s a 2 := rfl
  rw [hexec, execBgather, laneChecked_runs (by simp [hra, hrb]) hready]
  dsimp only
  rw [ha, hn, if_pos hroom, withAddr]
  have hes : (List.range (readNat s a 2)).map (fun i => readNat (ran s edgeLane steps) (a + 32 + 8 * i) 8) = es := rfl
  rw [hes]
  have hread : ∀ t : State, t.mem = s.mem → (gather es (steps - 256)).flatMap (fun e => readMem t (t2Addr e.1) e.2) = data := by
    intro t ht
    refine congrArg (fun f => List.flatMap f got) (funext fun e => ?_)
    unfold readMem readSram
    rw [ht]
  rw [hread _ (by split <;> rfl), hd, withAddr]
  rfl

end

/-- Settles O28: the movers' meanings, each with its whole effect. -/
theorem moversCopyGranules : Obligations.MoversCopyGranules := by
  refine ⟨fun cl o s a d => ⟨?_, ?_, ?_⟩, fun o steps s d hready hra hrb => ?_⟩
  · intro hready hra hrb n ha hd
    exact .of_exec (exec_mcopy hready hra hrb rfl ha hd) (((Lands.one ..).countTier ..).countTier ..)
  · intro hready hra hrb n g hroom hd x
    have hexec := exec_mxbuf hready hra hrb rfl rfl hroom hd
    dsimp only at hexec
    rw [returnCredits_of_flash (s := s)] at hexec
    · exact .of_exec hexec ⟨rfl, rfl, rfl⟩
    · rfl
  · intro hrb n hlimit hroom hd
    exact ⟨fun hready => .of_exec (exec_brd hready hrb rfl hlimit hroom hd) ((Lands.one ..).countTier ..),
      fun hready => .of_exec (exec_bwr hready hrb rfl hlimit hroom hd) ((Lands.one ..).countTier ..)⟩
  · intro a es got data hroom hd ws
    have hexec := exec_bgather hready hra hrb rfl hroom hd
    refine ⟨fun hcut => ?_, fun hcut => ?_⟩
    · have hno : ¬ gatherCut es (steps - 256) = true := by simp [hcut]
      rw [if_neg hno] at hexec
      exact .of_exec hexec (((Lands.one ..).later rfl _).countTier ..)
    · rw [if_pos hcut] at hexec
      exact .of_exec hexec ⟨rfl, ((Lands.one s edgeLane steps steps (cleanMem d data)).later rfl (.mem (a + 2) (leBytes 2 got.length) [])).2.1, rfl⟩

/-! ### Tiles -/

section
variable {cl : Fin 32} {o : OpAB} {steps : Nat} {s : State} {a : Nat}

/-- MCLOSE and MCHECK go on with the header's address where it exists. -/
theorem tileOp_runs {op : Nat} {f : State → Nat → Nat → Host.Outcome State Fault Refusal}
    (hready : laneReady s (moveLane cl) op o steps = true) (hra : opRsv o.a 25 = true) (hrb : opRsv o.b 9 = true)
    (hfmt : fmtOk (opField o.b 0 8) = true) (hsteps : closeSteps (payloadBytes (opField o.b 0 8) (bit o.b.toNat 8)) ≤ steps)
    (ha : location o.a (1 + payloadBytes (opField o.b 0 8) (bit o.b.toNat 8) / 32) = some a) :
    tileOp cl op o steps s f = f (ran s (moveLane cl) steps) a (payloadBytes (opField o.b 0 8) (bit o.b.toNat 8)) := by
  unfold tileOp
  dsimp only
  rw [laneChecked_runs (by simp [hra, hrb, hfmt, hsteps]) hready, ha, withAddr]

end

/-- Settles O29: the branches of MCLOSE and MCHECK. -/
theorem tilesAreClosedAndChecked : Obligations.TilesAreClosedAndChecked := by
  intro cl o steps s a pl hdr lane checks hra hrb hfmt hsteps ha
  have hcheck (hready : checks) : exec (.mcheck cl o steps) s =
      if fld hdr 0 0 8 ≠ opField o.b 0 8 ∨ fld hdr 0 8 1 ≠ opField o.b 8 1 then
        .next (countArith (logFault (countTier (ran s lane steps) lane 0 (32 + pl)) (formatFault s lane hdr)) lane 4 1)
      else if tileSound s a (a + 32) pl then .next (countTier (ran s lane steps) lane 0 (32 + pl))
      else .next (poisonFinding (countTier (ran s lane steps) lane 0 (32 + pl)) (fld hdr 12 0 32) (fld hdr 16 0 32) lane steps) := by
    have hexec : exec (.mcheck cl o steps) s = execMcheck cl o steps s := rfl
    rw [hexec, execMcheck, tileOp_runs hready hra hrb hfmt hsteps ha]
    rfl
  refine ⟨fun hready => ?_, fun hg h => ?_, fun hready hf hr => ⟨fun hs => ?_, fun hs => ?_⟩, fun hready hf hlog => ?_⟩
  · have hexec : exec (.mclose cl o steps) s = execMclose cl o steps s := rfl
    rw [execMclose, tileOp_runs hready hra hrb hfmt hsteps ha] at hexec
    obtain ⟨hworks, hsends, honly⟩ := ((Lands.one s lane steps (steps + 15)
      (.mem a (scaleHeader s a (closeHeader hdr (readMem s (a + 32) pl))) (marksOf s a 1))).countTier lane 0 (32 + pl)).countTier lane 1 32
    exact .of_exec hexec ⟨hworks, honly, hsends⟩
  · rw [scaleHeader, hg]
  · have h := hcheck hready
    rw [if_neg (by simp [hf, hr]), if_pos hs] at h
    exact .of_exec h ((Lands.ran ..).countTier ..)
  · have h := hcheck hready
    rw [if_neg (by simp [hf, hr]), if_neg (by simp [hs])] at h
    exact .of_exec h (poisonFinding_findings ..)
  · have h := hcheck hready
    rw [if_pos (.inl hf)] at h
    refine .of_exec h ⟨?_, ?_⟩
    · rw [countArith_dump, logFault_log (s := countTier (ran s lane steps) lane 0 (32 + pl)) hlog]
      rfl
    · rw [countArith_recs, logFault_recs]
      rfl

end Sys2Proof.Machine
end

section
/-!
SUPPORT. What the NBUs of a segment leave: the times until which units work, the node state and the queue.
-/
namespace Sys2Proof.Machine

/-- What no NBU of a segment touches. -/
def State.beside (s : State) : Cells Nat × Node × List Instr := (s.run.busy, s.node, s.pending)

section
variable (s : State)

@[simp] theorem writeMem_beside (a : Nat) (bs : Bytes) : (writeMem s a bs).beside = s.beside := by
  unfold writeMem
  split <;> rfl

@[simp] theorem writeIn_beside (k a : Nat) (bs : Bytes) : (writeIn s k a bs).beside = s.beside := by
  unfold writeIn
  split
  · exact writeMem_beside ..
  · rfl

@[simp] theorem addItem_beside (cls : Nat) (w : Work) (lane : Nat) (urgent : Bool) (left : Nat) :
    (addItem s cls w lane urgent left).beside = s.beside := by
  simp [State.beside]

@[simp] theorem logFault_beside (f : FaultInfo) : (logFault s f).beside = s.beside := by simp [State.beside]

@[simp] theorem poisonTile_beside (obj tile lane k : Nat) : (poisonTile s obj tile lane k).beside = s.beside := by
  unfold poisonTile
  rw [addItem_beside, logFault_beside]
  split
  · rfl
  · split
    · rfl
    · split
      · exact writeIn_beside ..
      · rfl

@[simp] theorem poisonFinding_beside (obj tile lane k : Nat) : (poisonFinding s obj tile lane k).beside = s.beside := poisonTile_beside ..

theorem columnFinding_beside (c : Chan) (k a : Nat) : (columnFinding s c k a).beside = s.beside := by
  unfold columnFinding
  split
  · exact poisonFinding_beside ..
  · rfl

theorem ueFindings_beside (c : Chan) (pos k : Nat) (bad : List Nat) : (ueFindings s c pos k bad).beside = s.beside :=
  foldl_keeps State.beside (fun s g => columnFinding s c k (pairAddr c pos + 32 * g)) (fun _ _ => columnFinding_beside ..) bad s

theorem segWrite_beside (k a : Nat) (bs : Bytes) (marks : List Bool) : (segWrite s k a bs marks).beside = s.beside :=
  writeMem_beside s a bs

theorem closeTile_beside (k : Nat) (x : Option OpenTile) : (closeTile s k x).beside = s.beside := by
  unfold closeTile
  split
  · rfl
  · split
    · rfl
    · split
      · rfl
      · exact segWrite_beside ..

theorem readElem_beside (c : Chan) (pos k : Nat) (ue : List Nat) (t : NTask) (n : Nbu) (i : Nat) :
    (readElem s c pos k ue t n i).1.beside = s.beside := by
  unfold readElem
  dsimp only
  split
  · exact ueFindings_beside ..
  · split
    · split <;> rfl
    · rfl

theorem writeUnit_beside (c : Chan) (pos k : Nat) (ue : List Nat) (t : NTask) (n : Nbu) (u : Nat) :
    (writeUnit s c pos k ue t n u).1.beside = s.beside := by
  unfold writeUnit
  dsimp only
  split
  · exact ueFindings_beside ..
  · exact segWrite_beside ..

end

section
variable (c : Chan) (pos len : Nat) (ue : List Nat)

theorem readRun_beside (t : NTask) (k : Nat) (s : State) (n : Nbu) (left : Nat) : (readRun c pos len ue t k s n left).1.beside = s.beside := by
  induction k generalizing s n left with
  | zero => rfl
  | succ k ih =>
    unfold readRun
    dsimp only
    split
    · rw [ih, readElem_beside]
    · rfl

theorem writeRun_beside (t : NTask) (k : Nat) (s : State) (n : Nbu) (left : Nat) (open' : Option OpenTile) :
    (writeRun c pos len ue t k s n left open').1.beside = s.beside := by
  induction k generalizing s n left open' with
  | zero => exact closeTile_beside ..
  | succ k ih =>
    unfold writeRun
    extract_lets tile change need s1 keep p
    have h1 : s1.beside = s.beside := by
      simp only [s1]
      split
      · exact closeTile_beside ..
      · rfl
    generalize (need + if tile.isSome = true then 2 else 0) = room
    split
    · exact (ih ..).trans ((writeUnit_beside ..).trans h1)
    · exact closeTile_beside ..

theorem runNbu_beside (k : Nat) (s : State) (n : Nbu) (left : Nat) : (runNbu c pos len ue k s n left).1.beside = s.beside := by
  induction k generalizing s n left with
  | zero => rfl
  | succ k ih =>
    unfold runNbu
    split
    · rfl
    · rename_i t r hq
      dsimp only
      split
      · rfl
      · split
        · split
          · exact ih ..
          · rfl
        · generalize (if tReads t.bytes then tCount t.bytes else writeUnits t.bytes) = total
          have hrun : (if n.units = total then (s, n, left)
              else if tReads t.bytes then readRun c pos len ue t (total - n.units) s n left
              else writeRun c pos len ue t (total - n.units) s n left none).1.beside = s.beside := by
            split
            · rfl
            · split
              · exact readRun_beside ..
              · exact writeRun_beside ..
          generalize (if n.units = total then (s, n, left)
              else if tReads t.bytes then readRun c pos len ue t (total - n.units) s n left
              else writeRun c pos len ue t (total - n.units) s n left none) = run at hrun
          obtain ⟨s', n', left'⟩ := run
          dsimp only at hrun ⊢
          split
          · exact hrun
          · split
            · exact (ih ..).trans hrun
            · exact hrun

theorem segNbu_beside (s : State) (p : Nat) : (segNbu c len ue s p).beside = s.beside := by
  unfold segNbu
  dsimp only
  generalize hr : runNbu c p len ue _ s _ len = r
  have hrun := congrArg (fun r => r.1.beside) hr
  obtain ⟨s', n'⟩ := r
  exact hrun.symm.trans (runNbu_beside ..)

theorem segment_beside (mask : Nat) (s : State) : (segment c len mask ue s).beside = s.beside :=
  foldl_keeps State.beside (segNbu c len ue) (segNbu_beside c len ue) _ s

end

/-! ### SRD, SWR and NSEG -/

/-- One granule of SRD. -/
def srdStep (s : State) (a ue : Nat) (acc : Bytes × State) (i : Nat) : Bytes × State :=
  if bit ue i then (acc.1 ++ leBytes 32 (draw acc.2).1, (draw acc.2).2) else (acc.1 ++ readMem s (a + 32 * i) 32, acc.2)

theorem srdData_eq (s : State) (a n ue : Nat) : srdData s a n ue = (List.range n).foldl (srdStep s a ue) ([], s) := rfl

theorem foldl_srdStep_zero (s : State) (a : Nat) (l : List Nat) (acc : Bytes × State) :
    l.foldl (srdStep s a 0) acc = (acc.1 ++ l.flatMap fun i => readMem s (a + 32 * i) 32, acc.2) := by
  induction l generalizing acc with
  | nil => simp
  | cons i l ih =>
    rw [List.foldl_cons, ih, srdStep, if_neg (by simp [bit]), List.flatMap_cons, List.append_assoc]

/-- Granules without an uncorrectable column are read as they stand. -/
theorem srdData_zero (s : State) (a n : Nat) : srdData s a n 0 = ((List.range n).flatMap fun i => readMem s (a + 32 * i) 32, s) :=
  foldl_srdStep_zero s a (List.range n) ([], s)

theorem foldl_srdStep_drawn (s : State) (a ue : Nat) (l : List Nat) (acc : Bytes × State) (h : ∃ k, acc.2 = { s with drawn := k }) :
    ∃ k, (l.foldl (srdStep s a ue) acc).2 = { s with drawn := k } := by
  induction l generalizing acc with
  | nil => exact h
  | cons i l ih =>
    refine ih _ ?_
    obtain ⟨k, hk⟩ := h
    unfold srdStep
    split
    · exact ⟨k + 1, by rw [hk]; rfl⟩
    · exact ⟨k, hk⟩

/-- SRD draws free values for what it cannot read, and changes nothing else as it reads. -/
theorem srdData_drawn (s : State) (a n ue : Nat) : ∃ k, (srdData s a n ue).2 = { s with drawn := k } :=
  foldl_srdStep_drawn s a ue (List.range n) ([], s) ⟨s.drawn, rfl⟩

section
variable {c : Chan} {o : OpAB} {s : State} {a d n : Nat}

theorem exec_srd {e : Ecc} (hready : laneReady s (chLane c) 0x10 o 1 = true) (hra : opRsv o.a 29 = true) (hrb : opRsv o.b 26 = true)
    (hn : opField o.a 27 2 + 1 = n) (ha : chPlace c (opField o.a 0 27) n = some a) (hd : srdPlace o.b n = some d) :
    let ue := e.uncorrectable.toNat % 2 ^ n
    let marks := List.zipWith (fun m i => m || bit ue i) (marksOf s a n) (List.range n)
    let data := srdData (ran s (chLane c) 1) a n ue
    exec (.srd c o e) s = .next (count (count (countTier (later data.2 64 (.mem d data.1 marks)) (chLane c) 2 (32 * n))
      (laneDomain (chLane c)) 4 (16 * c.stack + c.ch) 0 (32 * n)) (laneDomain (chLane c)) 4 (16 * c.stack + c.ch) 4 (popCount n e.corrected.toNat)) := by
  have hexec : exec (.srd c o e) s = execSrd c o e s := rfl
  rw [hexec, execSrd, laneChecked_runs (by simp [hra, hrb]) hready, hn, ha, withAddr, hd, withAddr]
  rfl

theorem exec_swr (hready : laneReady s (chLane c) 0x11 o 1 = true) (hra : opRsv o.a 29 = true) (hrb : opRsv o.b 26 = true)
    (hn : opField o.a 27 2 + 1 = n) (ha : chPlace c (opField o.a 0 27) n = some a) (hd : srdPlace o.b n = some d) :
    exec (.swr c o) s = .next (count (countTier (later (ran s (chLane c) 1) 64 (.mem a (readMem s d (32 * n)) (marksOf s d n))) (chLane c) 3 (32 * n))
      (laneDomain (chLane c)) 4 (16 * c.stack + c.ch) 1 (32 * n)) := by
  have hexec : exec (.swr c o) s = execSwr c o s := rfl
  rw [hexec, execSwr, laneChecked_runs (by simp [hra, hrb]) hready, hn, ha, withAddr, hd, withAddr]
  rfl

theorem exec_nseg {steps corrected : Nat} {ue : List (BitVec 27)} (hready : laneReady s (chLane c) 0x18 o steps = true)
    (hra : opRsv o.a 24 = true) (hb : o.b = 0#32)
    (hplate : ∀ p, s.run.plate = some p → popCount 24 (opField o.a 0 24) ≤ inkPositions p.ink ∧ steps ≤ segLimit s.setup.running) :
    let mask := opField o.a 0 24
    let bytes := 16 * steps * popCount 24 mask
    exec (.nseg c o steps ue corrected) s = .next (count (count (countTier
      (segment c steps mask (ue.map BitVec.toNat) (ran s (chLane c) steps)) (chLane c) 4 bytes)
      (laneDomain (chLane c)) 4 (16 * c.stack + c.ch) 2 bytes) (laneDomain (chLane c)) 4 (16 * c.stack + c.ch) 4 corrected) := by
  have hexec : exec (.nseg c o steps ue corrected) s = execNseg c o steps ue corrected s := rfl
  have hok : (match s.run.plate with
      | none => true
      | some p => decide (popCount 24 (opField o.a 0 24) ≤ inkPositions p.ink) && decide (steps ≤ segLimit s.setup.running)) = true := by
    split
    · rfl
    · rename_i p hp
      simp [hplate p hp]
  rw [hexec, execNseg]
  exact laneChecked_runs (by rw [hra, hb, opRsv_zero]; exact hok) hready

/-- A segment of no NBU changes nothing. -/
theorem segment_zero (c : Chan) (steps : Nat) (ue : List Nat) (s : State) : segment c steps 0 ue s = s := by
  have hnone : (List.range 24).filter (bit 0) = [] := by decide
  unfold segment
  rw [hnone]
  rfl

end

/-- Without an uncorrectable column the marks of the granules go with them. -/
theorem zipWith_marks_zero (ms : List Bool) (n : Nat) (h : ms.length = n) :
    List.zipWith (fun m i => m || bit 0 i) ms (List.range n) = ms := by
  refine List.ext_getElem (by simp [h]) fun i h1 h2 => ?_
  simp [bit]

/-- Settles O27: each command's meaning, and what the NBUs of a segment leave (`segment_beside`). -/
theorem stackChannelsCompute : Obligations.StackChannelsCompute := by
  refine ⟨?_, ?_⟩
  · intro c o s a d n hra hrb ha hd
    refine ⟨fun e hready hue => ?_, fun e hready => ?_, fun hready => ?_⟩
    · have hexec := exec_srd (e := e) hready hra hrb rfl ha hd
      have hzero : e.uncorrectable.toNat % 2 ^ n = 0 := by simp [hue]
      dsimp only at hexec
      rw [hzero, srdData_zero, zipWith_marks_zero (marksOf s a n) n (cgetN_length ..)] at hexec
      exact .of_exec hexec ((((Lands.one ..).countTier ..).count ..).count ..)
    · have hexec := exec_srd (e := e) hready hra hrb rfl ha hd
      obtain ⟨k, hk⟩ := srdData_drawn (ran s (chLane c) 1) a n (e.uncorrectable.toNat % 2 ^ n)
      dsimp only at hexec
      rw [hk] at hexec
      exact .of_exec hexec ⟨_, _, rfl, rfl, rfl, rfl, rfl, rfl⟩
    · exact .of_exec (exec_swr hready hra hrb rfl ha hd) (((Lands.one ..).countTier ..).count ..)
  · intro c o steps ue corrected s hready hra hb hplate
    have hbeside := segment_beside c steps (ue.map BitVec.toNat) (opField o.a 0 24) (ran s (chLane c) steps)
    simp only [State.beside, Prod.mk.injEq] at hbeside
    obtain ⟨hbusy, hnode, hpending⟩ := hbeside
    refine .of_exec (exec_nseg hready hra hb hplate) ⟨hbusy, rfl, rfl, rfl, fun hmask => ?_, hnode, hpending⟩
    rw [hmask, segment_zero]
    exact ⟨rfl, rfl⟩

end Sys2Proof.Machine
end

section
/-!
SUPPORT. The tree walkers: what TSKETCH, TWALK and TPLAN do once they run, and what planning leaves.
-/
namespace Sys2Proof.Machine

/-! ### Sketches (R121) -/

/-- Bit j of a sketch says whether value j is greater than +0. -/
theorem bit_sketchNat (vs : List W32) (j : Nat) (h : j < vs.length) : bit (sketchNat vs) j = positive32 (vs.getD j 0) := by
  induction vs generalizing j with
  | nil => simp at h
  | cons v vs ih =>
    cases j with
    | zero =>
      show (sketchNat (v :: vs) >>> 0 % 2 == 1) = positive32 v
      cases hp : positive32 v <;> simp [sketchNat, hp, b2n, Nat.add_mod]
    | succ j =>
      have hdiv : (b2n (positive32 v) + 2 * sketchNat vs) / 2 = sketchNat vs := by
        cases positive32 v
        · simp [b2n]
        · simp only [b2n, if_true]
          omega
      have hshift : sketchNat (v :: vs) >>> (j + 1) = sketchNat vs >>> j := by
        rw [sketchNat, Nat.add_comm j 1, Nat.shiftRight_add, Nat.shiftRight_eq_div_pow _ 1, Nat.pow_one, hdiv]
      rw [bit, hshift]
      exact ih j (by simpa using h)

/-- What a walker reads does not depend on the unit's time. -/
theorem readNodes_congr {s t : State} (h : t.mem = s.mem) (base w : Nat) (l : List Nat) : readNodes t base w l = readNodes s base w l := by
  have hread : readMem t = readMem s := by
    funext a n
    unfold readMem readSram
    rw [h]
  induction l with
  | nil => rfl
  | cons x l ih => rw [readNodes, readNodes, ih, hread]

theorem walkLevels_congr {s t : State} (h : t.mem = s.mem) (base w sk : Nat) (f : Filter) (widths beam : List Nat) (left : Nat) :
    walkLevels t base w sk f widths beam left = walkLevels s base w sk f widths beam left := by
  induction widths generalizing beam left with
  | nil => rfl
  | cons x r ih => simp only [walkLevels, walkLevel, readNodes_congr h, ih]

section
variable {q : Fin 4} {o : OpAB} {steps : Nat} {s : State}

theorem exec_tsketch {a b w : Nat} (hready : laneReady s (walkLane q) 0x12 o steps = true) (hra : opRsv o.a 19 = true)
    (hrb : opRsv o.b 21 = true) (hwd : opField o.b 19 2 ≠ 3) (hw : sketchBits (opField o.b 19 2) = w)
    (ha : place false 0 (opField o.a 0 19) (w / 8) = some a) (hb : place false 0 (opField o.b 0 19) (granulesOf (w / 8)) = some b) :
    exec (.tsketch q o steps) s = if steps < w / 64 then .next (ran s (walkLane q) steps)
      else .next (countArith (later (ran s (walkLane q) steps) steps (cleanMem b (leBytes (w / 8) (sketchNat (valuesAt s a w))))) (walkLane q) 1
        (nanCount (valuesAt s a w))) := by
  have hexec : exec (.tsketch q o steps) s = execTsketch q o steps s := rfl
  rw [hexec, execTsketch, laneChecked_runs (by simp [hra, hrb, hwd]) hready]
  dsimp only
  rw [hw, ha, withAddr, hb, withAddr]
  rfl

theorem exec_twalk_of_none (hready : laneReady s (walkLane q) 0x10 o steps = true) (hra : opRsv o.a 19 = true) (hb : o.b = 0#32)
    (hd : findDesc s 1 (fld (readMem s (nsAddr (32 * opField o.a 0 19)) 64) 0 0 16) = none) :
    exec (.twalk q o steps) s = .next (ran s (walkLane q) steps) := by
  have hexec : exec (.twalk q o steps) s = execTwalk q o steps s := rfl
  have hd' : findDesc (ran s (walkLane q) steps) 1 (fld (readMem (ran s (walkLane q) steps) (nsAddr (32 * opField o.a 0 19)) 64) 0 0 16) = none := hd
  rw [hexec, execTwalk, laneChecked_runs (by simp [hra, hb]) hready]
  dsimp only
  rw [hd']

theorem exec_twalk_of_desc {d : Desc} {a w : Nat} (hready : laneReady s (walkLane q) 0x10 o steps = true) (hra : opRsv o.a 19 = true)
    (hb : o.b = 0#32) (ha : nsAddr (32 * opField o.a 0 19) = a) (hd : findDesc s 1 (fld (readMem s a 64) 0 0 16) = some d)
    (hw : sketchBits (dWidth d) = w) (hroom : addrOk a (64 + 4 * w + w / 8 + 512) = true) :
    let s1 := ran s (walkLane q) steps
    let sk := sketchNat (valuesAt s (a + 64) w)
    exec (.twalk q o steps) s = if steps < w / 64 then .next (later s1 steps (blockFlags a 0 true))
      else match walkLevels s (dTop d) (dWidth d) sk ⟨fld (readMem s a 64) 4 0 32, fld (readMem s a 64) 8 0 32⟩
          [fld d.bytes 8 0 8, fld d.bytes 8 8 8, fld d.bytes 8 16 8] [0] (steps - w / 64) with
        | none => .fault .noSuchAddress
        | some (list, abandoned) =>
          .next (countArith (later (later (later s1 steps (cleanMem (a + 64 + 4 * w) (leBytes (w / 8) sk))) steps
            (.mem (a + 64 + 4 * w + w / 8) (list.flatMap (leBytes 8)) [])) steps (blockFlags a list.length abandoned)) (walkLane q) 1
            (nanCount (valuesAt s (a + 64) w))) := by
  have hexec : exec (.twalk q o steps) s = execTwalk q o steps s := rfl
  have hd' : findDesc (ran s (walkLane q) steps) 1 (fld (readMem (ran s (walkLane q) steps) a 64) 0 0 16) = some d := hd
  rw [hexec, execTwalk, laneChecked_runs (by simp [hra, hb]) hready]
  dsimp only
  rw [ha, hd']
  dsimp only
  rw [hw, if_pos hroom, withAddr]
  have hwalk := walkLevels_congr (s := s) (t := ran s (walkLane q) steps) rfl
  simp only [hwalk]
  rfl

end

/-- Settles O31: the two branches of TSKETCH, and the sketch bit by bit. -/
theorem tsketchWritesSignBits : Obligations.TsketchWritesSignBits := by
  intro q o steps s a b w vs hready hra hrb hwd ha hb
  have hexec := exec_tsketch hready hra hrb hwd rfl ha hb
  refine ⟨fun hle => ?_, fun hlt => ?_, bit_sketchNat vs⟩
  · rw [if_neg (by exact Nat.not_lt.2 hle)] at hexec
    exact .of_exec hexec ((Lands.one ..).countArith ..)
  · rw [if_pos hlt] at hexec
    exact .of_exec hexec (Lands.ran ..)

/-- Settles O32: the branches of TWALK. -/
theorem twalkWritesSubtrees : Obligations.TwalkWritesSubtrees := by
  intro q o steps s hready hra hb a head
  refine ⟨fun hd => .of_exec (exec_twalk_of_none hready hra hb hd) (Lands.ran ..), ?_⟩
  intro d hd w sk hroom
  have hexec := exec_twalk_of_desc hready hra hb rfl hd rfl hroom
  dsimp only at hexec
  refine ⟨fun hlt => ?_, fun hle list abandoned hlist => ?_⟩
  · rw [if_pos hlt] at hexec
    exact .of_exec hexec (Lands.one ..)
  · rw [if_neg (by exact Nat.not_lt.2 hle), hlist] at hexec
    exact .of_exec hexec ((((Lands.one ..).later rfl _).later rfl _).countArith ..)

/-! ### Planning -/

/-- The state without the writes on their way. -/
def State.butDelayed (s : State) : State := { s with run := { s.run with delayed := [] } }

theorem writeTask_butDelayed (s : State) (pl : PlanLane) (left : Nat) (c : Chan) (pos : Nat) (b : Bytes) (cap : Nat) :
    (writeTask s pl left c pos b cap).butDelayed = s.butDelayed := rfl

theorem planLeaf_butDelayed {s t : State} {x : PlanCtx} {pl : PlanLane} {node leaf num left : Nat} {r : PlanLeaf × Nat × Bool}
    (h : planLeaf s x pl node leaf num left = some (t, r)) : t.butDelayed = s.butDelayed := by
  unfold planLeaf at h
  split at h
  · cases h
  · dsimp only at h
    split at h
    · cases h
      rfl
    · split at h
      · cases h
        rfl
      · cases h
        rfl

theorem planLeaves_butDelayed (x : PlanCtx) (pl : PlanLane) (l : List (Nat × Nat)) (s : State) (num left : Nat) :
    (planLeaves x pl l s num left).1.butDelayed = s.butDelayed := by
  induction l generalizing s num left with
  | nil => rfl
  | cons p l ih =>
    obtain ⟨node, leaf⟩ := p
    unfold planLeaves
    split
    · rfl
    · rename_i t p cost whole hleaf
      have ht := planLeaf_butDelayed hleaf
      split
      · exact ht
      · exact (ih ..).trans ht

theorem planShare_butDelayed (s : State) (x : PlanCtx) (pl : PlanLane) (planned reserve : List Nat) (cost num left : Nat) :
    (planShare s x pl planned reserve cost num left).1.butDelayed = s.butDelayed := by
  unfold planShare
  split
  · rfl
  · exact planLeaves_butDelayed ..

theorem planShares_butDelayed {x : PlanCtx} {pl : PlanLane} {plans : List (Option (List Nat × List Nat × Nat))} {s t : State} {num left : Nat}
    {r : List PlanShare × Nat × Bool} (h : planShares x pl plans s num left = some (t, r)) : t.butDelayed = s.butDelayed := by
  induction plans generalizing s num left t r with
  | nil =>
    cases h
    rfl
  | cons p plans ih =>
    cases p with
    | none => cases h
    | some p =>
      obtain ⟨a, b, cost⟩ := p
      unfold planShares at h
      have hshare := planShare_butDelayed s x pl a b cost num left
      generalize planShare s x pl a b cost num left = out at h hshare
      obtain ⟨s', sh, num', left', all⟩ := out
      dsimp only at h hshare
      split at h
      · cases h
        exact hshare
      · rw [Option.map_eq_some_iff] at h
        obtain ⟨u, hu, he⟩ := h
        cases he
        exact (ih hu).trans hshare

theorem widenShares_butDelayed (x : PlanCtx) (pl : PlanLane) (l : List PlanShare) (s : State) (num left : Nat) :
    (widenShares x pl l s num left).1.butDelayed = s.butDelayed := by
  induction l generalizing s num left with
  | nil => rfl
  | cons sh l ih =>
    unfold widenShares
    split
    · exact ih ..
    · have hleaves (ls : List (Nat × Nat)) := planLeaves_butDelayed x pl ls s num left
      dsimp only
      split
      · exact (ih ..).trans (hleaves _)
      · exact hleaves _

section
variable {s t : State} (h : t.butDelayed = s.butDelayed)
include h

theorem mem_of_butDelayed : t.mem = s.mem := by simpa only [State.butDelayed] using congrArg State.mem h
theorem node_of_butDelayed : t.node = s.node := by simpa only [State.butDelayed] using congrArg State.node h
theorem units_of_butDelayed : t.units = s.units := by simpa only [State.butDelayed] using congrArg State.units h
theorem frame_of_butDelayed : t.run.frame = s.run.frame := by simpa only [State.butDelayed] using congrArg (fun u => u.run.frame) h

end

theorem markAbandoned_butDelayed (s : State) (a steps : Nat) (all : Bool) : (markAbandoned s a steps all).butDelayed = s.butDelayed := by
  unfold markAbandoned
  split <;> rfl

/-- A plan that was finished needs no mark. -/
theorem markAbandoned_true (s : State) (a steps : Nat) : markAbandoned s a steps true = s := rfl

section
variable {q : Fin 4} {o : OpAB} {steps blk a : Nat} {s : State}

theorem exec_tplan_of_none (hready : laneReady s (walkLane q) 0x11 o steps = true) (hra : opRsv o.a 19 = true) (hb : o.b = 0#32)
    (hblk : opField o.a 0 19 = blk) (hctx : planCtx s blk = none) : exec (.tplan q o steps) s = .next (ran s (walkLane q) steps) := by
  have hexec : exec (.tplan q o steps) s = execTplan q o steps s := rfl
  have hctx' : planCtx (ran s (walkLane q) steps) blk = none := hctx
  rw [hexec, execTplan, laneChecked_runs (by simp [hra, hb]) hready]
  dsimp only
  rw [hblk, hctx']

/-- What TPLAN plans does not depend on the unit's time. -/
theorem plans_ran (s : State) (lane n : Nat) (x : PlanCtx) (f : Filter) (ptrs : List Nat) :
    clusterPlans (ran s lane n) x ptrs = clusterPlans s x ptrs ∧ treePlans (ran s lane n) x f ptrs = treePlans s x f ptrs := by
  have hread (a n' : Nat) : readMem (ran s lane n) a n' = readMem s a n' := rfl
  have hnodes (base w : Nat) (l : List Nat) : readNodes (ran s lane n) base w l = readNodes s base w l :=
    readNodes_congr (s := s) (t := ran s lane n) rfl base w l
  have hlist : listLeaves (ran s lane n) = listLeaves s := by
    funext d p
    simp only [listLeaves, listCount, readNat, hread]
  have htree : subtreePlan (ran s lane n) = subtreePlan s := by
    funext x f p
    simp only [subtreePlan, subtreeLeaves, hnodes]
  exact ⟨by simp only [clusterPlans, hlist], by simp only [treePlans, htree]⟩

theorem exec_tplan {x : PlanCtx} {off n : Nat} {ptrs : List Nat} {plans : List (Option (List Nat × List Nat × Nat))}
    (hready : laneReady s (walkLane q) 0x11 o steps = true) (hra : opRsv o.a 19 = true) (hb : o.b = 0#32)
    (hblk : opField o.a 0 19 = blk) (ha : nsAddr (32 * blk) = a) (hctx : planCtx s blk = some x)
    (hoff : 64 + 4 * sketchBits (dWidth x.desc) + sketchBits (dWidth x.desc) / 8 = off) (hn : fld x.head 0x24 0 8 = n)
    (hptrs : (List.range n).map (fun i => readNat s (a + off + 8 * i) 8) = ptrs)
    (hplans : (if dMode x.desc = 1 then clusterPlans s x ptrs else treePlans s x ⟨fld x.head 4 0 32, fld x.head 8 0 32⟩ ptrs) = plans)
    (hroom : addrOk a (off + 8 * n) = true) :
    exec (.tplan q o steps) s = match planShares x ⟨walkLane q, steps⟩ plans (ran s (walkLane q) steps) 0 steps with
      | none => .fault .noSuchAddress
      | some (t, shares, num, all) =>
        let p : Plan := { block := blk, nextNum := num, shares := shares, abandoned := !all, at_ := t.run.frame }
        .next (markAbandoned { t with units := { t.units with plans := t.units.plans.filter (fun p => p.block != blk) ++ [p] } } a steps all) := by
  have hexec : exec (.tplan q o steps) s = execTplan q o steps s := rfl
  have hctx' : planCtx (ran s (walkLane q) steps) blk = some x := hctx
  rw [hexec, execTplan, laneChecked_runs (by simp [hra, hb]) hready]
  dsimp only
  rw [hblk, hctx']
  dsimp only
  rw [ha, hoff, hn, if_pos hroom, withAddr]
  have hptrs' : (List.range n).map (fun i => readNat (ran s (walkLane q) steps)
      (a + 64 + 4 * sketchBits (dWidth x.desc) + sketchBits (dWidth x.desc) / 8 + 8 * i) 8) = ptrs := by
    rw [← hptrs, ← hoff]
    refine List.map_congr_left fun i _ => ?_
    rw [Nat.add_assoc a 64, Nat.add_assoc a]
    rfl
  obtain ⟨hcluster, htree⟩ := plans_ran s (walkLane q) steps x ⟨fld x.head 4 0 32, fld x.head 8 0 32⟩ ptrs
  rw [hptrs', hcluster, htree, hplans] <;> rfl

theorem exec_tplanWiden (hready : laneReady s (walkLane q) 0x11 o steps = true) (hra : opRsv o.a 19 = true) (hb : o.b = 1#32)
    (hblk : opField o.a 0 19 = blk) :
    exec (.tplanWiden q o steps) s = match planCtx s blk, s.units.plans.find? (fun p => p.block == blk) with
      | some x, some p =>
        if neverWidens s blk then .next (ran s (walkLane q) steps)
        else
          let wide := widenShares x ⟨walkLane q, steps⟩ p.shares (ran s (walkLane q) steps) p.nextNum steps
          let set := fun (r : Plan) =>
            if r.block = blk then { r with nextNum := wide.2.2.1, shares := wide.2.1, abandoned := r.abandoned || !wide.2.2.2 } else r
          .next (markAbandoned { wide.1 with units := { wide.1.units with plans := wide.1.units.plans.map set } } (nsAddr (32 * blk)) steps wide.2.2.2)
      | _, _ => .next (ran s (walkLane q) steps) := by
  have hexec : exec (.tplanWiden q o steps) s = execTplanWiden q o steps s := rfl
  have hctx : planCtx (ran s (walkLane q) steps) blk = planCtx s blk := rfl
  rw [hexec, execTplanWiden, laneChecked_runs (by simp [hra, hb]) hready]
  dsimp only
  rw [hblk, hctx]
  rfl

end

/-- Settles O33: the branches of TPLAN; planning sends tasks and changes nothing else (`planShares_butDelayed`, `widenShares_butDelayed`). -/
theorem tplanKeepsPlans : Obligations.TplanKeepsPlans := by
  intro q o steps s hready hra blk a s1 lane
  refine ⟨fun hctx hb => exec_tplan_of_none hready hra hb rfl hctx, fun hno hb => ?_, ?_⟩
  · rw [exec_tplanWiden hready hra hb rfl]
    split
    · rename_i x p hctx hp
      rcases hno with hno | hno
      · rw [hno] at hctx
        cases hctx
      · rw [if_pos hno]
    · rfl
  · intro x hctx off n ptrs plans
    refine ⟨fun hb hroom s2 shares num all hplans => ?_, fun hb hnever p hp => ?_⟩
    · have hexec := exec_tplan hready hra hb rfl rfl hctx rfl rfl rfl rfl hroom
      rw [hplans] at hexec
      have h2 := planShares_butDelayed hplans
      have hunits : s2.units = s1.units := units_of_butDelayed h2
      have hframe : s2.run.frame = s1.run.frame := frame_of_butDelayed h2
      have hmem : s2.mem = s1.mem := mem_of_butDelayed h2
      have hnode : s2.node = s1.node := node_of_butDelayed h2
      have ht := markAbandoned_butDelayed { s2 with units := { s2.units with plans := s2.units.plans.filter (fun p => p.block != blk) ++
        [{ block := blk, nextNum := num, shares := shares, abandoned := !all, at_ := s2.run.frame }] } } a steps all
      refine .of_exec hexec ⟨?_, ?_, ?_, fun hall => ?_⟩
      · rw [units_of_butDelayed ht, hunits, hframe]
        rfl
      · rw [mem_of_butDelayed ht]
        exact hmem
      · rw [node_of_butDelayed ht]
        exact hnode
      · rw [hall, markAbandoned_true]
    · intro wide
      have hexec := exec_tplanWiden hready hra hb rfl
      rw [hctx, hp] at hexec
      dsimp only at hexec
      have hno : ¬ neverWidens s blk = true := by simp [hnever]
      rw [if_neg hno] at hexec
      have h2 : wide.1.butDelayed = s1.butDelayed := widenShares_butDelayed x lane p.shares s1 p.nextNum steps
      have ht := markAbandoned_butDelayed { wide.1 with units := { wide.1.units with plans := wide.1.units.plans.map fun r =>
        if r.block = blk then { r with nextNum := wide.2.2.1, shares := wide.2.1, abandoned := r.abandoned || !wide.2.2.2 } else r } }
        (nsAddr (32 * blk)) steps wide.2.2.2
      have hunits : wide.1.units = s1.units := units_of_butDelayed h2
      have hmem : wide.1.mem = s1.mem := mem_of_butDelayed h2
      have hnode : wide.1.node = s1.node := node_of_butDelayed h2
      refine .of_exec hexec ⟨?_, ?_, ?_, fun hall => ?_⟩
      · rw [units_of_butDelayed ht, hunits]
        rfl
      · rw [mem_of_butDelayed ht]
        exact hmem
      · rw [node_of_butDelayed ht]
        exact hnode
      · rw [hall, markAbandoned_true]

end Sys2Proof.Machine
end

section
/-!
PROOF. task ends (O34), MAINT (O36), the flash lanes (O37), FSEND (O38) and SADMIT (O39).
-/
namespace Sys2Proof.Machine

/-! ### The chain -/

/-- A stopped node whose first NBU has ended a task with one chain word, of a scan that its pool's selection did not wait for (R137). -/
def droppedScan : State := { units := { dropped := [0], nbu := [(0, { done := [⟨0, 0, [[]]⟩] })] } }

/-- The word of a scan that nothing waits for is discarded. -/
theorem exec_nbuTaskEnd_droppedScan : ∃ t, exec (.nbuTaskEnd ⟨0, 0⟩ 0) droppedScan = .next t ∧ t.run.delayed = [] := ⟨_, rfl, rfl⟩

/-- Refutes O34: its last clause has the words of every ended task enter the chain, but those of a scan that its pool has dropped do not. -/
theorem not_idleRefreshAndTaskEnd : ¬ Obligations.IdleRefreshAndTaskEnd := by
  intro h
  obtain ⟨-, -, -, hend⟩ := h
  obtain ⟨t, hexec, hdelayed, -⟩ := hend ⟨0, 0⟩ 0 droppedScan ⟨0, 0, [[]]⟩ [] rfl (Nat.le_refl 0) (by decide)
  obtain ⟨u, hu, hnone⟩ := exec_nbuTaskEnd_droppedScan
  cases hexec.symm.trans hu
  rw [hnone] at hdelayed
  cases hdelayed

/-! ### MAINT -/

/-- The lane has begun its `k`-th MAINT step. -/
def maintTaken (s : State) (l k : Nat) : State :=
  countLane { s with run := { s.run with maint := cset 0 s.run.maint l k, busy := cset 0 s.run.busy l (s.run.now + 1) } } l 1 1

/-- Settles O36: the canary, the gate and the item, in this order. -/
theorem maintServesItemOrCanary : Obligations.MaintServesItemOrCanary := by
  intro lane mismatch ecc s r i run hfree hrec hop l k arg
  have hexec : exec (.maintStep lane ⟨mismatch, ecc⟩) s = execMaintStep lane ⟨mismatch, ecc⟩ s := rfl
  rw [execMaintStep, hrec] at hexec
  dsimp only at hexec
  rw [if_neg (by simp [hfree, hop])] at hexec
  by_cases hcanary : k % 256 = 0
  · rw [if_pos hcanary] at hexec
    exact .of_exec hexec ⟨countLane (countLane (maintTaken s l k) l 0 1) l 2 1, rfl, rfl, fun _ => rfl, fun hne => absurd hcanary hne,
      fun hne => absurd hcanary hne⟩
  · rw [if_neg hcanary] at hexec
    by_cases hgate : r.fill = true ∧ s.bg.gate = false
    · rw [if_pos (by simpa using hgate)] at hexec
      exact .of_exec hexec ⟨maintTaken s l k, rfl, rfl, fun heq => absurd heq hcanary, fun _ _ => rfl, fun _ hno => absurd hgate hno⟩
    · rw [if_neg (by simpa using hgate)] at hexec
      have hitem : itemFor (maintTaken s l k) l = itemFor s l := rfl
      rw [← maintTaken, hitem] at hexec
      cases hfor : itemFor s l with
      | none =>
        rw [hfor] at hexec
        exact .of_exec hexec ⟨maintTaken s l k, rfl, rfl, fun heq => absurd heq hcanary, fun _ h => absurd h hgate, fun _ _ => rfl⟩
      | some w =>
        rw [hfor] at hexec
        exact .of_exec hexec ⟨countLane (maintTaken s l k) l 0 1, rfl, rfl, fun heq => absurd heq hcanary, fun _ h => absurd h hgate, fun _ _ => rfl⟩

/-! ### The flash lanes -/

section
variable (s : State) (fc kind arg granules k : Nat)

theorem setCredit_mem (v : Nat) : (setCredit s fc k v).mem = s.mem := by unfold setCredit; split <;> rfl
theorem setCredit_node (v : Nat) : (setCredit s fc k v).node = s.node := by unfold setCredit; split <;> rfl

/-- A credit taken leaves the rest of the flash. -/
theorem setCredit_flash (v : Nat) : (setCredit s fc k v).flash = { s.flash with credits := (setCredit s fc k v).flash.credits } := by
  unfold setCredit
  split <;> rfl

theorem hand_mem : (hand s fc kind arg granules k).mem = s.mem := setCredit_mem ..
theorem hand_node : (hand s fc kind arg granules k).node = s.node := setCredit_node ..

/-- A command handed over stands at the end of its channel's command queue; only a credit is taken besides. -/
theorem hand_flash : (hand s fc kind arg granules k).flash = { s.flash with
    cmdQ := cset [] s.flash.cmdQ fc (cmdQueue s fc ++ [(kind, withCredit arg k)])
    credits := (hand s fc kind arg granules k).flash.credits } := setCredit_flash ..

end

section
variable {fc : Fin 24} {s : State}

theorem exec_fissue (h : laneReady s (fcLane fc) 0x10 ⟨0, 0⟩ 1 = true) : exec (.fissue fc) s = match nextRead s fc, freeCredit s fc with
    | some r, some k =>
      if canHand s fc then .next (hand { ran s (fcLane fc) 1 with flash := { s.flash with
        reads := s.flash.reads.map fun q => if q = r then { q with stage := 1 } else q } } fc 0 r.place 64 k)
      else .next (ran s (fcLane fc) 1)
    | _, _ => .next (ran s (fcLane fc) 1) :=
  (show _ = execFissue fc s from rfl).trans (laneRun_runs h)

theorem exec_fprog (h : laneReady s (fcLane fc) 0x11 ⟨0, 0⟩ 1 = true) : exec (.fprog fc) s = match cget [] s.flash.progQ fc, freeCredit s fc with
    | st :: q, some k =>
      if canHand s fc then .next (hand { ran s (fcLane fc) 1 with flash := { s.flash with progQ := cset [] s.flash.progQ fc q } } fc 1 st 512 k)
      else .next (ran s (fcLane fc) 1)
    | _, _ => .next (ran s (fcLane fc) 1) :=
  (show _ = execFprog fc s from rfl).trans (laneRun_runs h)

theorem exec_ferase (h : laneReady s (fcLane fc) 0x12 ⟨0, 0⟩ 1 = true) : exec (.ferase fc) s = match cget [] s.flash.eraseQ fc with
    | st :: q =>
      if canHand s fc then
        .next (setCmds { ran s (fcLane fc) 1 with flash := { s.flash with eraseQ := cset [] s.flash.eraseQ fc q } } fc (cmdQueue s fc ++ [(2, st)]))
      else .next (ran s (fcLane fc) 1)
    | [] => .next (ran s (fcLane fc) 1) :=
  (show _ = execFerase fc s from rfl).trans (laneRun_runs h)

end

/-- Settles O37: each lane takes the head of its queue where the channel has room. -/
theorem flashLanesHandOver : Obligations.FlashLanesHandOver := by
  intro fc s ready
  refine ⟨fun r k hready hr hk hcan => ?_, fun st q k hready hq hk hcan => ?_, fun st q hready hq hcan => ?_, fun hno => ⟨fun hready => ?_,
    fun hready => ?_, fun hready => ?_⟩⟩
  · have hexec := exec_fissue hready
    rw [hr, hk] at hexec
    dsimp only at hexec
    rw [if_pos hcan] at hexec
    refine .of_exec hexec ?_
    rw [hand_flash, hand_mem, hand_node]
    exact ⟨rfl, rfl, rfl, rfl⟩
  · have hexec := exec_fprog hready
    rw [hq, hk] at hexec
    dsimp only at hexec
    rw [if_pos hcan] at hexec
    refine .of_exec hexec ?_
    rw [hand_flash, hand_mem, hand_node]
    exact ⟨rfl, rfl, rfl, rfl⟩
  · have hexec := exec_ferase hready
    rw [hq] at hexec
    dsimp only at hexec
    rw [if_pos hcan] at hexec
    exact .of_exec hexec ⟨rfl, rfl, rfl, rfl⟩
  · rw [exec_fissue hready]
    simp only [hno, Bool.false_eq_true, if_false]
    split <;> rfl
  · rw [exec_fprog hready]
    simp only [hno, Bool.false_eq_true, if_false]
    split <;> rfl
  · rw [exec_ferase hready]
    simp only [hno, Bool.false_eq_true, if_false]
    split <;> rfl

/-! ### FSEND -/

theorem sendEntry_mem (port slot : Nat) (s : State) (e : Nat) : (sendEntry port slot s e).mem = s.mem := by
  unfold sendEntry
  dsimp only
  split
  · rfl
  · split
    · rfl
    · exact sendOut_mem ..

theorem sendEntry_node (port slot : Nat) (s : State) (e : Nat) : (sendEntry port slot s e).node = s.node := by
  unfold sendEntry
  dsimp only
  split
  · rfl
  · split
    · rfl
    · exact sendOut_node ..

/-- Settles O38: FSEND is the fold of its entries. -/
theorem fsendSendsEntries : Obligations.FsendSendsEntries := by
  intro p o s hready hra hrb hplate a n hroom
  have hok : (match s.run.plate with
      | none => true
      | some q => (match q.slots[opField o.b 0 16]? with | some e => decide (s.run.step ≤ e.lastSend) | none => false)) = true := by
    split
    · rfl
    · rename_i q hq
      obtain ⟨e, he, hle⟩ := hplate q hq
      simp [he, hle]
  have hexec : exec (.fsend p o) s = .next (((List.range n).map fun i => readNat s (a + 32 + 16 * i) 16).foldl (sendEntry p (opField o.b 0 16))
      (ran s (portLane p) 1)) := by
    refine (show _ = execFsend p o s from rfl).trans ((laneChecked_runs (by rw [hra, hrb]; exact hok) hready).trans ?_)
    have hroom' : addrOk (nsAddr (32 * opField o.a 0 19)) (32 + 16 * readNat (ran s (portLane p) 1) (nsAddr (32 * opField o.a 0 19)) 2) = true := hroom
    dsimp only
    rw [if_pos hroom', withAddr]
    rfl
  refine .of_exec hexec ⟨rfl, fun hn => ?_, ?_, ?_⟩
  · rw [hn]
    rfl
  · exact foldl_keeps State.mem _ (sendEntry_mem _ _) _ _
  · exact foldl_keeps State.node _ (sendEntry_node _ _) _ _

/-! ### SADMIT -/

/-- Writes that a list gives in turn land one behind the other. -/
theorem Lands.foldl {α : Type} {lane n k : Nat} {ws : List Landing} {s t : State} (f : State → α → State) (g : α → List Landing)
    (hf : ∀ (ws : List Landing) (t : State) (a : α), Lands lane n k ws s t → t.run.now = s.run.now →
      Lands lane n k (ws ++ g a) s (f t a) ∧ (f t a).run.now = s.run.now)
    (l : List α) (h : Lands lane n k ws s t) (hnow : t.run.now = s.run.now) : Lands lane n k (ws ++ l.flatMap g) s (l.foldl f t) := by
  induction l generalizing ws t with
  | nil => rwa [List.flatMap_nil, List.append_nil]
  | cons a l ih =>
    obtain ⟨ha, hnow'⟩ := hf ws t a h hnow
    have hrest := ih ha hnow'
    rwa [List.append_assoc, ← List.flatMap_cons] at hrest

/-- Settles O39: the list first, then the records in its order. -/
theorem sadmitWritesAdmittedRecords : Obligations.SadmitWritesAdmittedRecords := by
  intro p o steps s rs g lens start places list hready hra hrb hroom
  have hplace : place false 0 g (start + lens.foldl (· + ·) 0) = some (nsAddr (32 * g)) := if_pos hroom
  have hexec : exec (.sadmit p o steps) s = .next ((List.range rs.length).foldl (fun s i => match rs[i]? with
      | none => s
      | some r => later s steps (cleanMem (nsAddr (32 * places.getD i 0)) (slice r.bytes 0 (32 * lens.getD i 0))))
      (later (ran s (0x500 + p.val) steps) steps (cleanMem (nsAddr (32 * g)) (slice list 0 (32 * start))))) := by
    refine (show _ = execSadmit p o steps s from rfl).trans ((laneChecked_runs (by simp [hra, hrb]) hready).trans ?_)
    show withAddr (place false 0 g (start + lens.foldl (· + ·) 0)) _ = _
    rw [hplace, withAddr]
    rfl
  refine .of_exec hexec (Lands.foldl _ _ (fun ws t i h hnow => ?_) _ (Lands.one ..) rfl)
  cases rs[i]? with
  | none => exact ⟨by rwa [List.append_nil], hnow⟩
  | some r => exact ⟨h.later hnow _, hnow⟩

end Sys2Proof.Machine
end

section
/-!
SUPPORT. Host writes to the BARs (R306 to R313, R318, R322).
-/
namespace Sys2Proof.Machine

/-! ### Bytes written one by one -/

/-- Bytes of a frame as written one by one. -/
def frameCells (m : Nat) (f : Cells Byte) (xs : List (Nat × Byte)) : Cells Byte := xs.foldl (fun f x => cset 0#8 f (4096 * m + x.1) x.2) f

theorem frameCells_wf (m : Nat) (f : Cells Byte) (xs : List (Nat × Byte)) (hf : cwf 0#8 f = true) : cwf 0#8 (frameCells m f xs) = true := by
  induction xs generalizing f with
  | nil => exact hf
  | cons x xs ih => exact ih _ (cset_wf f _ _ hf)

/-- A byte at which nothing is written stands. -/
theorem cget_frameCells_out (m o : Nat) (f : Cells Byte) (xs : List (Nat × Byte)) (hf : cwf 0#8 f = true) (h : ∀ x ∈ xs, x.1 ≠ o) :
    cget 0#8 (frameCells m f xs) (4096 * m + o) = cget 0#8 f (4096 * m + o) := by
  induction xs generalizing f with
  | nil => rfl
  | cons x xs ih =>
    have hx : x.1 ≠ o := h x List.mem_cons_self
    refine (ih _ (cset_wf f _ _ hf) fun y hy => h y (List.mem_cons_of_mem _ hy)).trans ?_
    rw [cget_set f _ _ _ hf, if_neg (by omega)]

/-- A byte written once holds what was written. -/
theorem cget_frameCells_in (m o : Nat) (v : Byte) (f : Cells Byte) (xs : List (Nat × Byte)) (hf : cwf 0#8 f = true) (h : (o, v) ∈ xs)
    (hone : ∀ x ∈ xs, x.1 = o → x.2 = v) : cget 0#8 (frameCells m f xs) (4096 * m + o) = v := by
  induction xs generalizing f with
  | nil => simp at h
  | cons x xs ih =>
    have hrest : ∀ y ∈ xs, y.1 = o → y.2 = v := fun y hy => hone y (List.mem_cons_of_mem _ hy)
    by_cases hmem : (o, v) ∈ xs
    · exact ih _ (cset_wf f _ _ hf) hmem hrest
    · have hx : x = (o, v) := by
        rcases List.mem_cons.1 h with h | h
        · exact h.symm
        · exact absurd h hmem
      have hout : ∀ y ∈ xs, y.1 ≠ o := by
        intro y hy hyo
        refine hmem ?_
        rw [← hyo, ← hrest y hy hyo]
        exact hy
      refine (cget_frameCells_out m o _ xs (cset_wf f _ _ hf) hout).trans ?_
      rw [cget_set f _ _ _ hf, hx, if_pos rfl]

theorem mem_placed {off : Nat} {bs : Bytes} {x : Nat × Byte} : x ∈ placed off bs ↔ ∃ i < bs.length, x = (off + i, bs.getD i 0#8) := by
  simp only [placed, List.mem_map, List.mem_range, eq_comm]

theorem frameBytes_one (s : State) (m o : Nat) : frameBytes s m o 1 = [cget 0#8 s.host.frames (4096 * m + o)] := rfl

/-! ### A write to a frame -/

section
variable {s : State} {p m off : Nat} {bs : Bytes}

/-- The frames after a write that is taken: command block, payload and command seal alone. -/
def framesAfter (s : State) (m off : Nat) (bs : Bytes) : Cells Byte := frameCells m s.host.frames ((placed off bs).filter fun x => frameRw x.1)

theorem frameWrite_foreign (h : boxPort m ≠ p) :
    frameWrite s p m off bs = { s with host := { s.host with foreign := cmod 0 s.host.foreign p (satAdd 32 · 1) } } := if_pos h

theorem frameWrite_busy (h : boxPort m = p) (hb : cget 0 s.host.mstate m = 1) :
    frameWrite s p m off bs = { s with host := { s.host with busyW := cmod 0 s.host.busyW p (satAdd 32 · 1) } } := by
  rw [frameWrite, if_neg (by simpa using h), if_pos hb]

theorem frameWrite_taken (h : boxPort m = p) (hb : cget 0 s.host.mstate m ≠ 1) :
    frameWrite s p m off bs = if off ≤ 0xFFF ∧ 0xFFF < off + bs.length then
      { s with host := { s.host with frames := framesAfter s m off bs, mstate := cset 0 s.host.mstate m 1, order := s.host.order ++ [m] } }
    else { s with host := { s.host with frames := framesAfter s m off bs } } := by
  rw [frameWrite, if_neg (by simpa using h), if_neg hb]
  rfl

/-- The frames after a write: as they were where it is not taken. -/
theorem frameWrite_frames : (frameWrite s p m off bs).host.frames = s.host.frames ∨ (frameWrite s p m off bs).host.frames = framesAfter s m off bs := by
  by_cases h : boxPort m = p
  · by_cases hb : cget 0 s.host.mstate m = 1
    · rw [frameWrite_busy h hb]
      exact .inl rfl
    · rw [frameWrite_taken h hb]
      split <;> exact .inr rfl
  · rw [frameWrite_foreign h]
    exact .inl rfl

theorem framesAfter_out {o : Nat} (hs : s.host.wf = true) (h : frameRw o = false ∨ o < off ∨ off + bs.length ≤ o) :
    cget 0#8 (framesAfter s m off bs) (4096 * m + o) = cget 0#8 s.host.frames (4096 * m + o) := by
  simp only [HostIf.wf, Bool.and_eq_true] at hs
  refine cget_frameCells_out m o _ _ hs.1 fun x hx hxo => ?_
  obtain ⟨hplaced, hrw⟩ := List.mem_filter.1 hx
  obtain ⟨i, hi, rfl⟩ := mem_placed.1 hplaced
  dsimp only at hxo hrw
  rcases h with h | h | h
  · rw [hxo, h] at hrw
    cases hrw
  · omega
  · omega

theorem framesAfter_in {i : Nat} (hs : s.host.wf = true) (hi : i < bs.length) (h : frameRw (off + i) = true) :
    cget 0#8 (framesAfter s m off bs) (4096 * m + (off + i)) = bs.getD i 0#8 := by
  simp only [HostIf.wf, Bool.and_eq_true] at hs
  refine cget_frameCells_in m _ _ _ _ hs.1 (List.mem_filter.2 ⟨mem_placed.2 ⟨i, hi, rfl⟩, h⟩) fun x hx hxo => ?_
  obtain ⟨j, hj, rfl⟩ := mem_placed.1 (List.mem_filter.1 hx).1
  have hij : j = i := by
    dsimp only at hxo
    omega
  rw [hij]

/-- Each byte of a frame after a write that is taken. -/
theorem framesAfter_byte {o : Nat} (hs : s.host.wf = true) (ho : o < off + bs.length) :
    cget 0#8 (framesAfter s m off bs) (4096 * m + o) =
      if off ≤ o ∧ frameRw o = true then bs.getD (o - off) 0#8 else cget 0#8 s.host.frames (4096 * m + o) := by
  split
  · rename_i h
    obtain ⟨hle, hrw⟩ := h
    have heq : off + (o - off) = o := by omega
    have hin := framesAfter_in (m := m) (off := off) (i := o - off) hs (bs := bs) (by omega) (by rwa [heq])
    rwa [heq] at hin
  · rename_i h
    refine framesAfter_out hs ?_
    by_cases hrw : frameRw o = true
    · exact .inr (.inl (Nat.lt_of_not_le fun hge => h ⟨hge, hrw⟩))
    · exact .inl (by simpa using hrw)

/-- A write to a frame reads and changes the host interface alone. -/
theorem frameWrite_host_congr {t : State} (h : t.host = s.host) : (frameWrite t p m off bs).host = (frameWrite s p m off bs).host := by
  by_cases hp : boxPort m = p
  · by_cases hb : cget 0 s.host.mstate m = 1
    · rw [frameWrite_busy hp hb, frameWrite_busy hp (by rwa [h])]
      simp only [h]
    · rw [frameWrite_taken hp hb, frameWrite_taken hp (by rwa [h])]
      simp only [framesAfter, h]
      split <;> rfl
  · rw [frameWrite_foreign hp, frameWrite_foreign hp]
    simp only [h]

end

/-! ### What a write to a BAR leaves -/

/-- The state without the host interface and what the hosts hold. -/
def State.butHost (s : State) : State := { s with host := {}, mem := s.ownMem }

section
variable {s t : State} (h : t.butHost = s.butHost)
include h

theorem ownMem_of_butHost : t.ownMem = s.ownMem := by simpa only [State.butHost] using congrArg State.mem h
theorem node_of_butHost : t.node = s.node := by simpa only [State.butHost] using congrArg State.node h
theorem run_of_butHost : t.run = s.run := by simpa only [State.butHost] using congrArg State.run h
theorem recs_of_butHost : t.recs = s.recs := by simpa only [State.butHost] using congrArg State.recs h
theorem setup_of_butHost : t.setup = s.setup := by simpa only [State.butHost] using congrArg State.setup h

end

section
variable (s : State)

theorem frameWrite_butHost (p m off : Nat) (bs : Bytes) : (frameWrite s p m off bs).butHost = s.butHost := by
  unfold frameWrite
  split
  · rfl
  · split
    · rfl
    · dsimp only
      split <;> rfl

theorem sendVector_butHost (p v : Nat) : (sendVector s p v).butHost = s.butHost := by
  simp only [State.butHost, sendVector_ownMem]
  unfold sendVector
  rfl

/-- One vector of `flushPending`. -/
def flushOne (p : Nat) (s : State) (v : Nat) : State :=
  if cget false s.host.pending (p * 64 + v) && !msixMasked s p v then
    sendVector { s with host := { s.host with pending := cset false s.host.pending (p * 64 + v) false } } p v
  else s

theorem flushOne_butHost (p : Nat) (s : State) (v : Nat) : (flushOne p s v).butHost = s.butHost := by
  rw [flushOne]
  by_cases hgo : (cget false s.host.pending (p * 64 + v) && !msixMasked s p v) = true
  · rw [if_pos hgo, sendVector_butHost]
    simp only [State.butHost, State.ownMem]
  · rw [if_neg hgo]

theorem flushPending_butHost (p : Nat) : (flushPending s p).butHost = s.butHost := by
  unfold flushPending
  split
  · rfl
  · generalize List.range 64 = vs
    have hkeeps : ∀ (t : State) (v : Nat), (flushOne p t v).butHost = t.butHost := flushOne_butHost p
    exact foldl_keeps State.butHost (flushOne p) hkeeps vs s

theorem bar0Write_butHost (p off : Nat) (bs : Bytes) : (bar0Write s p off bs).butHost = s.butHost := by
  unfold bar0Write
  split
  · exact frameWrite_butHost ..
  · split
    · rfl
    · split
      · rw [msixWrite, flushPending_butHost]
        simp only [State.butHost, State.ownMem]
      · rfl

end

theorem exec_registerWrite (a : BarAddr) (bs : Bytes) (s : State) (h : takesWrites s a.port = true) :
    exec (.registerWrite a bs) s =
      if a.bar2 then .next (bar2Write (countBar s a.port bs.length) a.port a.offset.toNat bs)
      else if a.offset.toNat < 2 ^ 20 then .next (bar0Write (countBar s a.port bs.length) a.port a.offset.toNat bs)
      else .next s := by
  have hexec : exec (.registerWrite a bs) s = execRegisterWrite a bs s := rfl
  rw [hexec, execRegisterWrite]
  rw [if_neg (by simp [h])]

/-- Settles O57: a frame byte by byte (`framesAfter_byte`), and what writes to the BARs leave. -/
theorem hostWritesReachTheirPlaces : Obligations.HostWritesReachTheirPlaces := by
  refine ⟨fun p m bs s htakes hne hlen => ?_, fun p m off bs s o hs ho hout hfits => ?_, fun p m off bs s i hs hp hb hi hfits hrw => ?_,
    fun a bs s htakes => ?_⟩
  · have hexec : exec (.commandSealWrite p m bs) s = .next (frameWrite (countBar s p bs.length) p m (4096 - bs.length) bs) := by
      have hexec : exec (.commandSealWrite p m bs) s = execCommandSealWrite p m bs s := rfl
      rw [hexec, execCommandSealWrite, if_neg (by simp [htakes, hne]; omega)]
    have hpos : 0 < bs.length := List.length_pos_iff.2 hne
    refine ⟨hexec, fun hp hb => ?_, fun hp hb => ?_, fun hp => ?_⟩
    · rw [frameWrite_taken hp (show cget 0 (countBar s p bs.length).host.mstate m ≠ 1 from hb), if_pos (by omega)] at hexec
      refine .of_exec hexec ⟨rfl, rfl, fun hs o ho => ?_, rfl, rfl, rfl, rfl, rfl⟩
      have hbyte := framesAfter_byte (m := m) (off := 4096 - bs.length) (bs := bs) (o := o) hs (by omega)
      rw [frameBytes_one, frameBytes_one]
      refine (congrArg (fun b => [b]) hbyte).trans ?_
      split <;> rfl
    · rw [frameWrite_busy hp (show cget 0 (countBar s p bs.length).host.mstate m = 1 from hb)] at hexec
      exact .of_exec hexec ⟨rfl, rfl, rfl⟩
    · rw [frameWrite_foreign hp] at hexec
      exact .of_exec hexec ⟨rfl, rfl, rfl⟩
  · rw [frameBytes_one, frameBytes_one]
    rcases frameWrite_frames (s := s) (p := p) (m := m) (off := off) (bs := bs) with h | h
    · rw [h]
    · rw [h, framesAfter_out hs hout]
  · rw [frameBytes_one, frameWrite_taken hp hb, ← framesAfter_in (m := m) hs hi hrw]
    split <;> rfl
  · have hexec := exec_registerWrite a bs s htakes
    refine ⟨fun h2 => by rw [hexec, if_pos h2], fun h2 hoff => by rw [hexec, if_neg (by simp [h2]), if_pos hoff], ?_⟩
    by_cases h2 : a.bar2 = true
    · rw [if_pos h2] at hexec
      refine .of_exec hexec ⟨rfl, rfl, rfl, rfl, rfl, rfl, fun _ => rfl, fun hno => ?_, fun hno => ?_⟩ <;> rw [h2] at hno <;> cases hno
    · rw [if_neg h2] at hexec
      by_cases hoff : a.offset.toNat < 2 ^ 20
      · rw [if_pos hoff] at hexec
        have hkeeps := bar0Write_butHost (countBar s a.port bs.length) a.port a.offset.toNat bs
        have hmem := ownMem_of_butHost hkeeps
        have hnode := node_of_butHost hkeeps
        have hrun := run_of_butHost hkeeps
        have hrecs := recs_of_butHost hkeeps
        have hsetup := setup_of_butHost hkeeps
        refine .of_exec hexec ⟨bytes_of_ownMem hmem, sram_of_ownMem hmem, hnode, hrun, hrecs, hsetup, fun h => absurd h h2, fun _ hlow => ?_, fun _ hhigh => ?_⟩
        · rw [bar0Write, if_pos hlow]
          exact frameWrite_host_congr rfl
        · rw [bar0Write, if_neg (by omega), if_neg (by omega), if_neg (by omega)]
          rfl
      · rw [if_neg hoff] at hexec
        exact .of_exec hexec ⟨rfl, rfl, rfl, rfl, rfl, rfl, fun h => absurd h h2, fun _ hlow => absurd hlow (by omega), fun _ _ => rfl⟩

end Sys2Proof.Machine
end

section
/-!
PROOF. O58: Burin's checks in their order, and the response it leaves in the frame (R311 to R316).
-/
namespace Sys2Proof.Machine

/-! ### A response in its frame -/

theorem leBytes_size (n x : Nat) : (leBytes n x).length = n := by
  induction n generalizing x with
  | zero => rfl
  | succ n ih => rw [leBytes, List.length_cons, ih]

theorem statusBlock_length (s : State) (seq : Nat) (again : Bool) (r : Reply) : (statusBlock s seq again r).length = 64 := leBytes_size ..

/-- Bytes just written stand. -/
theorem frameBytes_setFrame {s : State} {m o n : Nat} {bs : Bytes} (hs : cwf 0#8 s.host.frames = true) (hn : bs.length = n) :
    frameBytes (setFrame s m o bs) m o n = bs := by
  subst hn
  exact cgetN_setN bs _ _ hs

/-- Bytes beside those written stand. -/
theorem frameBytes_setFrame_out {s : State} {m o o' n : Nat} {bs : Bytes} (hs : cwf 0#8 s.host.frames = true)
    (hout : o' + n ≤ o ∨ o + bs.length ≤ o') : frameBytes (setFrame s m o bs) m o' n = frameBytes s m o' n :=
  cgetN_congr _ _ _ _ fun i hi => cget_setN_out bs _ _ _ hs (by omega)

theorem setFrame_wf {s : State} {m o : Nat} {bs : Bytes} (hs : cwf 0#8 s.host.frames = true) : cwf 0#8 (setFrame s m o bs).host.frames = true :=
  csetN_wf bs _ _ hs

theorem frameBytes_congr {s t : State} (h : t.host.frames = s.host.frames) (m o n : Nat) : frameBytes t m o n = frameBytes s m o n := by
  rw [frameBytes, frameBytes, h]

theorem respond_frames (s : State) (m seq st : Nat) (b r : Bytes) : (respond s m seq st b r).host.frames =
    (setFrame (setFrame (setFrame s m 0x100 r) m 0x40 b) m 0xFF0 (layoutBytes 8 [(0, 4, seq), (4, 2, st), (6, 2, sealCheck (b ++ r))])).host.frames := by
  rw [respond, raise_frames]

/-- R311, R312: data, status block and seal stand in the frame. -/
theorem respond_stands {s : State} {m seq st : Nat} {b r : Bytes} (hs : cwf 0#8 s.host.frames = true) (hb : b.length = 64) (hr : r.length ≤ 3584) :
    frameBytes (respond s m seq st b r) m 0x40 64 = b ∧ frameBytes (respond s m seq st b r) m 0x100 r.length = r ∧
    frameBytes (respond s m seq st b r) m 0xFF0 8 = layoutBytes 8 [(0, 4, seq), (4, 2, st), (6, 2, sealCheck (b ++ r))] := by
  have hf := respond_frames s m seq st b r
  have h1 : cwf 0#8 (setFrame s m 0x100 r).host.frames = true := setFrame_wf hs
  have h2 : cwf 0#8 (setFrame (setFrame s m 0x100 r) m 0x40 b).host.frames = true := setFrame_wf h1
  rw [frameBytes_congr hf, frameBytes_congr hf, frameBytes_congr hf]
  refine ⟨?_, ?_, frameBytes_setFrame h2 (leBytes_size ..)⟩
  · rw [frameBytes_setFrame_out h2 (by omega), frameBytes_setFrame h1 hb]
  · rw [frameBytes_setFrame_out h2 (by omega), frameBytes_setFrame_out h1 (by omega), frameBytes_setFrame hs rfl]

theorem answer_frames (s : State) (m code req seq : Nat) (r : Reply) :
    (answer s m code req seq r).host.frames = (respond s m seq r.status (statusBlock s seq false r) r.resp).host.frames := by
  simp only [answer]
  split <;> rfl

theorem answer_mstate (s : State) (m code req seq : Nat) (r : Reply) :
    (answer s m code req seq r).host.mstate = (respond s m seq r.status (statusBlock s seq false r) r.resp).host.mstate := by
  simp only [answer]
  split <;> rfl

/-! ### What a response leaves -/

/-- The host interface without frames, mailbox states, kept responses and pending vectors. -/
def HostIf.besideFrames (h : HostIf) : HostIf := { h with frames := [], mstate := [], last := [], pending := [], badSeals := [] }

theorem raise_besideFrames (s : State) (p v : Nat) : (raise s p v).host.besideFrames = s.host.besideFrames := by
  rw [raise]
  split
  · rfl
  · split <;> rfl

theorem respond_besideFrames (s : State) (m seq st : Nat) (b r : Bytes) : (respond s m seq st b r).host.besideFrames = s.host.besideFrames := by
  rw [respond, raise_besideFrames]
  rfl

theorem answer_besideFrames (s : State) (m code req seq : Nat) (r : Reply) :
    (answer s m code req seq r).host.besideFrames = s.host.besideFrames := by
  have hbeside := respond_besideFrames s m seq r.status (statusBlock s seq false r) r.resp
  simp only [answer]
  split <;> exact hbeside

theorem taken_order (s : State) (m : Nat) : (taken s m).host.order = s.host.order.drop 1 := rfl

/-- An answer to a command that was taken is all that happens. -/
theorem answersOnly_answer {s u : State} {m : Fin 64} {code req seq : Nat} {r : Reply} (hs : s.host.wf = true)
    (hu : u = { taken s m with host := { (taken s m).host with badSeals := u.host.badSeals } }) : AnswersOnly m s (answer u m code req seq r) := by
  simp only [HostIf.wf, Bool.and_eq_true] at hs
  have hbeside := answer_besideFrames u m code req seq r
  have hmem := answer_ownMem u m code req seq r
  have hwf : cwf 0 u.host.mstate = true := by
    rw [hu]
    exact hs.2
  refine ⟨?_, ?_, ?_⟩
  · rw [answer_mstate]
    exact respond_done _ _ _ _ _ hwf
  · refine (congrArg HostIf.order hbeside).trans ?_
    rw [hu]
    rfl
  have hrings : (answer u m code req seq r).host.rings = u.host.rings := by simpa only [HostIf.besideFrames] using congrArg HostIf.rings hbeside
  have hprog : (answer u m code req seq r).host.inProg = u.host.inProg := by simpa only [HostIf.besideFrames] using congrArg HostIf.inProg hbeside
  simp only [answer_node, answer_run, answer_setup, answer_recs, answer_boot, answer_nor, answer_faults, answer_bg, answer_flash, answer_fab,
    answer_orr, bytes_of_ownMem hmem, sram_of_ownMem hmem, objs_of_ownMem hmem, hrings, hprog]
  rw [hu]
  exact ⟨rfl, rfl, rfl, rfl, rfl, rfl, rfl, rfl, rfl, rfl, rfl, rfl, rfl, rfl, rfl, rfl⟩

/-! ### The checks -/

theorem mailboxCode_legal {i : Instr} {code : Nat} {m : Fin 64} (h : mailboxCode i = some (code, m)) : (legalStates code).isSome = true := by
  cases i <;> cases h <;> rfl

/-- Each mailbox command is Burin's take of its code. -/
theorem exec_mailbox {i : Instr} {code : Nat} {m : Fin 64} (h : mailboxCode i = some (code, m)) (s : State) :
    ∃ params effect, exec i s = take code params effect m s := by
  unfold exec
  cases i <;> cases h <;> exact ⟨_, _, rfl⟩

section
variable {s : State} {c : Cmd} {params : Option Nat}

theorem romRefusal_none (h : s.boot.romRecovery = false) : romRefusal s c = none := by simp [romRefusal, h]

theorem refusal_denied (hc : (legalStates c.code).isSome = true) (hrom : s.boot.romRecovery = false) (hd : denied s c = true) :
    refusal s c params = some { status := sDenied } := by
  rw [refusal, if_neg (by simpa [Option.isSome_iff_ne_none] using hc), romRefusal_none hrom]
  exact if_pos hd

theorem refusal_state {d : Nat} (hc : (legalStates c.code).isSome = true) (hrom : s.boot.romRecovery = false) (hd : denied s c = false)
    (hst : stateRefusal s c = some d) : refusal s c params = some { status := sBadState, detail := d, allowed := allowedMask c.code } := by
  rw [refusal, if_neg (by simpa [Option.isSome_iff_ne_none] using hc), romRefusal_none hrom]
  dsimp only
  rw [if_neg (by simp [hd]), hst]

end

theorem exec_badSeal {i : Instr} {code : Nat} {m : Fin 64} {s : State} (h : mailboxCode i = some (code, m)) (htake : canTake s m = true)
    (hseal : sealOk s (readCmd s m) = false) : exec i s = .next (badSeal (taken s m) (readCmd s m)) := by
  obtain ⟨params, effect, hexec⟩ := exec_mailbox h s
  rw [hexec, take_badSeal htake hseal]

theorem exec_denied {i : Instr} {code : Nat} {m : Fin 64} {s : State} (h : mailboxCode i = some (code, m)) (hoff : Offered code m s)
    (hrom : s.boot.romRecovery = false) (hd : denied s (readCmd s m) = true) : exec i s = .next (replyS (taken s m) (readCmd s m) sDenied) := by
  have hlegal := mailboxCode_legal h
  obtain ⟨params, effect, hexec⟩ := exec_mailbox h s
  obtain ⟨htake, hseal, hcode, hnew⟩ := hoff
  rw [hexec]
  exact take_refused htake hseal hcode hnew (refusal_denied (s := taken s m) (by rw [hcode]; exact hlegal) hrom hd)

theorem exec_badState {i : Instr} {code : Nat} {m : Fin 64} {s : State} {d : Nat} (h : mailboxCode i = some (code, m)) (hoff : Offered code m s)
    (hrom : s.boot.romRecovery = false) (hd : denied s (readCmd s m) = false) (hst : stateRefusal s (readCmd s m) = some d) :
    exec i s = .next (badState (taken s m) (readCmd s m) d) := by
  have hlegal := mailboxCode_legal h
  obtain ⟨params, effect, hexec⟩ := exec_mailbox h s
  obtain ⟨htake, hseal, hcode, hnew⟩ := hoff
  rw [hexec]
  exact take_refused htake hseal hcode hnew (refusal_state (s := taken s m) (by rw [hcode]; exact hlegal) hrom hd hst)

/-- Settles O58: check by check (`exec_badSeal`, `exec_denied`, `exec_badState`); the response stands by `respond_stands`. -/
theorem commandsAreCheckedInOrder : Obligations.CommandsAreCheckedInOrder := by
  refine ⟨fun i code m s h => ?_, fun s c r hs hr => ?_⟩
  · obtain ⟨params, effect, hexec⟩ := exec_mailbox h s
    refine ⟨fun htake => by rw [hexec, take_idle htake], exec_badSeal h, fun l htake hseal hcode hl => by
      rw [hexec, take_replay htake hseal hcode hl], exec_denied h, fun d => exec_badState h, fun hs htake hcase => ?_⟩
    by_cases hseal : sealOk s (readCmd s m) = true
    · rcases hcase with hbad | ⟨hoff, hrom, hrefused⟩
      · rw [hseal] at hbad
        cases hbad
      · by_cases hd : denied s (readCmd s m) = true
        · exact .of_exec (exec_denied h hoff hrom hd) (answersOnly_answer hs rfl)
        · have hd : denied s (readCmd s m) = false := by simpa using hd
          obtain ⟨d, hst⟩ := Option.isSome_iff_exists.1 (hrefused.resolve_left (by simp [hd]))
          exact .of_exec (exec_badState h hoff hrom hd hst) (answersOnly_answer hs rfl)
    · exact .of_exec (exec_badSeal h htake (by simpa using hseal)) (answersOnly_answer hs rfl)
  · simp only [HostIf.wf, Bool.and_eq_true] at hs
    obtain ⟨hblock, hresp, hsealed⟩ := respond_stands (m := c.m) (seq := c.seq) (st := r.status) hs.1 (statusBlock_length s c.seq false r) hr
    have hf := answer_frames s c.m c.code c.req c.seq r
    refine ⟨(frameBytes_congr hf ..).trans hblock, (frameBytes_congr hf ..).trans hresp, (frameBytes_congr hf ..).trans hsealed, ?_⟩
    refine (congrArg (cget 0 · c.m) (answer_mstate s c.m c.code c.req c.seq r)).trans ?_
    exact respond_done _ _ _ _ _ hs.2

end Sys2Proof.Machine
end

section
/-!
PROOF. O59: what queries, resets, tests, transitions, settings and firmware commands do once accepted (R338 to R348, R438 to R440, R460).
-/
namespace Sys2Proof.Machine

/-! ### Accepted commands and reached buffers -/

section
variable {s : State} {m : Fin 64}

theorem take_accepted {code : Nat} {params : State → Cmd → Option Nat} {effect : State → Cmd → State} (h : Accepts code params m s) :
    take code params effect m s = .next (effect (taken s m) (readCmd s m)) := by
  obtain ⟨⟨htake, hseal, hcode, hnew⟩, hok⟩ := h
  exact take_runs htake hseal hcode hnew hok

theorem Accepts.code {code : Nat} {params : State → Cmd → Option Nat} (h : Accepts code params m s) : (readCmd s m).code = code := by
  obtain ⟨⟨-, -, hcode, -⟩, -⟩ := h
  exact hcode

theorem dmaFails_reached {c : Cmd} {d : Dma} (hok : dmaOk s c.port = true) (hd : d.failAt = none) (n : Nat) : dmaFails s c d n = none := by
  simp [dmaFails, hok, hd]

/-- A buffer that can be reached takes what fits it. -/
theorem toBuffer_reached {c : Cmd} {d : Dma} {o : Nat} {bs : Bytes} {go : State → State} (hok : dmaOk s c.port = true) (hd : d.failAt = none) :
    toBuffer s c o d bs go = if c.bufSize o < bs.length then reply s c { status := sBadParam, detail := o + 8, resp := leBytes 8 bs.length }
      else go (hostWrite s c.port (c.bufAddr o) bs) := by
  rw [toBuffer, dmaFails_reached hok hd]

theorem toBuffer_fits {c : Cmd} {d : Dma} {o : Nat} {bs : Bytes} {go : State → State} (hok : dmaOk s c.port = true) (hd : d.failAt = none)
    (hroom : bs.length ≤ c.bufSize o) : toBuffer s c o d bs go = go (hostWrite s c.port (c.bufAddr o) bs) := by
  rw [toBuffer_reached hok hd, if_neg (by omega)]

theorem withBuffer_reached {c : Cmd} {d : Dma} {n : Nat} {go : State → Bytes → State} (hok : dmaOk s c.port = true) (hd : d.failAt = none) :
    withBuffer s c d n go = go (countDmaRead s c n) (d.data.take n) := by
  rw [withBuffer, dmaFails_reached hok hd]

/-! ### Queries -/

theorem exec_attest {d : Dma} {seed : Nat} (h : Accepts 0x03 attestParams m s) (hseed : s.boot.seed = some seed)
    (hok : dmaOk s (readCmd s m).port = true) (hd : d.failAt = none) {r : Bytes} {c : Cmd} {v : State} (hc : readCmd s m = c)
    (hr : attestReport (taken s m) (c.arg 0x10 0 256) seed = r) (hv : { taken s m with drawn := s.drawn + 1 } = v) :
    exec (.attest m d) s = .next (if c.bufSize 0x30 < r.length then reply v c { status := sBadParam, detail := 0x38, resp := leBytes 8 r.length }
      else replyD (hostWrite v c.port (c.bufAddr 0x30) r) c sOk r.length) := by
  subst hc hr hv
  have hexec : exec (.attest m d) s = execAttest m d s := rfl
  have hseed' : (taken s m).boot.seed = some seed := hseed
  rw [hexec, execAttest, take_accepted h]
  dsimp only
  rw [hseed']
  exact congrArg _ (toBuffer_reached hok hd)

theorem exec_counterRead {d : Dma} (h : Accepts 0x04 counterParams m s) (hok : dmaOk s (readCmd s m).port = true) (hd : d.failAt = none)
    {c : Cmd} {v : State} {bs : Bytes} (hc : readCmd s m = c) (hv : (if s.run.running then taken s m else flushCounters (taken s m)) = v)
    (hbs : counterBytes v (c.arg 0x10 0 16) (c.arg 0x10 16 4) (c.arg 0x14 0 32) (c.arg 0x18 0 32) = bs) (hroom : bs.length ≤ c.bufSize 0x20) :
    exec (.counterRead m d) s = .next (replyS (hostWrite v c.port (c.bufAddr 0x20) bs) c sOk) := by
  subst hc hbs
  have hexec : exec (.counterRead m d) s = execCounterRead m d s := rfl
  have hv' : (if (taken s m).run.running then taken s m else flushCounters (taken s m)) = v := hv
  have hreach : dmaOk v (readCmd s m).port = true := by
    rw [← hv]
    split <;> exact hok
  rw [hexec, execCounterRead, take_accepted h]
  dsimp only
  rw [hv']
  exact congrArg _ (toBuffer_fits hreach hd hroom)

theorem exec_logRead {d : Dma} (h : Accepts 0x05 logParams m s) (hok : dmaOk s (readCmd s m).port = true) (hd : d.failAt = none)
    {c : Cmd} {u v w : State} {log sl n : Nat} {bs : Bytes} (hc : readCmd s m = c) (hu : taken s m = u) (hlog : c.arg 0x10 0 8 = log)
    (hsl : c.arg 0x10 9 4 = sl) (hn : min (logOf u log sl).1.length (c.bufSize 0x20 / (if log = 3 then 64 else 32)) = n)
    (hbs : ((logOf u log sl).1.take n).flatten = bs) (hv : hostWrite u c.port (c.bufAddr 0x20) bs = v)
    (hw : (if c.arg 0x10 8 1 = 1 then clearLog v log sl n else v) = w) (hroom : bs.length ≤ c.bufSize 0x20) :
    exec (.logRead m d) s = .next (reply w c {
      status := sOk, resp := layoutBytes 32 [(0, 4, n), (4, 4, (logOf w log sl).1.length), (8, 4, (logOf u log sl).2)] }) := by
  have hexec : exec (.logRead m d) s = execLogRead m d s := rfl
  have hreach : dmaOk u c.port = true := by
    rw [← hu, ← hc]
    exact hok
  rw [hexec, execLogRead, take_accepted h, hc, hu]
  dsimp only
  rw [hlog, hsl, hn, hbs, toBuffer_fits hreach hd hroom, hv, hw]

/-! ### Resets and tests -/

section
variable (s : State)

theorem finishTrans_state (r : Reply) : (finishTrans s r).node.state = s.node.state := by
  unfold finishTrans
  split
  · rfl
  · rw [finish_node]

theorem nodeReset_state (auto : Bool) : (nodeReset s auto).node.state = stBoot := enterState_state s stBoot

theorem nodeReset_bytes (auto : Bool) : (nodeReset s auto).mem.bytes = s.mem.bytes := (bytes_of_ownMem (enterState_ownMem s stBoot) :)

theorem nodeReset_nor (auto : Bool) : (nodeReset s auto).nor = s.nor := enterState_nor s stBoot

theorem nodeReset_dump (auto : Bool) : (nodeReset s auto).dump.escalated = s.dump.escalated ∧ (nodeReset s auto).dump.nr1 = s.dump.nr1 := by
  have hdump := enterState_dump s stBoot
  have hesc : (nodeReset s auto).dump.escalated = (enterState s stBoot).dump.escalated := rfl
  have hnr : (nodeReset s auto).dump.nr1 = (enterState s stBoot).dump.nr1 := rfl
  rw [hesc, hnr, hdump]
  exact ⟨rfl, rfl⟩

end

/-- R343: a DOM_NODE reset by command forgets what escalated, and keeps T1, T2 and the NOR. -/
theorem resetDomain_node (h : Accepts 0x10 resetParams m s) (hdom : (readCmd s m).arg 0x10 0 5 = 0) (hrun : s.run.running = false) :
    Runs (.resetDomain m) s fun t => t.node.state = stBoot ∧ t.dump.escalated = false ∧ t.dump.nr1 = none ∧ t.mem.bytes = s.mem.bytes ∧
      t.nor = s.nor ∧ t.boot.firmware = false := by
  have hexec : exec (.resetDomain m) s = execResetDomain m s := rfl
  rw [execResetDomain, take_accepted h, resetDomain] at hexec
  dsimp only at hexec
  have hidle : ¬ (replyS (taken s m) (readCmd s m) sOk).run.running = true := by
    rw [replyS, reply, answer_run, show (taken s m).run.running = false from hrun]
    decide
  rw [if_pos hdom, resetNode, if_neg hidle] at hexec
  obtain ⟨hesc, hnr⟩ := nodeReset_dump { replyS (taken s m) (readCmd s m) sOk with dump :=
    { (replyS (taken s m) (readCmd s m) sOk).dump with dr1 := none, dr2 := none, nr1 := none, escalated := false } } false
  refine .of_exec hexec ⟨nodeReset_state .., hesc, hnr, ?_, ?_, rfl⟩
  · exact (nodeReset_bytes ..).trans (bytes_of_ownMem (answer_ownMem ..))
  · exact (nodeReset_nor ..).trans (answer_nor ..)

theorem exec_resetDomain (h : Accepts 0x10 resetParams m s) (hdom : (readCmd s m).arg 0x10 0 5 ≠ 0) :
    exec (.resetDomain m) s = .next (
      if s.faults.inReset.contains ((readCmd s m).arg 0x10 0 5) then hold (taken s m) (readCmd s m) ((readCmd s m).arg 0x10 0 5)
      else if (readCmd s m).arg 0x10 0 5 = 1 ∨ (readCmd s m).arg 0x10 0 5 = 2 + (readCmd s m).port then
        startReset (replyS (taken s m) (readCmd s m) sOk) ((readCmd s m).arg 0x10 0 5)
      else startReset (if s.run.running && frameDomain ((readCmd s m).arg 0x10 0 5)
        then loseFrame (hold (taken s m) (readCmd s m) ((readCmd s m).arg 0x10 0 5)) ((readCmd s m).arg 0x10 0 5)
        else hold (taken s m) (readCmd s m) ((readCmd s m).arg 0x10 0 5)) ((readCmd s m).arg 0x10 0 5)) := by
  have hexec : exec (.resetDomain m) s = execResetDomain m s := rfl
  rw [hexec, execResetDomain, take_accepted h, resetDomain]
  dsimp only
  rw [if_neg hdom]
  rfl

theorem selftest_runs (h : Accepts 0x11 selftestParams m s) (hfree : s.faults.test = none) (hfault : s.node.state ≠ stFault) :
    Runs (.selftest m) s fun t => t.node.state = stSelftest ∧
      t.faults.test = some ((readCmd s m).arg 0x10 0 1 == 1, s.node.state, some m.val) := by
  have hexec : exec (.selftest m) s = execSelftest m s := rfl
  have hnone : ¬ (taken s m).faults.test.isSome = true := by
    rw [show (taken s m).faults.test = none from hfree]
    decide
  rw [execSelftest, take_accepted h] at hexec
  dsimp only at hexec
  rw [if_neg hnone, if_neg (show ¬ (taken s m).node.state = stFault from hfault)] at hexec
  exact .of_exec hexec ⟨moveTo_state _ _, rfl⟩

/-! ### Transitions -/

theorem exec_serve (h : Accepts 0x19 noArgs m s) : exec (.serve m) s = .next (atBoundary (taken s m) (readCmd s m)) :=
  (show exec (.serve m) s = execServe m s from rfl).trans (take_accepted h)

theorem exec_drain (h : Accepts 0x1A noArgs m s) : exec (.drain m) s = .next (atBoundary (taken s m) (readCmd s m)) :=
  (show exec (.drain m) s = execDrain m s from rfl).trans (take_accepted h)

theorem atBoundary_running {c : Cmd} (h : s.run.running = true) : atBoundary s c = beginTrans s c := if_pos h

theorem atBoundary_idle {c : Cmd} (h : s.run.running = false) : atBoundary s c = transitionStep (beginTrans s c) :=
  if_neg (show ¬ (beginTrans s c).run.running = true by rw [show (beginTrans s c).run.running = false from h]; decide)

theorem transitionStep_serve (hserve : ∃ b, s.node.trans = some (0x19, b)) : (transitionStep s).node.state = stServing := by
  obtain ⟨b, htrans⟩ := hserve
  rw [transitionStep, htrans]
  show (abortIllegal (finishTrans (enterState s stServing) { status := sOk })).node.state = stServing
  rw [abortIllegal_node, finishTrans_state, enterState_state]

theorem transitionStep_drain (hdrain : ∃ b, s.node.trans = some (0x1A, b)) : (transitionStep s).node.state = stDraining := by
  obtain ⟨b, htrans⟩ := hdrain
  rw [transitionStep, htrans]
  show (abortIllegal (finishTrans (enterState s stDraining) { status := sOk })).node.state = stDraining
  rw [abortIllegal_node, finishTrans_state, enterState_state]

/-- R425: a node that is not the coordinator asks it. -/
theorem askDepart_away {c : Cmd} {v : View} (hv : s.orr.view = some v) (haway : v.coord ≠ nodeId s) :
    askDepart s c = orrSend (beginTrans s c) 8 v.coord (nodeId s) 0 0 := by
  have hv' : (beginTrans s c).orr.view = some v := hv
  rw [askDepart]
  dsimp only
  rw [hv']
  exact if_pos haway

/-! ### Settings and firmware -/

/-- What PROOF_WRITE does once taken (R347). -/
def proofEffect (readBack : Bool) (s : State) (c : Cmd) : State :=
  if !readBack then replyS (failedWrite s) c sAborted
  else
    let s := if c.arg 0x10 0 1 = 1 then writeBank s [] true else writeRecord s (changedRecord s c.pay) true
    reply s c { status := sOk, resp := layoutBytes 16 [(0, 8, s.boot.proofSeq), (8, 1, b2n s.boot.proofInB)] }

theorem exec_proofWrite (readBack : Bool) (h : Accepts 0x20 proofParams m s) :
    exec (.proofWrite m readBack) s = .next (proofEffect readBack (taken s m) (readCmd s m)) := by
  have hexec : exec (.proofWrite m readBack) s = execProofWrite m readBack s := rfl
  have htake : execProofWrite m readBack s = take 0x20 proofParams (proofEffect readBack) m s := by
    rw [execProofWrite]
    rfl
  rw [hexec, htake, take_accepted h]

theorem proofEffect_read {c : Cmd} {v : State}
    (hv : (if c.arg 0x10 0 1 = 1 then writeBank s [] true else writeRecord s (changedRecord s c.pay) true) = v) :
    proofEffect true s c = reply v c { status := sOk, resp := layoutBytes 16 [(0, 8, v.boot.proofSeq), (8, 1, b2n v.boot.proofInB)] } := by
  rw [proofEffect, if_neg (by decide)]
  subst hv
  rfl

theorem proofEffect_failed {c : Cmd} : proofEffect false s c = replyS (failedWrite s) c sAborted := by
  rw [proofEffect, if_pos (by decide)]

theorem exec_fwUpdate {d : Dma} (h : Accepts 0x21 updateParams m s) (hok : dmaOk s (readCmd s m).port = true) (hd : d.failAt = none)
    {c : Cmd} {u v : State} {n : Nat} (hc : readCmd s m = c) (hu : taken s m = u) (hn : min (c.bufSize 0x20) 8388608 = n)
    (hv : countDmaRead (setSlot (setValid u (otherSlot s) false) (otherSlot s) (d.data.take n)) c n = v) :
    exec (.fwUpdate m d) s = .next (if imageVerifies (slotImage v.nor (otherSlot s)) then
      reply (setValid v (otherSlot s) true) c { status := sOk, resp := layoutBytes 40 [(0, 8, otherSlot s), (8, 32, imageDigest (slotImage v.nor (otherSlot s)))] }
      else replyS v c sBadSignature) := by
  subst hc hu hn hv
  have hexec : exec (.fwUpdate m d) s = execFwUpdate m d s := rfl
  have hreach : dmaOk (setValid (taken s m) (otherSlot (taken s m)) false) (readCmd s m).port = true := hok
  rw [hexec, execFwUpdate, take_accepted h]
  dsimp only
  rw [dmaFails_reached hreach hd]
  rfl

theorem exec_fwActivate (h : Accepts 0x22 activateParams m s) {c : Cmd} {u : State} (hc : readCmd s m = c) (hu : taken s m = u) :
    exec (.fwActivate m) s = .next (if s.boot.firmware && c.arg 0x10 0 1 == s.boot.activeSlot then replyS u c sOk
      else if !bootable s.nor (c.arg 0x10 0 1) || decide (imageVersion (slotImage s.nor (c.arg 0x10 0 1)) < minVersion s) then replyS u c sBadSignature
      else replyS { u with nor := writeBootDir s.nor { bootDirOf s.nor with active := c.arg 0x10 0 1 } } c sOk) := by
  subst hc hu
  have hexec : exec (.fwActivate m) s = execFwActivate m s := rfl
  exact hexec.trans (take_accepted h)

end

/-- Settles O59: command by command, each effect as its take leaves it. -/
theorem queriesAndControlTakeEffect : Obligations.QueriesAndControlTakeEffect := by
  intro m s c u reached
  have hinfo : exec (.nodeInfo m) s = execNodeInfo m s := rfl
  have hstatus : ∀ t, exec (.nodeStatus m t) s = execNodeStatus m t s := fun _ => rfl
  have hstart : exec (.start m) s = execStart m s := rfl
  have hresume : exec (.resume m) s = execResume m s := rfl
  have hmaint : exec (.maint m) s = execMaint m s := rfl
  have hstop : exec (.stop m) s = execStop m s := rfl
  refine ⟨fun h => hinfo.trans (take_accepted h), fun t h => (hstatus t).trans (take_accepted h),
    fun d seed h hseed ⟨hok, hd⟩ => exec_attest h hseed hok hd rfl rfl rfl,
    fun d h ⟨hok, hd⟩ => exec_counterRead h hok hd rfl rfl rfl, fun d h ⟨hok, hd⟩ => exec_logRead h hok hd rfl rfl rfl rfl rfl rfl rfl rfl,
    fun h => ⟨fun hdom hrun => resetDomain_node h hdom hrun, fun hdom hout hside => ?_, fun hdom hout hone hport => ?_, fun hdom hin => ?_⟩,
    fun h hfree hfault _ => selftest_runs h hfree hfault, fun h => hstart.trans (take_accepted h), fun h => hresume.trans (take_accepted h),
    fun h => ⟨fun hrun => ?_, fun hrun => ?_⟩, fun h => ⟨fun hrun => ?_, fun hrun => ?_⟩, fun v hv haway => ⟨fun h => ?_, fun h => ?_⟩,
    fun h => ⟨by rw [exec_proofWrite true h, proofEffect_read rfl], by rw [exec_proofWrite false h, proofEffect_failed]⟩,
    fun d h ⟨hok, hd⟩ => exec_fwUpdate h hok hd rfl rfl rfl rfl, fun h => ⟨fun hfirm hslot => ?_, fun hslot => ?_⟩⟩
  · rw [exec_resetDomain h hdom, if_neg (by rw [hout]; decide), if_pos hside]
  · rw [exec_resetDomain h hdom, if_neg (by rw [hout]; decide), if_neg (by rintro (hx | hx) <;> contradiction)]
  · rw [exec_resetDomain h hdom, if_pos hin]
  · rw [exec_serve h, atBoundary_running (show (taken s m).run.running = true from hrun)]
  · have hexec := exec_serve h
    rw [atBoundary_idle (show (taken s m).run.running = false from hrun)] at hexec
    exact .of_exec hexec (transitionStep_serve ⟨m.val, congrArg (fun code => some (code, m.val)) h.code⟩)
  · rw [exec_drain h, atBoundary_running (show (taken s m).run.running = true from hrun)]
  · have hexec := exec_drain h
    rw [atBoundary_idle (show (taken s m).run.running = false from hrun)] at hexec
    exact .of_exec hexec (transitionStep_drain ⟨m.val, congrArg (fun code => some (code, m.val)) h.code⟩)
  · exact (hmaint.trans (take_accepted h)).trans (congrArg _ (askDepart_away (s := taken s m) hv haway))
  · exact (hstop.trans (take_accepted h)).trans (congrArg _ (askDepart_away (s := taken s m) hv haway))
  · rw [exec_fwActivate h rfl rfl, if_pos]
    rw [hfirm, Bool.true_and, beq_iff_eq]
    exact hslot
  · have hno : ¬ (s.boot.firmware && (readCmd s m).arg 0x10 0 1 == s.boot.activeSlot) = true := by
      rw [Bool.and_eq_true, beq_iff_eq]
      exact fun hboth => hslot hboth.2
    rw [exec_fwActivate h rfl rfl, if_neg hno]
    simp only [Bool.or_eq_true, Bool.not_eq_true', decide_eq_true_eq]
    rfl

end Sys2Proof.Machine
end

section
/-!
PROOF. O60: what commands for set-up objects, composition, content, versions and transfers do once accepted (R348 to R362, R378, R280).
-/
namespace Sys2Proof.Machine

/-! ### Points and policies where no plate runs (R366, R378) -/

section
variable (s : State)

theorem retain_setup (ts : List Tlv) : (retain s ts).setup = s.setup := rfl

theorem idlePower_setup : ∃ p, (idlePower s).setup = { s.setup with running := p } := by
  rw [idlePower]
  split
  · exact ⟨s.setup.running, rfl⟩
  · exact ⟨idlePoint s, by rw [powerIbi_setup, show ∀ t : State, (reportPower t).setup = t.setup from fun _ => rfl, flatFlags_setup]⟩

/-- A point that applies. -/
def applyPoint (s : State) (x : Nat × Nat) : State :=
  finish (retain { s with setup := { s.setup with preferred := x.1 } } [⟨6, 0, leBytes 1 x.1⟩]) x.2 { status := sOk }

/-- A policy that applies. -/
def applyPolicy (s : State) (x : Bool × Nat × Nat) : State :=
  finish (retain { s with setup := { s.setup with flat := x.1, setPoint := x.2.1 } } [⟨7, 0, leBytes 4 (b2n x.1 + 65536 * x.2.1)⟩]) x.2.2
    { status := sOk }

theorem policyStep_eq : policyStep s =
    s.setup.newPolicy.foldl applyPolicy (s.setup.newPoint.foldl applyPoint { s with setup := { s.setup with newPoint := [], newPolicy := [] } }) := rfl

theorem applyPoint_setup (x : Nat × Nat) : (applyPoint s x).setup = { s.setup with preferred := x.1 } := by
  rw [applyPoint, finish_setup, retain_setup]

theorem applyPolicy_setup (x : Bool × Nat × Nat) : (applyPolicy s x).setup = { s.setup with flat := x.1, setPoint := x.2.1 } := by
  rw [applyPolicy, finish_setup, retain_setup]

theorem policies_point (l : List (Bool × Nat × Nat)) :
    ((l.foldl applyPolicy s).setup.preferred, (l.foldl applyPolicy s).setup.newPoint) = (s.setup.preferred, s.setup.newPoint) :=
  foldl_keeps (fun t => (t.setup.preferred, t.setup.newPoint)) applyPolicy (fun t x => by rw [applyPolicy_setup]) l s

theorem points_newPoint (l : List (Nat × Nat)) : (l.foldl applyPoint s).setup.newPoint = s.setup.newPoint :=
  foldl_keeps (fun t => t.setup.newPoint) applyPoint (fun t x => by rw [applyPoint_setup]) l s

end

section
variable {s : State}

/-- The point that was asked for last is preferred. -/
theorem policyStep_point {l : List (Nat × Nat)} {x : Nat × Nat} (h : s.setup.newPoint = l ++ [x]) :
    (policyStep s).setup.preferred = x.1 ∧ (policyStep s).setup.newPoint = [] := by
  obtain ⟨hpref, hnew⟩ := Prod.mk.inj (policies_point
    (s.setup.newPoint.foldl applyPoint { s with setup := { s.setup with newPoint := [], newPolicy := [] } }) s.setup.newPolicy)
  rw [policyStep_eq, hpref, hnew, points_newPoint, h, List.foldl_append, List.foldl_cons, List.foldl_nil, applyPoint_setup]
  exact ⟨rfl, rfl⟩

/-- The policy that was asked for last is in force. -/
theorem policyStep_policy {l : List (Bool × Nat × Nat)} {x : Bool × Nat × Nat} (h : s.setup.newPolicy = l ++ [x]) :
    (policyStep s).setup.flat = x.1 ∧ (policyStep s).setup.setPoint = x.2.1 := by
  rw [policyStep_eq, h, List.foldl_append, List.foldl_cons, List.foldl_nil, applyPolicy_setup]
  exact ⟨rfl, rfl⟩

theorem applyIdle_running (h : s.run.running = true) : applyIdle s = s := if_pos h

theorem applyIdle_setup (h : s.run.running = false) : ∃ p, (applyIdle s).setup = { (policyStep s).setup with running := p } := by
  rw [applyIdle, if_neg (by rw [h]; decide)]
  exact idlePower_setup _

variable {m : Fin 64}

/-! ### Set-up objects and composition -/

theorem exec_bpmap (h : Accepts 0x31 bpmapParams m s) {c : Cmd} {st die v : Nat} {t : State} (hc : readCmd s m = c) (hst : c.arg 0x10 0 3 = st)
    (hdie : c.arg 0x10 3 4 = die) (hv : c.arg 0x14 0 32 = v) (ht : writeNext (taken s m) c (.bpmap st die v) = t) :
    exec (.bpmap m) s = .next (if bit v 5 && !bit (bpmapOf s st die) 5 then startSpareCopy t st die (bits v 0 5) else t) := by
  have hexec : exec (.bpmap m) s = execBpmap m s := rfl
  have hmap : ∀ x : State, x.setup.bpmap = s.setup.bpmap → bpmapOf x st die = bpmapOf s st die := fun x hx => by rw [bpmapOf, hx, bpmapOf]
  have hkept : t.setup.bpmap = s.setup.bpmap := by
    rw [← ht]
    show (addNext (taken s m) _).setup.bpmap = _
    rw [addNext]
    split <;> rfl
  rw [hexec, execBpmap, take_accepted h, hc]
  dsimp only
  rw [hst, hdie, hv, ht, hmap t hkept]

theorem exec_compose {d : Dma} (h : Accepts 0x40 composeParams m s) (hok : dmaOk s (readCmd s m).port = true) (hd : d.failAt = none)
    {c : Cmd} {v : State} {b : Bytes} {size epoch : Nat} (hc : readCmd s m = c) (hsize : c.bufSize 0x20 = size) (hb : d.data.take size = b)
    (hv : countDmaRead (taken s m) c size = v) (hepoch : c.arg 0x10 0 32 = epoch) (hgood : packageBad b size epoch = none) :
    exec (.compose m d) s = .next (
      if epoch ≠ (s.setup.epoch + 1) % 2 ^ 32 then replyS (taken s m) c sStaleEpoch
      else if s.node.state = stRestored then composeNow (taken s m) v c b epoch
      else match pendingDetail s with
        | some x => badState (taken s m) c x
        | none => acceptChange (hold v c 0) epoch (some c.m) (packageNext b epoch)) := by
  subst hc
  have hexec : exec (.compose m d) s = execCompose m d s := rfl
  have hreach : dmaOk (taken s m) (readCmd s m).port = true := hok
  rw [hexec, execCompose, take_accepted h]
  dsimp only
  rw [withBuffer_reached hreach hd, hsize, hb, hepoch, hv, hgood, ← hv] <;> rfl

theorem exec_phaseLoad {d : Dma} (h : Accepts 0x41 phaseLoadParams m s) (hok : dmaOk s (readCmd s m).port = true) (hd : d.failAt = none)
    (hquiet : s.setup.reshard = none) {c : Cmd} {v : State} {b : Bytes} {size : Nat} (hc : readCmd s m = c) (hsize : c.bufSize 0x20 = size)
    (hb : d.data.take size = b) (hv : countDmaRead (taken s m) c size = v) (hgood : packageBad b size 0 = none)
    (hjob : fld b (fld b 8 0 32 + 0x10) 0 64 = s.setup.job) (hmap : phaseMapOk v b = true) :
    exec (.phaseLoad m d) s = .next (replyS { v with setup := { s.setup with
      phaseMaps := s.setup.phaseMaps.filter (fun p => p.1 != c.arg 0x10 0 2) ++ [(c.arg 0x10 0 2, b)] } } c sOk) := by
  subst hc
  have hexec : exec (.phaseLoad m d) s = execPhaseLoad m d s := rfl
  have hreach : dmaOk (taken s m) (readCmd s m).port = true := hok
  have hquiet' : (taken s m).setup.reshard = none := hquiet
  have hsetup : v.setup = s.setup := by rw [← hv]; rfl
  rw [hexec, execPhaseLoad, take_accepted h]
  dsimp only
  rw [hquiet', if_neg Bool.false_ne_true, withBuffer_reached hreach hd, hsize, hb, hv, hsetup, if_pos hjob, hgood, ite_self, minOpt]
  dsimp only
  rw [if_neg (by rw [hmap]; decide)]

theorem loadStrokes_frame (t : State) (image : Bytes) : (loadStrokes t image).run.frame = t.run.frame := by
  simp only [loadStrokes, writeMem_run]

theorem acceptChange_change (epoch : Nat) (mailbox : Option Nat) (ns : List Next) :
    ∃ ch, (acceptChange s epoch mailbox ns).setup.change = some ch ∧ ch.epoch = epoch ∧ ch.frame = s.run.frame ∧ ch.mailbox = mailbox := by
  refine ⟨_, rfl, rfl, ?_, rfl⟩
  refine foldl_keeps (fun t => t.run.frame) _ (fun t n => ?_) ns s
  split
  · exact loadStrokes_frame ..
  · rfl

theorem phase_runs {d : Dma} (h : Accepts 0x42 phaseParams m s) (hok : dmaOk s (readCmd s m).port = true) (hd : d.failAt = none)
    (hquiet : pendingDetail s = none) : Runs (.phase m d) s fun t =>
      (∃ r, t.setup.reshard = some r ∧ r.target = (readCmd s m).arg 0x10 0 2 ∧ r.mailbox = m.val ∧ r.moving = false) ∧
      ∃ ch, t.setup.change = some ch ∧ ch.epoch = (s.setup.epoch + 1) % 2 ^ 32 ∧ ch.frame = s.run.frame ∧ ch.mailbox = some m.val := by
  have hexec : exec (.phase m d) s = execPhase m d s := rfl
  have hreach : dmaOk (taken s m) (readCmd s m).port = true := hok
  have hquiet' : pendingDetail (taken s m) = none := hquiet
  rw [execPhase, take_accepted h] at hexec
  dsimp only at hexec
  rw [hquiet'] at hexec
  dsimp only at hexec
  rw [withBuffer_reached hreach hd] at hexec
  exact .of_exec hexec ⟨⟨_, rfl, rfl, rfl, rfl⟩, acceptChange_change (s := hold (countDmaRead (taken s m) (readCmd s m) _) (readCmd s m) 0) _ _ _⟩

theorem quotaSet_staged (h : Accepts 0x48 quotaParams m s) (hst : s.node.state ≠ stRestored) {c : Cmd} (hc : readCmd s m = c) :
    exec (.quotaSet m) s = .next (reply { taken s m with setup := { s.setup with
      staged := s.setup.staged.filter (fun q => q.1 != c.arg 0x10 0 4) ++ [(c.arg 0x10 0 4, c.pay)] } } c { status := sOk, resp := leBytes 8 1 }) := by
  subst hc
  have hexec : exec (.quotaSet m) s = execQuotaSet m s := rfl
  rw [hexec, execQuotaSet, take_accepted h]
  exact congrArg _ (if_neg (show ¬ (taken s m).node.state = stRestored from hst))

theorem quotaSet_now (h : Accepts 0x48 quotaParams m s) (hst : s.node.state = stRestored) :
    Runs (.quotaSet m) s fun t => t.setup.quota = cset [] s.setup.quota ((readCmd s m).arg 0x10 0 4) (readCmd s m).pay ∧
      t.setup.staged = s.setup.staged.filter (fun q => q.1 != (readCmd s m).arg 0x10 0 4) := by
  have hexec : exec (.quotaSet m) s = execQuotaSet m s := rfl
  rw [execQuotaSet, take_accepted h] at hexec
  dsimp only at hexec
  rw [if_pos (show (taken s m).node.state = stRestored from hst)] at hexec
  refine .of_exec hexec ?_
  rw [reply, answer_setup, retain_setup]
  exact ⟨rfl, rfl⟩

theorem exec_oppointSet (h : Accepts 0x49 oppointParams m s) {c : Cmd} (hc : readCmd s m = c) (hmay : refusesPoint s (c.arg 0x10 0 2) = none) :
    exec (.oppointSet m) s = .next (applyIdle { hold (taken s m) c 0 with setup := { s.setup with
      newPoint := s.setup.newPoint ++ [(c.arg 0x10 0 2, m.val)] } }) := by
  subst hc
  have hexec : exec (.oppointSet m) s = execOppointSet m s := rfl
  have hmay' : refusesPoint (taken s m) ((readCmd s m).arg 0x10 0 2) = none := hmay
  rw [hexec, execOppointSet, take_accepted h]
  dsimp only
  rw [hmay']
  rfl

theorem exec_policySet (h : Accepts 0x4A policyParams m s) {c : Cmd} (hc : readCmd s m = c) :
    exec (.policySet m) s = .next (applyIdle { hold (taken s m) c 0 with setup := { s.setup with
      newPolicy := s.setup.newPolicy ++ [(c.arg 0x10 0 1 == 1, c.arg 0x14 0 16, m.val)] } }) := by
  subst hc
  have hexec : exec (.policySet m) s = execPolicySet m s := rfl
  rw [hexec, execPolicySet, take_accepted h]
  rfl

end

end Sys2Proof.Machine
end

section
/-!
PROOF. O60, continued: objects, descriptors, rings, versions, transits and transfers (R355 to R362, R280).
-/
namespace Sys2Proof.Machine

variable {s : State} {m : Fin 64}

/-! ### Objects -/

theorem objAlloc_none (h : Accepts 0x50 objAllocParams m s) {c : Cmd} {u : State} (hc : readCmd s m = c) (hu : taken s m = u)
    (hes : allocate u { id := fld c.pay 0 0 32, desc := c.pay, extents := [] } = none) :
    exec (.objAlloc m) s = .next (replyS { u with drawn := s.drawn + 130 } c sNoSpace) := by
  subst hc hu
  have hexec : exec (.objAlloc m) s = execObjAlloc m s := rfl
  rw [hexec, execObjAlloc, take_accepted h]
  dsimp only
  rw [hes]
  rfl

theorem objAlloc_some (h : Accepts 0x50 objAllocParams m s) {c : Cmd} {u : State} {o : Obj} {d : Bytes} {es : List (Nat × Nat)}
    (hc : readCmd s m = c) (hu : taken s m = u) (ho : { id := fld c.pay 0 0 32, desc := c.pay, extents := [] } = o)
    (hd : patch c.pay 0x18 (leBytes 1 es.length) = d) (hes : allocate u o = some es) :
    exec (.objAlloc m) s = .next (reply { u with mem := { s.mem with objs := s.mem.objs ++ [{ o with desc := d, extents := es }] },
                                                 drawn := s.drawn + 130 } c { status := sOk, resp := d ++ extentList es }) := by
  subst hc hu ho hd
  have hexec : exec (.objAlloc m) s = execObjAlloc m s := rfl
  rw [hexec, execObjAlloc, take_accepted h]
  dsimp only
  rw [hes]
  rfl

theorem exec_objFree (h : Accepts 0x51 objFreeParams m s) {c : Cmd} {o : Obj} (hc : readCmd s m = c) (ho : findObj s (c.arg 0x10 0 32) = some o) :
    exec (.objFree m) s = .next (if objHeld s o then replyS (taken s m) c sBusy else replyS (freeObj (taken s m) o) c sOk) := by
  subst hc
  have hexec : exec (.objFree m) s = execObjFree m s := rfl
  have ho' : findObj (taken s m) ((readCmd s m).arg 0x10 0 32) = some o := ho
  rw [hexec, execObjFree, take_accepted h, ho']
  rfl

theorem arrives_reached {c : Cmd} {d : Dma} (hok : dmaOk s c.port = true) (hd : d.failAt = none) (n : Nat) : arrives s c d n = n := by
  rw [arrives, dmaFails_reached hok hd]
  rfl

/-- OBJ_WRITE once taken: what it makes of the tiles that arrive. -/
theorem exec_objWrite {d : Dma} (h : Accepts 0x52 objWriteParams m s) (hok : dmaOk s (readCmd s m).port = true) (hd : d.failAt = none)
    {c : Cmd} {o : Obj} {count : Nat} (hc : readCmd s m = c) (ho : findObj s (c.arg 0x10 0 32) = some o) (huse : namedInUse s o = false)
    (hcount : c.arg 0x18 0 32 = count) :
    exec (.objWrite m d) s = .next (match tilesBad o d.data (count * o.tileBytes) count with
      | some off => badBuffer (taken s m) c off
      | none => writeTiles c d o (c.arg 0x14 0 32) count count (countDmaRead (taken s m) c (count * o.tileBytes))) := by
  subst hc
  have hexec : exec (.objWrite m d) s = execObjWrite m d s := rfl
  have hreach : dmaOk (taken s m) (readCmd s m).port = true := hok
  have ho' : findObj (taken s m) ((readCmd s m).arg 0x10 0 32) = some o := ho
  have huse' : namedInUse (taken s m) o = false := huse
  rw [hexec, execObjWrite, take_accepted h]
  dsimp only
  rw [ho']
  dsimp only
  rw [huse', if_neg Bool.false_ne_true, hcount, arrives_reached hreach hd] <;> rfl

theorem slice_all (bs : Bytes) (n : Nat) (h : n ≤ bs.length) : slice bs 0 n = bs.take n := by
  simp [slice, h]

/-- One tile that arrives whole, carries no Reserved bit, and finds its TAG and room right. -/
theorem writeTiles_one {c : Cmd} {d : Dma} {o : Obj} {first : Nat} (hok : dmaOk s c.port = true) (hd : d.failAt = none)
    (hlen : d.data.length = o.tileBytes) (htag : tagOk (d.data.take 32) (d.data.drop 32) = true) (hroom : tileRoom s o first = true) :
    writeTiles c d o first 1 1 s =
      reply (foundAgain (clearSlots (countTile (writeTile s o first (d.data.take 32) (d.data.drop 32)) (some o.slice) o first true) o first) o) c
        { status := sOk, progress := o.tileBytes } := by
  have hwhole : slice d.data 0 o.tileBytes = d.data := by
    rw [slice_all _ _ (by omega), ← hlen, List.take_length]
  rw [writeTiles, arrives_reached hok hd, show 1 - (0 + 1) = 0 from rfl, Nat.zero_mul, hwhole, if_neg (by omega),
    if_neg (by rw [htag]; decide), show first + 0 = first from rfl, if_neg (by rw [hroom]; decide), writeTiles, Nat.one_mul]

theorem tilesBad_one {o : Obj} {bs : Bytes} (hlen : bs.length = o.tileBytes) (hgood : headerBad (bs.take 32) = none) :
    tilesBad o bs (1 * o.tileBytes) 1 = none := by
  have hhead : slice bs (0 * o.tileBytes) 32 = bs.take 32 := by
    rw [Nat.zero_mul, slice_all _ _ (by rw [hlen, Obj.tileBytes]; omega)]
  rw [tilesBad, List.range_one, List.findSome?_singleton, hhead, hgood]
  exact ite_self _

theorem exec_objRead {d : Dma} (h : Accepts 0x53 objReadParams m s) (hok : dmaOk s (readCmd s m).port = true) (hd : d.failAt = none)
    {c : Cmd} {u : State} {o : Obj} {ts : List (Bytes × Bool)} {bs : Bytes} (hc : readCmd s m = c) (hu : taken s m = u)
    (ho : findObj s (c.arg 0x10 0 32) = some o) (hts : (List.range (c.arg 0x18 0 32)).map (fun i => tileOut u o (c.arg 0x14 0 32 + i)) = ts)
    (hbs : ts.flatMap Prod.fst = bs) (hroom : bs.length ≤ c.bufSize 0x20) :
    exec (.objRead m d) s = .next (reply ((List.range (c.arg 0x18 0 32)).foldl
        (fun s i => countTile s (some o.slice) o (c.arg 0x14 0 32 + i) false) (hostWrite u c.port (c.bufAddr 0x20) bs)) c
      { status := sOk, detail := (ts.filter Prod.snd).length, progress := bs.length }) := by
  have hexec : exec (.objRead m d) s = execObjRead m d s := rfl
  have hreach : dmaOk u c.port = true := by
    rw [← hu, ← hc]
    exact hok
  have ho' : findObj u (c.arg 0x10 0 32) = some o := by
    rw [← hu]
    exact ho
  rw [hexec, execObjRead, take_accepted h, hc, hu]
  dsimp only
  rw [ho']
  dsimp only
  rw [hts, hbs, toBuffer_fits hreach hd hroom]

/-! ### Descriptors, rings, versions, transits -/

theorem exec_versionSwitch (h : Accepts 0x60 versionParams m s) {c : Cmd} {u : State} {d : Desc} {kind : Nat} {block : Bytes} (hc : readCmd s m = c)
    (hu : taken s m = u) (hkind : 1 + c.arg 0x10 0 1 = kind) (hblock : blockOf u kind c.pay = block)
    (hd : findDesc s kind (fld c.pay 0 0 16) = some d) (hmay : switchRefusal u d block = none) :
    exec (.versionSwitch m) s = .next (writeNext u c (.version kind c.pay block)) := by
  have hexec : exec (.versionSwitch m) s = execVersionSwitch m s := rfl
  have hd' : findDesc u kind (fld c.pay 0 0 16) = some d := by
    rw [← hu]
    exact hd
  rw [hexec, execVersionSwitch, take_accepted h, hc, hu]
  dsimp only
  rw [hkind, hblock, hd']
  dsimp only
  rw [hmay]

theorem exec_transit (h : Accepts 0x61 transitParams m s) {c : Cmd} {d : Desc} {shard owner : Nat} (hc : readCmd s m = c)
    (hshard : c.arg 0x10 16 16 = shard) (howner : c.arg 0x14 0 9 = owner) (hd : transitTable s c = some d) (hmine : shardOwner s d shard = nodeId s)
    (hmay : transitRefusal s d owner = none) (hfree : custodyFree s = true) :
    exec (.transit m) s = .next (if lacksQuota (taken s m) d shard owner then replyS { taken s m with drawn := s.drawn + 1 } c sNoSpace
      else startTransit { taken s m with drawn := s.drawn + 1 } c d shard owner) := by
  have hexec : exec (.transit m) s = execTransit m s := rfl
  have hd' : transitTable (taken s m) c = some d := hd
  have hmine' : shardOwner (taken s m) d shard = nodeId (taken s m) := hmine
  have hmay' : transitRefusal (taken s m) d owner = none := hmay
  have hfree' : custodyFree { taken s m with drawn := (taken s m).drawn + 1 } = true := hfree
  rw [hexec, execTransit, take_accepted h, hc]
  dsimp only
  rw [hshard, howner, hd']
  dsimp only
  rw [if_neg (Classical.not_not.2 hmine'), hmay']
  dsimp only
  rw [if_neg (c := (!custodyFree _) = true) (by rw [hfree']; decide)]
  rfl

theorem ringClose_running (h : Accepts 0x59 ringCloseParams m s) (hrun : s.run.running = true) {c : Cmd} (hc : readCmd s m = c) :
    exec (.ringClose m) s = .next { hold (taken s m) c (c.arg 0x10 0 6) with host := { (hold (taken s m) c (c.arg 0x10 0 6)).host with
      rings := s.host.rings.map fun r => if r.num = c.arg 0x10 0 6 then { r with closing := true } else r } } := by
  subst hc
  have hexec : exec (.ringClose m) s = execRingClose m s := rfl
  rw [hexec, execRingClose, take_accepted h]
  exact congrArg _ (if_pos hrun)

/-! ### Transfers -/

/-- One tile of a transfer: counted and sent. -/
def sendTileOf (c : Cmd) (o : Obj) (s : State) (t : Nat) : State := countTile (sendBulk s (bridgeMsg s c o t)) (some o.slice) o t false

/-- What a transfer leaves of the node. -/
def State.besideOut (s : State) : Memory × Node × Setup × List (Nat × Nat × Nat) := (s.mem, s.node, s.setup, s.fab.bridge)

theorem countMoved_cnt (sl : Option Nat) (a n : Nat) (wr : Bool) : ∃ k, countMoved s sl a n wr = { s with cnt := k } := by
  unfold countMoved
  dsimp only
  split
  · exact ⟨s.cnt, rfl⟩
  · split <;> split <;> exact ⟨_, rfl⟩

theorem countTile_cnt (sl : Option Nat) (o : Obj) (t : Nat) (wr : Bool) : ∃ k, countTile s sl o t wr = { s with cnt := k } := by
  unfold countTile
  split
  · rename_i h p _
    obtain ⟨k, hk⟩ := countMoved_cnt (s := s) sl h 32 wr
    obtain ⟨k', hk'⟩ := countMoved_cnt (s := countMoved s sl h 32 wr) sl p o.payload wr
    rw [hk', hk]
    exact ⟨k', rfl⟩
  · exact ⟨s.cnt, rfl⟩

theorem sendBulk_sends (b : BulkMsg) : (sendBulk s b).besideOut = s.besideOut ∧ (sendBulk s b).fab.out.length = s.fab.out.length + 1 := by
  unfold sendBulk
  dsimp only
  split
  · exact ⟨rfl, List.length_append⟩
  · exact ⟨rfl, List.length_append⟩

theorem sendTileOf_sends (c : Cmd) (o : Obj) (t : Nat) :
    (sendTileOf c o s t).besideOut = s.besideOut ∧ (sendTileOf c o s t).fab.out.length = s.fab.out.length + 1 := by
  obtain ⟨k, hk⟩ := countTile_cnt (s := sendBulk s (bridgeMsg s c o t)) (some o.slice) o t false
  rw [sendTileOf, hk]
  exact sendBulk_sends (bridgeMsg s c o t)

theorem sendTiles_send (c : Cmd) (o : Obj) (ts : List Nat) (s : State) :
    (ts.foldl (sendTileOf c o) s).besideOut = s.besideOut ∧ (ts.foldl (sendTileOf c o) s).fab.out.length = s.fab.out.length + ts.length := by
  induction ts generalizing s with
  | nil => exact ⟨rfl, rfl⟩
  | cons t ts ih =>
    obtain ⟨hbeside, hout⟩ := sendTileOf_sends (s := s) c o t
    obtain ⟨hrest, hmore⟩ := ih (sendTileOf c o s t)
    refine ⟨hrest.trans hbeside, hmore.trans ?_⟩
    rw [hout, List.length_cons]
    omega

theorem bridgeXfer_runs (h : Accepts 0x70 bridgeParams m s) {c : Cmd} {o : Obj} {ts : List Nat} (hc : readCmd s m = c)
    (ho : findObj s (c.arg 0x10 0 32) = some o) (hts : (List.range (c.arg 0x18 0 32)).map (c.arg 0x14 0 32 + ·) = ts) (hsome : ts ≠ []) :
    Runs (.bridgeXfer m) s fun t => t.fab.bridge = s.fab.bridge ++ ts.map (fun x => (c.arg 0x1C 0 32, x, m.val)) ∧
      t.fab.out.length = s.fab.out.length + ts.length ∧ t.mem = s.mem ∧ t.node = s.node ∧ t.setup = s.setup := by
  subst hc
  have hexec : exec (.bridgeXfer m) s = execBridgeXfer m s := rfl
  have ho' : findObj (taken s m) ((readCmd s m).arg 0x10 0 32) = some o := ho
  rw [execBridgeXfer, take_accepted h] at hexec
  dsimp only at hexec
  rw [ho'] at hexec
  dsimp only at hexec
  rw [hts, if_neg (by simpa using hsome)] at hexec
  obtain ⟨hbeside, hout⟩ := sendTiles_send (readCmd s m) o ts (hold (taken s m) (readCmd s m) o.tileBytes)
  simp only [State.besideOut, Prod.mk.injEq] at hbeside
  obtain ⟨hmem, hnode, hsetup, hbridge⟩ := hbeside
  exact .of_exec hexec ⟨congrArg (· ++ _) hbridge, hout, hmem, hnode, hsetup⟩

theorem exec_conjPromote (h : Accepts 0x78 noArgs m s) (hmay : promoteRefusal s = none) {c : Cmd} {t : State} (hc : readCmd s m = c)
    (ht : { hold (taken s m) c 0 with conj := { s.conj with promote := s.conj.promote ++ [m.val] } } = t) :
    exec (.conjPromote m) s = .next (if s.run.running then t else promoteStep t) := by
  subst hc ht
  have hexec : exec (.conjPromote m) s = execConjPromote m s := rfl
  have hmay' : promoteRefusal (taken s m) = none := hmay
  rw [hexec, execConjPromote, take_accepted h]
  dsimp only
  rw [hmay']
  rfl

theorem promoteStep_one {b : Nat} (h : s.conj.promote = [b]) :
    (promoteStep s).conj = { s.conj with primary := 1, promote := [] } ∧ (promoteStep s).node = s.node := by
  rw [promoteStep, h, if_neg (by simp), List.foldl_cons, List.foldl_nil, finish_conj, finish_node]
  exact ⟨rfl, rfl⟩

/-- Settles O60: command by command, each effect as its take leaves it. -/
theorem setupAndContentTakeEffect : Obligations.SetupAndContentTakeEffect := by
  intro m s c u reached waits
  have hclmap : exec (.clusterMap m) s = execClusterMap m s := rfl
  have hdesc : exec (.descLoad m) s = execDescLoad m s := rfl
  have hring : exec (.ringSetup m) s = execRingSetup m s := rfl
  refine ⟨fun h => hclmap.trans (take_accepted h), fun h => ⟨fun hno => ?_, fun hv hoff => ?_⟩,
    fun d h ⟨hok, hd⟩ hgood => ⟨fun hstale => ?_, fun hepoch hst hquiet => ?_⟩,
    fun d h ⟨hok, hd⟩ hquiet hgood hjob hmap => exec_phaseLoad h hok hd hquiet rfl rfl rfl rfl hgood hjob hmap,
    fun d h ⟨hok, hd⟩ hquiet => phase_runs h hok hd hquiet, fun h => ⟨fun hst => quotaSet_staged h hst rfl, fun hst => quotaSet_now h hst⟩,
    fun h hmay => ⟨fun hrun => ?_, fun hrun => ?_⟩, fun h => ⟨fun hrun => ?_, fun hrun => ?_⟩, fun h => ?_,
    fun o h ho => ⟨fun hheld => ?_, fun hheld => ?_⟩, fun d o h ⟨hok, hd⟩ ho huse hcount hgood htag hlen => ?_,
    fun d o off h ⟨hok, hd⟩ ho huse hbad => ?_, fun d o h ⟨hok, hd⟩ ho => exec_objRead h hok hd rfl rfl ho rfl rfl,
    fun h => hdesc.trans (take_accepted h), fun h => hring.trans (take_accepted h), fun h hrun => ?_,
    fun d h hd hmay => exec_versionSwitch h rfl rfl rfl rfl hd hmay, fun d h hd hmine hmay hfree => exec_transit h rfl rfl rfl hd hmine hmay hfree,
    fun o h ho hcount => ?_, fun h hmay hnone => ⟨fun hrun => ?_, fun hrun => ?_⟩⟩
  · have hcond : ¬ (bit (c.arg 0x14 0 32) 5 && !bit (bpmapOf s (c.arg 0x10 0 3) (c.arg 0x10 3 4)) 5) = true := by
      rcases hno with hno | hno <;> rw [hno] <;> simp
    rw [exec_bpmap h rfl rfl rfl rfl rfl, if_neg hcond]
    rfl
  · have hcond : (bit (c.arg 0x14 0 32) 5 && !bit (bpmapOf s (c.arg 0x10 0 3) (c.arg 0x10 3 4)) 5) = true := by
      rw [hv, hoff]
      rfl
    rw [exec_bpmap h rfl rfl rfl rfl rfl, if_pos hcond]
    rfl
  · rw [exec_compose h hok hd rfl rfl rfl rfl rfl hgood, if_pos hstale]
  · rw [exec_compose h hok hd rfl rfl rfl rfl rfl hgood, if_neg (Classical.not_not.2 hepoch), if_neg hst, hquiet] <;> rfl
  · exact (exec_oppointSet h rfl hmay).trans (congrArg _ (applyIdle_running hrun))
  · have hexec := exec_oppointSet h rfl hmay
    obtain ⟨p, hsetup⟩ := applyIdle_setup (s := { hold u c 0 with setup := { s.setup with newPoint := s.setup.newPoint ++ [(c.arg 0x10 0 2, m.val)] } }) hrun
    obtain ⟨hpref, hnew⟩ := policyStep_point
      (s := { hold u c 0 with setup := { s.setup with newPoint := s.setup.newPoint ++ [(c.arg 0x10 0 2, m.val)] } }) rfl
    refine .of_exec hexec ⟨(congrArg Setup.preferred hsetup).trans hpref, (congrArg Setup.newPoint hsetup).trans hnew⟩
  · exact (exec_policySet h rfl).trans (congrArg _ (applyIdle_running hrun))
  · have hexec := exec_policySet h rfl
    obtain ⟨p, hsetup⟩ := applyIdle_setup
      (s := { hold u c 0 with setup := { s.setup with newPolicy := s.setup.newPolicy ++ [(c.arg 0x10 0 1 == 1, c.arg 0x14 0 16, m.val)] } }) hrun
    obtain ⟨hflat, hpoint⟩ := policyStep_policy
      (s := { hold u c 0 with setup := { s.setup with newPolicy := s.setup.newPolicy ++ [(c.arg 0x10 0 1 == 1, c.arg 0x14 0 16, m.val)] } }) rfl
    refine .of_exec hexec ⟨(congrArg Setup.flat hsetup).trans hflat, (congrArg Setup.setPoint hsetup).trans hpoint⟩
  · intro o
    cases hes : allocate u o with
    | none => exact objAlloc_none h rfl rfl hes
    | some es => exact objAlloc_some h rfl rfl rfl rfl hes
  · rw [exec_objFree h rfl ho, if_neg (by rw [hheld]; decide)]
  · rw [exec_objFree h rfl ho, if_pos hheld]
  · intro v hroom
    have hone : v = countDmaRead u c (1 * o.tileBytes) := by rw [Nat.one_mul]
    have hreach : dmaOk v c.port = true := hok
    rw [exec_objWrite h hok hd rfl ho huse hcount, tilesBad_one hlen hgood]
    dsimp only
    rw [← hone, writeTiles_one hreach hd hlen htag hroom]
  · rw [exec_objWrite h hok hd rfl ho huse rfl, hbad]
    rfl
  · exact .of_exec (ringClose_running h hrun rfl) ⟨rfl, rfl, rfl, rfl, rfl⟩
  · have hsome : (List.range (c.arg 0x18 0 32)).map (c.arg 0x14 0 32 + ·) ≠ [] := by simpa using hcount
    obtain ⟨t, hexec, hbridge, hout, hrest⟩ := bridgeXfer_runs h rfl ho rfl hsome
    rw [List.length_map, List.length_range] at hout
    exact ⟨t, hexec, hbridge, hout, hrest⟩
  · have hexec := exec_conjPromote h hmay rfl rfl
    rw [if_pos hrun, hnone] at hexec
    exact .of_exec hexec ⟨rfl, rfl⟩
  · have hexec := exec_conjPromote h hmay rfl rfl
    rw [if_neg (by rw [hrun]; decide), hnone] at hexec
    obtain ⟨hconj, hnode⟩ := promoteStep_one (s := { hold u c 0 with conj := { s.conj with promote := [] ++ [m.val] } }) rfl
    refine .of_exec hexec ⟨hconj.trans ?_, hnode⟩
    rw [← hnone]

end Sys2Proof.Machine
end

section
/-!
PROOF. O44, O45: training of the lanes and formation of conjunctions (R260 to R262, R272, R278, R281).
-/
namespace Sys2Proof.Machine

variable {s : State}

/-! ### Training -/

/-- An event of training that finds the lane in training. -/
theorem exec_lightDetected {l : Fin 32} (h : laneTrains s l = true) : exec (.lightDetected l) s =
    .next (sendTrain (setLink (if (getLink s l).swapped then note s (.swapped l) else s) l { getLink s l with state := 2 }) l) :=
  (show exec (.lightDetected l) s = execLightDetected l s from rfl).trans (if_pos h)

theorem exec_pairSwapToggle {l : Fin 32} (h : laneTrains s l = true) (hx : (getLink s l).state ≤ 1) : exec (.pairSwapToggle l) s =
    .next (sendTrain (setLink s l { getLink s l with state := 1, swapped := !(getLink s l).swapped }) l) :=
  (show exec (.pairSwapToggle l) s = execPairSwapToggle l s from rfl).trans (if_pos (by rw [h, decide_eq_true hx]; rfl))

theorem exec_laneTrainingTimeout {l : Fin 32} (h : laneTrains s l = true) : exec (.laneTrainingTimeout l) s =
    .next (note (setLink s l { getLink s l with state := if (getLink s l).state = 2 then 5 else 4 })
      (if (getLink s l).state = 2 then .oneWay l else .dark l)) := by
  have hexec : exec (.laneTrainingTimeout l) s = execLaneTrainingTimeout l s := rfl
  rw [hexec, execLaneTrainingTimeout, if_pos h]
  simp only [decide_eq_true_eq]

theorem exec_train {l : Fin 32} {ns : Nat} {p : TrainMsg} (h : laneTrains s l = true) : exec (.train l ns p) s =
    .next (sendTrain (setLink s l { getLink s l with
      state := if (txHeard s l p).isNone then 2 else if portRole s (l.val / 4) = 0 ∧ miswired s p then 6 else 3
      peer := some p, latency := ns, tx := txHeard s l p }) l) :=
  (show exec (.train l ns p) s = execTrain l ns p s from rfl).trans (if_pos h)

theorem miswired_false {p : TrainMsg} (hnear : isNeighbour (nodeId s) p.node.val = true) (hin : inDomain s p.node.val = true)
    (hdom : p.domain.toNat = domainNumber s) (hrole : p.role.val = 0) : miswired s p = false := by
  rw [miswired, hnear, hin, hdom, hrole]
  simp

theorem miswired_true {p : TrainMsg} (h : isNeighbour (nodeId s) p.node.val = false ∨ inDomain s p.node.val = false ∨
    p.domain.toNat ≠ domainNumber s ∨ p.role.val ≠ 0) : miswired s p = true := by
  simp only [miswired, Bool.or_eq_true, Bool.not_eq_true', bne_iff_ne, or_assoc]
  exact h

/-- R262: the Tx lane found is one of the port's role that the peer hears. -/
theorem txHeard_spec {l t : Nat} {p : TrainMsg} (h : txHeard s l p = some t) :
    t < 32 ∧ portRole s (t / 4) = portRole s (l / 4) ∧ t ∈ p.hears := by
  unfold txHeard at h
  extract_lets q free ok at h
  have hok : ∀ x, ok x = true → x < 32 ∧ portRole s (x / 4) = portRole s (l / 4) := by
    intro x hx
    simp only [ok, Bool.and_eq_true, decide_eq_true_eq, beq_iff_eq] at hx
    exact hx.1
  by_cases hq : ok (p.hears.getD q 255) = true
  · rw [if_pos hq, Option.some.injEq] at h
    subst h
    obtain ⟨hlt, hrole⟩ := hok _ hq
    refine ⟨hlt, hrole, ?_⟩
    by_cases hin : q < p.hears.length
    · exact getD_mem_of_lt hin _
    · rw [List.getD_eq_getElem?_getD, List.getElem?_eq_none (Nat.le_of_not_lt hin), Option.getD_none] at hlt
      omega
  · rw [if_neg hq] at h
    obtain ⟨hlt, hrole⟩ := hok t (List.find?_some h)
    exact ⟨hlt, hrole, List.mem_of_find?_eq_some h⟩

theorem laneTrains_false {l : Nat} (h : portRole s (l / 4) = 3 ∨ 3 ≤ (getLink s l).state) : laneTrains s l = false := by
  rcases h with h | h
  · simp [laneTrains, h]
  · simp only [laneTrains, Bool.and_eq_false_imp, decide_eq_false_iff_not]
    omega

/-- The neighbours without a link are reported one by one. -/
theorem notes_foldl (l : List Nat) (s : State) : l.foldl (fun s n => note s (.noLink n)) s =
    { s with fab := { s.fab with notes := s.fab.notes ++ l.map FabricNote.noLink } } := by
  induction l generalizing s with
  | nil => rw [List.map_nil, List.append_nil]; rfl
  | cons n l ih => rw [List.foldl_cons, ih, note, List.map_cons, List.append_assoc]; rfl

section
variable {t : State} (h : t.boot = s.boot)
include h

theorem setting_of_boot (type index : Nat) : setting t type index = setting s type index := by rw [setting, h, setting]

theorem portRole_of_boot : portRole t = portRole s := by
  funext p
  rw [portRole, setting_of_boot h, portRole]

theorem conjSetting_of_boot : conjSetting t = conjSetting s := by rw [conjSetting, setting_of_boot h, conjSetting]

theorem conjCandidate_of_boot : conjCandidate t = conjCandidate s := by
  rw [conjCandidate, portRole_of_boot h, conjSetting_of_boot h, h, conjCandidate]

theorem domainSetting_of_boot : domainSetting t = domainSetting s := by rw [domainSetting, setting_of_boot h, domainSetting]

theorem nodeId_of_boot : nodeId t = nodeId s := by rw [nodeId, domainSetting_of_boot h, nodeId]

theorem inDomain_of_boot : inDomain t = inDomain s := by
  funext n
  unfold inDomain dimA dimB dimC
  rw [domainSetting_of_boot h]

theorem domainPeers_of_boot : domainPeers t = domainPeers s := by
  rw [domainPeers, domainNodes, inDomain_of_boot h, nodeId_of_boot h, domainPeers, domainNodes]

theorem linksTo_of_links (hlinks : t.fab.links = s.fab.links) (n : Nat) : linksTo t n = linksTo s n := by
  have hget : getLink t = getLink s := by
    funext l
    rw [getLink, hlinks, getLink]
  rw [linksTo, portRole_of_boot h, hget, linksTo]

end

/-- R260, R272, R278, R412: the end of training. -/
theorem fabricTrainingComplete_runs {bad : Nat} (hon : s.power.state = 2) (hnew : s.fab.trained = false) (hup : s.faults.inReset.contains 4 = false)
    (hbad : ((List.range 32).filter fun l => (getLink s l).state == 4 || (getLink s l).state == 5).length = bad) :
    Runs .fabricTrainingComplete s fun t => t.fab.trained = true ∧ t.fab.links = s.fab.links ∧
      t.fab.out = s.fab.out ++ (if conjCandidate s && s.boot.conjId != 0 then [.conjJoin s.boot.conjId s.boot.serial s.boot.fwDigest] else []) ∧
      t.fab.notes = s.fab.notes ++ ((domainPeers s).filter fun n => (linksTo s n).isEmpty).map FabricNote.noLink ∧
      t.orr.outbox = s.orr.outbox ++ match s.orr.view with
        | some v => if bad > 0 then [(1, v.coord, nodeId s, 0, min 32 (4 * bad))] else []
        | none => [] := by
  have hexec : exec .fabricTrainingComplete s = execFabricTrainingComplete s := rfl
  have hgo : ¬ (s.power.state ≠ 2 ∨ s.fab.trained = true ∨ s.faults.inReset.contains 4 = true) := by
    rw [hon, hnew, hup]
    decide
  rw [execFabricTrainingComplete, if_neg hgo] at hexec
  extract_lets src s1 bad1 s2 s3 src3 at hexec
  have hbad1 : bad1 = bad := hbad
  obtain ⟨hcore, hlinks, hboot, hbox⟩ : s2.fabCore = s1.fabCore ∧ s2.fab.links = s.fab.links ∧ s2.boot = s.boot ∧
      s2.orr.outbox = s.orr.outbox ++ match s.orr.view with
        | some v => if bad > 0 then [(1, v.coord, nodeId s, 0, min 32 (4 * bad))] else []
        | none => [] := by
    simp only [s2, hbad1, s1, src]
    cases s.orr.view with
    | none => exact ⟨rfl, rfl, rfl, (List.append_nil _).symm⟩
    | some v =>
      dsimp only
      split
      · exact ⟨rfl, rfl, rfl, rfl⟩
      · exact ⟨rfl, rfl, rfl, (List.append_nil _).symm⟩
  have hnotes : s3 = { s2 with fab := { s2.fab with
      notes := s2.fab.notes ++ ((domainPeers s).filter fun n => (linksTo s n).isEmpty).map FabricNote.noLink } } := by
    simp only [s3, domainPeers_of_boot hboot, linksTo_of_links hboot hlinks]
    exact notes_foldl ..
  have hhead : s2.fab.trained = true ∧ s2.fab.out = s.fab.out ∧ s2.fab.notes = s.fab.notes := by
    have htrained : s2.fab.trained = s1.fab.trained := by simpa only [State.fabCore] using congrArg Fabric.trained hcore
    have hout : s2.fab.out = s1.fab.out := out_of_fabCore hcore
    have hold : s2.fab.notes = s1.fab.notes := notes_of_fabCore hcore
    exact ⟨htrained, hout, hold⟩
  obtain ⟨htrained, hout, hold⟩ := hhead
  clear_value s3 s2
  have hjoin : (if (conjCandidate s3 && s3.boot.conjId != 0) = true then
      { s3 with fab := { s3.fab with out := s3.fab.out ++ [.conjJoin s3.boot.conjId s3.boot.serial s3.boot.fwDigest] } } else s3) =
      { s3 with fab := { s3.fab with out := s3.fab.out ++
        if (conjCandidate s && s.boot.conjId != 0) = true then [.conjJoin s.boot.conjId s.boot.serial s.boot.fwDigest] else [] } } := by
    have hboot3 : s3.boot = s.boot := by rw [hnotes]; exact hboot
    rw [conjCandidate_of_boot hboot3, hboot3]
    split
    · rfl
    · rw [List.append_nil, ← hboot3]
  rw [hjoin, hnotes] at hexec
  refine .of_exec hexec ⟨htrained, hlinks, ?_, ?_, hbox⟩
  · dsimp only
    rw [hout]
  · dsimp only
    rw [hold]

/-- Settles O44: each event by its own equation; the lane found by `txHeard_spec`. -/
theorem lanesTrain : Obligations.LanesTrain := by
  refine ⟨fun l s h => ⟨exec_lightDetected h, fun hx => exec_pairSwapToggle h hx, fun hx => ?_, fun hx => ?_, fun ns p => ?_⟩,
    fun s l t p h => txHeard_spec h, fun l s h => laneTrains_false h, fun s hon hnew hup => ?_⟩
  · rw [exec_laneTrainingTimeout h, if_pos hx, if_pos hx]
  · rw [exec_laneTrainingTimeout h, if_neg (by omega), if_neg (by omega)]
  · intro heard becomes
    have htrain := exec_train (ns := ns) (p := p) h
    refine ⟨fun hnone => ?_, fun hsome hrole => ?_, fun hsome hrole hnear hin hdom hp => ?_, fun hsome hrole hbad => ?_⟩
    · rw [if_pos (by rw [show txHeard s l p = none from hnone]; rfl)] at htrain
      exact htrain
    · rw [if_neg (by rw [Option.isNone_iff_eq_none]; exact hsome), if_neg (fun hboth => hrole hboth.1)] at htrain
      exact htrain
    · rw [if_neg (by rw [Option.isNone_iff_eq_none]; exact hsome), if_neg (by rw [miswired_false hnear hin hdom hp]; simp)] at htrain
      exact htrain
    · rw [if_neg (by rw [Option.isNone_iff_eq_none]; exact hsome), if_pos ⟨hrole, miswired_true hbad⟩] at htrain
      exact htrain
  · exact fabricTrainingComplete_runs hon hnew hup rfl

/-! ### Conjunctions -/

theorem conjComplete_iff (m : Nat) : conjComplete s m = true ↔ s.conj.joined.length = m - 1 ∧ ∀ i, i < m - 1 →
    (∃ j ∈ s.conj.joined, j.1 = i + 1 ∧ j.2.2 = s.boot.fwDigest) ∧ conjLinks s (i + 1) ≠ [] := by
  simp only [conjComplete, conjLink, Bool.and_eq_true, beq_iff_eq, List.all_eq_true, List.mem_range, List.any_eq_true, Bool.not_eq_true',
    List.isEmpty_eq_false_iff, Prod.exists]

theorem exec_conjJoin {p : Fin 8} {serial : BitVec 64} {digest : BitVec 256} (hpos : s.boot.conjId = 0) (hnew : s.conj.formed = false)
    (hok : s.conj.failed = false) (hcand : conjCandidate s = true) (htrained : s.fab.trained = true) {s1 : State}
    (h1 : { s with conj := { s.conj with joined := s.conj.joined ++ [(p.val, serial.toNat, digest.toNat)] } } = s1) :
    exec (.conjJoin p serial digest) s = .next (if conjComplete s1 (conjSetting s1).1 then conjForm s1 else s1) := by
  subst h1
  have hexec : exec (.conjJoin p serial digest) s = execConjJoin p serial digest s := rfl
  rw [hexec, execConjJoin, if_neg (by rw [hpos, hnew, hok, hcand, htrained]; decide)]

/-- Settles O45: each event by its own equation; completeness by `conjComplete_iff`. -/
theorem conjunctionsForm : Obligations.ConjunctionsForm := by
  refine ⟨fun p serial digest s hpos hnew hok hcand htrained => ?_, fun s m => conjComplete_iff m, fun size arr node epoch s hpos hnew hcand => ?_,
    fun s hpos hnew hok hcand => ?_, fun p s hformed hin => ?_⟩
  · intro s1 m arr e
    have hexec := exec_conjJoin (p := p) (serial := serial) (digest := digest) hpos hnew hok hcand htrained rfl
    refine ⟨fun hno => ?_, fun hyes => ?_⟩
    · rw [hexec]
      exact congrArg _ (if_neg (Bool.eq_false_iff.1 hno))
    · rw [hexec]
      exact congrArg _ (if_pos hyes)
  · intro d
    have hexec : exec (.accept size arr node epoch) s = execAccept size arr node epoch s := rfl
    rw [hexec, execAccept, if_neg (by rw [hnew, hcand]; simp [hpos])]
    rfl
  · intro here mask
    have hexec : exec .conjFormTimeout s = execConjFormTimeout s := rfl
    rw [hexec, execConjFormTimeout, if_neg (by rw [hpos, hnew, hok, hcand]; decide)]
  · intro s1
    have hexec : exec (.conjMemberLost p) s = execConjMemberLost p s := rfl
    have hgo : ¬ (!s.conj.formed || !s.conj.members.contains p.val) = true := by rw [hformed, hin]; decide
    have harr : s1.conj.arrangement = s.conj.arrangement := by rw [logFault_conj]
    refine ⟨fun hmul => ?_, fun hmul => ?_⟩
    · rw [hexec, execConjMemberLost]
      dsimp only
      rw [if_neg hgo, if_pos (harr.trans hmul), logFault_conj]
    · rw [hexec, execConjMemberLost]
      dsimp only
      rw [if_neg hgo, if_neg (fun h => hmul (harr.symm.trans h))]

end Sys2Proof.Machine
end

section
/-!
PROOF. O43: what a link makes of flits, of a replay timeout, of failed lasers and of latencies (R259, R263 to R265, R270).
-/
namespace Sys2Proof.Machine

/-! ### Cells that need not be in canonical form -/

section
variable {α : Type} [DecidableEq α] {d v : α} {k j : Nat}

/-- What is written is read, where it is not the default. -/
theorem cget_cset_written (m : Cells α) (hv : v ≠ d) : cget d (cset d m k v) k = v := by
  induction m with
  | nil => simp [cset, cget, hv]
  | cons e r ih =>
    obtain ⟨k', v'⟩ := e
    rw [cset]
    by_cases hlt : k < k'
    · rw [if_pos hlt, if_neg hv, cget, if_neg (by omega), if_pos rfl]
    · rw [if_neg hlt]
      by_cases heq : k = k'
      · rw [if_pos heq, if_neg hv, cget, if_neg (by omega), if_pos rfl]
      · rw [if_neg heq, cget, if_neg hlt, if_neg heq, ih]

/-- What is written at another key leaves what is read, where that is not the default. -/
theorem cget_cset_beside (m : Cells α) (hj : cget d m j ≠ d) (hne : j ≠ k) : cget d (cset d m k v) j = cget d m j := by
  induction m with
  | nil => exact absurd rfl hj
  | cons e r ih =>
    obtain ⟨k', v'⟩ := e
    have hle : ¬ j < k' := fun hlt => hj (by rw [cget, if_pos hlt])
    rw [cset]
    by_cases hjk : j = k'
    · subst hjk
      by_cases hlt : k < j
      · rw [if_pos hlt]
        split
        · rfl
        · rw [cget, if_neg (by omega), if_neg hne]
      · rw [if_neg hlt, if_neg (fun h => hne h.symm), cget, cget, if_neg hle, if_neg hle, if_pos rfl, if_pos rfl]
    · have hrest : cget d ((k', v') :: r) j = cget d r j := by rw [cget, if_neg hle, if_neg hjk]
      rw [hrest] at hj ⊢
      by_cases hlt : k < k'
      · rw [if_pos hlt]
        split
        · exact hrest
        · rw [cget, if_neg (by omega), if_neg hne, hrest]
      · rw [if_neg hlt]
        split
        · split
          · rfl
          · rw [cget, if_neg (by omega), if_neg hne]
        · rw [cget, if_neg hle, if_neg hjk, ih hj]

end

/-! ### A link that is out of service -/

section
variable {s : State}

/-- A link removed from service, with nothing queued and nothing outstanding. -/
def Removed (s : State) (l : Nat) : Prop := (getLink s l).state = 8 ∧ (getLink s l).replay = [] ∧ (getLink s l).queue = []

theorem Removed.ne_noLink {l : Nat} (h : Removed s l) : getLink s l ≠ noLink := by
  intro hno
  obtain ⟨hst, -⟩ := h
  rw [hno] at hst
  cases hst

theorem Removed.of_links {t : State} {l : Nat} (h : Removed s l) (hlinks : t.fab.links = s.fab.links) : Removed t l := by
  have hget : getLink t l = getLink s l := by rw [getLink, hlinks, getLink]
  rw [Removed, hget]
  exact h

theorem getLink_setLink_beside {l k : Nat} {x : Link} (h : getLink s l ≠ noLink) (hne : l ≠ k) : getLink (setLink s k x) l = getLink s l :=
  cget_cset_beside _ h hne

theorem getLink_setLink_written {l : Nat} {x : Link} (h : x ≠ noLink) : getLink (setLink s l x) l = x := cget_cset_written _ h

theorem Removed.setLink {l k : Nat} {x : Link} (h : Removed s l) (hne : l ≠ k) : Removed (setLink s k x) l := by
  rw [Removed, getLink_setLink_beside h.ne_noLink hne]
  exact h

/-- New credits to return leave a removed link removed. -/
theorem Removed.setReturns {l k : Nat} {c : Cells Nat} (h : Removed s l) : Removed (Machine.setLink s k { getLink s k with returns := c }) l := by
  by_cases hne : l = k
  · subst hne
    have hx : ({ getLink s l with returns := c } : Link) ≠ noLink := by
      intro hno
      obtain ⟨hst, -⟩ := h
      have hzero : ({ getLink s l with returns := c } : Link).state = 0 := by rw [hno]; rfl
      rw [show ({ getLink s l with returns := c } : Link).state = (getLink s l).state from rfl, hst] at hzero
      cases hzero
    rw [Removed, getLink_setLink_written hx]
    exact h
  · exact h.setLink hne

theorem Removed.passedOn {l k : Nat} {f : Bytes} (h : Removed s l) : Removed (passedOn s k f) l := by
  unfold Machine.passedOn
  split
  · exact h
  · exact (h.setReturns).of_links rfl

theorem Removed.pump {l k : Nat} (h : Removed s l) (hne : l ≠ k) (n : Nat) : Removed (pump s k n) l := by
  induction n generalizing s with
  | zero => exact h
  | succ n ih =>
    rw [Machine.pump]
    dsimp only
    split
    · exact h
    · split
      · exact h
      · exact ih (Removed.passedOn ((h.setLink hne).of_links rfl))

theorem Removed.linkSend {l k : Nat} {fs : List Bytes} (h : Removed s l) (hne : l ≠ k) : Removed (linkSend s k fs) l :=
  (h.setLink hne).pump hne _

/-- A fault record leaves the links. -/
theorem logFault_links (f : FaultInfo) : (logFault s f).fab.links = s.fab.links := by
  unfold logFault logFaultFor
  extract_lets _ s1 s2
  have h1 : s1.fab = s.fab := by
    simp only [s1]
    split <;> rfl
  have h2 : s2.fab.links = s.fab.links := by
    simp only [s2]
    split
    · rw [postEvent_fab, h1]
    · rw [h1]
  split
  · exact h2
  · split
    · exact h2
    · exact h2

theorem linkGone_links (n : Nat) : (linkGone s n).fab.links = s.fab.links := by
  unfold linkGone
  split
  · rfl
  · dsimp only
    split
    · rw [logFault_links]
      rfl
    · rfl

theorem removed_dropLink (s : State) (l : Nat) : Removed (dropLink s l 8) l := by
  have hx : ({ getLink s l with state := 8, queue := [], replay := [] } : Link) ≠ noLink := by
    intro hno
    have hst : (8 : Nat) = 0 := congrArg Link.state hno
    cases hst
  rw [Removed, dropLink, getLink_setLink_written hx]
  exact ⟨rfl, rfl, rfl⟩

/-- A link out of service is none of those to a neighbour. -/
theorem Removed.ne_of_linksTo {l n k : Nat} (h : Removed s l) (hk : k ∈ linksTo s n) : l ≠ k := by
  rintro rfl
  obtain ⟨hst, -⟩ := h
  simp [linksTo, hst] at hk

theorem getD_mem_of_ne_nil {α : Type} {ls : List α} (h : ls.isEmpty = false) (i : Nat) (d : α) : ls.getD (i % max 1 ls.length) d ∈ ls := by
  have hpos : 0 < ls.length := List.length_pos_iff.2 (by simpa using h)
  have hlt : i % max 1 ls.length < ls.length := Nat.lt_of_lt_of_le (Nat.mod_lt _ (by omega)) (by omega)
  exact getD_mem_of_lt hlt d

theorem Removed.foldl {l : Nat} {f : State → Nat → State} (hf : ∀ t i, Removed t l → Removed (f t i) l) (is : List Nat) {s : State} (h : Removed s l) :
    Removed (is.foldl f s) l := by
  induction is generalizing s with
  | nil => exact h
  | cons i is ih => exact ih (hf s i h)

theorem removed_failLink (s : State) (l : Nat) : Removed (failLink s l 8) l := by
  have hdrop := removed_dropLink s l
  unfold failLink
  extract_lets x s1
  split
  · exact hdrop
  · split
    · exact hdrop
    · rename_i p _ _
      extract_lets ls route s2
      have h2 : Removed s2 l := by
        simp only [s2]
        split
        · exact hdrop
        · rename_i hmore
          simp only [Bool.or_eq_true, not_or, Bool.not_eq_true] at hmore
          refine Removed.foldl (fun t i ht => ?_) _ hdrop
          exact Removed.linkSend (ht.of_links rfl) (hdrop.ne_of_linksTo (getD_mem_of_ne_nil hmore.1 i 0))
      split
      · exact h2.of_links (linkGone_links _)
      · exact h2

/-! ### What a link sends -/

/-- The choice of the next flit, one candidate after the other. -/
def better (acc : Option Bytes) (f : Bytes) : Option Bytes :=
  match acc with
  | none => some f
  | some a => if flitRank f < flitRank a then some f else some a

theorem nextFlit_eq (x : Link) : nextFlit x = (x.queue.filter (maySend x)).foldl better none := rfl

theorem foldl_better_some (l : List Bytes) (a : Bytes) : ∃ f, l.foldl better (some a) = some f ∧ (f = a ∨ f ∈ l) ∧ flitRank f ≤ flitRank a ∧
    ∀ g ∈ l, flitRank f ≤ flitRank g := by
  induction l generalizing a with
  | nil => exact ⟨a, rfl, .inl rfl, Nat.le_refl _, fun g hg => nomatch hg⟩
  | cons b l ih =>
    by_cases hlt : flitRank b < flitRank a
    · obtain ⟨f, hf, hmem, hle, hall⟩ := ih b
      refine ⟨f, by rw [List.foldl_cons, better, if_pos hlt, hf], .inr ?_, Nat.le_trans hle (Nat.le_of_lt hlt), fun g hg => ?_⟩
      · rcases hmem with hmem | hmem
        · rw [hmem]; exact List.mem_cons_self
        · exact List.mem_cons_of_mem _ hmem
      · rcases List.mem_cons.1 hg with hg | hg
        · rw [hg]; exact hle
        · exact hall g hg
    · obtain ⟨f, hf, hmem, hle, hall⟩ := ih a
      refine ⟨f, by rw [List.foldl_cons, better, if_neg hlt, hf], hmem.imp_right (List.mem_cons_of_mem _), hle, fun g hg => ?_⟩
      rcases List.mem_cons.1 hg with hg | hg
      · rw [hg]; omega
      · exact hall g hg

/-- R263: the next flit is one that may be sent, of the first rank among those. -/
theorem nextFlit_spec {x : Link} {f : Bytes} (h : nextFlit x = some f) :
    f ∈ x.queue.filter (maySend x) ∧ ∀ g ∈ x.queue.filter (maySend x), flitRank f ≤ flitRank g := by
  rw [nextFlit_eq] at h
  cases hl : x.queue.filter (maySend x) with
  | nil => rw [hl] at h; cases h
  | cons a l =>
    rw [hl, List.foldl_cons] at h
    obtain ⟨f', hf, hmem, hle, hall⟩ := foldl_better_some l a
    have heq : f' = f := Option.some.inj (hf.symm.trans h)
    rw [heq] at hmem hle hall
    refine ⟨?_, fun g hg => ?_⟩
    · rcases hmem with hmem | hmem
      · rw [hmem]; exact List.mem_cons_self
      · exact List.mem_cons_of_mem _ hmem
    · rcases List.mem_cons.1 hg with hg | hg
      · rw [hg]; exact hle
      · exact hall g hg

theorem maySend_spec {x : Link} {f : Bytes} (h : maySend x f = true) :
    x.replay.length < 128 ∧ ∀ vc, flitVc f = some vc → cget 0 x.used vc < vcCredits vc := by
  rw [maySend, Bool.and_eq_true, decide_eq_true_eq] at h
  obtain ⟨hroom, hcred⟩ := h
  refine ⟨hroom, fun vc hvc => ?_⟩
  rw [hvc] at hcred
  simpa using hcred

theorem passedOn_eq (s : State) (l : Nat) (f : Bytes) : passedOn s l f = { s with
    fab := { s.fab with links := (passedOn s l f).fab.links, transit := (passedOn s l f).fab.transit } } := by
  unfold passedOn
  split <;> rfl

/-- Sending touches the links, the flits that go on and the counters. -/
theorem pump_eq (s : State) (l n : Nat) : pump s l n = { s with
    fab := { s.fab with links := (pump s l n).fab.links, transit := (pump s l n).fab.transit }
    cnt := { s.cnt with inc := (pump s l n).cnt.inc } } := by
  induction n generalizing s with
  | zero => rfl
  | succ n ih =>
    rw [pump]
    dsimp only
    split
    · rfl
    · split
      · rfl
      · rw [ih, passedOn_eq]
        rfl

/-! ### Flits that come in -/

variable {l : Fin 32} {f : Bytes} {fec : Bool}

theorem exec_flit_bad (hst : (getLink s l).state = 3) (hup : s.faults.inReset.contains 4 = false)
    (hbad : fec = false ∨ f.length ≠ 256 ∨ fld f 0xFC 0 32 ≠ crc32c (f.take 252) ∨ fld f 0xF0 0 16 ≠ (getLink s l).rxSeq) :
    exec (.linkFlitReceive l f fec) s = .next (answerFlit (setLink s l { getLink s l with retry := true }) l (getLink s l).queue.length false) := by
  have hexec : exec (.linkFlitReceive l f fec) s = execLinkFlitReceive l f fec s := rfl
  have hcond : (!fec || f.length != 256 || fld f 0xFC 0 32 != crc32c (f.take 252) || fld f 0xF0 0 16 != (getLink s l).rxSeq) = true := by
    simpa only [Bool.or_eq_true, Bool.not_eq_true', bne_iff_ne, or_assoc] using hbad
  rw [hexec, execLinkFlitReceive]
  dsimp only
  rw [if_neg (by rw [hst, hup]; decide), if_pos hcond]

theorem exec_flit_good (hst : (getLink s l).state = 3) (hup : s.faults.inReset.contains 4 = false) (hfec : fec = true) (hlen : f.length = 256)
    (hcrc : fld f 0xFC 0 32 = crc32c (f.take 252)) (hseq : fld f 0xF0 0 16 = (getLink s l).rxSeq) {k : Nat} {on : Bool} {y : Link} {s2 : State}
    (hk : ackCount (getLink s l) (fld f 0xF0 16 16) = k) (hon : (!flitUnknown f && goesOn s f) = on)
    (hy : { getLink s l with
      rxSeq := ((getLink s l).rxSeq + 1) % 65536, acked := fld f 0xF0 16 16, replay := (getLink s l).replay.drop k
      replays := if k > 0 then 0 else (getLink s l).replays
      used := (List.range 4).foldl (fun u vc => cmod 0 u vc (· - flitReturns f vc)) (getLink s l).used
      returns := match flitVc f with
        | none => (getLink s l).returns
        | some vc => if on then (getLink s l).returns else cmod 0 (getLink s l).returns vc (· + 1) } = y)
    (hs2 : (if flitUnknown f then countLink (countLink (countLink (setLink s l y) l 1 1) l 3 256) l 5 1
      else countLink (countLink (setLink s l y) l 1 1) l 3 256) = s2) :
    exec (.linkFlitReceive l f fec) s = .next (
      let s := if fld f 0xF4 24 1 = 1 ∧ !y.replay.isEmpty then replayLink s2 l else s2
      let s := if on then passFlit s l f else s
      answerFlit s l (getLink s l).queue.length (fld f 0 0 8 == 0)) := by
  have hexec : exec (.linkFlitReceive l f fec) s = execLinkFlitReceive l f fec s := rfl
  have hcond : ¬ (!fec || f.length != 256 || fld f 0xFC 0 32 != crc32c (f.take 252) || fld f 0xF0 0 16 != (getLink s l).rxSeq) = true := by
    rw [hfec, hlen, hcrc, hseq]
    simp
  subst hk hon hy hs2
  rw [hexec, execLinkFlitReceive]
  dsimp only
  rw [if_neg (by rw [hst, hup]; decide), if_neg hcond] <;> rfl

theorem exec_replayTimeout (hst : (getLink s l).state = 3) (hout : (getLink s l).replay ≠ []) : exec (.replayTimeout l) s = .next (replayLink s l) := by
  have hexec : exec (.replayTimeout l) s = execReplayTimeout l s := rfl
  rw [hexec, execReplayTimeout]
  exact if_pos ⟨hst, by simpa using hout⟩

theorem exec_laserFail {engine : Bool} (hon : s.power.state = 2) (hup : s.faults.inReset.contains 4 = false) (hrole : portRole s (l / 4) ≠ 3)
    (hst : (getLink s l).state ≠ 7) : exec (.laserFail ⟨l, engine⟩) s = .next (logFault
      (if engine then ((List.range 16).map (l.val / 16 * 16 + ·)).foldl (fun s k => failLink s k 7) s else failLink s l 7)
      { code := 0x35, event := true, dom := 4, unit := 0x400 + l.val / 4, arg0 := l, arg1 := b2n engine }) := by
  have hexec : exec (.laserFail ⟨l, engine⟩) s = execLaserFail ⟨l, engine⟩ s := rfl
  have hgo : ¬ (s.power.state ≠ 2 ∨ s.faults.inReset.contains 4 = true ∨ portRole s (l.val / 4) = 3 ∨ (getLink s l).state = 7) := by
    rintro (h | h | h | h)
    · exact h hon
    · rw [hup] at h
      cases h
    · exact hrole h
    · exact hst h
  rw [hexec, execLaserFail]
  exact if_neg hgo

/-- A replay counted, on the link and in the counters (R265). -/
def replayCounted (s : State) (l : Nat) : State :=
  countLink (countLink (countLink (setLink s l { getLink s l with replays := (getLink s l).replays + 1 }) l 4 1) l 0 (getLink s l).replay.length) l 2
    (256 * (getLink s l).replay.length)

theorem replayLink_last {l : Nat} (h : 16 ≤ (getLink s l).replays + 1) : replayLink s l = logFault (failLink (replayCounted s l) l 8)
    { code := 0x34, event := true, dom := 4, unit := 0x400 + l / 4, arg0 := l } := by
  rw [replayLink]
  exact if_neg (by omega)

/-- The fabric after a measurement. -/
def measured (s : State) (hops ns : Nat) : State :=
  { s with fab := if hops = 0 then { s.fab with treeNs := ns } else { s.fab with routeNs := cset 0 s.fab.routeNs hops ns } }

theorem exec_fabricLatency {hops ns : Nat} {p : Plate} (hon : s.power.state = 2) (hrun : s.run.running = true) (hplate : s.run.plate = some p) :
    exec (.fabricLatency hops ns) s = .next (
      if (if hops = 0 then decide (p.treeNs < ns) else p.slots.any fun t => t.hops == hops && decide (t.routeNs < ns)) = true then
        logFault (measured s hops ns) { code := 0x33, event := false, dom := 4, unit := 0x812, arg0 := hops, arg1 := ns }
      else measured s hops ns) := by
  have hexec : exec (.fabricLatency hops ns) s = execFabricLatency hops ns s := rfl
  rw [hexec, execFabricLatency, if_neg (Classical.not_not.2 hon)]
  dsimp only
  rw [hrun, hplate] <;> rfl

end

/-- Settles O43: a removed link stays removed (`removed_failLink`); the next flit by `nextFlit_spec`. -/
theorem linksCarryFlits : Obligations.LinksCarryFlits := by
  refine ⟨fun l f fec s hst hup => ?_, fun l s hst hout => ⟨exec_replayTimeout hst hout, fun hfew => ?_, fun hmany => ?_⟩,
    fun x f h => ?_, fun s l n => pump_eq s l n, fun l s hon hup hrole hst => ?_, fun ns hops s p hon hrun hplate => ⟨?_, fun hhops => ?_⟩⟩
  · intro x k on y s1 s2 goes then'
    refine ⟨fun hbad => exec_flit_bad hst hup hbad, fun hfec hlen hcrc hseq => ?_⟩
    have hgood := exec_flit_good hst hup hfec hlen hcrc hseq (k := k) (on := on) (y := y) (s2 := s2) rfl rfl rfl rfl
    refine ⟨fun hno => ?_, fun hyes hsome => ?_⟩
    · rw [if_neg (fun hboth => by rw [hno] at hboth; exact absurd hboth.1 (by decide))] at hgood
      exact hgood
    · rw [if_pos ⟨hyes, by simpa using hsome⟩] at hgood
      exact hgood
  · rw [replayLink]
    dsimp only
    rw [if_pos hfew]
    exact ⟨rfl, rfl⟩
  · have hrep := replayLink_last hmany
    obtain ⟨h8, hreplay, hqueue⟩ := (removed_failLink (replayCounted s l) l).of_links (logFault_links
      { code := 0x34, event := true, dom := 4, unit := 0x400 + l.val / 4, arg0 := l })
    rw [← hrep] at h8 hreplay hqueue
    exact ⟨h8, hreplay, hqueue, replayCounted s l, rfl, rfl, hrep⟩
  · obtain ⟨hmem, hrank⟩ := nextFlit_spec h
    obtain ⟨hqueue, hmay⟩ := List.mem_filter.1 hmem
    obtain ⟨hroom, hcred⟩ := maySend_spec hmay
    exact ⟨hqueue, hroom, hcred, fun g hg hgs => hrank g (List.mem_filter.2 ⟨hg, hgs⟩)⟩
  · exact ⟨exec_laserFail (engine := false) hon hup hrole hst, exec_laserFail (engine := true) hon hup hrole hst⟩
  · have hexec := exec_fabricLatency (hops := 0) (ns := ns) hon hrun hplate
    rw [if_pos rfl] at hexec
    by_cases hpast : p.treeNs < ns
    · rw [if_pos (decide_eq_true hpast)] at hexec
      have hcore := logFault_fabCore (measured s 0 ns) { code := 0x33, event := false, dom := 4, unit := 0x812, arg0 := 0, arg1 := ns }
      have htree : (logFault (measured s 0 ns) { code := 0x33, event := false, dom := 4, unit := 0x812, arg0 := 0, arg1 := ns }).fab.treeNs =
          (measured s 0 ns).fab.treeNs := by simpa only [State.fabCore] using congrArg Fabric.treeNs hcore
      exact .of_exec hexec ⟨htree, logFault_node .., logFault_run .., fun hle => absurd hpast (by omega), fun _ hroom => logFault_log hroom⟩
    · rw [if_neg (by simpa using hpast)] at hexec
      exact .of_exec hexec ⟨rfl, rfl, rfl, fun _ => rfl, fun h => absurd h hpast⟩
  · have hexec := exec_fabricLatency (hops := hops) (ns := ns) hon hrun hplate
    have hmeas : (measured s hops ns).fab.routeNs = cset 0 s.fab.routeNs hops ns := by rw [measured, if_neg hhops]
    rw [if_neg hhops] at hexec
    by_cases hpast : (p.slots.any fun t => t.hops == hops && decide (t.routeNs < ns)) = true
    · rw [if_pos hpast] at hexec
      have hcore := logFault_fabCore (measured s hops ns) { code := 0x33, event := false, dom := 4, unit := 0x812, arg0 := hops, arg1 := ns }
      have hroute : (logFault (measured s hops ns) { code := 0x33, event := false, dom := 4, unit := 0x812, arg0 := hops, arg1 := ns }).fab.routeNs =
          (measured s hops ns).fab.routeNs := by simpa only [State.fabCore] using congrArg Fabric.routeNs hcore
      refine .of_exec hexec ⟨hroute.trans hmeas, logFault_node .., logFault_run .., fun hall => ?_⟩
      obtain ⟨e, he, hboth⟩ := List.any_eq_true.1 hpast
      rw [Bool.and_eq_true, beq_iff_eq, decide_eq_true_eq] at hboth
      exact absurd (hall e he hboth.1) (by omega)
    · rw [if_neg hpast] at hexec
      exact .of_exec hexec ⟨hmeas, rfl, rfl, fun _ => rfl⟩

end Sys2Proof.Machine
end

section
/-!
PROOF. O46: DATA, DELIVERED, CONFIRM, BULK, and a bridge's tile that is not acknowledged (R268, R269, R273, R277, R361, R402).
-/
namespace Sys2Proof.Machine

variable {s : State}

/-! ### DATA and DELIVERED -/

/-- The state in which a payload stands and its flit is recorded. -/
def dataTaken (s : State) (p : DataMsg) (m : RecvMsg) : State :=
  { writeMem s (nsAddr (32 * p.dest.toNat + 224 * p.seq.toNat)) (slice p.data 0 (min 224 (p.length.toNat - 224 * p.seq.toNat))) with
    fab := { s.fab with recv := s.fab.recv.filter (!sameMsg p ·) ++ [m] } }

theorem exec_data {p : DataMsg} {m : RecvMsg} {got : List Nat} (hrun : s.run.running = true) (hup : s.faults.inReset.contains 4 = false)
    (hm : (s.fab.recv.find? (sameMsg p)).getD ⟨p.slot.toNat, p.src.val, p.dest.toNat, p.length.toNat, []⟩ = m)
    (hgot : (if m.got.contains p.seq.toNat then m.got else m.got ++ [p.seq.toNat]) = got) (hn : min 224 (p.length.toNat - 224 * p.seq.toNat) ≠ 0)
    (hroom : 32 * p.dest.toNat + 224 * p.seq.toNat + min 224 (p.length.toNat - 224 * p.seq.toNat) ≤ nsSize) :
    exec (.data p) s = .next (if !m.got.contains p.seq.toNat && got.length == dataFlits p.length.toNat then
      sendOut (dataTaken s p { m with got := got }) p.src (.delivered p.src p.slot.toNat p.dest.toNat)
        [flitHead 2 0 true (nodeId (dataTaken s p { m with got := got })) p.src p.slot.toNat 0 4 (dataTaken s p { m with got := got }).run.frame
          (leBytes 4 p.dest.toNat)]
      else dataTaken s p { m with got := got }) := by
  have hexec : exec (.data p) s = execData p s := rfl
  rw [hexec, execData, if_neg (by rw [hrun, hup]; decide)]
  dsimp only
  rw [if_neg (by rintro (h | h) <;> omega), writeMem_fab, hm, hgot, dataTaken]
  split <;> rfl

theorem recv_of_sendOut (s : State) (dst : Nat) (m : OutMsg) (fs : List Bytes) : (sendOut s dst m fs).fab.recv = s.fab.recv := by
  simpa only [State.fabCore] using congrArg Fabric.recv (sendOut_fabCore s dst m fs)

theorem data_runs {p : DataMsg} {m : RecvMsg} {got : List Nat} (hrun : s.run.running = true) (hup : s.faults.inReset.contains 4 = false)
    (hm : (s.fab.recv.find? (sameMsg p)).getD ⟨p.slot.toNat, p.src.val, p.dest.toNat, p.length.toNat, []⟩ = m)
    (hgot : (if m.got.contains p.seq.toNat then m.got else m.got ++ [p.seq.toNat]) = got) (hn : min 224 (p.length.toNat - 224 * p.seq.toNat) ≠ 0)
    (hroom : 32 * p.dest.toNat + 224 * p.seq.toNat + min 224 (p.length.toNat - 224 * p.seq.toNat) ≤ nsSize) :
    Runs (.data p) s fun t =>
      t.mem = (dataTaken s p { m with got := got }).mem ∧ t.units = s.units ∧ t.recs = s.recs ∧ t.node = s.node ∧ t.run = s.run ∧
      t.fab.recv = s.fab.recv.filter (!sameMsg p ·) ++ [{ m with got := got }] ∧
      t.fab.out = s.fab.out ++ (if m.got.contains p.seq.toNat = false ∧ got.length = dataFlits p.length.toNat then
        [.delivered p.src p.slot.toNat p.dest.toNat] else []) := by
  have hexec := exec_data hrun hup hm hgot hn hroom
  have hunits : (dataTaken s p { m with got := got }).units = s.units := writeMem_units ..
  have hrecs : (dataTaken s p { m with got := got }).recs = s.recs := writeMem_recs ..
  have hnode : (dataTaken s p { m with got := got }).node = s.node := writeMem_node ..
  have hruns : (dataTaken s p { m with got := got }).run = s.run := writeMem_run ..
  by_cases hlast : m.got.contains p.seq.toNat = false ∧ got.length = dataFlits p.length.toNat
  · rw [if_pos (by rw [hlast.1, hlast.2]; simp)] at hexec
    rw [if_pos hlast]
    have hrecv := recv_of_sendOut (dataTaken s p { m with got := got }) p.src (.delivered p.src p.slot.toNat p.dest.toNat)
        [flitHead 2 0 true (nodeId (dataTaken s p { m with got := got })) p.src p.slot.toNat 0 4 (dataTaken s p { m with got := got }).run.frame
          (leBytes 4 p.dest.toNat)]
    exact .of_exec hexec ⟨sendOut_mem .., (sendOut_units ..).trans hunits, (sendOut_recs ..).trans hrecs, (sendOut_node ..).trans hnode,
      (sendOut_run ..).trans hruns, hrecv, sendOut_out ..⟩
  · have hno : ¬ (!m.got.contains p.seq.toNat && got.length == dataFlits p.length.toNat) = true := by
      simpa only [Bool.and_eq_true, Bool.not_eq_true', beq_iff_eq] using hlast
    rw [if_neg hno] at hexec
    rw [if_neg hlast, List.append_nil]
    exact .of_exec hexec ⟨rfl, hunits, hrecs, hnode, hruns, rfl, rfl⟩

/-! ### BULK -/

theorem exec_bulk_gateway {p : BulkMsg} (hup : s.faults.inReset.contains 4 = false)
    (h : p.domain.toNat = domainNumber s ∧ p.dst.val ≠ nodeId s ∧ p.srcDomain ≠ p.domain ∧ (!p.first) = true) :
    exec (.bulk p) s = .next (sendBulk s p) := by
  have hexec : exec (.bulk p) s = execBulk p s := rfl
  rw [hexec, execBulk, if_neg (by rw [hup]; decide), if_pos h]

theorem exec_bulk_on {p : BulkMsg} (hup : s.faults.inReset.contains 4 = false)
    (hno : ¬ (p.domain.toNat = domainNumber s ∧ p.dst.val ≠ nodeId s ∧ p.srcDomain ≠ p.domain ∧ (!p.first) = true))
    (h : p.domain.toNat ≠ domainNumber s ∨ p.dst.val ≠ nodeId s) :
    exec (.bulk p) s = .next { s with fab := { s.fab with out := s.fab.out ++ [.bulk p.dst p.dst { p with first := false }] } } := by
  have hexec : exec (.bulk p) s = execBulk p s := rfl
  rw [hexec, execBulk, if_neg (by rw [hup]; decide), if_neg hno, if_pos h]

section
variable {p : BulkMsg} (hup : s.faults.inReset.contains 4 = false) (hdom : p.domain.toNat = domainNumber s) (hdst : p.dst.val = nodeId s)
include hup hdom hdst

theorem exec_bulk_row {table shard place bytes} (hb : p.body = .shardRow table shard place bytes) :
    exec (.bulk p) s = .next (bulkRow s p.src.val table.toNat shard.toNat place.toNat bytes) := by
  have hexec : exec (.bulk p) s = execBulk p s := rfl
  rw [hexec, execBulk, if_neg (by rw [hup]; decide), if_neg (fun h => h.2.1 hdst), if_neg (by rintro (h | h) <;> contradiction), hb]

theorem exec_bulk_ack {object index status} (hb : p.body = .ack object index status) :
    exec (.bulk p) s = .next (bridgeAck s object.toNat index.toNat status.toNat) := by
  have hexec : exec (.bulk p) s = execBulk p s := rfl
  rw [hexec, execBulk, if_neg (by rw [hup]; decide), if_neg (fun h => h.2.1 hdst), if_neg (by rintro (h | h) <;> contradiction), hb]

theorem exec_bulk_tile {object index : W32} {bytes : Bytes} (hb : p.body = .tile object index bytes) :
    exec (.bulk p) s = .next (
      if s.bg.asked.contains (object.toNat, index.toNat) ∧ p.src.val = (partner s).getD 512 then
        { s with bg := { s.bg with answers := s.bg.answers ++ [(object.toNat, index.toNat, some bytes)] } }
      else if beingLoaded s then loadTile s object.toNat index.toNat bytes
      else { (bulkTile s object.toNat index.toNat bytes).2 with fab := { (bulkTile s object.toNat index.toNat bytes).2.fab with
        out := (bulkTile s object.toNat index.toNat bytes).2.fab.out ++
          [.bulkAck p.srcDomain.toNat p.src object.toNat index.toNat (bulkTile s object.toNat index.toNat bytes).1] } }) := by
  have hexec : exec (.bulk p) s = execBulk p s := rfl
  rw [hexec, execBulk, if_neg (by rw [hup]; decide), if_neg (fun h => h.2.1 hdst), if_neg (by rintro (h | h) <;> contradiction), hb]
  dsimp only
  split
  · rfl
  · split <;> rfl

end

theorem bridgeTileTimeout_runs {o i m : Nat} {r : List (Nat × Nat × Nat)} {p : InProg} (hb : s.fab.bridge = (o, i, m) :: r)
    (hp : inProg s m = some p) : Runs .bridgeTileTimeout s fun t =>
      t = finish { s with fab := { s.fab with bridge := s.fab.bridge.filter fun e => e.2.2 != m } } m { status := sTimeout, progress := p.moved } ∧
      t.fab.bridge = s.fab.bridge.filter (fun e => e.2.2 != m) := by
  have hexec : exec .bridgeTileTimeout s = execBridgeTileTimeout s := rfl
  rw [execBridgeTileTimeout, hb] at hexec
  dsimp only at hexec
  rw [hp] at hexec
  refine .of_exec hexec ⟨by rw [hb], ?_⟩
  rw [finish_fab, hb]

/-- Settles O46: message by message. -/
theorem messagesAreTaken : Obligations.MessagesAreTaken := by
  refine ⟨fun p s hrun hup => ?_, fun src slot dest s m hm => ?_, fun src slot dest s hnone => ?_, fun _ _ _ _ => rfl, fun p s hup => ?_,
    fun s o i m r p hb hp => bridgeTileTimeout_runs hb hp⟩
  · intro at' n m got hn hroom
    exact data_runs hrun hup rfl rfl hn hroom
  · have hexec : exec (.delivered src slot dest) s = execDelivered src slot dest s := rfl
    rw [hexec, execDelivered]
    dsimp only
    rw [hm]
  · have hexec : exec (.delivered src slot dest) s = execDelivered src slot dest s := rfl
    rw [hexec, execDelivered]
    dsimp only
    rw [hnone]
  · intro gateway
    have hiff : gateway = true ↔ p.domain.toNat = domainNumber s ∧ p.dst.val ≠ nodeId s ∧ p.srcDomain ≠ p.domain ∧ (!p.first) = true := by
      simp only [gateway, Bool.and_eq_true, decide_eq_true_eq, bne_iff_ne, and_assoc]
    refine ⟨fun h => exec_bulk_gateway hup (hiff.1 h), fun hno h => exec_bulk_on hup (fun hyes => ?_) h, fun hdom hdst => ⟨fun object index bytes hb => ?_,
      fun table shard place bytes hb => exec_bulk_row hup hdom hdst hb, fun object index status hb => exec_bulk_ack hup hdom hdst hb⟩⟩
    · rw [hiff.2 hyes] at hno
      cases hno
    · intro asked
      have hexec := exec_bulk_tile hup hdom hdst hb
      have hasked : asked = true ↔ s.bg.asked.contains (object.toNat, index.toNat) = true ∧ p.src.val = (partner s).getD 512 := by
        simp only [asked, Bool.and_eq_true, beq_iff_eq]
      refine ⟨fun h => ?_, fun h hown => ?_, fun h hload => ?_⟩
      · rw [hexec, if_pos (hasked.1 h)]
      · rw [hexec, if_neg (fun hyes => by rw [hasked.2 hyes] at h; cases h), if_neg (by rw [hown]; decide)]
      · rw [hexec, if_neg (fun hyes => by rw [hasked.2 hyes] at h; cases h), if_pos hload]

end Sys2Proof.Machine
end

section
/-!
PROOF. O47: penalties, losses, recovery, mirrors and acknowledgements of the health score, and the end of HOLD (R410 to R415, R420).
-/
namespace Sys2Proof.Machine

variable {s : State}

/-! ### What the operations on scores leave -/

/-- Nothing but the awaited acknowledgements changes of the membership protocol when an entry is sent. -/
def State.butAsked (s : State) : Orrery := { s.orr with awaiting := [], outbox := [] }

theorem sendScore_butAsked (s : State) (n v kind : Nat) : (sendScore s n v kind).butAsked = s.butAsked := by
  unfold sendScore
  split
  · rfl
  · dsimp only
    split <;> split <;> rfl

theorem recordDrop_drops (s : State) (f : Nat) : (recordDrop s f).orr.drops = (f :: s.orr.drops).take 4 := rfl

theorem exitOf_lists (s : State) (n : Nat) : (exitOf s n).orr.drops = s.orr.drops ∧ (exitOf s n).orr.losses = s.orr.losses ∧
    (exitOf s n).run = s.run := by
  unfold exitOf
  split <;> exact ⟨rfl, rfl, rfl⟩

theorem applyScore_awaiting (s : State) (n v : Nat) : (applyScore s n v).orr.awaiting = s.orr.awaiting := by
  unfold applyScore
  extract_lets old w src s1 src1 s2
  have h2 : s2.orr.awaiting = s.orr.awaiting := by
    simp only [s2]
    split <;> rfl
  split
  · exact h2
  · exact h2

/-- R415: the loss of a live node. -/
theorem loseNode_effect {n : Nat} (hnew : s.orr.losses.contains n = false) (hlive : liveNode s n = true) :
    (loseNode s n).orr.losses = s.orr.losses ++ [n] ∧ (loseNode s n).orr.drops = (s.run.frame :: s.orr.drops).take 4 ∧
      (loseNode s n).node = s.node := by
  have hnode : (loseNode s n).node = s.node := by simpa only [State.butOrr] using congrArg State.node (loseNode_butOrr s n)
  have hgo : ¬ (s.orr.losses.contains n || !liveNode s n) = true := by
    rw [hnew, hlive]
    decide
  rw [loseNode, if_neg hgo] at hnode ⊢
  refine ⟨?_, ?_, hnode⟩
  · refine Eq.trans (by simpa only [State.butAsked] using congrArg Orrery.losses (sendScore_butAsked _ n 0 2)) ?_
    exact (exitOf_lists _ n).2.1
  · refine Eq.trans (by simpa only [State.butAsked] using congrArg Orrery.drops (sendScore_butAsked _ n 0 2)) ?_
    rw [recordDrop_drops, (exitOf_lists _ n).1]

/-- R414: a fall below 64 of a LIVE node is a drop. -/
theorem applyScore_drops {n v : Nat} (hold : 64 ≤ (healthOf s n).score) (hv : v < 64) (hlive : statusOf s n = 1) :
    (applyScore s n v).orr.drops = (s.run.frame :: s.orr.drops).take 4 := by
  unfold applyScore
  extract_lets old w src s1 src1 s2
  have hlow : w < 64 := by
    simp only [w]
    split <;> omega
  obtain ⟨hdrops, hrun, hstatus⟩ : s2.orr.drops = s.orr.drops ∧ s2.run = s.run ∧ statusOf s2 n = 1 := by
    simp only [s2]
    split <;> exact ⟨rfl, rfl, hlive⟩
  rw [if_pos ⟨hold, hlow, hstatus⟩, recordDrop_drops, hdrops, hrun]

/-! ### The messages -/

theorem exec_report {m : OrMsg} (hcoord : isCoord s = true) (hlive : statusOf s m.subject = 1) :
    exec (.report m) s = if lossCode m.code.toNat then .next (loseNode s m.subject)
      else if m.value = 0#8 then .next s else .next (changeScore s m.subject (scoreNow s m.subject - m.value.toNat)) := by
  have hexec : exec (.report m) s = execReport m s := rfl
  rw [hexec, execReport]
  exact if_neg (by rw [hcoord, hlive]; decide)

theorem exec_score_subject {m : OrMsg} {v : View} (hv : s.orr.view = some v) (hdep : v.deputy ≠ nodeId s) (hme : m.subject.val = nodeId s) :
    exec (.score m) s = .next (orrSend { s with orr := { s.orr with score := m.value.toNat } } 4 m.sender m.subject 0 0) := by
  have hexec : exec (.score m) s = execScore m s := rfl
  have hmine : (m.subject.val == nodeId s || v.deputy == nodeId s) = true := by simp [hme]
  have hno : ¬ (v.deputy == nodeId s) = true := by simpa using hdep
  rw [hexec, execScore, hv]
  dsimp only
  rw [if_pos hmine, if_neg hno, if_pos hme]

theorem exec_score_deputy {m : OrMsg} {v : View} (hv : s.orr.view = some v) (hdep : v.deputy = nodeId s) (hme : m.subject.val ≠ nodeId s) :
    exec (.score m) s = .next (orrSend (applyScore s m.subject m.value.toNat) 4 m.sender m.subject 0 0) := by
  have hexec : exec (.score m) s = execScore m s := rfl
  have hyes : (v.deputy == nodeId s) = true := by simpa using hdep
  have hmine : (m.subject.val == nodeId s || v.deputy == nodeId s) = true := by rw [hyes, Bool.or_true]
  rw [hexec, execScore, hv]
  dsimp only
  rw [if_pos hmine, if_pos hyes, if_neg hme]

theorem ack_runs {m : OrMsg} {a : Nat × Nat} (ha : (s.orr.awaiting.find? fun a => a.1 == m.sender.val) = some a) : Runs (.ack m) s fun t =>
    t.orr.awaiting = s.orr.awaiting.erase a ∧ (a.2 = 0 → t.orr.acks = s.orr.acks ++ [m.sender.val]) ∧
    (∀ u r, a.2 = 1 → s.orr.unacked = u :: r →
      t = applyScore { s with orr := { s.orr with awaiting := s.orr.awaiting.erase a, unacked := r } } u.1 u.2) := by
  have hexec : exec (.ack m) s = execAck m s := rfl
  rw [execAck] at hexec
  dsimp only at hexec
  rw [ha] at hexec
  dsimp only at hexec
  by_cases h0 : a.2 = 0
  · rw [if_pos h0] at hexec
    exact .of_exec hexec ⟨rfl, fun _ => rfl, fun u r h1 => by omega⟩
  · rw [if_neg h0] at hexec
    by_cases h1 : a.2 = 1
    · rw [if_pos h1] at hexec
      cases hu : s.orr.unacked with
      | nil =>
        rw [hu] at hexec
        exact .of_exec hexec ⟨rfl, fun h => absurd h h0, fun u r _ h => by cases h⟩
      | cons u r =>
        rw [hu] at hexec
        refine .of_exec hexec ⟨applyScore_awaiting .., fun h => absurd h h0, fun u' r' _ h => ?_⟩
        obtain ⟨rfl, rfl⟩ := List.cons.inj h
        rfl
    · rw [if_neg h1] at hexec
      exact .of_exec hexec ⟨rfl, fun h => absurd h h0, fun u r h => absurd h h1⟩

theorem exec_scoreRecovery {n : Fin 512} (hcoord : isCoord s = true) (hlive : statusOf s n = 1) (hf : 0 < framesOf s 1000)
    (hsince : (healthOf s n).since + framesOf s 1000 ≤ s.run.frame) (hlow : scoreNow s n < 255) :
    exec (.scoreRecovery n) s = .next (changeScore s n (scoreNow s n + 1)) := by
  have hexec : exec (.scoreRecovery n) s = execScoreRecovery n s := rfl
  rw [hexec, execScoreRecovery]
  exact if_pos (by rw [hcoord, hlive, decide_eq_true hf, decide_eq_true hsince, decide_eq_true hlow]; rfl)

theorem exec_notice {m : OrMsg} {v : View} (hv : s.orr.view = some v) :
    exec (.notice m) s = if isCoord s then .next (loseNode s m.subject)
      else if v.coord = m.subject.val ∧ v.deputy = nodeId s then
        .next { s with orr := { s.orr with losses := s.orr.losses.filter (· != m.subject.val) ++ [m.subject.val] } }
      else .next (orrSend s 6 v.coord m.subject 0 0) := by
  have hexec : exec (.notice m) s = execNotice m s := rfl
  rw [hexec, execNotice, hv]

theorem exec_holdClear {v : View} (hv : s.orr.view = some v) :
    exec .holdClear s = if v.hold ∧ s.orr.drops.getD 0 0 + framesOf s 600000 ≤ s.run.frame then
      .next { s with orr := { s.orr with view := some { v with hold := false }, holdDue := false } } else .next s := by
  have hexec : exec .holdClear s = execHoldClear s := rfl
  rw [hexec, execHoldClear, hv]

/-- Settles O47: message by message; the loss by `loseNode_effect`, the drop by `applyScore_drops`. -/
theorem scoresAndDrops : Obligations.ScoresAndDrops := by
  refine ⟨fun m s hcoord hlive => ⟨fun hloss => ?_, fun hloss hval => ?_⟩, fun m s v hv => ⟨exec_score_subject hv, exec_score_deputy hv⟩,
    fun m s a ha => ack_runs ha, fun n s hcoord hlive hf hsince hlow => exec_scoreRecovery hcoord hlive hf hsince hlow,
    fun m s v hv => ⟨fun hcoord => ?_, fun hcoord hne => ?_⟩, fun s n hnew hlive => loseNode_effect hnew hlive,
    fun s n v hold hv hlive => applyScore_drops hold hv hlive, fun s v hv => ⟨fun hhold hdue => ?_, fun hno => ?_⟩⟩
  · rw [exec_report hcoord hlive, if_pos hloss]
  · rw [exec_report hcoord hlive, if_neg (by rw [hloss]; decide), if_neg hval]
  · rw [exec_notice hv, if_pos hcoord]
  · rw [exec_notice hv, if_neg (by rw [hcoord]; decide), if_neg (fun h => hne h.1)]
  · rw [exec_holdClear hv, if_pos ⟨hhold, hdue⟩]
  · have hcond : ¬ (v.hold = true ∧ s.orr.drops.getD 0 0 + framesOf s 600000 ≤ s.run.frame) := by
      rintro ⟨hhold, hdue⟩
      rcases hno with h | h
      · rw [h] at hhold
        cases hhold
      · omega
    rw [exec_holdClear hv, if_neg hcond]

end Sys2Proof.Machine
end

section
/-!
PROOF. O48: how views are proposed, acknowledged and taken over, and how nodes join and leave (R416 to R434).
-/
namespace Sys2Proof.Machine

variable {s : State}

/-! ### Messages that are sent one after the other -/

/-- The state without the orrery messages that it sends. -/
def State.butSent (s : State) : State := { s with orr := { s.orr with outbox := [] }, fab := { s.fab with orrery := [] } }

section
variable {t : State} (h : t.butSent = s.butSent)
include h

theorem node_of_butSent : t.node = s.node := by simpa only [State.butSent] using congrArg State.node h
theorem run_of_butSent : t.run = s.run := by simpa only [State.butSent] using congrArg State.run h
theorem boot_of_butSent : t.boot = s.boot := by simpa only [State.butSent] using congrArg State.boot h
theorem view_of_butSent : t.orr.view = s.orr.view := by simpa only [State.butSent] using congrArg (fun x => x.orr.view) h
theorem joining_of_butSent : t.orr.joining = s.orr.joining := by simpa only [State.butSent] using congrArg (fun x => x.orr.joining) h
theorem firstFrame_of_butSent : t.orr.firstFrame = s.orr.firstFrame := by simpa only [State.butSent] using congrArg (fun x => x.orr.firstFrame) h
theorem awaiting_of_butSent : t.orr.awaiting = s.orr.awaiting := by simpa only [State.butSent] using congrArg (fun x => x.orr.awaiting) h
theorem formers_of_butSent : t.orr.formers = s.orr.formers := by simpa only [State.butSent] using congrArg (fun x => x.orr.formers) h
theorem isFormer_of_butSent : t.orr.isFormer = s.orr.isFormer := by simpa only [State.butSent] using congrArg (fun x => x.orr.isFormer) h

end

/-- Sending one message after the other leaves the rest. -/
theorem sends_butSent {α : Type} (f : State → α → State) (hf : ∀ t x, (f t x).butSent = t.butSent) (l : List α) (s : State) :
    (l.foldl f s).butSent = s.butSent := foldl_keeps State.butSent f hf l s

theorem exits_keep (l : List Nat) (s : State) :
    ((l.foldl exitOf s).orr.awaiting, (l.foldl exitOf s).orr.view, (l.foldl exitOf s).butOrr) = (s.orr.awaiting, s.orr.view, s.butOrr) := by
  refine foldl_keeps (fun t => (t.orr.awaiting, t.orr.view, t.butOrr)) exitOf (fun t n => ?_) l s
  unfold exitOf
  split <;> rfl

/-- The messages of a flood, in order. -/
theorem flood_outbox (op subject code value num frame : Nat) (body : Bytes) (l : List Nat) (s : State) :
    (l.foldl (fun s n => orrSendBody s op n subject code value num frame body) s).orr.outbox =
      s.orr.outbox ++ l.map fun n => (op, n, subject, code, value) := by
  induction l generalizing s with
  | nil => exact (List.append_nil _).symm
  | cons n l ih =>
    rw [List.foldl_cons, ih, List.map_cons]
    show (s.orr.outbox ++ [(op, n, subject, code, value)]) ++ _ = _
    rw [List.append_assoc]
    rfl

/-! ### Views -/

/-- R421: what a proposal leaves. -/
theorem propose_effect (s : State) (v : View) : (propose s v).orr.pending = some v ∧ (propose s v).orr.proposed = true ∧
    (propose s v).orr.acks = [] ∧ (propose s v).orr.view = s.orr.view ∧ (propose s v).node = s.node ∧
    (propose s v).orr.joining = s.orr.joining ∧ (propose s v).orr.firstFrame = s.orr.firstFrame ∧
    (propose s v).orr.awaiting = s.orr.awaiting.filter (fun a => a.2 != 0) ++ ((v.nodes [1, 2]).filter (· != nodeId s)).map fun n => (n, 0) := by
  have hsent := sends_butSent (fun s n => orrSendBody s 3 n (nodeId s) 0 0 v.num (frameNow s) (viewBytes v)) (fun t x => rfl)
    ((v.nodes [1, 2]).filter (· != nodeId s)) s
  rw [propose]
  dsimp only
  refine ⟨rfl, rfl, rfl, ?_, node_of_butSent hsent, ?_, ?_, ?_⟩
  · exact view_of_butSent hsent
  · exact joining_of_butSent hsent
  · exact firstFrame_of_butSent hsent
  · exact congrArg (fun l => l.filter (fun a => a.2 != 0) ++ _) (awaiting_of_butSent hsent)

/-- R421: the view the coordinator forms, and what it proposes. -/
theorem viewForm_runs {v w : View} {refused : List Nat} (hv : s.orr.view = some v) (hcoord : isCoord s = true) (hdue : viewDue s v = true)
    (hnew : s.orr.proposed = false) (hw : nextView s v = (w, refused)) : Runs .viewForm s fun t =>
    t.orr.pending = some w ∧ t.orr.proposed = true ∧ t.orr.acks = [] ∧ t.orr.view = some v ∧ t.node = s.node ∧
    t.orr.awaiting = s.orr.awaiting.filter (fun a => a.2 != 0) ++ ((w.nodes [1, 2]).filter (· != nodeId s)).map fun n => (n, 0) := by
  have hexec : exec .viewForm s = execViewForm s := rfl
  rw [execViewForm, hv] at hexec
  dsimp only at hexec
  rw [if_neg (by rw [hcoord, hdue]; decide), if_neg (by rw [hnew]; decide), hw] at hexec
  dsimp only at hexec
  have hrefused := sends_butSent (fun s n => orrSend s 9 n n 0 0) (fun t x => rfl) refused s
  have hlate := sends_butSent (fun s n => orrSend s 9 n n 4 0) (fun t x => rfl) (s.orr.loads.filter fun n => w.of n != 2)
    (refused.foldl (fun s n => orrSend s 9 n n 0 0) s)
  generalize hs2 : List.foldl (fun s n => orrSend s 9 n n 4 0) (refused.foldl (fun s n => orrSend s 9 n n 0 0) s)
    (s.orr.loads.filter fun n => w.of n != 2) = s2 at hexec
  have h2 : s2.butSent = s.butSent := by
    rw [← hs2]
    exact hlate.trans hrefused
  have hexit := exits_keep (eclipsedIn s2 v w) s2
  generalize hs3 : (eclipsedIn s2 v w).foldl exitOf s2 = s3 at hexec hexit
  simp only [Prod.mk.injEq] at hexit
  obtain ⟨hwait, hview, hrest⟩ := hexit
  have hboot : s3.boot = s.boot := (by simpa only [State.butOrr] using congrArg State.boot hrest : s3.boot = s2.boot).trans (boot_of_butSent h2)
  have hnode : s3.node = s.node := (by simpa only [State.butOrr] using congrArg State.node hrest : s3.node = s2.node).trans (node_of_butSent h2)
  obtain ⟨hpend, hprop, hacks, hviews, hnodes, -, -, hawait⟩ := propose_effect { s3 with orr := { s3.orr with
        health := (s3.orr.loads.foldl (fun h n => cmod {} h n fun e => { e with since := s3.run.frame }) s3.orr.health)
        departs := s3.orr.departs.filter (!refused.contains ·), loads := s3.orr.loads.filter (!(s.orr.loads.filter fun n => w.of n != 2).contains ·) } } w
  refine .of_exec hexec ⟨hpend, hprop, hacks, hviews.trans (hview.trans ((view_of_butSent h2).trans hv)), hnodes.trans hnode, hawait.trans ?_⟩
  have hme : nodeId s3 = nodeId s := nodeId_of_boot hboot
  have hasked : s3.orr.awaiting = s.orr.awaiting := hwait.trans (awaiting_of_butSent h2)
  rw [← hme, ← hasked]
  rfl

theorem exec_propose {m : OrMsg} {b : Bytes} {v : View} (hv : s.orr.view = some v) (hcoord : v.coord = m.sender.val) :
    exec (.propose m b) s = .next (orrSend { s with orr := { s.orr with
      pending := some (viewOf b), proposed := false, acks := [], joining := false
      awaiting := s.orr.awaiting.filter fun a => a.2 != 0 } } 4 m.sender.val (nodeId s) 0 0) := by
  have hexec : exec (.propose m b) s = execPropose m b s := rfl
  rw [hexec, execPropose, hv]
  exact if_pos (by simp [hcoord])

theorem exec_takeover {m : OrMsg} {b : Bytes} {v : View} (hv : s.orr.view = some v) (hdep : v.deputy = m.sender.val) :
    exec (.takeover m b) s = .next { s with orr := { s.orr with pending := some (viewOf b), proposed := false, acks := [] } } := by
  have hexec : exec (.takeover m b) s = execTakeover m b s := rfl
  rw [hexec, execTakeover, hv]
  exact if_pos hdep

theorem elect_keeps (v : View) : v.elect.num = v.num ∧ v.elect.status = v.status := by
  unfold View.elect
  split <;> exact ⟨rfl, rfl⟩

theorem closeView_keeps (s : State) (v : View) : (closeView s v).num = v.num ∧ (closeView s v).status = v.status := elect_keeps v

/-- R423: the deputy takes over. -/
theorem deputyTakeover_runs {v : View} (hv : s.orr.view = some v) (hdep : v.deputy = nodeId s) (hother : v.coord ≠ nodeId s)
    (hrun : s.run.running = true) (hlost : s.orr.losses.contains v.coord = true) : Runs .deputyTakeover s fun t =>
      t.fab.issued = true ∧ t.orr.proposed = false ∧
      (∃ b, t.fab.beat = some b ∧ b.frame = BitVec.ofNat 64 (s.run.frame + 1) ∧ b.missing = [v.coord] ∧ b.apply = false) ∧
      ∃ w, t.orr.pending = some w ∧ w.num = v.num + 1 ∧ w.of v.coord = (v.set v.coord 3).of v.coord := by
  have hexec : exec .deputyTakeover s = execDeputyTakeover s := rfl
  rw [execDeputyTakeover, hv] at hexec
  dsimp only at hexec
  rw [if_pos ⟨hdep, hother, hrun, .inl hlost⟩] at hexec
  refine .of_exec hexec ⟨rfl, rfl, ⟨_, rfl, ?_, rfl, rfl⟩, _, rfl, ?_, ?_⟩
  · refine congrArg (fun r : Run => BitVec.ofNat 64 (r.frame + 1)) ?_
    refine foldl_keeps State.run _ ?_ _ _
    exact fun t n => rfl
  · exact (closeView_keeps _ _).1
  · exact congrArg (fun c => cget 0 c v.coord) (closeView_keeps _ _).2

/-! ### Departures and admission -/

theorem exec_depart {m : OrMsg} {v : View} (hv : s.orr.view = some v) (hcoord : isCoord s = true) (hlive : v.of m.subject = 1) :
    exec (.depart m) s = if mayDepart s v m.subject then
      .next { s with orr := { s.orr with departs := s.orr.departs.filter (· != m.subject.val) ++ [m.subject.val] } }
      else .next (orrSend s 9 m.subject m.subject 0 0) := by
  have hexec : exec (.depart m) s = execDepart m s := rfl
  rw [hexec, execDepart, hv]
  exact if_neg (by rw [hcoord, hlive]; decide)

theorem joinAt_refused {m : OrMsg} {b : JoinBody} (h : joinCheck s m.subject m b ≠ 0) :
    (joinAt s m b).orr.outbox = s.orr.outbox ++ [(9, m.subject.val, m.subject.val, joinCheck s m.subject m b, 0)] := by
  rw [joinAt]
  dsimp only
  rw [if_pos h]
  rfl

theorem joinAt_admitted {m : OrMsg} {b : JoinBody} (h : joinCheck s m.subject m b = 0) :
    (joinAt s m b).orr.loads = s.orr.loads.filter (· != m.subject.val) ++ [m.subject.val] := by
  rw [joinAt]
  dsimp only
  rw [if_neg (Classical.not_not.2 h)]
  simpa only [State.butAsked] using congrArg Orrery.loads (sendScore_butAsked _ _ _ _)

theorem joinCheck_score {n : Nat} {m : OrMsg} {b : JoinBody} (h : m.value.toNat < 200) : joinCheck s n m b = 1 := if_pos h

theorem joinCheck_firmware {n : Nat} {m : OrMsg} {b : JoinBody} (h : 200 ≤ m.value.toNat) (hd : b.digest.toNat ≠ s.boot.fwDigest) :
    joinCheck s n m b = 2 := by
  rw [joinCheck, if_neg (by omega), if_pos hd]

theorem joinCheck_place {n : Nat} {m : OrMsg} {b : JoinBody} (h : 200 ≤ m.value.toNat) (hd : b.digest.toNat = s.boot.fwDigest)
    (hplace : inDomain s n = false ∨ liveNode s n = true) : joinCheck s n m b = 3 := by
  have hbad : (!inDomain s n || liveNode s n) = true := by
    rcases hplace with hp | hp <;> rw [hp] <;> simp
  rw [joinCheck, if_neg (by omega), if_neg (Classical.not_not.2 hd), if_pos hbad]

theorem exec_refuse {m : OrMsg} {code box : Nat} (hme : m.subject.val = nodeId s) (htrans : s.node.trans = some (code, box)) :
    exec (.refuse m) s = if code = 0x1B ∨ code = 0x1D then .next (finishTrans s { status := sBusy }) else .next (admissionRefused s false) := by
  have hexec : exec (.refuse m) s = execRefuse m s := rfl
  rw [hexec, execRefuse, if_neg (Classical.not_not.2 hme), htrans]

theorem exec_admissionTestEnd {x y f : Nat} {s1 : State} (hsoak : s.orr.soak = some f)
    (h1 : { s with orr := { s.orr with soak := none, testScore := testScoreOf s x y } } = s1) :
    exec (.admissionTestEnd x y) s = if testScoreOf s x y < 200 then .next (admissionRefused s1 true)
      else match s.orr.view with
        | some v => if v.coord = nodeId s then .next (becomeFormer { s1 with orr := { s1.orr with joining := true } })
          else .next (orrSendBody { s1 with orr := { s1.orr with joining := true } } 7 v.coord (nodeId s) 0 (testScoreOf s x y) v.num (frameNow s) (ownJoin s))
        | none => .next (becomeFormer { s1 with orr := { s1.orr with joining := true } }) := by
  subst h1
  have hexec : exec (.admissionTestEnd x y) s = execAdmissionTestEnd x y s := rfl
  rw [hexec, execAdmissionTestEnd, hsoak] <;> rfl

/-- What this node says of itself as a former. -/
def ownFormer (s : State) : Former :=
  ⟨nodeId s, s.orr.testScore, s.dump.lastView, frameNow s, s.setup.epoch, s.boot.fwDigest, partner s, s.dump.escalated⟩

theorem becomeFormer_former (s : State) : (becomeFormer s).orr.isFormer = true ∧ ownFormer s ∈ (becomeFormer s).orr.formers := by
  have hsent : (becomeFormer s).butSent = ({ s with orr := { s.orr with
      isFormer := true, formers := s.orr.formers.filter (fun g => g.node != nodeId s) ++ [ownFormer s] } } : State).butSent := by
    rw [becomeFormer]
    refine sends_butSent _ ?_ _ _
    exact fun t x => rfl
  refine ⟨isFormer_of_butSent hsent, ?_⟩
  rw [formers_of_butSent hsent]
  exact List.mem_append_right _ (List.mem_singleton.2 rfl)

theorem exec_formerTimeout (hjoin : s.orr.joining = true) (hnot : s.orr.isFormer = false) : exec .formerTimeout s = .next (becomeFormer s) := by
  have hexec : exec .formerTimeout s = execFormerTimeout s := rfl
  rw [hexec, execFormerTimeout]
  exact if_pos (by rw [hjoin, hnot]; rfl)

theorem form_runs {m : OrMsg} {b : JoinBody} (hother : m.subject.val ≠ nodeId s) (hv : s.orr.view = none)
    (hnew : s.orr.seenForms.contains (m.subject.val + 512 * (m.value.toNat + 256 * (m.view.toNat + 2 ^ 32 * m.frame.toNat))) = false) :
    Runs (.form m b) s fun t => t.orr.formers = s.orr.formers.filter (fun g => g.node != m.subject.val) ++ [formerOf m b] ∧ t.node = s.node ∧
      t.orr.outbox = s.orr.outbox ++ (neighbours s).map fun n => (0xB, n, m.subject.val, 0, m.value.toNat) := by
  have hexec : exec (.form m b) s = execForm m b s := rfl
  have hgo : ¬ (s.orr.seenForms.contains (m.subject.val + 512 * (m.value.toNat + 256 * (m.view.toNat + 2 ^ 32 * m.frame.toNat))) ||
      m.subject.val == nodeId s) = true := by
    rw [hnew, beq_false_of_ne hother]
    decide
  rw [execForm, if_neg hgo] at hexec
  extract_lets f src s1 body s2 at hexec
  have hsent : s2.butSent = s1.butSent :=
    sends_butSent (fun s n => orrSendBody s 0xB n f.node 0 f.score f.view f.frame body) (fun t x => rfl) (neighbours s1) s1
  have hbox : s2.orr.outbox = s1.orr.outbox ++ (neighbours s1).map fun n => (0xB, n, f.node, 0, f.score) := flood_outbox ..
  have hview : s2.orr.view = none := (view_of_butSent hsent).trans hv
  have hcoord : isCoord s2 = false := by
    rw [isCoord, hview]
  have hnode : s2.node = s1.node := node_of_butSent hsent
  have hformers : s2.orr.formers = s1.orr.formers := formers_of_butSent hsent
  rw [if_neg (by rw [hcoord]; decide), hview] at hexec
  exact .of_exec hexec ⟨hformers, hnode, hbox⟩

/-- A first view that is proposed. -/
theorem propose_first {v : View} (hjoin : s.orr.joining = false) (hfirst : s.orr.firstFrame.isSome = true) (hnum : 1 ≤ v.num) :
    (propose s v).orr.proposed = true ∧ (propose s v).orr.joining = false ∧ (propose s v).orr.firstFrame.isSome = true ∧
      ∃ w, (propose s v).orr.pending = some w ∧ 1 ≤ w.num := by
  obtain ⟨hpend, hprop, -, -, -, hj, hf, -⟩ := propose_effect s v
  exact ⟨hprop, hj.trans hjoin, by rw [hf]; exact hfirst, v, hpend, hnum⟩

theorem formationWindowEnd_runs (hformer : s.orr.isFormer = true) (hnew : s.orr.proposed = false) (hnone : s.orr.pending = none)
    (hlow : ∀ f ∈ s.orr.formers, nodeId s ≤ f.node)
    (hme : ∃ f ∈ s.orr.formers, f.node = nodeId s ∧ formCheck s (s.orr.formers.foldl (fun n f => max n f.epoch) 0) f = 0) :
    Runs .formationWindowEnd s fun t => t.orr.proposed = true ∧ t.orr.joining = false ∧ t.orr.firstFrame.isSome = true ∧
      ∃ v, t.orr.pending = some v ∧ 1 ≤ v.num := by
  have hexec : exec .formationWindowEnd s = execFormationWindowEnd s := rfl
  have hgo : (s.orr.isFormer && !s.orr.proposed && s.orr.pending.isNone && s.orr.formers.all fun f => decide (nodeId s ≤ f.node)) = true := by
    rw [hformer, hnew, hnone]
    simpa using hlow
  have hgood : ¬ (!((s.orr.formers.filter fun f => formCheck s (s.orr.formers.foldl (fun n f => max n f.epoch) 0) f == 0).any
      fun f => f.node == nodeId s)) = true := by
    obtain ⟨f, hf, hnode, hcheck⟩ := hme
    rw [Bool.not_eq_true', Bool.not_eq_false, List.any_eq_true]
    exact ⟨f, List.mem_filter.2 ⟨hf, by rw [hcheck]; rfl⟩, by rw [hnode]; exact beq_self_eq_true _⟩
  rw [execFormationWindowEnd] at hexec
  dsimp only at hexec
  rw [if_pos hgo, if_neg hgood] at hexec
  refine .of_exec hexec (propose_first rfl rfl ?_)
  rw [(closeView_keeps _ _).1]
  exact Nat.le_add_left _ _

theorem exec_partnerLoadDone {v : View} (hv : s.orr.view = some v) (hload : v.of (nodeId s) = 2) :
    exec .partnerLoadDone s = .next (orrSend s 0xA v.coord (nodeId s) 0 0) := by
  have hexec : exec .partnerLoadDone s = execPartnerLoadDone s := rfl
  rw [hexec, execPartnerLoadDone, hv]
  exact if_pos hload

/-- Settles O48: message by message; a proposal by `propose_effect`. -/
theorem viewsAndAdmission : Obligations.ViewsAndAdmission := by
  refine ⟨fun s v hv hcoord hdue hnew => viewForm_runs hv hcoord hdue hnew rfl,
    fun m b s v hv hcoord => .of_exec (exec_propose hv hcoord) ⟨rfl, rfl, hv, rfl⟩, fun m b s v hv hdep => exec_takeover hv hdep,
    fun s v hv hdep hother hrun hlost => deputyTakeover_runs hv hdep hother hrun hlost,
    fun m s v hv hcoord hlive => ⟨fun hmay => ?_, fun hno => ?_⟩, fun m b s hcoord => ⟨?_, joinAt_refused, joinAt_admitted⟩,
    fun s n m b => ⟨joinCheck_score, joinCheck_firmware, joinCheck_place⟩, fun m s code box hme htrans => ⟨fun hleave => ?_, fun h1 h2 => ?_⟩,
    fun m s hcoord hload => ?_, fun x y f s hsoak => ?_, fun s hst hprob hre hesc htest hsoak => ?_, fun s hjoin hnot => ?_,
    fun m b s hother hv hnew => form_runs hother hv hnew, fun s hformer hnew hnone hlow hme => formationWindowEnd_runs hformer hnew hnone hlow hme,
    fun s v hv hload => exec_partnerLoadDone hv hload⟩
  · rw [exec_depart hv hcoord hlive, if_pos hmay]
  · rw [exec_depart hv hcoord hlive, if_neg (by rw [hno]; decide)]
  · exact (show exec (.join m b) s = execJoin m b s from rfl).trans (if_pos hcoord)
  · rw [exec_refuse hme htrans, if_pos hleave]
  · rw [exec_refuse hme htrans, if_neg (by rintro (h | h) <;> contradiction)]
  · exact (show exec (.loaded m) s = execLoaded m s from rfl).trans (if_pos (by rw [hcoord, hload]; rfl))
  · intro st s1
    have hexec := exec_admissionTestEnd (x := x) (y := y) hsoak (s1 := s1) rfl
    refine ⟨fun hlow => ?_, fun v hhigh hv hother => ?_, fun hhigh hv => ?_⟩
    · rw [hexec, if_pos hlow]
    · rw [hexec, if_neg (by omega), hv]
      exact if_neg hother
    · rw [hexec, if_neg (by omega), hv]
  · have hexec : exec .probationRetest s = execProbationRetest s := rfl
    rw [hexec, execProbationRetest]
    exact if_pos ⟨hst, hprob, by rw [hre]; rfl, by rw [hesc]; rfl, htest, hsoak⟩
  · obtain ⟨hformer, hmem⟩ := becomeFormer_former s
    exact .of_exec (exec_formerTimeout hjoin hnot) ⟨hformer, ownFormer s, hmem, rfl, rfl⟩

end Sys2Proof.Machine
end

section
/-!
PROOF. Flash reads, programs, erases, lost channels, sense and training (O49).
-/
namespace Sys2Proof.Machine

/-! ### Reads that come back -/

/-- What the counters and the maintenance queue of a read that comes back leave. -/
def State.offCount (s : State) : Memory × Flash × Records × Node := (s.mem, s.flash, s.recs, s.node)

section
variable (s : State)

theorem addItem_offCount (cls : Nat) (w : Work) (lane : Nat) (urgent : Bool) (left : Nat) :
    (addItem s cls w lane urgent left).offCount = s.offCount := by simp [State.offCount]

theorem countUnits_offCount (ch but : Nat) : (countUnits s ch but).offCount = s.offCount := by
  refine foldl_keeps State.offCount _ (fun t c => ?_) _ _
  split <;> rfl

theorem countUnits_bg (ch but : Nat) : (countUnits s ch but).bg = s.bg := by
  refine foldl_keeps State.bg _ (fun t c => ?_) _ _
  split <;> rfl

/-- The counters of a read of a place, and the parity rebuild where the controller could not correct it. -/
def readCounted (fc : Nat) (r : NandRead) (pl : Nat) : State :=
  let t := countT3 (countFc (countFc s fc 0 slotBytes) fc 2 1) (pl / stripeSlots) 7 slotBytes
  let ch := unitChannel (pl / stripeSlots) (pl % stripeSlots / 8)
  let t := if chanLost t ch || (r.uncorrectable && r.rebuilt) then countUnits t ch fc else t
  let t := if r.corrected then countFc t fc 4 1 else t
  if r.uncorrectable then addItem (countFc t fc 5 1) 1 (.parity fc) (fcLane fc) false 1 else t

variable (fc : Nat) (r : NandRead) (pl : Nat)

theorem readCounted_offCount : (readCounted s fc r pl).offCount = s.offCount := by
  unfold readCounted
  extract_lets t ch t1 t2
  have h1 : t1.offCount = s.offCount := by
    simp only [t1]
    split
    · exact countUnits_offCount ..
    · rfl
  have h2 : t2.offCount = s.offCount := by
    simp only [t2]
    split
    · exact h1
    · exact h1
  split
  · exact (addItem_offCount ..).trans h2
  · exact h2

theorem readCounted_bg (h : r.uncorrectable = false) : (readCounted s fc r pl).bg = s.bg := by
  unfold readCounted
  extract_lets t ch t1 t2
  have h1 : t1.bg = s.bg := by
    simp only [t1]
    split
    · exact countUnits_bg ..
    · rfl
  rw [if_neg (by rw [h]; decide)]
  simp only [t2]
  split
  · exact h1
  · exact h1

end

/-- A command taken from a channel's queue leaves the rest of the flash, and all else. -/
theorem popCmd_rest {s s1 : State} {fc kind pl k : Nat} (h : popCmd s fc kind = some (pl, k, s1)) :
    s1.flash = { s.flash with cmdQ := s1.flash.cmdQ } ∧ s1.mem = s.mem ∧ s1.recs = s.recs ∧ s1.node = s.node ∧ s1.bg = s.bg := by
  unfold popCmd at h
  obtain ⟨c, -, hc⟩ := Option.map_eq_some_iff.mp h
  simp only [Prod.mk.injEq] at hc
  obtain ⟨-, -, rfl⟩ := hc
  exact ⟨rfl, rfl, rfl, rfl, rfl⟩

/-- A read and its marking by what came back. -/
def readMarked (s : State) (q : FRead) (stage : Nat) (d : Bytes) : State :=
  { s with flash := { s.flash with reads := s.flash.reads.map fun x => if x = q then { x with stage := stage, data := d } else x } }

/-- The read of a channel that waits for the data of a place. -/
def awaitedRead (s : State) (fc pl : Nat) : Option FRead := s.flash.reads.find? fun q => q.channel == fc && q.place == pl && q.stage == 1

section
variable {fc : Fin 24} {r : NandRead} {s s1 : State} {pl k : Nat} {d : Bytes}

/-- A sound read that is awaited: its data go to the express buffer or the receive area. -/
theorem exec_flashReadDone_sound {q : FRead} (hpop : popCmd s fc 0 = some (pl, k, s1)) (hback : readBack s1 pl r = (d, false))
    (hq : awaitedRead (readCounted s1 fc r pl) fc pl = some q) :
    exec (.flashReadDone fc r) s =
      if fc.val < 4 then .next (writeMem (readMarked (readCounted s1 fc r pl) q 2 d) (xAddr (4194304 * fc.val + 16384 * k)) d)
      else .next (receive (readMarked (readCounted s1 fc r pl) q 2 d) q.slot d) := by
  have hexec : exec (.flashReadDone fc r) s = execFlashReadDone fc r s := rfl
  rw [hexec, execFlashReadDone, hpop]
  dsimp only
  rw [hback]
  dsimp only
  rw [← readCounted, ← awaitedRead, hq]
  rfl

/-- A lost read: the slot is marked, and the read that awaits it learns it. -/
theorem exec_flashReadDone_lost {n : Nat} (hpop : popCmd s fc 0 = some (pl, k, s1)) (hback : readBack s1 pl r = (d, true))
    (hn : slotAt (readCounted s1 fc r pl) pl = some n) :
    exec (.flashReadDone fc r) s =
      match awaitedRead (poisonSlot (readCounted s1 fc r pl) fc n) fc pl with
      | none => .next (setCredit (poisonSlot (readCounted s1 fc r pl) fc n) fc k 0)
      | some q => .next (setCredit (readMarked (poisonSlot (readCounted s1 fc r pl) fc n) q 3 d) fc k 0) := by
  have hexec : exec (.flashReadDone fc r) s = execFlashReadDone fc r s := rfl
  rw [hexec, execFlashReadDone, hpop]
  dsimp only
  rw [hback]
  dsimp only
  rw [← readCounted, hn]
  rfl

end

/-! ### Poisoned slots -/

theorem writeIn_flash (s : State) (k a : Nat) (bs : Bytes) : (writeIn s k a bs).flash = s.flash := by
  unfold writeIn
  split
  · exact writeMem_flash ..
  · rfl

theorem poisonTile_flash (s : State) (obj tile lane k : Nat) : (poisonTile s obj tile lane k).flash = s.flash := by
  unfold poisonTile
  rw [addItem_flash, logFault_flash]
  split
  · rfl
  · split
    · rfl
    · split
      · exact writeIn_flash ..
      · rfl

/-- A poisoned slot bears POISONED in its entry; the rest of the flash stands. -/
theorem poisonSlot_flash (s : State) (fc n : Nat) : (poisonSlot s fc n).flash =
    { s.flash with
      slotMap := cset 0 s.flash.slotMap n
        (mkEntry (seStripe (slotEntry s n)) (seIndex (slotEntry s n)) (seStaged (slotEntry s n)) true (seValid (slotEntry s n))) } := by
  unfold poisonSlot
  extract_lets e s1
  have h1 : s1.flash = { s.flash with slotMap := cset 0 s.flash.slotMap n (mkEntry (seStripe e) (seIndex e) (seStaged e) true (seValid e)) } := rfl
  clear_value s1
  generalize slotTiles _ n = tiles
  rw [foldl_keeps State.flash (fun s x => poisonFinding s x.1 x.2 (fcLane fc) 0) (fun t x => poisonTile_flash ..) tiles s1]
  exact h1

theorem packBits_five (a b c d e a1 b1 c1 d1 e1 a2 b2 c2 d2 e2 : Nat) :
    packBits [(a, a1, a2), (b, b1, b2), (c, c1, c2), (d, d1, d2), (e, e1, e2)] =
      0 + a2 % 2 ^ a1 * 2 ^ a + b2 % 2 ^ b1 * 2 ^ b + c2 % 2 ^ c1 * 2 ^ c + d2 % 2 ^ d1 * 2 ^ d + e2 % 2 ^ e1 * 2 ^ e := rfl

theorem bit_41_of_fields {a b c e : Nat} (ha : a < 2 ^ 32) (hb : b < 2 ^ 8) (hc : c < 2 ^ 1) :
    (0 + a * 2 ^ 0 + b * 2 ^ 32 + c * 2 ^ 40 + 1 * 2 ^ 41 + e * 2 ^ 42) / 2 ^ 41 % 2 = 1 := by omega

theorem sePoisoned_mkEntry (stripe index : Nat) (staged valid : Bool) : sePoisoned (mkEntry stripe index staged true valid) = true := by
  have hset : b2n true % 2 ^ 1 = 1 := rfl
  rw [sePoisoned, bit, Nat.shiftRight_eq_div_pow, mkEntry, packBits_five, hset, beq_iff_eq]
  exact bit_41_of_fields (Nat.mod_lt _ (Nat.two_pow_pos _)) (Nat.mod_lt _ (Nat.two_pow_pos _)) (Nat.mod_lt _ (Nat.two_pow_pos _))

/-! ### The flash's other events -/

/-- Data received leave what the slice's receive area does not hold. -/
theorem receive_flash (s : State) (n : Nat) (d : Bytes) :
    (receive s n d).flash = { s.flash with received := (receive s n d).flash.received } ∧ (receive s n d).recs = s.recs ∧
      (receive s n d).node = s.node ∧ (receive s n d).bg = s.bg := by
  unfold receive
  extract_lets a
  clear_value a
  cases a with
  | none => exact ⟨rfl, rfl, rfl, rfl⟩
  | some a => exact ⟨rfl, writeMem_recs .., writeMem_node .., writeMem_bg ..⟩

section
variable {fc : Fin 24} {s s1 : State} {st k : Nat}

/-- What stands staged for a channel's unit of a stripe. -/
def stagedUnit (s : State) (st fc : Nat) : List (Nat × Bytes) :=
  s.flash.staged.filter fun kv => kv.1 / stripeSlots == st && unitChannel st (kv.1 % stripeSlots / 8) == fc

/-- The counters and the credit of a unit program. -/
def programCounted (s : State) (fc st k : Nat) : State :=
  count (count (setCredit (countFc s fc 1 16384) fc k 0) 16 2 (stripeSlice (setCredit (countFc s fc 1 16384) fc k 0) st) 8
    (slotBytes * (stagedUnit s st fc).length)) 16 3 0 8 (slotBytes * (stagedUnit s st fc).length)

theorem programCounted_flash : (programCounted s fc st k).flash = { s.flash with credits := (programCounted s fc st k).flash.credits } :=
  setCredit_flash ..

theorem programCounted_mem : (programCounted s fc st k).mem = s.mem := setCredit_mem ..
theorem programCounted_node : (programCounted s fc st k).node = s.node := setCredit_node ..

/-- The unit programs of a stripe that are still to be done. -/
def programsLeft (s : State) (st : Nat) : Nat := ((s.flash.programs.find? fun p => p.1 == st).map Prod.snd).getD 1 - 1

/-- A unit program: its slots in NAND, its page written, and the stripe cleared once all its programs are done. -/
def unitProgrammed (s t : State) (st fc : Nat) : State :=
  { t with
    drawn := t.drawn + 1
    flash := { t.flash with
      nand := (stagedUnit s st fc).foldl (fun m kv => cset [] m kv.1 kv.2) t.flash.nand
      pages := cset 0 t.flash.pages (24 * st + fc) (Config.free t.drawn % 2 ^ 32 + 1)
      programs := if programsLeft t st = 0 then t.flash.programs.filter fun p => p.1 != st
                  else t.flash.programs.map fun p => if p.1 = st then (st, programsLeft t st) else p
      clearing := if programsLeft t st = 0 then t.flash.clearing ++ [st] else t.flash.clearing } }

theorem exec_flashProgramDone (hpop : popCmd s fc 1 = some (st, k, s1)) :
    exec (.flashProgramDone fc) s = .next (unitProgrammed s1 (programCounted s1 fc st k) st fc) := by
  have hexec : exec (.flashProgramDone fc) s = execFlashProgramDone fc s := rfl
  rw [hexec, execFlashProgramDone, hpop]
  rfl

theorem exec_flashEraseDone (hpop : popCmd s fc 2 = some (st, k, s1)) : exec (.flashEraseDone fc) s =
    .next { countFc s1 fc 6 1 with flash := { s1.flash with
      nand := cdrop (fun k => k / stripeSlots == st && unitChannel st (k % stripeSlots / 8) == fc.val) s1.flash.nand
      parity := if st % 24 = fc.val then cdrop (fun k => k / 8 == st) s1.flash.parity else s1.flash.parity
      pages := cset 0 s1.flash.pages (24 * st + fc.val) 0 } } := by
  have hexec : exec (.flashEraseDone fc) s = execFlashEraseDone fc s := rfl
  rw [hexec, execFlashEraseDone, hpop]

theorem exec_flashLineFault {line : Fin 24} (htrained : s.flash.trained = true) (hlost : chanLost s fc = false)
    (hreset : s.faults.inReset.contains 16 = false) : exec (.flashLineFault fc line) s =
      .next (loseChannel (logFault s { code := 0x207, event := true, dom := 16, unit := 0x300 + fc.val, arg0 := fc.val, arg1 := line.val }) fc) := by
  have hexec : exec (.flashLineFault fc line) s = execFlashLineFault fc line s := rfl
  rw [hexec, execFlashLineFault, if_pos (by rw [htrained, hlost, hreset]; decide)]

end

/-- A channel lost leaves its marks and empty queues; the node state and the fault log stand. -/
theorem loseChannel_effect (s : State) (fc : Nat) : (loseChannel s fc).flash.lost = cset false s.flash.lost fc true ∧
    (loseChannel s fc).flash.cmdQ = cset [] s.flash.cmdQ fc [] ∧ (loseChannel s fc).node = s.node ∧ (loseChannel s fc).dump = s.dump := by
  unfold loseChannel
  extract_lets gone programs s2
  refine ⟨?_, ?_, ?_, ?_⟩
  · exact congrArg Flash.lost (addItem_flash ..)
  · exact congrArg Flash.cmdQ (addItem_flash ..)
  · exact addItem_node ..
  · exact addItem_dump ..

/-! ### FVCC_SENSE groups -/

/-- The reset of DOM_FLASH leaves the power controller, the node and the causes that hold it. -/
theorem startReset_flash (s : State) : (startReset s 16).power = s.power ∧ (startReset s 16).node = s.node ∧
    (startReset s 16).faults.senseHeld = s.faults.senseHeld ∧ (startReset s 16).faults.inReset.contains 16 = true := by
  unfold startReset
  split
  · next h => exact ⟨rfl, rfl, rfl, h⟩
  · exact ⟨rfl, rfl, rfl, by simp⟩

theorem powerIbi_sense (o s : State) : (powerIbi o s).power.sense = s.power.sense ∧ (powerIbi o s).power.live = s.power.live := by
  unfold powerIbi
  split
  · exact ⟨rfl, rfl⟩
  · exact ⟨rfl, rfl⟩

section
variable {g : Fin 6} {s : State}

/-- A group of the NAND supply that is invalid, as the power controller shows it. -/
def senseLost (s : State) (g : Nat) : State :=
  { s with power := { s.power with sense := s.power.sense - 2 ^ g, live := s.power.live ||| 2 ^ (10 + g) } }

/-- The fault record of a lost group and the reset of DOM_FLASH. -/
def senseReset (s : State) (g : Nat) : State :=
  startReset (logFault (senseLost s g) { code := 0x106, event := true, dom := 16, arg0 := g }) 16

theorem exec_nandSenseLost (hon : s.power.state = psOn) (hbit : bit s.power.sense g = true) : exec (.nandSenseLost g) s =
    .next (powerIbi s { senseReset s g with faults := { (senseReset s g).faults with senseHeld := (senseReset s g).faults.senseHeld ++ [g.val] } }) := by
  have hexec : exec (.nandSenseLost g) s = execNandSenseLost g s := rfl
  rw [hexec, execNandSenseLost, if_neg (by rw [hon, hbit]; decide)]
  rfl

theorem senseReset_power : (senseReset s g).power = (senseLost s g).power := ((startReset_flash _).1).trans (logFault_power ..)
theorem senseReset_node : (senseReset s g).node = s.node := ((startReset_flash _).2.1).trans (logFault_node ..)
theorem senseReset_held : (senseReset s g).faults.senseHeld = s.faults.senseHeld :=
  ((startReset_flash _).2.2.1).trans (congrArg FaultState.senseHeld (logFault_faults ..))
theorem senseReset_inReset : (senseReset s g).faults.inReset.contains 16 = true := (startReset_flash _).2.2.2

/-- A group that is valid again, as the power controller shows it. -/
def senseBack (s : State) (g : Nat) : State :=
  { s with
    power := { s.power with sense := s.power.sense ||| 2 ^ g, live := if bit s.power.live (10 + g) then s.power.live - 2 ^ (10 + g) else s.power.live }
    faults := { s.faults with senseHeld := s.faults.senseHeld.filter (· != g) } }

theorem exec_nandSenseRestored (h : s.faults.senseHeld.contains g.val = true) : exec (.nandSenseRestored g) s =
    .next (powerIbi s (if (senseBack s g).faults.senseHeld.isEmpty then
      { senseBack s g with faults := { (senseBack s g).faults with inReset := s.faults.inReset.filter (· != 16) } } else senseBack s g)) := by
  have hexec : exec (.nandSenseRestored g) s = execNandSenseRestored g s := rfl
  rw [hexec, execNandSenseRestored, if_neg (by rw [h]; decide)]
  rfl

/-- No group holds DOM_FLASH but for the one that is back. -/
theorem senseBack_released : (senseBack s g).faults.senseHeld.isEmpty = s.faults.senseHeld.all (· == g.val) := by
  rw [Bool.eq_iff_iff, List.isEmpty_iff, senseBack, List.filter_eq_nil_iff, List.all_eq_true]
  simp

end

/-! ### Training -/

theorem finishResets_flash (s : State) (dom : Nat) : (finishResets s dom).flash = s.flash := by
  refine foldl_keeps State.flash _ ?_ _ _
  exact fun t p => finish_flash ..

theorem exec_flashTrainingDone {rs : List FlashTrain} {s : State} (hon : s.power.state = psOn) (huntrained : s.flash.trained = false)
    (hout : s.faults.inReset.contains 16 = false) :
    ∃ t : State, t.flash.trained = true ∧ exec (.flashTrainingDone rs) s = .next (finishResets t 16) := by
  have hexec : exec (.flashTrainingDone rs) s = execFlashTrainingDone rs s := rfl
  rw [hexec, execFlashTrainingDone, if_neg (by rw [hon, huntrained, hout]; simp)]
  extract_lets reach s1 caps cap
  exact ⟨{ s1 with flash := { s1.flash with trained := true, capacity := cap } }, rfl, rfl⟩

/-- A channel that training keeps has sound lines, a package, and a rate at which it reads; an express channel the full rate (R249, R505). -/
theorem trainChannel_kept {express reach : Bool} {t : FlashTrain} (h : (trainChannel express reach t).lost = false) :
    lineFatal t.lines = false ∧ 0 < (packageSearch t).1 ∧ (t.dq2400 = true ∨ t.dq3600 = true) ∧
      (express = true → t.dq3600 = true ∧ (trainChannel express reach t).reach = false) := by
  unfold trainChannel at h ⊢
  by_cases hfatal : lineFatal t.lines = true
  · rw [if_pos hfatal] at h
    exact absurd h Bool.true_eq_false.mp
  · rw [if_neg hfatal] at h ⊢
    dsimp only at h ⊢
    by_cases hused : (packageSearch t).1 = 0
    · rw [if_pos hused] at h
      exact absurd h Bool.true_eq_false.mp
    · rw [if_neg hused] at h ⊢
      refine ⟨Bool.eq_false_iff.2 hfatal, Nat.pos_of_ne_zero hused, ?_⟩
      have hnot : (true = false) → False := Bool.true_eq_false.mp
      revert h
      split
      · split
        · next _ hfull => exact fun _ => ⟨.inr hfull, fun _ => ⟨hfull, rfl⟩⟩
        · exact fun h => (hnot h).elim
      · next hstandard =>
        split
        · split
          · next _ hrate => exact fun _ => ⟨.inl hrate, fun h => absurd h hstandard⟩
          · exact fun h => (hnot h).elim
        · split
          · split
            · next _ hrate => exact fun _ => ⟨.inl hrate, fun h => absurd h hstandard⟩
            · exact fun h => (hnot h).elim
          · split
            · next _ hfull => exact fun _ => ⟨.inr hfull, fun h => absurd h hstandard⟩
            · split
              · next _ hrate => exact fun _ => ⟨.inl hrate, fun h => absurd h hstandard⟩
              · exact fun h => (hnot h).elim


/-! ### O49 -/

section
variable {fc : Fin 24} {r : NandRead} {s s1 : State} {pl k : Nat} {d : Bytes}

theorem State.offCount_eq {s t : State} (h : s.offCount = t.offCount) :
    s.mem = t.mem ∧ s.flash = t.flash ∧ s.recs = t.recs ∧ s.node = t.node := by
  simpa only [State.offCount, Prod.mk.injEq] using h

/-- A sound read, once popped and counted, stands on the memory, the records, the node state and the flash as they were, but for its command. -/
theorem readCounted_popped (hpop : popCmd s fc 0 = some (pl, k, s1)) : (readCounted s1 fc r pl).mem = s.mem ∧
    (readCounted s1 fc r pl).flash = { s.flash with cmdQ := s1.flash.cmdQ } ∧ (readCounted s1 fc r pl).recs = s.recs ∧
    (readCounted s1 fc r pl).node = s.node ∧ (r.uncorrectable = false → (readCounted s1 fc r pl).bg = s.bg) := by
  obtain ⟨hmem, hflash, hrecs, hnode⟩ := State.offCount_eq (readCounted_offCount s1 fc r pl)
  obtain ⟨hflash1, hmem1, hrecs1, hnode1, hbg1⟩ := popCmd_rest hpop
  exact ⟨hmem.trans hmem1, hflash.trans hflash1, hrecs.trans hrecs1, hnode.trans hnode1, fun h => (readCounted_bg s1 fc r pl h).trans hbg1⟩

theorem writeMem_sram_of_mem {s t : State} (h : s.mem = t.mem) (a : Nat) (bs : Bytes) : (writeMem s a bs).mem.sram = (writeMem t a bs).mem.sram := by
  unfold writeMem
  split <;> rw [h]

/-- A read that comes back sound. -/
theorem flashReadDone_sound {q : FRead} (hpop : popCmd s fc 0 = some (pl, k, s1)) (hback : readBack s1 pl r = (d, false))
    (hq : awaitedRead s fc pl = some q) : Runs (.flashReadDone fc r) s fun t =>
      t.flash.cmdQ = s1.flash.cmdQ ∧ t.recs = s.recs ∧ t.node = s.node ∧ (r.uncorrectable = false → t.bg = s.bg) ∧
      t.flash.reads = s.flash.reads.map (fun x => if x = q then { x with stage := 2, data := d } else x) ∧
      (4 ≤ fc.val → ∃ s2 : State, s2.mem = s.mem ∧ s2.flash.received = s.flash.received ∧ s2.flash.slotMap = s.flash.slotMap ∧ t = receive s2 q.slot d) ∧
      (fc.val < 4 → t.flash.received = s.flash.received ∧
        t.mem.sram = (writeMem s (xAddr (4194304 * fc.val + 16384 * k)) d).mem.sram) := by
  obtain ⟨hmem, hflash, hrecs, hnode, hbg⟩ := readCounted_popped (r := r) hpop
  have hq' : awaitedRead (readCounted s1 fc r pl) fc pl = some q := by
    rw [awaitedRead, hflash]
    exact hq
  have hexec := exec_flashReadDone_sound hpop hback hq'
  have hmarked : (readMarked (readCounted s1 fc r pl) q 2 d).flash = { s.flash with
      cmdQ := s1.flash.cmdQ
      reads := s.flash.reads.map fun x => if x = q then { x with stage := 2, data := d } else x } := by
    rw [readMarked, hflash]
  by_cases hexpress : fc.val < 4
  · rw [if_pos hexpress] at hexec
    refine .of_exec hexec ⟨?_, ?_, ?_, fun h => ?_, ?_, fun h => absurd hexpress (Nat.not_lt.mpr h), fun _ => ⟨?_, writeMem_sram_of_mem ?_ ..⟩⟩
    · rw [writeMem_flash, hmarked]
    · exact (writeMem_recs ..).trans hrecs
    · exact (writeMem_node ..).trans hnode
    · exact (writeMem_bg ..).trans (hbg h)
    · rw [writeMem_flash, hmarked]
    · rw [writeMem_flash, hmarked]
    · exact hmem
  · rw [if_neg hexpress] at hexec
    obtain ⟨hrflash, hrrecs, hrnode, hrbg⟩ := receive_flash (readMarked (readCounted s1 fc r pl) q 2 d) q.slot d
    refine .of_exec hexec ⟨?_, hrrecs.trans hrecs, hrnode.trans hnode, fun h => hrbg.trans (hbg h), ?_, fun _ => ?_, fun h => absurd h hexpress⟩
    · rw [hrflash, hmarked]
    · rw [hrflash, hmarked]
    · exact ⟨readMarked (readCounted s1 fc r pl) q 2 d, hmem, by rw [hmarked], by rw [hmarked], rfl⟩

/-- A read that is lost. -/
theorem flashReadDone_lost {n : Nat} {lost : Nat} (hpop : popCmd s fc 0 = some (pl, k, s1)) (hback : readBack s1 pl r = (d, true))
    (hn : slotAt s pl = some n) (hlost : lost = mkEntry (seStripe (slotEntry s n)) (seIndex (slotEntry s n)) (seStaged (slotEntry s n)) true
      (seValid (slotEntry s n))) : Runs (.flashReadDone fc r) s fun t => sePoisoned lost = true ∧ t.flash.slotMap = cset 0 s.flash.slotMap n lost ∧
      t.flash.received = s.flash.received ∧ ∀ q, awaitedRead s fc pl = some q →
        t.flash.reads = s.flash.reads.map fun x => if x = q then { x with stage := 3, data := d } else x := by
  obtain ⟨-, hflash, -⟩ := readCounted_popped (r := r) hpop
  have hn' : slotAt (readCounted s1 fc r pl) pl = some n := by
    rw [slotAt, hflash]
    exact hn
  have hexec := exec_flashReadDone_lost hpop hback hn'
  have hentry : slotEntry (readCounted s1 fc r pl) n = slotEntry s n := by rw [slotEntry, hflash]; rfl
  have hpoisoned : (poisonSlot (readCounted s1 fc r pl) fc n).flash = { s.flash with
      cmdQ := s1.flash.cmdQ
      slotMap := cset 0 s.flash.slotMap n lost } := by
    rw [poisonSlot_flash, hentry, hflash, hlost]
  have hawaited : awaitedRead (poisonSlot (readCounted s1 fc r pl) fc n) fc pl = awaitedRead s fc pl := by
    rw [awaitedRead, hpoisoned]
    rfl
  rw [hawaited] at hexec
  have hbit : sePoisoned lost = true := hlost ▸ sePoisoned_mkEntry ..
  cases hq : awaitedRead s fc pl with
  | none =>
    rw [hq] at hexec
    refine .of_exec hexec ⟨hbit, ?_, ?_, fun q h => absurd h (Option.some_ne_none q).symm⟩
    · rw [setCredit_flash, hpoisoned]
    · rw [setCredit_flash, hpoisoned]
  | some q =>
    rw [hq] at hexec
    refine .of_exec hexec ⟨hbit, ?_, ?_, fun q' h => ?_⟩
    · rw [setCredit_flash, readMarked, hpoisoned]
    · rw [setCredit_flash, readMarked, hpoisoned]
    · obtain rfl : q = q' := Option.some.inj h
      rw [setCredit_flash, readMarked, hpoisoned]

end

/-- What a NAND read gives (R142, R251). -/
theorem readBack_cases {s : State} {pl : Nat} {r : NandRead} {ch : Nat} (hch : unitChannel (pl / stripeSlots) (pl % stripeSlots / 8) = ch) :
    (chanLost s ch = false → r.uncorrectable = false → cget 0 s.flash.pages (24 * (pl / stripeSlots) + ch) ≠ 0 →
      readBack s pl r = (fullSlot (cget [] s.flash.nand pl), false)) ∧
    (∀ d, chanLost s ch = true → r.uncorrectable = false → rebuildSlot s (pl / stripeSlots) (pl % stripeSlots) = some d → readBack s pl r = (d, false)) ∧
    (chanLost s ch = true ∨ r.uncorrectable = true → rebuildSlot s (pl / stripeSlots) (pl % stripeSlots) = none → (readBack s pl r).2 = true) := by
  unfold readBack
  dsimp only
  rw [hch]
  refine ⟨fun hlost hread hpage => ?_, fun d hlost hread hd => ?_, fun h hd => ?_⟩
  · rw [if_neg (by rw [hlost]; decide), if_neg (by rw [hread]; decide), if_neg hpage]
  · rw [if_pos hlost, hd, hread]
  · rw [hd]
    by_cases hlost : chanLost s ch = true
    · rw [if_pos hlost]
    · rw [if_neg hlost, if_pos (h.resolve_left hlost)]

/-- Settles O49: each event of flash in its equation, with the frames of what it leaves. -/
theorem flashEvents : Obligations.FlashEvents := by
  unfold Obligations.FlashEvents
  refine ⟨?_, ?_, ?_, ?_, ?_, ?_, ?_, ?_, ?_, ?_, ?_⟩
  · intro fc r s s1 pl k d q hpop hback hq
    exact flashReadDone_sound hpop hback hq
  · intro fc r s s1 pl k n d hpop hback hn e lost
    exact flashReadDone_lost hpop hback hn rfl
  · intro s pl r ch
    exact readBack_cases rfl
  · intro fc s s1 st k hpop
    obtain ⟨hflash1, hmem1, -, hnode1, -⟩ := popCmd_rest hpop
    have hflash : (programCounted s1 fc st k).flash = { s.flash with
        cmdQ := s1.flash.cmdQ
        credits := (programCounted s1 fc st k).flash.credits } := by
      rw [programCounted_flash, hflash1]
    have hstaged : stagedUnit s1 st fc = stagedUnit s st fc := by rw [stagedUnit, hflash1]; rfl
    refine .of_exec (exec_flashProgramDone hpop) ⟨?_, ?_, ?_, ?_, ?_, ?_, fun hone => ?_⟩
    · rw [unitProgrammed, hstaged, hflash]
      rfl
    · rw [unitProgrammed, cget_cset_written _ (Nat.succ_ne_zero _)]
      exact Nat.succ_ne_zero _
    · rw [unitProgrammed, hflash]
    · rw [unitProgrammed, hflash]
    · exact (programCounted_mem (st := st)).trans hmem1
    · exact (programCounted_node (st := st)).trans hnode1
    · have hleft : programsLeft (programCounted s1 fc st k) st = 0 := by
        rw [programsLeft, hflash, hone]
        rfl
      exact (if_pos hleft).trans (by rw [hflash])
  · intro fc s s1 st k hpop
    obtain ⟨hflash, hmem, -, hnode, -⟩ := popCmd_rest hpop
    refine .of_exec (exec_flashEraseDone hpop) ⟨?_, ?_, ?_, ?_, hmem, hnode⟩
    · rw [hflash]
    · rw [hflash]
    · rw [hflash]
    · rw [hflash]
  · intro sl s o ho
    have hexec : exec (.stripeAgeFlush sl) s = execStripeAgeFlush sl s := rfl
    rw [execStripeAgeFlush, ho] at hexec
    exact .of_exec hexec ⟨rfl, rfl⟩
  · intro fc line s htrained hlost hreset
    obtain ⟨hl, hq, hnode, hdump⟩ := loseChannel_effect
      (logFault s { code := 0x207, event := true, dom := 16, unit := 0x300 + fc.val, arg0 := fc.val, arg1 := line.val }) fc
    refine .of_exec (exec_flashLineFault htrained hlost hreset) ⟨?_, ?_, hnode.trans (logFault_node ..), fun hroom => ?_⟩
    · rw [hl, logFault_flash]
    · rw [hq, logFault_flash]
    · rw [hdump, logFault_log hroom]
  · intro g s hon hbit
    refine .of_exec (exec_nandSenseLost hon hbit) ⟨?_, ?_, ?_, ?_, ?_⟩
    · rw [powerIbi_faults, senseReset_held]
    · rw [powerIbi_faults]
      exact senseReset_inReset
    · rw [(powerIbi_sense ..).1, senseReset_power]
      rfl
    · rw [(powerIbi_sense ..).2, senseReset_power]
      rfl
    · rw [powerIbi_node]
      exact senseReset_node
  · intro g s hheld
    refine .of_exec (exec_nandSenseRestored hheld) ?_
    rw [(powerIbi_sense ..).1, powerIbi_faults, powerIbi_node, senseBack_released]
    split
    · exact ⟨rfl, rfl, rfl, rfl⟩
    · exact ⟨rfl, rfl, rfl, rfl⟩
  · intro rs s hon huntrained hout
    obtain ⟨t, htrained, hexec⟩ := exec_flashTrainingDone (rs := rs) hon huntrained hout
    exact .of_exec hexec ((congrArg Flash.trained (finishResets_flash t 16)).trans htrained)
  · intro express reach t hkept
    exact trainChannel_kept hkept

end Sys2Proof.Machine
end

section
/-!
PROOF. Changes, re-shards, custody, rings and results (O51).
-/
namespace Sys2Proof.Machine

/-! ### Orphans -/

/-- What an answer to a record leaves. -/
def State.ledger (s : State) : Records × Node × Setup × Background := (s.recs, s.node, s.setup, s.bg)

theorem State.ledger_eq {s t : State} (h : s.ledger = t.ledger) : s.recs = t.recs ∧ s.node = t.node ∧ s.setup = t.setup ∧ s.bg = t.bg := by
  simpa only [State.ledger, Prod.mk.injEq] using h

theorem countRec_ledger (s : State) (slice c n : Nat) : (countRec s slice c n).ledger = s.ledger := by
  unfold countRec
  split <;> rfl

theorem countResult_ledger (s : State) (slice st : Nat) (bytes : Bytes) : (countResult s slice st bytes).ledger = s.ledger := by
  simp only [countResult, apply_ite State.ledger, countRec_ledger, ite_self]

theorem writeResult_ledger (s : State) (num j st : Nat) (bytes : Bytes) : (writeResult s num j st bytes).ledger = s.ledger := by
  unfold writeResult
  cases hr : s.host.rings.find? fun r => r.num == num with
  | none => rfl
  | some r =>
    dsimp only
    split
    · rfl
    · exact countResult_ledger s r.slice st bytes

theorem answerRec_ledger (s : State) (r : InRec) : (answerRec s r).ledger = s.ledger := by
  unfold answerRec
  split
  · rfl
  · split
    · rfl
    · exact writeResult_ledger ..

theorem orphanIn_ledger (s : State) (c : Custody) (slice : Nat) : (orphanIn s c slice).ledger = s.ledger := by
  unfold orphanIn
  extract_lets held ofSlice tr r cls slot
  clear_value slot
  cases slot with
  | none => rfl
  | some x => exact answerRec_ledger ..

/-- An orphan with no transit of its own: its custody ends, and node state and settings stand. -/
def orphaned (s : State) (c : Custody) : State :=
  let s := orphanIn s c c.giver
  let s := if c.taker = c.giver then s else orphanIn s c c.taker
  let s := if c.kind = 3 then cancelTransit s else s
  { s with recs := { s.recs with
      custody := s.recs.custody.erase c
      training := if c.kind = 0 then s.recs.training.filter (fun t => t.reqId != c.reqId) else s.recs.training
      deferred := if c.kind = 1 then s.recs.deferred.filter (fun r => recReq r.bytes != c.reqId) else s.recs.deferred
      withdrawn := if c.kind = 2 then s.recs.withdrawn.filter (fun r => recReq r.bytes != c.reqId) else s.recs.withdrawn } }

theorem cancelTransit_none {s : State} (h : s.bg.transit = none) : cancelTransit s = s := by rw [cancelTransit, h]

theorem orphaned_effect {s : State} {c : Custody} (htransit : s.bg.transit = none) :
    (orphaned s c).recs.custody = s.recs.custody.erase c ∧ (orphaned s c).node = s.node ∧ (orphaned s c).setup = s.setup := by
  unfold orphaned
  extract_lets s1 s2 s3 recs
  have h2 : s2.ledger = s.ledger := by
    simp only [s2]
    split
    · exact orphanIn_ledger ..
    · exact (orphanIn_ledger ..).trans (orphanIn_ledger ..)
  have h3 : s3.ledger = s.ledger := by
    simp only [s3]
    split
    · rw [cancelTransit_none ((congrArg Background.transit (State.ledger_eq h2).2.2.2).trans htransit)]
      exact h2
    · exact h2
  obtain ⟨hrecs, hnode, hsetup, -⟩ := State.ledger_eq h3
  exact ⟨congrArg (fun r : Records => r.custody.erase c) hrecs, hnode, hsetup⟩

/-- The requests whose custody nobody has taken over in time. -/
def orphans (s : State) : List Custody := s.recs.custody.filter fun c => c.state == 1 && decide (c.handover + orphanFrames s ≤ s.run.frame)

theorem exec_custodyOrphan {s : State} (hrun : s.run.running = true) : exec .custodyOrphan s = .next ((orphans s).foldl orphaned s) := by
  have hexec : exec .custodyOrphan s = execCustodyOrphan s := rfl
  rw [hexec, execCustodyOrphan, if_neg (by rw [hrun]; decide)]
  rfl


/-! ### Changes and re-shards -/

section
variable {s : State} {c : Change}

theorem exec_setupMarkComplete (hup : burinUp s = true) (hnext : s.setup.next ≠ []) (hcomplete : s.setup.complete = false)
    (hchange : s.setup.change = none) : exec .setupMarkComplete s = .next (markSet s) := by
  have hexec : exec .setupMarkComplete s = execSetupMarkComplete s := rfl
  rw [hexec, execSetupMarkComplete, if_neg (by simp [hup, hnext, hcomplete]), if_neg (by rw [hchange]; decide)]

theorem exec_sliceQuiet (hchange : s.setup.change = some c) : exec .sliceQuiet s =
    if !burinUp s || s.setup.complete || c.abandoned || (s.run.running && !c.quiesced) || maskOpen s c.changed then .next s else .next (markSet s) := by
  have hexec : exec .sliceQuiet s = execSliceQuiet s := rfl
  rw [hexec, execSliceQuiet, hchange]

theorem exec_composeAbandon (hchange : s.setup.change = some c) : exec .composeAbandon s =
    if !s.run.running || s.run.frame < c.frame + 4 * (quietFrames s + 1) || (s.fab.armed && s.setup.complete) then .next s
    else .next { s with setup := { s.setup with complete := false, change := some { c with abandoned := true } } } := by
  have hexec : exec .composeAbandon s = execComposeAbandon s := rfl
  rw [hexec, execComposeAbandon, hchange]

theorem dropAbandoned_command {m : Nat} (hchange : s.setup.change = some c) (habandoned : c.abandoned = true) (hreshard : s.setup.reshard = none)
    (hm : c.mailbox = some m) : dropAbandoned s = finish (dropChange s) m { status := sTimeout } := by
  rw [dropAbandoned, hchange]
  dsimp only
  rw [if_neg (by rw [habandoned]; decide), hreshard]
  dsimp only
  rw [hm]

theorem exec_reshardMovesDone {r : Reshard} {b : Bytes} (hr : s.setup.reshard = some r) (hmoving : r.moving = true) (hchange : s.setup.change = none)
    (hb : phasePackage s r.target = some b) (hitems : ∀ i ∈ s.bg.items, ∀ o t, i.work ≠ .reshardMove o t) :
    exec .reshardMovesDone s = .next (acceptChange s (s.setup.epoch + 1) none (packageNext b (s.setup.epoch + 1))) := by
  have hexec : exec .reshardMovesDone s = execReshardMovesDone s := rfl
  rw [hexec, execReshardMovesDone, hr]
  dsimp only
  rw [if_neg, hb]
  intro h
  rw [hmoving, hchange, Bool.not_true, Bool.false_or, Option.isSome_none, Bool.or_false, List.any_eq_true] at h
  obtain ⟨i, hi, hmove⟩ := h
  split at hmove
  · next o t hwork => exact hitems i hi o t hwork
  · exact Bool.false_ne_true hmove

end

/-! ### Rings and results -/

section
variable {n : Fin 64} {s : State} {r : Ring}

theorem exec_drainComplete (hdrain : s.node.state = stDraining) (hopen : recordsOpen s (fun _ => true) = false) (htrans : s.node.trans = none) :
    exec .drainComplete s = .next (moveTo s stReady) := by
  have hexec : exec .drainComplete s = execDrainComplete s := rfl
  rw [hexec, execDrainComplete, if_pos ⟨hdrain, by rw [hopen]; rfl⟩, htrans]

theorem exec_drainComplete_open (hopen : recordsOpen s (fun _ => true) = true) : exec .drainComplete s = .next s := by
  have hexec : exec .drainComplete s = execDrainComplete s := rfl
  rw [hexec, execDrainComplete, if_neg (by rw [hopen]; simp)]

theorem exec_ringCloseDone (hr : (s.host.rings.find? fun r => r.num == n.val) = some r) (hclosing : r.closing = true) (hopen : r.isOpen = false) :
    exec (.ringCloseDone n) s = if ringPending s n then .next s else
      match s.host.inProg.find? fun p => p.code == 0x59 && p.arg == n.val with
      | none => .next (freeRing s n)
      | some p => .next (finish (freeRing s n) p.mailbox { status := sOk }) := by
  have hexec : exec (.ringCloseDone n) s = execRingCloseDone n s := rfl
  rw [hexec, execRingCloseDone, hr]
  dsimp only
  rw [hclosing, hopen]
  rfl

/-- The state once the DONE count of the last ring with results is written. -/
def doneWritten (s : State) (r : Ring) : State :=
  hostWrite { s with host := { s.host with written := [] } } r.port r.doneAddr (leBytes 8 r.done)

theorem exec_resultsWritten (hwritten : s.host.written.contains n.val = true) (hr : (s.host.rings.find? fun r => r.num == n.val) = some r)
    (hdma : dmaOk s r.port = true) (hall : s.host.written.all (· == n.val) = true) :
    exec (.resultsWritten n) s = .next (raise (doneWritten s r) r.port (16 + r.slice)) := by
  have hexec : exec (.resultsWritten n) s = execResultsWritten n s := rfl
  have hrest : s.host.written.filter (· != n.val) = [] := by
    rw [List.filter_eq_nil_iff]
    intro x hx
    simpa using List.all_eq_true.mp hall x hx
  rw [hexec, execResultsWritten, if_neg (by rw [hwritten]; decide), hrest]
  dsimp only
  rw [hr]
  dsimp only
  rw [if_pos (show dmaOk { s with host := { s.host with written := [] } } r.port = true from hdma)]
  rfl

theorem raise_written (s : State) (p v : Nat) : (raise s p v).host.written = s.host.written := by
  unfold raise
  split
  · rfl
  · split
    · rfl
    · rfl

end

/-- Settles O51: each ending in its equation. -/
theorem changesAndRecordsEnd : Obligations.ChangesAndRecordsEnd := by
  unfold Obligations.ChangesAndRecordsEnd
  refine ⟨?_, ?_, ?_, ?_, ?_, ?_, ?_, ?_, ?_, ?_⟩
  · intro s hup hnext _ hcomplete hchange
    exact exec_setupMarkComplete hup hnext hcomplete hchange
  · intro s c hchange hup hcomplete hkept
    refine ⟨fun hquiet hopen => ?_, fun hopen => ?_⟩
    · rw [exec_sliceQuiet hchange, if_neg (by simp [hup, hcomplete, hkept, hquiet, hopen])]
    · rw [exec_sliceQuiet hchange, if_pos (by simp [hopen])]
  · intro s c hchange hrun
    refine ⟨fun hlate harm => ?_, fun hearly => ?_, fun m habandoned hreshard hm => dropAbandoned_command hchange habandoned hreshard hm⟩
    · have hnot : ¬ s.run.frame < c.frame + 4 * (quietFrames s + 1) := Nat.not_lt.mpr hlate
      rw [exec_composeAbandon hchange, if_neg (by simp only [hrun, harm, hnot]; decide)]
    · rw [exec_composeAbandon hchange, if_pos (by simp [hearly])]
  · intro s hrun hnone
    have hnil : orphans s = [] := by
      rw [orphans, List.filter_eq_nil_iff]
      intro c hc hlate
      rw [Bool.and_eq_true, beq_iff_eq, decide_eq_true_eq] at hlate
      exact absurd (hnone c hc hlate.1) (Nat.not_lt.mpr hlate.2)
    rw [exec_custodyOrphan hrun, hnil]
    rfl
  · intro s c hrun hcustody hstate hlate htransit
    have hone : orphans s = [c] := by rw [orphans, hcustody]; simp [hstate, hlate]
    have hexec := exec_custodyOrphan hrun
    rw [hone] at hexec
    obtain ⟨hc, hnode, hsetup⟩ := orphaned_effect (c := c) htransit
    refine .of_exec hexec ⟨hc.trans ?_, hnode, hsetup⟩
    rw [hcustody]
    simp
  · intro s r b hr hmoving hchange hb hitems
    exact exec_reshardMovesDone hr hmoving hchange hb hitems
  · intro s hdrain hopen htrans
    exact .of_exec (exec_drainComplete hdrain hopen htrans) (moveTo_state ..)
  · intro s _ hopen
    exact exec_drainComplete_open hopen
  · intro n s r hr hclosing hopen
    refine ⟨fun hpending => ?_, fun p hpending hp => ?_⟩
    · rw [exec_ringCloseDone hr hclosing hopen, if_pos hpending]
    · rw [exec_ringCloseDone hr hclosing hopen, if_neg (by rw [hpending]; decide), hp]
  · intro n s r hwritten hr hdma hall
    exact .of_exec (exec_resultsWritten hwritten hr hdma hall) ⟨rfl, raise_written ..⟩

end Sys2Proof.Machine
end

section
/-!
PROOF. Hangs, dumps, node resets, domain resets, the return of Burin and the quarantine (O53).
-/
namespace Sys2Proof.Machine

/-! ### Domain resets -/

/-- What no domain reset touches: memory outside SRAM, the dump, the NOR, the node state, and the domains in reset or about to be. -/
def State.pastReset (s : State) : Cells Byte × DumpState × Nor × Nat × List Nat × List Nat :=
  (s.mem.bytes, s.dump, s.nor, s.node.state, s.faults.inReset, s.faults.toReset)

theorem State.pastReset_eq {s t : State} (h : s.pastReset = t.pastReset) : s.mem.bytes = t.mem.bytes ∧ s.dump = t.dump ∧ s.nor = t.nor ∧
    s.node.state = t.node.state ∧ s.faults.inReset = t.faults.inReset ∧ s.faults.toReset = t.faults.toReset := by
  simpa only [State.pastReset, Prod.mk.injEq] using h

section
variable (s : State) (d : Nat)

theorem loseSram_pastReset (p : Nat → Bool) : (loseSram s p).pastReset = s.pastReset := rfl

theorem dropTransit_pastReset : (dropTransit s).pastReset = s.pastReset := by simp [State.pastReset]

theorem resetEffects_pastReset : (resetEffects s d).pastReset = s.pastReset := by
  unfold resetEffects
  split
  · exact dropTransit_pastReset (loseSram s fun x => x == d && d != 0)
  · split
    · rfl
    · split
      · rfl
      · split
        · rfl
        · split
          · rfl
          · split <;> rfl

/-- A domain put into reset stands with those in reset. -/
theorem startReset_effect (h : s.faults.inReset.contains d = false) :
    (startReset s d).faults.inReset = s.faults.inReset ++ [d] ∧ (startReset s d).mem.bytes = s.mem.bytes ∧ (startReset s d).dump = s.dump ∧
      (startReset s d).nor = s.nor ∧ (startReset s d).node.state = s.node.state ∧ (startReset s d).faults.toReset = s.faults.toReset := by
  obtain ⟨hbytes, hdump, hnor, hnode, hin, hto⟩ := State.pastReset_eq (resetEffects_pastReset s d)
  rw [startReset, if_neg (by rw [h]; decide)]
  exact ⟨congrArg (· ++ [d]) hin, hbytes, hdump, hnor, hnode, hto⟩

end

theorem not_isSram {x : Nat} (h : tierOf x = 1 ∨ tierOf x = 2) : isSram x = false := by
  unfold isSram
  cases h with
  | inl h => rw [h]; rfl
  | inr h => rw [h]; rfl

/-- Memory of T1 and T2 reads the same in states that hold the same bytes. -/
theorem readMem_of_bytes {s t : State} {x n : Nat} (h : s.mem.bytes = t.mem.bytes) (hx : tierOf x = 1 ∨ tierOf x = 2) : readMem s x n = readMem t x n := by
  rw [readMem, readMem, not_isSram hx, h]
  rfl

theorem finishResets_kept (s : State) (dom : Nat) : (finishResets s dom).faults = s.faults ∧ (finishResets s dom).node = s.node ∧
    (finishResets s dom).units = s.units ∧ (finishResets s dom).setup = s.setup := by
  unfold finishResets
  generalize s.host.inProg.filter _ = ps
  exact ⟨foldl_keeps State.faults _ (fun t p => finish_faults ..) _ _, foldl_keeps State.node _ (fun t p => finish_node ..) _ _,
    foldl_keeps State.units _ (fun t p => finish_units ..) _ _, foldl_keeps State.setup _ (fun t p => finish_setup ..) _ _⟩

/-- The end of an incident is in the dump alone. -/
theorem endIncident_eq (s : State) : endIncident s = { s with dump := (endIncident s).dump } := by
  unfold endIncident
  split <;> rfl

theorem leaveReset_effect (s : State) (d : Nat) : (leaveReset s d).faults.inReset = s.faults.inReset.filter (· != d) ∧
    (leaveReset s d).node = s.node ∧ (leaveReset s d).units = s.units ∧ (leaveReset s d).setup = s.setup := by
  unfold leaveReset
  extract_lets faults s1 s2
  have h2 : s2.faults.inReset = s.faults.inReset.filter (· != d) ∧ s2.node = s.node ∧ s2.units = s.units ∧ s2.setup = s.setup := by
    simp only [s2]
    rw [endIncident_eq]
    exact ⟨rfl, rfl, rfl, rfl⟩
  clear_value s2
  obtain ⟨hin, hnode, hunits, hsetup⟩ := h2
  split
  · exact ⟨hin, hnode, hunits, hsetup⟩
  · obtain ⟨hf, hn, hu, hs⟩ := finishResets_kept s2 d
    exact ⟨(congrArg FaultState.inReset hf).trans hin, hn.trans hnode, hu.trans hunits, hs.trans hsetup⟩

/-! ### The commands of faults and resets -/

section
variable {s : State}

theorem exec_hangs {u peer : BitVec 16} (h : timersRun s (unitDomain u.toNat) = true) :
    exec (.hangAck u peer) s = .next (declare s 1 (unitDomain u.toNat) u.toNat peer.toNat) ∧
    exec (.hangOwn u) s = .next (declare s 2 (unitDomain u.toNat) u.toNat 0xFFFF) ∧
    exec (.hangWait u peer) s = .next (declare s 3 (unitDomain u.toNat) u.toNat peer.toNat) :=
  ⟨(show _ = execHangAck u peer s from rfl).trans (if_pos h), (show _ = execHangOwn u s from rfl).trans (if_pos h),
    (show _ = execHangWait u peer s from rfl).trans (if_pos h)⟩

/-- A dump written, valid, and told to the carrier. -/
def dumpWritten (s : State) (full : Bool) (us : W32) (l : List Nat) : State :=
  { s with
    dump := { s.dump with writing := none, valid := true, part := !full, us := us.toNat, unread := l }
    power := { s.power with ibi := s.power.ibi ++ [1] }
    faults := { s.faults with toReset := [] } }

theorem exec_dumpComplete {us : W32} {l : List Nat} {full : Bool} {dom : Nat} (h : s.dump.writing = some (full, dom)) :
    exec (.dumpComplete us l) s = .next (s.faults.toReset.foldl wardenReset (dumpWritten s full us l)) := by
  have hexec : exec (.dumpComplete us l) s = execDumpComplete us l s := rfl
  rw [hexec, execDumpComplete, h]
  rfl

/-- May the node reset itself. -/
def selfResets (s : State) : Prop :=
  s.node.state = stFault ∧ s.boot.romRecovery = false ∧ burinUp s ∧ s.dump.writing = none ∧ s.faults.toReset = []

theorem exec_autoNodeReset_escalated (h : selfResets s) (hesc : s.dump.escalated = true) :
    exec .autoNodeReset s = .next (endIncident (moveTo s stEclipsed)) := by
  have hexec : exec .autoNodeReset s = execAutoNodeReset s := rfl
  obtain ⟨hfault, hrom, hup, hwriting, hto⟩ := h
  rw [hexec, execAutoNodeReset, if_pos ⟨hfault, hrom, hup, hwriting, hto⟩, if_pos hesc]

/-- The state that the node's own reset starts from: its fault record written and the reset's time kept. -/
def resetNoted (s : State) : State :=
  { logFault s { code := 6, event := false } with dump := { (logFault s { code := 6, event := false }).dump with nr1 := some s.power.ms } }

theorem exec_autoNodeReset_first (h : selfResets s) (hesc : s.dump.escalated = false) (hnr : s.dump.nr1 = none) :
    exec .autoNodeReset s = .next (nodeReset (resetNoted s) true) := by
  have hexec : exec .autoNodeReset s = execAutoNodeReset s := rfl
  obtain ⟨hfault, hrom, hup, hwriting, hto⟩ := h
  rw [hexec, execAutoNodeReset, if_pos ⟨hfault, hrom, hup, hwriting, hto⟩, if_neg (by rw [hesc]; decide), hnr]
  rfl

theorem exec_autoNodeReset_second {n : Nat} (h : selfResets s) (hesc : s.dump.escalated = false) (hnr : s.dump.nr1 = some n)
    (hsoon : s.power.ms - n ≤ 3600000) : exec .autoNodeReset s = .next (endIncident (escalate s)) := by
  have hexec : exec .autoNodeReset s = execAutoNodeReset s := rfl
  obtain ⟨hfault, hrom, hup, hwriting, hto⟩ := h
  rw [hexec, execAutoNodeReset, if_pos ⟨hfault, hrom, hup, hwriting, hto⟩, if_neg (by rw [hesc]; decide), hnr]
  exact if_pos (decide_eq_true hsoon)

/-- The state once a quarantine is lifted, before its fault record: the unit serves again, by the map it had or on its own channel or links. -/
def quarantineLifted (s : State) (q : Quarantine) (u : Nat) : State :=
  let s := { s with faults := { s.faults with quarantined := s.faults.quarantined.erase q } }
  if 0x1000 ≤ u then
    (if (s.faults.quarantined.any fun o => decide (0x1000 ≤ o.unit) && o.quad == q.quad && physOf o.unit == physOf u) then s
     else moveClusters s q.quad q.clmap)
  else if u < 0x400 then { s with flash := { s.flash with lost := cset false s.flash.lost (u - 0x300) false } }
  else { s with fab := { s.fab with links := (List.range 4).foldl (fun l i =>
    let k := 4 * (u - 0x400) + i
    if (cget noLink l k).state = 8 then cmod noLink l k fun x => { x with state := 3 } else l) s.fab.links } }

theorem exec_quarantineLift {u : BitVec 16} {q : Quarantine} {t : Nat} (hq : (s.faults.quarantined.find? fun q => q.unit == u.toNat) = some q)
    (ht : q.freed = some t) : exec (.quarantineLift u) s = if s.power.ms < t + 60000 then .next s else
      .next (logFault (quarantineLifted s q u.toNat) { code := 0x11, event := true, dom := unitDomain u.toNat, unit := u.toNat }) := by
  have hexec : exec (.quarantineLift u) s = execQuarantineLift u s := rfl
  rw [hexec, execQuarantineLift]
  dsimp only
  rw [hq]
  dsimp only
  rw [ht]
  rfl

end

theorem moveClusters_kept (s : State) (q v : Nat) : (moveClusters s q v).faults = s.faults ∧ (moveClusters s q v).node = s.node := by
  unfold moveClusters dropMoved applyClmap
  dsimp only
  split
  · exact ⟨rfl, rfl⟩
  · exact ⟨logFault_faults .., logFault_node ..⟩

theorem quarantineLifted_kept (s : State) (q : Quarantine) (u : Nat) :
    (quarantineLifted s q u).faults.quarantined = s.faults.quarantined.erase q ∧ (quarantineLifted s q u).node = s.node := by
  unfold quarantineLifted
  extract_lets faults s1
  split
  · split
    · exact ⟨rfl, rfl⟩
    · obtain ⟨hf, hn⟩ := moveClusters_kept s1 q.quad q.clmap
      exact ⟨congrArg FaultState.quarantined hf, hn⟩
  · split
    · exact ⟨rfl, rfl⟩
    · exact ⟨rfl, rfl⟩

/-- Settles O53: each event in its equation, with the frames of the resets. -/
theorem hangsAndResets : Obligations.HangsAndResets := by
  unfold Obligations.HangsAndResets
  refine ⟨?_, ?_, ?_, ?_, ?_, ?_, ?_, ?_, ?_, ?_⟩
  · intro u peer s hrun
    exact exec_hangs hrun
  · intro s hoff hup hreset
    exact (show _ = execWatchdog s from rfl).trans (if_pos (by rw [hup, hreset, bne_iff_ne.mpr hoff]; rfl))
  · intro us l s full dom hwriting hnone
    rw [exec_dumpComplete hwriting, hnone, List.foldl_nil, dumpWritten, ← hnone]
  · intro us l s full dom d hwriting hone hd hout
    have hexec := exec_dumpComplete (us := us) (l := l) hwriting
    rw [hone, List.foldl_cons, List.foldl_nil, wardenReset, if_neg hd] at hexec
    obtain ⟨hin, -, hdump, -, hnode, hto⟩ := startReset_effect (dumpWritten s full us l) d hout
    exact .of_exec hexec ⟨hto, hin, by rw [hdump]; rfl, by rw [hdump]; rfl, hnode⟩
  · intro s hfault hrom hup hwriting hto
    have hself : selfResets s := ⟨hfault, hrom, hup, hwriting, hto⟩
    refine ⟨fun hesc => ?_, fun hesc hnr => ?_, fun n hesc hnr hsoon => exec_autoNodeReset_second hself hesc hnr hsoon⟩
    · refine .of_exec (exec_autoNodeReset_escalated hself hesc) ?_
      rw [endIncident_eq]
      exact moveTo_state ..
    · refine .of_exec (exec_autoNodeReset_first hself hesc hnr) ⟨nodeReset_state .., (nodeReset_dump ..).2, rfl, ?_, ?_, ?_, rfl, rfl, ?_⟩
      · exact (nodeReset_bytes ..).trans (bytes_of_ownMem (logFault_ownMem ..))
      · exact (nodeReset_nor ..).trans (logFault_nor ..)
      · exact (congrArg Setup.epoch (enterState_setup ..)).trans (congrArg Setup.epoch (logFault_setup ..))
      · exact (enterState_pending ..).trans (logFault_pending ..)
  · intro d s hin hheld
    have hexec : exec (.domainResetDone d) s = execDomainResetDone d s := rfl
    rw [execDomainResetDone] at hexec
    rw [if_neg (by simpa using And.intro (List.contains_iff_mem.mp hin) hheld)] at hexec
    exact .of_exec hexec (leaveReset_effect s d)
  · intro s hstate hdown hrom hout
    exact (show _ = execBurinRestart s from rfl).trans (if_pos ⟨hstate, by rw [hdown]; rfl, by rw [hrom]; rfl, by rw [hout]; rfl⟩)
  · intro u s q t hq ht
    refine ⟨fun hearly => ?_, fun hlate => ?_⟩
    · rw [exec_quarantineLift hq ht, if_pos hearly]
    · have hexec := exec_quarantineLift hq ht
      rw [if_neg (Nat.not_lt.mpr hlate)] at hexec
      refine .of_exec hexec ⟨?_, ?_, _, rfl⟩
      · rw [logFault_faults, (quarantineLifted_kept s q u.toNat).1]
      · rw [logFault_node, (quarantineLifted_kept s q u.toNat).2]
  · intro s hup hdirty
    exact (show _ = execFaultMapWrite s from rfl).trans (if_pos (by rw [hup, hdirty]; rfl))
  · intro s d hout
    obtain ⟨hin, hbytes, -, hnor, -⟩ := startReset_effect s d hout
    exact ⟨hin, fun x hx => readMem_of_bytes hbytes hx, hnor⟩

end Sys2Proof.Machine
end

section
/-!
PROOF. POWER_STATE, cause by cause (O54).
-/
namespace Sys2Proof.Machine

/-! ### Power-downs -/

/-- The in-band interrupt of the power target leaves the rest of the power controller. -/
theorem powerIbi_power (o s : State) : (powerIbi o s).power = { s.power with ibi := (powerIbi o s).power.ibi } := by
  unfold powerIbi
  split <;> rfl

/-- A power-down under way: where it ends, what it latched, and what it kept of the state before it. -/
def FallsFrom (s t : State) (tgt cause : Nat) : Prop :=
  t.power.state = psFalling ∧ t.power.fallTo = tgt ∧ t.power.mainPath = false ∧ t.power.latch = cause ∧ t.node.state = stOff ∧
    t.run.running = false ∧ t.mem.bytes = [] ∧ t.nor = s.nor ∧ t.flash.nand = s.flash.nand ∧ t.pending = s.pending

theorem FallsFrom.powerIbi {s t : State} {tgt cause : Nat} (h : FallsFrom s t tgt cause) (o : State) : FallsFrom s (powerIbi o t) tgt cause := by
  unfold FallsFrom
  rw [powerIbi_power, powerIbi_node, powerIbi_run, powerIbi_mem, powerIbi_nor, powerIbi_flash, powerIbi_pending]
  exact h

section
variable {s : State}

/-- A power-down of a state that differs in the power controller alone. -/
theorem powerDown_falls (p : Power) (tgt : Nat) : FallsFrom s (powerDown { s with power := p } tgt) tgt p.latch :=
  ⟨rfl, rfl, rfl, rfl, rfl, rfl, rfl, rfl, rfl, rfl⟩

theorem disconnect_falls {flag code : Nat} (hon : s.power.state = psOn) (hlatch : s.power.latch = 0) :
    FallsFrom s (disconnect s flag code) psHousekeeping 0 := by
  have hrailed : railed { seeEvent s flag code 0 with power := { (seeEvent s flag code 0).power with
      inputEvents := satAdd 16 (seeEvent s flag code 0).power.inputEvents 1 } } = true := by
    show (s.power.state == psRising || s.power.state == psOn) = true
    rw [hon]
    rfl
  rw [disconnect]
  dsimp only
  rw [if_pos hrailed]
  exact hlatch ▸ powerDown_falls (s := s) _ psHousekeeping

theorem latchDown_falls {flag code arg cause rail : Nat} (hon : s.power.state = psOn) (hlatch : s.power.latch = 0) :
    FallsFrom s (latchDown (seeEvent s flag code arg) cause rail) psLatched cause := by
  have hup : ¬ (seeEvent s flag code arg).power.state = psFalling := by
    show ¬ s.power.state = psFalling
    rw [hon]
    decide
  have hfirst : (if (seeEvent s flag code arg).power.latch = 0 then cause else (seeEvent s flag code arg).power.latch) = cause := if_pos hlatch
  rw [latchDown]
  dsimp only
  rw [if_neg hup, hfirst]
  exact powerDown_falls (s := s) _ psLatched

/-- The causes of a power-down in ON, and where each ends (R472, R473, R479, R486, R490). -/
theorem falls_of_on (hvmgt : s.power.vmgt = true) (hon : s.power.state = psOn) (hpath : s.power.mainPath = true) (hlatch : s.power.latch = 0) :
    Runs .inputUv s (FallsFrom s · psHousekeeping 0) ∧ Runs .inputOv s (FallsFrom s · psHousekeeping 0) ∧ Runs .breaker s (FallsFrom s · psLatched 1) ∧
    (∀ r : Fin 9, Runs (.railFault r) s (FallsFrom s · psLatched 2)) ∧ Runs .thermtrip s (FallsFrom s · psLatched 3) ∧
    Runs .controlOff s (FallsFrom s · psHeld 0) := by
  have hlive : pathLive s = true := by rw [pathLive, hvmgt, hpath]; rfl
  have hrails : (s.power.vmgt && (railed s || s.power.state == psFalling)) = true := by rw [railed, hvmgt, hon]; rfl
  have hoff : (s.power.vmgt && s.power.state == psOn) = true := by rw [hvmgt, hon]; rfl
  refine ⟨?_, ?_, ?_, fun r => ?_, ?_, ?_⟩
  · exact .of_exec ((show _ = execInputUv s from rfl).trans (if_pos hlive)) ((disconnect_falls hon hlatch).powerIbi s)
  · exact .of_exec ((show _ = execInputOv s from rfl).trans (if_pos hlive)) ((disconnect_falls hon hlatch).powerIbi s)
  · exact .of_exec ((show _ = execBreaker s from rfl).trans (if_pos hlive)) ((latchDown_falls hon hlatch).powerIbi s)
  · exact .of_exec ((show _ = execRailFault r s from rfl).trans (if_pos hrails)) ((latchDown_falls hon hlatch).powerIbi s)
  · exact .of_exec ((show _ = execThermtrip s from rfl).trans (if_pos hrails)) ((latchDown_falls hon hlatch).powerIbi s)
  · refine .of_exec ((show _ = execControlOff s from rfl).trans (if_pos hoff)) (FallsFrom.powerIbi ?_ s)
    exact hlatch ▸ powerDown_falls (s := s) (powerLog s.power 0x116 0) psHeld

/-! ### Power-ups -/

/-- The next group of rails up: what the power controller sets in that step (R477, R478). -/
def railUp (p : Power) (k : Nat) (sense : BitVec 6) : Power :=
  let p := { p with railStep := k }
  let p := if k = 2 then { p with vcoreSet := 550 } else p
  if k = 4 then { p with sense := sense.toNat, live := p.live % 1024 + 1024 * (63 - sense.toNat) } else p

theorem railUp_step (p : Power) (k : Nat) (sense : BitVec 6) : (railUp p k sense).railStep = k ∧ (railUp p k sense).state = p.state := by
  unfold railUp
  dsimp only
  split <;> split <;> exact ⟨rfl, rfl⟩

theorem exec_railSequenceStep {v : BitVec 6} (hvmgt : s.power.vmgt = true) (hrising : s.power.state = psRising) :
    exec (.railSequenceStep v) s = if s.power.railStep + 1 < 7 then .next (powerIbi s { s with power := railUp s.power (s.power.railStep + 1) v })
      else .next (powerIbi s (enterState { s with power :=
        { railUp s.power (s.power.railStep + 1) v with railStep := 6, state := psOn } } stBoot)) := by
  have hexec : exec (.railSequenceStep v) s = execRailSequenceStep v s := rfl
  rw [hexec, execRailSequenceStep, if_pos (by rw [hvmgt, hrising]; rfl)]
  rfl

end

/-! ### O54 -/

section
variable {s : State}

/-- Contact and a reversed input (R470, R471). -/
theorem contact_effects (hvmgt : s.power.vmgt = false) : (Runs .inputContact s fun t => t.power.vmgt = true ∧ t.power.state = psHousekeeping ∧
      t.power.mainPath = true ∧ t.node = s.node ∧ t.nor = s.nor) ∧
    Runs .reverse s fun t => t.power.vmgt = true ∧ t.power.state = psReverse ∧ bit t.power.seen 0 = true ∧ t.power.mainPath = false := by
  have hoff : ¬ s.power.vmgt = true := by rw [hvmgt]; decide
  refine ⟨.of_exec ((show _ = execInputContact s from rfl).trans (if_neg hoff)) ?_, .of_exec ((show _ = execReverse s from rfl).trans (if_neg hoff)) ?_⟩
  · rw [powerIbi_power, powerIbi_node, powerIbi_nor]
    exact ⟨rfl, rfl, rfl, rfl, rfl⟩
  · have hseen : bit (0 ||| 2 ^ 0) 0 = true := by decide
    rw [powerIbi_power]
    exact ⟨rfl, rfl, hseen, rfl⟩

/-- RETRY takes a latched module up where the cause allows it, and counts. -/
theorem controlRetry_effects (hvmgt : s.power.vmgt = true) :
    (s.power.state = psLatched → s.power.latch ≠ 3 ∨ coolantOk s = true → Runs .controlRetry s fun t => t.power.state = psRising ∧ t.power.latch = 0 ∧
      t.power.failedRail = 15 ∧ t.power.retries = satAdd 16 s.power.retries 1) ∧
    (s.power.state ≠ psLatched ∨ (s.power.latch = 3 ∧ coolantOk s = false) →
      exec .controlRetry s = .next { s with power := { s.power with retries := satAdd 16 s.power.retries 1 } }) := by
  have hexec : exec .controlRetry s = execControlRetry s := rfl
  rw [execControlRetry, if_neg (by rw [hvmgt]; decide)] at hexec
  dsimp only at hexec
  refine ⟨fun hlatched hallowed => ?_, fun hnot => ?_⟩
  · rw [if_pos ⟨hlatched, hallowed⟩] at hexec
    refine .of_exec hexec ?_
    rw [powerIbi_power]
    exact ⟨rfl, rfl, rfl, rfl⟩
  · rw [hexec, if_neg]
    rintro ⟨hlatched, hallowed⟩
    obtain hstate | ⟨hcause, hcold⟩ := hnot
    · exact hstate hlatched
    · exact hallowed.elim (· hcause) fun hwarm => Bool.false_ne_true (hcold.symm.trans hwarm)

end

/-- Settles O54: each cause in its equation; the causes of a power-down share what a power-down leaves. -/
theorem powerStateFollowsItsCauses : Obligations.PowerStateFollowsItsCauses := by
  unfold Obligations.PowerStateFollowsItsCauses
  refine ⟨fun s hvmgt => contact_effects hvmgt, ?_, ?_⟩
  · intro s hvmgt falls
    refine ⟨?_, ?_, ?_, ?_, ?_, ?_, ?_, (controlRetry_effects hvmgt).1, (controlRetry_effects hvmgt).2, ?_, ?_⟩
    · intro hstate hpath
      refine .of_exec ((show _ = execInputValid s from rfl).trans (if_pos (by rw [hvmgt, hstate, hpath]; rfl))) ?_
      rw [powerIbi_power]
      exact ⟨rfl, rfl⟩
    · intro v hstate hstep
      have hexec := exec_railSequenceStep (v := v) hvmgt hstate
      rw [if_pos (Nat.succ_lt_succ hstep)] at hexec
      obtain ⟨hk, hrising⟩ := railUp_step s.power (s.power.railStep + 1) v
      refine .of_exec hexec ?_
      rw [powerIbi_power, powerIbi_node]
      exact ⟨hk, hrising.trans hstate, rfl⟩
    · intro v hstate hstep
      have hexec := exec_railSequenceStep (v := v) hvmgt hstate
      rw [if_neg (by rw [hstep]; decide)] at hexec
      refine .of_exec hexec ?_
      rw [powerIbi_power, powerIbi_node, enterState_power, enterState_state]
      exact ⟨rfl, rfl⟩
    · intro hstate hpath hlatch
      exact falls_of_on hvmgt hstate hpath hlatch
    · intro hstate
      refine .of_exec ((show _ = execPowerDownComplete s from rfl).trans (if_pos (by rw [hvmgt, hstate]; rfl))) ?_
      rw [powerIbi_power]
      exact ⟨rfl, rfl⟩
    · intro hstate hpath
      exact (show _ = execInputReturn s from rfl).trans (if_pos (by rw [hvmgt, hstate, hpath]; rfl))
    · intro hstate
      refine .of_exec ((show _ = execControlOn s from rfl).trans (if_pos (by rw [hvmgt, hstate]; rfl))) ?_
      rw [powerIbi_power]
      exact ⟨rfl, rfl⟩
    · exact .of_exec ((show _ = execInputLoss s from rfl).trans (if_pos hvmgt)) ⟨rfl, rfl, rfl, rfl, rfl, rfl⟩
    · intro mask
      refine .of_exec ((show _ = execSeenFlagClear mask s from rfl).trans (if_pos hvmgt)) ?_
      rw [powerIbi_power, powerIbi_node]
      exact ⟨rfl, rfl⟩
  · intro s
    unfold tick millisecond
    cases s.power.vmgt <;> rfl

end Sys2Proof.Machine
end

section
/-!
PROOF. The boot chain, self-tests at boot, the junction limit and the envelope (O55).
-/
namespace Sys2Proof.Machine

/-! ### What FAULT and a restore leave of the identity -/

theorem enterFault_nor_boot (s : State) : (enterFault s).nor = s.nor ∧ (enterFault s).boot = s.boot := by
  by_cases hstate : s.node.state = stFault
  · rw [enterFault, if_pos hstate]
    exact ⟨rfl, rfl⟩
  · obtain ⟨-, -, -, -, -, -, -, -, -, -, -, -, -, -, -, hnor, hboot, -⟩ := enteringFaultStopsThePlate s hstate
    exact ⟨hnor, hboot⟩

/-- The identity and the image that a boot has chosen. -/
def Boot.chosen (b : Boot) : Bool × Nat × Nat × Bool × Bool × Nat × Nat :=
  (b.chained, b.serial, b.grade, b.firmware, b.romRecovery, b.activeSlot, b.fwVersion)

theorem applySettings_chosen (s : State) (ts : List Tlv) :
    (applySettings s ts).boot.chosen = s.boot.chosen ∧ (applySettings s ts).nor = s.nor := ⟨rfl, rfl⟩

theorem restore_chosen (s : State) : (restore s).boot.chosen = s.boot.chosen ∧ (restore s).nor = s.nor := by
  unfold restore
  extract_lets va vb fl
  split
  · exact applySettings_chosen ..
  · exact applySettings_chosen ..

theorem logPowerEvents_chosen (s : State) : (logPowerEvents s).boot.chosen = s.boot.chosen ∧ (logPowerEvents s).nor = s.nor := by
  unfold logPowerEvents
  extract_lets es s1
  have hboot : s1.boot = s.boot := foldl_keeps State.boot _ (fun t e => logFault_boot ..) es s
  have hnor : s1.nor = s.nor := foldl_keeps State.nor _ (fun t e => logFault_nor ..) es s
  exact ⟨congrArg Boot.chosen hboot, hnor⟩

/-- The end of a boot: the restored settings, the power controller's events, and FAULT where there is no seed. -/
def bootEnds (s : State) (noSeed : Bool) : State :=
  if noSeed then enterFault (logPowerEvents (restore s)) else idlePower (logPowerEvents (restore s))

theorem bootEnds_chosen (s : State) (noSeed : Bool) : (bootEnds s noSeed).boot.chosen = s.boot.chosen ∧ (bootEnds s noSeed).nor = s.nor := by
  obtain ⟨hboot, hnor⟩ := logPowerEvents_chosen (restore s)
  obtain ⟨hboot', hnor'⟩ := restore_chosen s
  unfold bootEnds
  split
  · rw [(enterFault_nor_boot _).1, (enterFault_nor_boot _).2]
    exact ⟨hboot.trans hboot', hnor.trans hnor'⟩
  · rw [idlePower_boot, idlePower_nor]
    exact ⟨hboot.trans hboot', hnor.trans hnor'⟩

/-! ### The boot chain -/

theorem Runs.mono {i : Instr} {s : State} {p q : State → Prop} (h : Runs i s p) (hpq : ∀ t, p t → q t) : Runs i s q :=
  h.imp fun t ⟨hexec, hp⟩ => ⟨hexec, hpq t hp⟩

section
variable {s : State} {x : BootIn}

/-- The seed of a boot: read at power-up, or the one kept. -/
def bootSeed (x : BootIn) (s : State) : Option Nat :=
  if x.powerUp then (seedFrom x.sram s.nor.helper0).or (seedFrom x.sram s.nor.helper1) else s.boot.seed

/-- What a boot knows of itself before it has an image. -/
def bootStart (x : BootIn) (s : State) : Boot :=
  { seed := bootSeed x s, conjId := x.conjId.toNat, slotId := x.slotId.toNat, chained := true
    serial := fld s.nor.cert 8 0 64, grade := fld s.nor.cert 0x10 0 1 }

/-- A boot with the image of a slot. -/
def bootWith (x : BootIn) (s : State) (i : Nat) : State :=
  { s with boot := { bootStart x s with
    firmware := true, activeSlot := i, fwVersion := imageVersion (slotImage s.nor i), fwDigest := imageDigest (slotImage s.nor i)
    flags := (if i = (bootDirOf s.nor).active then 0 else 1) + (if certOk s.nor (bootSeed x s) then 0 else 128) } }

/-- The slot that the ROM boots: the active one, else the other (R442). -/
def bootSlot (s : State) : Option Nat :=
  if bootable s.nor (bootDirOf s.nor).active then some (bootDirOf s.nor).active
  else if bootable s.nor (1 - (bootDirOf s.nor).active) then some (1 - (bootDirOf s.nor).active) else none

theorem exec_boot_slot {i : Nat} (hstate : s.node.state = stBoot) (hon : s.power.state = psOn) (hchained : s.boot.chained = false)
    (hslot : bootSlot s = some i) : exec (.boot x) s = .next (bootEnds (bootWith x s i) (bootSeed x s).isNone) := by
  have hexec : exec (.boot x) s = execBoot x s := rfl
  rw [bootSlot] at hslot
  rw [hexec, execBoot, if_neg (by rw [hstate, hon, hchained]; simp)]
  dsimp only
  rw [hslot]
  rfl

theorem exec_boot_none (hstate : s.node.state = stBoot) (hon : s.power.state = psOn) (hchained : s.boot.chained = false)
    (hslot : bootSlot s = none) : exec (.boot x) s = .next (enterState { s with boot := { bootStart x s with romRecovery := true } } stFault) := by
  have hexec : exec (.boot x) s = execBoot x s := rfl
  rw [bootSlot] at hslot
  rw [hexec, execBoot, if_neg (by rw [hstate, hon, hchained]; simp)]
  dsimp only
  rw [hslot]
  rfl

/-- A boot from a slot: identity, image and NOR. -/
theorem boot_slot {i : Nat} (hstate : s.node.state = stBoot) (hon : s.power.state = psOn) (hchained : s.boot.chained = false)
    (hslot : bootSlot s = some i) : Runs (.boot x) s fun t => t.nor = s.nor ∧ t.boot.chosen =
      (true, fld s.nor.cert 8 0 64, fld s.nor.cert 0x10 0 1, true, false, i, imageVersion (slotImage s.nor i)) := by
  obtain ⟨hboot, hnor⟩ := bootEnds_chosen (bootWith x s i) (bootSeed x s).isNone
  exact .of_exec (exec_boot_slot hstate hon hchained hslot) ⟨hnor, hboot⟩


theorem Boot.chosen_eq {b : Boot} {serial grade slot version : Nat} (h : b.chosen = (true, serial, grade, true, false, slot, version)) :
    b.chained = true ∧ b.serial = serial ∧ b.grade = grade ∧ b.firmware = true ∧ b.romRecovery = false ∧ b.activeSlot = slot ∧ b.fwVersion = version := by
  simpa only [Boot.chosen, Prod.mk.injEq] using h

/-! ### Self-tests and the envelope -/

theorem exec_bootComplete {stacksOk boardOk : Bool} (hstate : s.node.state = stBoot) (hfirmware : s.boot.firmware = true) (hlinks : s.fab.trained = true)
    (hflash : s.flash.trained = true) : exec (.bootComplete stacksOk boardOk) s = if stacksOk && boardOk then
      .next (moveTo { s with faults := { s.faults with test := some (false, stRestored, none) } } stSelftest) else .next (enterFault s) :=
  (show _ = execBootComplete stacksOk boardOk s from rfl).trans (if_pos ⟨hstate, hfirmware, hlinks, hflash⟩)

/-- A self-test that a boot began has ended, and nothing failed. -/
def tested (s : State) : State := { s with faults := { s.faults with test := none } }

theorem exec_selftestDone_clean {full : Bool} (hstate : s.node.state = stSelftest) (htest : s.faults.test = some (full, stRestored, none))
    (hstart : s.faults.autoStart = false) : exec (.selftestDone []) s = .next (moveTo (tested s) stRestored) := by
  have hexec : exec (.selftestDone []) s = execSelftestDone [] s := rfl
  have hend : (moveTo (tested s) stRestored).faults.autoStart = false := by
    rw [moveTo_faults]
    exact hstart
  have hselftest : (tested s).node.state = stSelftest := hstate
  rw [hexec, execSelftestDone, htest]
  refine (if_pos hselftest).trans (congrArg Host.Outcome.next (if_neg ?_))
  show ¬ ((moveTo (tested s) stRestored).faults.autoStart && !(moveTo (tested s) stRestored).faults.holdStart) = true
  rw [hend]
  exact Bool.false_ne_true

/-- The fault record of a junction above its limit, once. -/
def tjNoted (s : State) : State := if bit s.power.live 4 then s else logFault s { code := 0x105, event := true }

theorem tjNoted_kept : (tjNoted s).run = s.run ∧ (tjNoted s).node = s.node ∧ (tjNoted s).power = s.power := by
  unfold tjNoted
  split
  · exact ⟨rfl, rfl, rfl⟩
  · exact ⟨logFault_run .., logFault_node .., logFault_power ..⟩

/-- A running node whose junction is above its limit. -/
def tjStopped (s : State) : State :=
  { tjNoted s with
    power := { (tjNoted s).power with live := (tjNoted s).power.live ||| 16 }
    faults := { (tjNoted s).faults with holdStart := true, heldFrom := none }
    run := { (tjNoted s).run with stopAt := some stFault } }

theorem exec_tjLimit_running {tj : Int} (hon : s.power.state = psOn) (hhot : tj > 1050) (hrun : s.run.running = true) :
    exec (.tjLimit tj) s = .next (powerIbi s (tjStopped s)) := by
  have hexec : exec (.tjLimit tj) s = execTjLimit tj s := rfl
  have hstill : (tjNoted s).run.running = true := by rw [tjNoted_kept.1, hrun]
  rw [hexec, execTjLimit, if_pos ⟨hon, hhot⟩]
  dsimp only
  rw [← tjNoted, if_pos hstill]
  rfl

theorem bit_four_set (x : Nat) : bit (x ||| 16) 4 = true := by
  have h := Nat.testBit_or x 16 4
  rw [show Nat.testBit 16 4 = true from by decide, Bool.or_true] at h
  rw [Nat.testBit_eq_decide_div_mod_eq, decide_eq_true_eq] at h
  rw [bit, Nat.shiftRight_eq_div_pow, h]
  rfl

theorem exec_envelopeGraceExpire {t : Nat} (hgrace : s.faults.graceFrom = some t) : exec .envelopeGraceExpire s =
    if !s.run.running || s.power.ms < t + 10000 then .next s
    else .next { s with run := { s.run with stopAt := some stFault }, faults := { s.faults with holdStart := true, heldFrom := none, graceFrom := none } } := by
  have hexec : exec .envelopeGraceExpire s = execEnvelopeGraceExpire s := rfl
  rw [hexec, execEnvelopeGraceExpire, hgrace]

/-- The 60 s of the envelope, counted from the end of a TJ_HIGH, have not passed yet. -/
def holdEarly (s : State) : Bool := match s.faults.heldFrom with | some t => decide (s.power.ms < t + 60000) | none => false

/-- The admission test of a node whose envelope has held. -/
def holdEnded (s : State) : State :=
  beginSoak { s with faults := { s.faults with holdStart := false, heldFrom := none }, power := { s.power with live := clearEnvelope s.power.live } }

theorem exec_envelopeHoldStart (hstate : s.node.state = stRestored) (hhold : s.faults.holdStart = true) (hstart : s.faults.autoStart = true)
    (hcool : bit s.power.live 4 = false) : exec .envelopeHoldStart s = if holdEarly s then .next s else .next (powerIbi s (holdEnded s)) := by
  have hexec : exec .envelopeHoldStart s = execEnvelopeHoldStart s := rfl
  rw [hexec, execEnvelopeHoldStart]
  by_cases hearly : holdEarly s = true
  · have hpassed : ¬ (!holdEarly s) = true := by rw [hearly]; decide
    rw [if_pos hearly]
    exact if_neg fun ⟨_, _, _, _, hlate⟩ => hpassed hlate
  · have hpassed : (!holdEarly s) = true := by rw [Bool.eq_false_iff.2 hearly]; rfl
    rw [if_neg hearly]
    exact if_pos ⟨hstate, hhold, hstart, by rw [hcool]; rfl, hpassed⟩

end

/-- Settles O55: the boot chain by the slot it takes, then each event in its equation. -/
theorem bootAndEnvelope : Obligations.BootAndEnvelope := by
  unfold Obligations.BootAndEnvelope
  refine ⟨?_, ?_, ?_, ?_, ?_, ?_, ?_, ?_⟩
  · intro x s hstate hon hchained d
    by_cases hactive : bootable s.nor d.active = true
    · refine (boot_slot hstate hon hchained (if_pos hactive)).mono fun t ⟨hnor, hchosen⟩ => ?_
      obtain ⟨hdone, hserial, hgrade, hfirmware, hrom, hslot, hversion⟩ := Boot.chosen_eq hchosen
      rw [if_pos hactive]
      exact ⟨hdone, hnor, hserial, hgrade, hfirmware, hrom, hslot, hversion⟩
    · by_cases hother : bootable s.nor (1 - d.active) = true
      · refine (boot_slot hstate hon hchained ((if_neg hactive).trans (if_pos hother))).mono fun t ⟨hnor, hchosen⟩ => ?_
        obtain ⟨hdone, hserial, hgrade, hfirmware, hrom, hslot, -⟩ := Boot.chosen_eq hchosen
        rw [if_neg hactive, if_pos hother]
        exact ⟨hdone, hnor, hserial, hgrade, hfirmware, hrom, hslot⟩
      · refine .of_exec (exec_boot_none hstate hon hchained ((if_neg hactive).trans (if_neg hother))) ?_
        rw [if_neg hactive, if_neg hother, enterState_boot, enterState_nor, enterState_state]
        exact ⟨rfl, rfl, rfl, rfl, rfl, rfl, rfl⟩
  · intro s hstate hfirmware hlinks hflash
    refine ⟨.of_exec ((exec_bootComplete hstate hfirmware hlinks hflash).trans (if_pos rfl)) ⟨moveTo_state .., ?_⟩,
      (exec_bootComplete hstate hfirmware hlinks hflash).trans (if_neg Bool.false_ne_true),
      (exec_bootComplete hstate hfirmware hlinks hflash).trans (if_neg Bool.false_ne_true)⟩
    rw [moveTo_faults]
  · intro s full hstate htest hstart
    refine .of_exec (exec_selftestDone_clean hstate htest hstart) ⟨moveTo_state .., ?_⟩
    rw [moveTo_faults]
    rfl
  · intro tj s hon hhot hrun
    obtain ⟨-, hnode, -⟩ := tjNoted_kept (s := s)
    refine .of_exec (exec_tjLimit_running hon hhot hrun) ?_
    rw [powerIbi_power, powerIbi_run, powerIbi_faults, powerIbi_node]
    exact ⟨rfl, bit_four_set _, rfl, hnode⟩
  · intro tj s hcool
    exact (show _ = execTjLimit tj s from rfl).trans (if_neg fun h => absurd h.2 (Int.not_lt.mpr hcool))
  · intro s hvmgt hhot
    refine .of_exec ((show _ = execTjHighClear s from rfl).trans (if_pos (by rw [hvmgt, hhot]; rfl))) ?_
    rw [powerIbi_power, powerIbi_faults, powerIbi_node]
    exact ⟨rfl, rfl, rfl⟩
  · intro s t hgrace hrun
    refine ⟨fun hlate => ?_, fun hearly => ?_⟩
    · rw [exec_envelopeGraceExpire hgrace, if_neg (by simp [hrun, hlate])]
    · rw [exec_envelopeGraceExpire hgrace, if_pos (by simp [hearly])]
  · intro s hstate hhold hstart hcool
    refine ⟨fun hlate => ?_, fun h hfrom hsoon => ?_⟩
    · have hnot : ¬ holdEarly s = true := by
        unfold holdEarly
        cases hfrom : s.faults.heldFrom with
        | none => exact Bool.false_ne_true
        | some h => simpa using hlate h hfrom
      refine .of_exec ((exec_envelopeHoldStart hstate hhold hstart hcool).trans (if_neg hnot)) ?_
      rw [powerIbi_faults, powerIbi_orr]
      exact ⟨rfl, rfl⟩
    · have hearly : holdEarly s = true := by rw [holdEarly, hfrom]; exact decide_eq_true hsoon
      rw [exec_envelopeHoldStart hstate hhold hstart hcool, if_pos hearly]

end Sys2Proof.Machine
end

section
/-!
PROOF. The sideband's dump registers and addresses, port resets, link training and configuration requests (O56).
-/
namespace Sys2Proof.Machine

/-! ### The enables of the ports -/

/-- What configuration requests and link training set of the ports. -/
def HostIf.enables (h : HostIf) : Cells Bool × Cells Bool × Cells Bool × Cells Bool := (h.memEn, h.busMaster, h.msixEn, h.linkUp)

theorem HostIf.enables_eq {h k : HostIf} (heq : h.enables = k.enables) :
    h.memEn = k.memEn ∧ h.busMaster = k.busMaster ∧ h.msixEn = k.msixEn ∧ h.linkUp = k.linkUp := by
  simpa only [HostIf.enables, Prod.mk.injEq] using heq

section
variable (s : State)

theorem raise_enables (p v : Nat) : (raise s p v).host.enables = s.host.enables := by
  unfold raise
  split
  · rfl
  · split <;> rfl

theorem answer_enables (m code req seq : Nat) (r : Reply) : (answer s m code req seq r).host.enables = s.host.enables := by
  have h := answer_besideFrames s m code req seq r
  have hmem : (answer s m code req seq r).host.memEn = s.host.memEn := by simpa only [HostIf.besideFrames] using congrArg HostIf.memEn h
  have hbus : (answer s m code req seq r).host.busMaster = s.host.busMaster := by simpa only [HostIf.besideFrames] using congrArg HostIf.busMaster h
  have hmsix : (answer s m code req seq r).host.msixEn = s.host.msixEn := by simpa only [HostIf.besideFrames] using congrArg HostIf.msixEn h
  have hlink : (answer s m code req seq r).host.linkUp = s.host.linkUp := by simpa only [HostIf.besideFrames] using congrArg HostIf.linkUp h
  simp only [HostIf.enables, hmem, hbus, hmsix, hlink]

theorem finish_enables (m : Nat) (r : Reply) : (finish s m r).host.enables = s.host.enables := by
  unfold finish
  split
  · rfl
  · split
    · rfl
    · exact answer_enables ..

theorem finishResets_enables (dom : Nat) : (finishResets s dom).host.enables = s.host.enables := by
  unfold finishResets
  generalize s.host.inProg.filter _ = ps
  exact foldl_keeps (fun t : State => t.host.enables) _ (fun t p => finish_enables ..) _ _

theorem leaveReset_enables (d : Nat) : (leaveReset s d).host.enables = s.host.enables := by
  unfold leaveReset
  extract_lets faults s1 s2
  have h2 : s2.host.enables = s.host.enables := by
    simp only [s2]
    rw [endIncident_eq]
  split
  · exact h2
  · exact (finishResets_enables s2 d).trans h2


/-- What vectors that go out leave of the host interface. -/
def HostIf.sansPending (h : HostIf) : HostIf := { h with pending := [] }

theorem HostIf.sansPending_eq {h k : HostIf} (heq : h.sansPending = k.sansPending) :
    h.memEn = k.memEn ∧ h.busMaster = k.busMaster ∧ h.msixEn = k.msixEn ∧ h.frames = k.frames ∧ h.mstate = k.mstate := by
  simp only [HostIf.sansPending, HostIf.mk.injEq] at heq
  simp only [heq, and_self]

theorem flushPending_sansPending (p : Nat) : (flushPending s p).host.sansPending = s.host.sansPending := by
  unfold flushPending
  split
  · rfl
  · generalize List.range 64 = vs
    refine foldl_keeps (fun t : State => t.host.sansPending) _ (fun t v => ?_) vs s
    split
    · rfl
    · rfl

/-- A fault record that is no event leaves the host interface. -/
theorem logFault_host_of_quiet {f : FaultInfo} (h : f.event = false) : (logFault s f).host = s.host := by
  unfold logFault logFaultFor
  extract_lets d s1 s2
  have h1 : s1.host = s.host := by
    simp only [s1]
    split <;> rfl
  have h2 : s2.host = s.host := by
    simp only [s2]
    rw [if_neg (by rw [h]; decide)]
    exact h1
  split
  · exact h2
  · split
    · exact h2
    · exact h2

end

/-! ### Port resets -/

section
variable {s : State}

/-- The reset of a port's domain takes its enables and its link, and leaves the rest of the host interface, the run and the records. -/
theorem startReset_port (p : Fin 2) (h : s.faults.inReset.contains (2 + p.val) = false) :
    (startReset s (2 + p.val)).host.memEn = cset false s.host.memEn p false ∧ (startReset s (2 + p.val)).host.busMaster = cset false s.host.busMaster p false ∧
    (startReset s (2 + p.val)).host.linkUp = cset false s.host.linkUp p false ∧ (startReset s (2 + p.val)).host.rings = s.host.rings ∧
    (startReset s (2 + p.val)).host.frames = s.host.frames ∧ (startReset s (2 + p.val)).host.mstate = s.host.mstate ∧
    (startReset s (2 + p.val)).node = s.node ∧ (startReset s (2 + p.val)).run = s.run ∧ (startReset s (2 + p.val)).recs = s.recs := by
  have hone : ¬ 2 + p.val = 1 := by omega
  have hport : 2 + p.val = 2 ∨ 2 + p.val = 3 := by omega
  have hp : 2 + p.val - 2 = p.val := Nat.add_sub_cancel_left ..
  unfold startReset resetEffects
  rw [if_neg (by rw [h]; decide), if_neg hone, if_pos hport]
  dsimp only
  rw [hp]
  exact ⟨rfl, rfl, rfl, rfl, rfl, rfl, rfl, rfl, rfl⟩

theorem exec_portReset {p : Fin 2} {c : PortReset} (hon : s.node.state ≠ stOff) : exec (.portReset p c) s = .next (startReset s (2 + p.val)) :=
  (show _ = execPortReset p c s from rfl).trans (if_pos (bne_iff_ne.mpr hon))

/-- The fault record of a reference clock that has stopped. -/
def refclkNoted (s : State) (p : Nat) : State :=
  logFault s { code := 0x212, event := true, dom := 2 + p, unit := 0x502 + p, arg0 := p }

theorem exec_refclkLost {p : Fin 2} (hon : s.node.state ≠ stOff) : exec (.refclkLost p) s = .next (startReset (refclkNoted s p) (2 + p.val)) :=
  (show _ = execRefclkLost p s from rfl).trans (if_pos (bne_iff_ne.mpr hon))

/-! ### Link training and configuration requests -/

/-- A port whose link is up. -/
def linkTrained (s : State) (p : Nat) : State := { s with host := { s.host with linkUp := cset false s.host.linkUp p true } }

/-- The fault record of a degraded link. -/
def linkFault (p lanes rate code : Nat) : FaultInfo := ⟨code, false, 2 + p, 0x502 + p, 0xFFFF, p, lanes + 256 * rate, false, false⟩

theorem exec_portLinkTrained {p : Fin 2} {lanes : Fin 17} (hon : s.node.state ≠ stOff) (hup : portDown s p = false)
    (hlanes : [1, 2, 4, 8].contains lanes.val = true) : exec (.portLinkTrained p lanes 6) s =
      .next (if lanes.val < 8 then logFault (linkTrained s p) (linkFault p lanes 6 0x210) else linkTrained s p) := by
  have hexec : exec (.portLinkTrained p lanes 6) s = execPortLinkTrained p lanes 6 s := rfl
  rw [hexec, execPortLinkTrained]
  dsimp only
  rw [if_neg (by rw [nodeOn, hup, hlanes, bne_iff_ne.mpr hon]; decide)]
  rfl

/-- An enable after a request that may set it. -/
def enableSet (c : Cells Bool) (p : Nat) (v : Option Bool) : Cells Bool := match v with | some b => cset false c p b | none => c

/-- A port with the enables that a request sets. -/
def configured (s : State) (p : Nat) (w : CfgWrite) : State :=
  { s with host := { s.host with
    memEn := enableSet s.host.memEn p w.memEnable, busMaster := enableSet s.host.busMaster p w.busMaster, msixEn := enableSet s.host.msixEn p w.msixEnable } }

theorem exec_configurationRequest {p : Fin 2} {w : CfgWrite} (hreceives : portReceives s p = true) : exec (.configurationRequest p w) s =
    if s.node.state = stBoot then .next s else .next (flushPending (configured s p w) p) := by
  have hexec : exec (.configurationRequest p w) s = execConfigurationRequest p w s := rfl
  rw [hexec, execConfigurationRequest]
  by_cases hboot : s.node.state = stBoot
  · rw [if_pos hboot]
    exact if_pos (by rw [hreceives, hboot]; rfl)
  · rw [if_neg hboot]
    exact if_neg (by rw [hreceives, beq_false_of_ne hboot]; decide)

/-! ### The dump registers -/

theorem dumpRegisters (hup : nodeTargetUp s = true) :
    exec (.dumpClear 0x44554D50#32) s = .next { s with dump := { s.dump with valid := false, part := false } } ∧
    (∀ v : W32, v ≠ 0x44554D50#32 → exec (.dumpClear v) s = .next s) ∧
    (∀ v : W32, v.toNat % 2 ^ 27 ≤ 0x4000000 → exec (.dumpWindowSet v) s =
      .next { s with dump := { s.dump with window := v.toNat % 2 ^ 27 / 4 * 4 } }) ∧
    (s.dump.window < 0x4000000 → exec .dumpDataRead s = .next { s with dump := { s.dump with
      data := leNat ((List.range 4).map fun i => dumpByte s (s.dump.window + i)), window := s.dump.window + 4 } }) ∧
    (0x4000000 ≤ s.dump.window → exec .dumpDataRead s = .next { s with dump := { s.dump with data := 0 } }) := by
  have hread : exec .dumpDataRead s = execDumpDataRead s := rfl
  rw [hread, execDumpDataRead, if_neg (by rw [hup]; decide)]
  refine ⟨?_, fun v hv => ?_, fun v hv => ?_, fun hin => if_neg (Nat.not_le.mpr hin), fun hend => if_pos hend⟩
  · exact (show _ = execDumpClear 0x44554D50#32 s from rfl).trans (if_pos (by rw [hup]; rfl))
  · exact (show _ = execDumpClear v s from rfl).trans (if_neg (by rw [hup, beq_false_of_ne hv]; decide))
  · exact (show _ = execDumpWindowSet v s from rfl).trans (if_pos (by rw [hup, decide_eq_true hv]; rfl))

end

/-- Settles O56: each register, reset and request in its equation. -/
theorem sidebandAndPortEvents : Obligations.SidebandAndPortEvents := by
  unfold Obligations.SidebandAndPortEvents
  refine ⟨fun s hup => dumpRegisters hup, ?_, ?_, ?_, ?_, ?_⟩
  · intro a s
    refine ⟨?_, ?_⟩
    · intro hvmgt
      have hset : setDynamic s false a.toNat = { s with power := { s.power with addrPower := some a.toNat } } := if_pos hvmgt
      exact ⟨congrArg Host.Outcome.next hset, congrArg Host.Outcome.next hset⟩
    · intro hup
      have hset : setDynamic s true a.toNat = { s with power := { s.power with addrNode := some a.toNat } } := if_pos hup
      exact ⟨congrArg Host.Outcome.next hset, congrArg Host.Outcome.next hset⟩
  · intro p c s hon hout
    refine ⟨?_, ?_⟩
    · obtain ⟨hmem, hbus, hlink, hrings, hframes, hmstate, hnode, hrun, hrecs⟩ := startReset_port p hout
      obtain ⟨hin, hbytes, -⟩ := startReset_effect s (2 + p.val) hout
      exact .of_exec (exec_portReset hon) ⟨hin, hmem, hbus, hlink, hrings, hframes, hmstate, hbytes, hnode, hrun, hrecs⟩
    · have hfaults : (refclkNoted s p).faults = s.faults := logFault_faults ..
      have hout' : (refclkNoted s p).faults.inReset.contains (2 + p.val) = false := by rw [hfaults, hout]
      obtain ⟨-, -, -, -, -, -, hnode, hrun, -⟩ := startReset_port p hout'
      obtain ⟨hin, -, hdump, -⟩ := startReset_effect (refclkNoted s p) (2 + p.val) hout'
      refine .of_exec (exec_refclkLost hon) ⟨by rw [hin, hfaults], hnode.trans (logFault_node ..), hrun.trans (logFault_run ..), fun hroom => ?_⟩
      rw [hdump, refclkNoted, logFault_log hroom]
  · intro p s hdown
    obtain ⟨hin, hnode, -⟩ := leaveReset_effect s (2 + p.val)
    have hexec : exec (.portResetRelease p) s = .next (leaveReset s (2 + p.val)) :=
      (show _ = execPortResetRelease p s from rfl).trans (if_pos hdown)
    exact .of_exec hexec ⟨hin, (HostIf.enables_eq (leaveReset_enables s (2 + p.val))).1, hnode⟩
  · intro p s hon hup
    refine ⟨.of_exec (exec_portLinkTrained hon hup (by decide)) (if_neg (by decide)), fun hroom => ?_⟩
    have hexec := (exec_portLinkTrained (p := p) (lanes := 4) hon hup (by decide)).trans (congrArg Host.Outcome.next (if_pos (by decide)))
    refine .of_exec hexec ⟨?_, logFault_node .., (logFault_log (s := linkTrained s p) hroom).trans rfl⟩
    rw [logFault_host_of_quiet _ rfl]
    rfl
  · intro p w s hreceives
    refine ⟨fun hboot => ?_, fun hboot => ?_⟩
    · rw [exec_configurationRequest hreceives, if_pos hboot]
    · obtain ⟨hmem, hbus, hmsix, hframes, hmstate⟩ := HostIf.sansPending_eq (flushPending_sansPending (configured s p w) p)
      have hkept := flushPending_butHost (configured s p w) p
      exact .of_exec ((exec_configurationRequest hreceives).trans (if_neg hboot))
        ⟨hmem, hbus, hmsix, node_of_butHost hkept, run_of_butHost hkept, hframes, hmstate⟩

end Sys2Proof.Machine
end
